-- ==== Sys2Proof/Word.lean ====
section
/-! DEFINITION. The word types of the Chalos model: bytes, 32-bit words and 64-bit words. -/

namespace Sys2Proof

/-- One byte (R7: the unit of every stored structure). -/
abbrev Byte := BitVec 8

/-- A 32-bit register or FP32 pattern (R103). -/
abbrev Word := BitVec 32

/-- A 64-bit word (scratchpad ECC word, instruction word of a vector program). -/
abbrev DWord := BitVec 64

/-- A string of bytes, lowest address first. -/
abbrev Bytes := List Byte

end Sys2Proof
end

