-- ==== Sys2Proof/Config.lean ====
section
/-! DEFINITION. What the manual leaves open or leaves to the module's signed configuration record, as opaque constants: nothing can be proved of their values. -/

namespace Sys2Proof.Config

/-- What the headers of a bitstream say (R444, R465): whether they parse, whether profile, level and tools are in Table 16-1, the coded size,
bit depth, chroma format (0 monochrome, 1 4:2:0, 2 4:2:2, 3 4:4:4), and of a frame whether it is a key picture and a reference frame. -/
structure CodecHeader where
  parses : Bool
  profileOk : Bool
  width : Nat
  height : Nat
  depth : Nat
  chroma : Nat
  key : Bool
  reference : Bool
deriving DecidableEq, Repr, Inhabited

/-- A decoded picture: planes row by row, luma size and chroma size (0 for monochrome), bit depth, coded range, and the signalled matrix
(0 BT.601, 1 BT.709, 2 BT.2020). -/
structure Picture where
  width : Nat
  height : Nat
  cw : Nat
  ch : Nat
  depth : Nat
  full : Bool
  matrix : Nat
  y : List Nat
  cb : List Nat
  cr : List Nat
deriving DecidableEq, Repr, Inhabited

/-- An encoded frame: the encoder state after it, and its bytes. -/
structure Encoded where
  state : Bytes
  data : Bytes
deriving DecidableEq, Repr, Inhabited

/-- The headers of a bitstream in codec 1 H.264, 2 HEVC, 3 AV1, 4 JPEG, as the codec's standard gives (log entry 8). -/
opaque codecHeader : Nat → Bytes → CodecHeader

/-- One frame of a live stream decoded from a decoder state: the new state and the picture, or nothing where the frame is corrupt; the flag
says that its data ends early (log entry 8). -/
opaque codecFrame : Nat → Bytes → Bytes → Bool × Option (Bytes × Picture)

/-- The pictures of a bitstream in output order, or nothing where picture data holds a syntax error (log entry 8). -/
opaque codecPictures : Nat → Bytes → Option (List Picture)

/-- Encode one frame: codec, stream descriptor, encoder state, key frame or not, width and height, and clamped R, G, B values (log entry 8). -/
opaque encodeFrame : Nat → Bytes → Bytes → Bool → Nat × Nat → List Word → Encoded

/-- The RTP payloads of an encoded frame by its payload format (codec, MTU, bytes), and their inverse (log entry 8). -/
opaque rtpPayloads : Nat → Nat → Bytes → List Bytes
opaque rtpJoin : Nat → List Bytes → Bytes

/-- A payload is in a mode that R454 accepts (log entry 8). -/
opaque rtpModeOk : Nat → Bytes → Bool

/-- SRTP and SRTCP under a key block: profile, keys, packet index, packet; opening gives nothing where authentication fails (log entry 9). -/
opaque srtpSeal : Nat → Bytes → Nat → Bytes → Bytes
opaque srtpOpen : Nat → Bytes → Nat → Bytes → Option Bytes

/-- The RTCP packet of a kind (0 sender report, 1 receiver report, 2 picture loss indication) for a stream descriptor at a time (log entry 8). -/
opaque rtcpBytes : Nat → Bytes → Nat → Bytes

/-- A word that the manual leaves undefined, drawn fresh for each value of the counter (log entry 3). -/
opaque freeWord : Nat → Word

/-- A byte of memory whose contents the manual calls undefined: by the event that left it so and its address (log entry 4). -/
opaque freeByte : Nat → Nat → Byte

/-- The correctly rounded code of a transcendental result on which the model's 256-bit enclosure cannot decide (log entry 5). -/
opaque undecided : Nat → Word → Word

/-- The low word of an FP32X2 pair whose high word is an infinity: the manual states none (log entry 6). -/
opaque pairLoOfInf : Word

/-- The hash of destination node and job that chooses among a die's ports (R414), which the manual does not give (log entry 7). -/
opaque portHash : Nat → Nat → Nat

/-- The hash of a flow that its UDP source port is (R415), which the manual does not give (log entry 7). -/
opaque udpSource : Nat → Nat → Nat → Nat → Nat

/-- The bits of an MGT register (by offset) that the configuration record's LOCKED_FIELDS locks (R517). -/
opaque lockedMgt : Nat → Word

/-- MAC_BASE of the configuration record (Table 18-9). -/
opaque macBase : Nat

/-- THERM_AUTO_MAX of the configuration record, as an offset above 80 °C before it is taken modulo 21 (R517). -/
opaque thermSpan : Nat

/-- THERM_AUTO_MAX: 80 to 100 °C (R517). -/
def thermAutoMax : Nat := 80 + thermSpan % 21

/-- AVS_WINDOW of the configuration record: lowest and highest core-rail voltage of a die, mV (R496). -/
opaque avsWindow : Nat → Nat × Nat

/-- The core-rail voltage that Masthead sets at bring-up, mV (R496, R540). -/
opaque avsStart : Nat → Nat

/-- The set-point of a rail of a die, mV, by which RAIL_FAULTS is counted (R494). -/
opaque railSetPoint : Nat → Nat → Nat

/-- The energy in uJ that Masthead's estimate gives a partition for a window: window number, partition (Table 2-9). -/
opaque energy : Nat → Nat → Nat

/-- By how many cycles the tick generator lengthens a window to correct an offset in ns (R32). -/
opaque slew : Int → Int

/-- The digest that the ROM extends MR0 with: ROM version and root-key hash (R513). -/
opaque romDigest : Bytes

/-- SHA-384 of the configuration record (R513). -/
opaque recordDigest : Bytes

/-- The digest of the three rollback counters that MR6 is extended with: the manual does not give its layout (R513). -/
opaque counterDigest : List Nat → Bytes

/-- Both signatures of a firmware image's header verify: root-key hash, certificate and ECDSA (R507, R512). -/
opaque imageSigned : Bytes → Bool

/-- The strapping of MOD_SLOT_ID (R529). -/
opaque slotId : Nat

/-- The SPDM responder (R515): the answer to a request, from the request, a free counter and the measurement blocks; the SPDM error it answers
while no identity is ready; and whether a request establishes or ends a secure session. -/
opaque spdmAnswer : Bytes → Nat → List Bytes → Bytes
opaque spdmError : Bytes → Bytes
opaque spdmOpens : Bytes → Bool
opaque spdmCloses : Bytes → Bool

/-- The DOE Discovery response to a request (R488). -/
opaque doeDiscovery : Bytes → Bytes

/-- What an object of a secured session does by IDE_KM: a stream that becomes Secure, and the functions its association blocks cover (R486). -/
opaque ideKm : Bytes → Option (Nat × List Nat)

end Sys2Proof.Config
end

