-- ==== Sys2Proof/Machine/Bits.lean ====
section
/-! DEFINITION. Bit fields, little-endian structures, CRC-32C and SHA-384: the byte-level vocabulary of the manual. -/

namespace Sys2Proof.Machine

/-- Bits `[lo + n - 1 : lo]` of `v` (R6: bit 0 is the least significant, both ends included). -/
def bits (v lo n : Nat) : Nat := (v >>> lo) % 2 ^ n

/-- Bit `i` of `v`. -/
def bit (v i : Nat) : Bool := v.testBit i

/-- `v` with bits `[lo + n - 1 : lo]` replaced by `x`. -/
def setBits (v lo n x : Nat) : Nat :=
  v - (bits v lo n <<< lo) + ((x % 2 ^ n) <<< lo)

/-- 1 for true and 0 for false. -/
def b2n (b : Bool) : Nat := if b then 1 else 0

/-- The value of a little-endian byte string (R7). -/
def leNat : Bytes → Nat
  | [] => 0
  | b :: bs => b.toNat + 256 * leNat bs

/-- The low `n` bytes of `v`, little-endian (R7). -/
def toLe : Nat → Nat → Bytes
  | 0, _ => []
  | n + 1, v => BitVec.ofNat 8 v :: toLe n (v / 256)

/-- The `n`-byte little-endian field at byte `off` of a structure. -/
def fieldAt (bs : Bytes) (off n : Nat) : Nat := leNat ((bs.drop off).take n)

/-- Every byte of the field is 0. -/
def zeroAt (bs : Bytes) (off n : Nat) : Bool := ((bs.drop off).take n).all (· == 0)

/-- `bs` with the bytes at `off` replaced by `new` (same length where it fits). -/
def putAt (bs : Bytes) (off : Nat) (new : Bytes) : Bytes :=
  bs.take off ++ new ++ bs.drop (off + new.length)

/-- Two's complement reading of a `w`-bit field. -/
def toSigned (w v : Nat) : Int :=
  let x := v % 2 ^ w
  if x < 2 ^ (w - 1) then (x : Int) else (x : Int) - (2 ^ w : Nat)

/-- Two's complement coding of an integer in `w` bits. -/
def ofSigned (w : Nat) (x : Int) : Nat := (x % ((2 ^ w : Nat) : Int)).toNat

/-- Ceiling division. -/
def ceilDiv (a b : Nat) : Nat := if b = 0 then 0 else (a + b - 1) / b

/-- `a` rounded up to a multiple of `b`. -/
def roundUp (a b : Nat) : Nat := ceilDiv a b * b

/-- Addition that saturates at the largest `w`-bit value (the manual's "saturating" counters). -/
def satAdd (w a b : Nat) : Nat := min (a + b) (2 ^ w - 1)

/-- The value of a list of bit numbers. -/
def bitMask (l : List Nat) : Nat := l.foldl (fun a i => a ||| (1 <<< i)) 0

/-- The numbers of the set bits of `v` below `n`, ascending. -/
def setBitsOf (v n : Nat) : List Nat := (List.range n).filter (fun i => v.testBit i)

/-! ### CRC-32C (R246) -/

/-- One bit step of the reflected Castagnoli division. -/
def crcBit (c : Nat) : Nat := if c % 2 = 1 then (c >>> 1) ^^^ 0x82F63B78 else c >>> 1

/-- One byte step. -/
def crcByte (c : Nat) (b : Byte) : Nat :=
  crcBit (crcBit (crcBit (crcBit (crcBit (crcBit (crcBit (crcBit (c ^^^ b.toNat))))))))

/-- CRC-32C of a byte string: reflected 0x1EDC_6F41, initial value and final XOR all ones (R246). -/
def crc32c (bs : Bytes) : Nat := (bs.foldl crcByte 0xFFFFFFFF) ^^^ 0xFFFFFFFF

/-! ### SHA-384 (R507, R513): FIPS 180-4, which the manual names and does not restate (PRESUMED) -/

def shaK0 : List DWord :=
  [
   0x428a2f98d728ae22, 0x7137449123ef65cd, 0xb5c0fbcfec4d3b2f, 0xe9b5dba58189dbbc,
   0x3956c25bf348b538, 0x59f111f1b605d019, 0x923f82a4af194f9b, 0xab1c5ed5da6d8118,
   0xd807aa98a3030242, 0x12835b0145706fbe, 0x243185be4ee4b28c, 0x550c7dc3d5ffb4e2,
   0x72be5d74f27b896f, 0x80deb1fe3b1696b1, 0x9bdc06a725c71235, 0xc19bf174cf692694,
   0xe49b69c19ef14ad2, 0xefbe4786384f25e3, 0x0fc19dc68b8cd5b5, 0x240ca1cc77ac9c65,
   0x2de92c6f592b0275, 0x4a7484aa6ea6e483, 0x5cb0a9dcbd41fbd4, 0x76f988da831153b5,
   0x983e5152ee66dfab, 0xa831c66d2db43210, 0xb00327c898fb213f, 0xbf597fc7beef0ee4,
   0xc6e00bf33da88fc2, 0xd5a79147930aa725, 0x06ca6351e003826f, 0x142929670a0e6e70,
   0x27b70a8546d22ffc, 0x2e1b21385c26c926, 0x4d2c6dfc5ac42aed, 0x53380d139d95b3df,
   0x650a73548baf63de, 0x766a0abb3c77b2a8, 0x81c2c92e47edaee6, 0x92722c851482353b]

def shaK1 : List DWord :=
  [
   0xa2bfe8a14cf10364, 0xa81a664bbc423001, 0xc24b8b70d0f89791, 0xc76c51a30654be30,
   0xd192e819d6ef5218, 0xd69906245565a910, 0xf40e35855771202a, 0x106aa07032bbd1b8,
   0x19a4c116b8d2d0c8, 0x1e376c085141ab53, 0x2748774cdf8eeb99, 0x34b0bcb5e19b48a8,
   0x391c0cb3c5c95a63, 0x4ed8aa4ae3418acb, 0x5b9cca4f7763e373, 0x682e6ff3d6b2b8a3,
   0x748f82ee5defb2fc, 0x78a5636f43172f60, 0x84c87814a1f0ab72, 0x8cc702081a6439ec,
   0x90befffa23631e28, 0xa4506cebde82bde9, 0xbef9a3f7b2c67915, 0xc67178f2e372532b,
   0xca273eceea26619c, 0xd186b8c721c0c207, 0xeada7dd6cde0eb1e, 0xf57d4f7fee6ed178,
   0x06f067aa72176fba, 0x0a637dc5a2c898a6, 0x113f9804bef90dae, 0x1b710b35131c471b,
   0x28db77f523047d84, 0x32caab7b40c72493, 0x3c9ebe0a15c9bebc, 0x431d67c49c100d4c,
   0x4cc5d4becb3e42b6, 0x597f299cfc657e2a, 0x5fcb6fab3ad6faec, 0x6c44198c4a475817]

/-- The eighty round constants. -/
def shaK : List DWord := shaK0 ++ shaK1

/-- The initial hash value of SHA-384. -/
def shaIv : List DWord :=
  [
   0xcbbb9d5dc1059ed8, 0x629a292a367cd507, 0x9159015a3070dd17, 0x152fecd8f70e5939,
   0x67332667ffc00b31, 0x8eb44a8768581511, 0xdb0c2e0d64f98fa7, 0x47b5481dbefa4fa4]

def shaS0 (x : DWord) : DWord := x.rotateRight 1 ^^^ x.rotateRight 8 ^^^ (x >>> 7)
def shaS1 (x : DWord) : DWord := x.rotateRight 19 ^^^ x.rotateRight 61 ^^^ (x >>> 6)
def shaB0 (x : DWord) : DWord := x.rotateRight 28 ^^^ x.rotateRight 34 ^^^ x.rotateRight 39
def shaB1 (x : DWord) : DWord := x.rotateRight 14 ^^^ x.rotateRight 18 ^^^ x.rotateRight 41

/-- The value of a big-endian byte string. -/
def beNat (bs : Bytes) : Nat := bs.foldl (fun a b => a * 256 + b.toNat) 0

/-- The low `n` bytes of `v`, big-endian. -/
def toBe (n v : Nat) : Bytes := (toLe n v).reverse

/-- The message schedule: `n` further words after those in `w`, held newest first. -/
def shaSchedule : Nat → List DWord → List DWord
  | 0, w => w
  | n + 1, w =>
    shaSchedule n
      ((shaS1 (w.getD 1 0) + w.getD 6 0 + shaS0 (w.getD 14 0) + w.getD 15 0) :: w)

/-- One round on the eight working variables. -/
def shaRound (h : List DWord) (kw : DWord × DWord) : List DWord :=
  let a := h.getD 0 0; let b := h.getD 1 0; let c := h.getD 2 0; let d := h.getD 3 0
  let e := h.getD 4 0; let f := h.getD 5 0; let g := h.getD 6 0; let hh := h.getD 7 0
  let t1 := hh + shaB1 e + ((e &&& f) ^^^ (~~~e &&& g)) + kw.1 + kw.2
  let t2 := shaB0 a + ((a &&& b) ^^^ (a &&& c) ^^^ (b &&& c))
  [t1 + t2, a, b, c, d + t1, e, f, g]

/-- The first `n` 64-bit big-endian words of a block. -/
def shaWords : Nat → Bytes → List DWord
  | 0, _ => []
  | n + 1, bs => BitVec.ofNat 64 (beNat (bs.take 8)) :: shaWords n (bs.drop 8)

/-- One block of the compression function. -/
def shaBlock (h : List DWord) (blk : Bytes) : List DWord :=
  let w := (shaSchedule 64 (shaWords 16 blk).reverse).reverse
  let r := (shaK.zip w).foldl shaRound h
  (h.zip r).map (fun p => p.1 + p.2)

/-- The padded message. -/
def shaPad (m : Bytes) : Bytes :=
  let z := (256 - (m.length + 17) % 128) % 128
  m ++ [0x80#8] ++ List.replicate z 0 ++ toBe 16 (8 * m.length)

/-- Compression over `n` blocks. -/
def shaBlocks : Nat → List DWord → Bytes → List DWord
  | 0, h, _ => h
  | n + 1, h, bs => shaBlocks n (shaBlock h (bs.take 128)) (bs.drop 128)

/-- SHA-384 of a byte string: 48 bytes. -/
def sha384 (m : Bytes) : Bytes :=
  let p := shaPad m
  ((shaBlocks (p.length / 128) shaIv p).flatMap (fun w => toBe 8 w.toNat)).take 48

end Sys2Proof.Machine
end

