-- ==== Sys2Proof/Syntax.lean ====
section
/-! DEFINITION. The commands of the device, one constructor for each row of the opcode table, and the types of their operands. The operands say what the outside world or the event supplies; everything else a command needs stands in the state. -/

namespace Sys2Proof

/-- Who reaches a register page: function f (0 the physical function) or Masthead (R122). -/
inductive Src where
  | fn (f : Nat)
  | masthead
deriving DecidableEq, Repr, Inhabited

/-- A unit that takes tiles: matrix array a, or the vector engine of core n (R9). -/
inductive Engine where
  | arr (a : Nat)
  | vec (n : Nat)
deriving DecidableEq, Repr, Inhabited

/-- How a request to host memory fails (R556, R484). -/
inductive HostFail where
  | memoryError | timeout | translation
deriving DecidableEq, Repr, Inhabited

/-- A range of host bus addresses of a function on which requests fail during a command: the environment's part of R92 and R556. -/
structure HostFault where
  fn : Nat
  addr : Nat
  len : Nat
  onRead : Bool
  onWrite : Bool
  kind : HostFail
deriving DecidableEq, Repr, Inhabited

/-- The host's side of a command: the requests that fail. -/
abbrev Env := List HostFault

/-- What has so far reached this module of another member's part in a collective (R428), from its beginning: for a reduction the FP32
contributions x_i of R431 by element index, 4 bytes each, thinned where R435 thins them; for a copy the packed elements the member sends here. -/
structure Contribution where
  rank : Nat
  data : Bytes
deriving DecidableEq, Repr, Inhabited

/-- The kinds of a detected array error (Table 6-8). -/
inductive ArrayError where
  | residue | parity | accCorrected | accUncorrectable
deriving DecidableEq, Repr, Inhabited

/-- An error found by a scrub or patrol read: whether it can be corrected, and where it lies (Tables 7-8 and 8-11). -/
structure EccError where
  uncorrectable : Bool
  word : Nat
  codeword : Nat := 0
deriving DecidableEq, Repr, Inhabited

/-- A tagged access to a slot (R202): a read, or a write of the slot's bytes. -/
inductive TagAccess where
  | read
  | write (data : Bytes)
deriving DecidableEq, Repr, Inhabited

/-- An op-write of Table 7-3: lanes as 32-bit words (64-byte words hold 16, a slot holds 64). -/
inductive BankOp where
  | acc (integer : Bool) (words : List Word)
  | scaleAdd (alpha beta : Word) (words : List Word)
  | max (integer : Bool) (words : List Word)
  /-- Sixteen FP32 values converted to a format code of Table 5-1 and written at byte `at'` of the word. -/
  | convert (fmt at' : Nat) (words : List Word)
  /-- COMBINE_ORDERED or COMBINE_ARRIVAL of group j of G on a slot (R209, R210). -/
  | combine (arrival integer : Bool) (group groups : Nat) (words : List Word)
deriving DecidableEq, Repr, Inhabited

/-- An atomic operation of Table 7-5: widths in bits. -/
inductive AtomicOp where
  | fetchAdd (width v : Nat)
  | fetchAddFp (v : Word)
  | compareSwap (width comparand v : Nat)
  | swap (width v : Nat)
  | minMax (max : Bool) (width v : Nat)
  | minMaxFp (max : Bool) (v : Word)
  | redAdd (integer : Bool) (words : List Word)
deriving DecidableEq, Repr, Inhabited

/-- A PCI Express AtomicOp (R224). -/
inductive PcieAtomic where
  | fetchAdd (width v : Nat)
  | swap (width v : Nat)
  | cas (width compare v : Nat)
deriving DecidableEq, Repr, Inhabited

/-- A SCORE command (R243): the page list, the query and how many pages to keep. -/
structure StkScore where
  pages : List (Nat × Nat)
  query : Bytes
  top : Nat
deriving DecidableEq, Repr, Inhabited

/-- One sampling period of Crow's nest on a die (R495). -/
structure MonSample where
  temps : List Int
  process : Nat
  rails : List Nat
  /-- Coolant inlet and outlet in °C, where their 100 ms period ends too. -/
  coolant : Option (Nat × Nat) := none
  /-- Input voltage in mV, current in mA and 1 s average power in W, where they are sampled. -/
  input : Option (Nat × Nat × Nat) := none
deriving DecidableEq, Repr, Inhabited

/-- A sideband message (R492). -/
inductive MgmtMessage where
  | read (offset words : Nat)
  | write (offset : Nat) (words : List Word)
deriving DecidableEq, Repr, Inhabited

/-- A BFT DATA packet as it reaches the module: the 32-byte header of Table 15-2 and the payload, and whether it arrived marked CE. -/
structure BftData where
  raw : Bytes
  ce : Bool := false
deriving DecidableEq, Repr, Inhabited

/-- A BFT ACK packet. -/
structure BftAck where
  raw : Bytes
deriving DecidableEq, Repr, Inhabited

/-- A BFT MAIL or MAIL_RETURN packet: header and message, and whether it arrived marked CE. -/
structure BftMail where
  raw : Bytes
  ce : Bool := false
deriving DecidableEq, Repr, Inhabited

/-- A UDP datagram as the fabric ports hand it to the media units. -/
structure UdpPacket where
  port : Nat
  src : Nat
  srcPort : Nat
  dst : Nat
  dstPort : Nat
  data : Bytes
deriving DecidableEq, Repr, Inhabited

/-- A change of a function's configuration space (R478). -/
inductive ConfigChange where
  | busMaster (on : Bool)
  | vfEnable (on : Bool)
  | numVfs (n : Nat)
  | d3hot (on : Bool)
  | ats (on : Bool)
  /-- The Resizable BAR of the physical function or of the virtual functions: 2^log2 GiB (Table 17-1). -/
  | barSize (vf : Bool) (log2 : Nat)
deriving DecidableEq, Repr, Inhabited


/-- The commands of the device: one constructor for each row of the opcode table. -/
inductive Instr where
  /-- R248. Matrix product command: its tiles are cut, dealt to the partition's arrays, streamed, and committed with the epilogue applied. -/
  | matmul (u : Nat) (env : Env)
  /-- R309. Convolution or image-operator command, run on the implicit-GEMM, frequency or vector path chosen from its descriptor. -/
  | conv (u : Nat) (env : Env)
  /-- R338. Attention command: computes softmax(Q·Kᵀ)·V over its key list with the online softmax. -/
  | attend (u : Nat) (env : Env)
  /-- R282. Vector program command: runs a program image over the row groups of its iteration tensor on the vector engines. -/
  | vprog (u : Nat) (env : Env)
  /-- R160. Converts a source tensor to the destination format, optionally scaled, through the epilogue units with the cells bypassed. -/
  | convert (u : Nat) (env : Env)
  /-- R245. Copy, fill, gather, compact or CRC command, carried by the stack engines or by the data movers. -/
  | copy (u : Nat) (env : Env)
  /-- R377. Fills a tensor with random bits or with uniform, normal or Bernoulli values drawn from the generator. -/
  | fillRandom (u : Nat) (env : Env)
  /-- R381. Draws one category per row of scores by Gumbel-max, with optional top-k masking. -/
  | sample (u : Nat) (env : Env)
  /-- R358. Appends keys and values to a sequence's ring or prefix pages, with copy-on-write where a page is shared. -/
  | appendKv (u : Nat) (env : Env)
  /-- R361. Releases, retains, seals or unseals KV pages at its commit. -/
  | pageRelease (u : Nat) (env : Env)
  /-- R428. Runs a collective operation or a send/receive over a fabric job with a fixed summation order. -/
  | collective (u : Nat) (peers : List Contribution) (env : Env)
  /-- R456. Decodes a live stream's frame set or a bitstream tensor into output pictures. -/
  | mediaDecode (u : Nat) (env : Env)
  /-- R462. Encodes one frame to a send stream and emits RTP packets at its commit. -/
  | mediaEncode (u : Nat) (env : Env)
  /-- R469. Builds a batch from sample-pack records, with checks, decoding, augmentation, manifest and reject list. -/
  | ingest (u : Nat) (env : Env)
  /-- R79. Commits once every earlier command of the named queues has committed. -/
  | fence (u : Nat)
  /-- R79. Commits at the tick edge at which TICK.COUNT reaches the given absolute or relative value. -/
  | tickWait (u : Nat)
  /-- R399. Stops the selected throughput commands and writes their context image, optionally detaching them. -/
  | ctxSave (u : Nat) (env : Env)
  /-- R404. Writes a context image back through a map and admits the restored commands. -/
  | ctxRestore (u : Nat)
  /-- R62. A write of a queue's submission tail, which lets the device fetch the new entries. -/
  | sqTailDoorbell (src : Src) (p q : Nat) (v : Word)
  /-- R63. A write of a queue's completion head, which frees ring space for pending completion records. -/
  | cqHeadDoorbell (src : Src) (p q : Nat) (v : Word)
  /-- R75. The device fetches the next submission entry once it has an in-flight slot, then checks and admits or refuses it. -/
  | commandAdmit (p q : Nat) (env : Env)
  /-- R76. An admitted command starts once its DEP and WAIT conditions hold, or completes as DEPENDENCY_FAILED. -/
  | commandStart (u : Nat)
  /-- R387. Pre-empts the partition's throughput array commands: tiles within the horizon finish and the others are killed. -/
  | tack (p : Nat)
  /-- R396. Once a core's arrays are free, the core saves its live claimed slots to the Tack save space. -/
  | tackSave (n : Nat)
  /-- R391. Pre-empted commands resume when no session command is eligible, oldest first. -/
  | commandResume (p : Nat)
  /-- R55. A session command's measured occupancy passes its declared worst case, and the command moves to the throughput class. -/
  | overrun (u : Nat)
  /-- R272. An array or engine asks for work and takes a continuation, a reissued tile, a run from the counters, or the next command. -/
  | takeWork (e : Engine)
  /-- R178. An array with a dealt tile begins raising its column groups when the per-die raise limit allows. -/
  | hoistRaise (a : Nat)
  /-- R177. An array lowers 256 cycles after its last accumulator write if no tile has been dealt to it. -/
  | hoistLower (a : Nat)
  /-- R274. A tile copy's result is on chip, and the copy claims the tile's cleat record or discards its result. -/
  | tileResultOnChip (e : Engine) (env : Env)
  /-- R86. A claiming tile finishes its commit-phase writes, sets COMMITTED, and commits the command when it is the last tile. -/
  | tileCommit (e : Engine) (env : Env)
  /-- R63. A completion record is written at CQ_TAIL when the ring has room, followed by its MSI-X when IRQ is set. -/
  | completionWrite (p q : Nat) (env : Env)
  /-- R275. Every 1,024 cycles Halyard scans the leases and puts tiles with expired leases on the reissue list. -/
  | leaseScan (die : Nat)
  /-- R268. A waiting split-K group tile is abandoned to break a deadlock against a reopened group. -/
  | groupTileAbandon (p : Nat)
  /-- R185. A residue, parity or uncorrectable accumulator error kills the affected tile for replay, and may take the array out of service. -/
  | arrayCheckFail (a : Nat) (kind : ArrayError) (row column : Nat) (both : Bool)
  /-- R212. A scratchpad read finds an ECC error, corrects or reports it, and its reader is replayed. -/
  | scratchpadEccError (n bank row word : Nat) (uncorrectable : Bool) (reader : Option Engine)
  /-- R213. The scrubber reads the next word of a bank in a reserved or idle slot and corrects it by write-back. -/
  | scrubRead (n : Nat) (error : Option EccError)
  /-- R202. A tagged read or write to a scratchpad slot is accepted once the slot's tag allows it. -/
  | taggedAccess (n slot : Nat) (access : TagAccess)
  /-- R205. A tagged access or combine not accepted within TAG_TIMEOUT fails its command. -/
  | tagWaitTimeout (u n slot : Nat)
  /-- R207. A bank-ALU op-write, such as ACC, SCALE_ADD, MAX, CONVERT or a combine, is accepted and applied to a word or slot. -/
  | bankOpWrite (u : Option Nat) (p off : Nat) (op : BankOp)
  /-- R222. The home shared cache performs an atomic operation on an HBM line in order of arrival. -/
  | atomic (p addr : Nat) (op : AtomicOp)
  /-- R243. A stack-engine command that scores a query against page summaries and keeps the top P. -/
  | stkScore (j : Nat) (cmd : StkScore)
  /-- R242. A stack-engine command that copies channel blocks within its stack. -/
  | stkCopy (j src dst count : Nat)
  /-- R242. A stack-engine command that writes a pattern over channel blocks. -/
  | stkFill (j dst count : Nat) (pattern : Word)
  /-- R242. A stack-engine command that copies listed blocks to consecutive blocks. -/
  | stkGather (j : Nat) (srcs : List Nat) (dst : Nat)
  /-- R242. A stack-engine command that copies blocks whose mask byte is nonzero to consecutive blocks. -/
  | stkCompact (j src : Nat) (mask : List Nat) (dst : Nat)
  /-- R246. A stack-engine command that computes a CRC-32C over blocks. -/
  | stkCrc (j src count : Nat)
  /-- R236. The 1 ms stack temperature reading, which sets the refresh band and the HOT state. -/
  | hbmTempReading (j : Nat) (celsius : Int)
  /-- R238. The patrol reads a channel block, correcting or logging its errors. -/
  | patrolRead (j channel block : Nat) (error : Option EccError)
  /-- R240. An uncorrectable HBM read is retried once, after which the read completes or its command fails with DATA_LOST. -/
  | hbmUncorrectableRead (j channel block : Nat) (symbol codeword : Nat) (retryOk : Bool) (u : Option Nat)
  /-- R118. The tick edge: TICK.COUNT increments and the device runs its ordered list of tick-edge actions. -/
  | tickEdge (env : Env)
  /-- R56. The accounting record of a completed window is written into the ring, or discarded when the ring is full. -/
  | acctRecordWrite (p : Nat) (env : Env)
  /-- R114. A command-class commit is applied once the block's started commands have drained. -/
  | commandCommitApply (page : Nat)
  /-- R115. Waiting session commands start under the old copy once pending commits have held them 16,384 cycles in the window. -/
  | commitWaitLimit (p : Nat)
  /-- R193. The zeroing of a core that has left its partition ends, and the core becomes usable. -/
  | zeroingDone (n : Nat)
  /-- R108. A write of 1 to PAGE_CTL.COMMIT fixes the shadow copy and sets COMMIT_PENDING. -/
  | commit (src : Src) (page : Nat)
  /-- R111. A write of 1 to PAGE_CTL.DISCARD copies the active copy into the shadow and cancels a pending commit. -/
  | discard (src : Src) (page : Nat) (withCommit : Bool)
  /-- R121. A write to PAGE_CTL.LOCK sets or clears the page lock and records its owner. -/
  | lock (src : Src) (page : Nat) (on : Bool)
  /-- R102. A write to INT_FORCE sets the named INT_STAT bits. -/
  | intForce (src : Src) (page : Nat) (v : Word)
  /-- R117. A write to a page's COUNT_CLEAR clears the named counters. -/
  | countClear (src : Src) (page : Nat) (v : Word)
  /-- R103. A write to any other register, such as an RWS shadow, an RW, a W1C or a plain live register. -/
  | registerWrite (src : Src) (offset width : Nat) (v : Nat)
  /-- R38. A write to PART.SESSION_DESC_HI requests a session open at the next edge. -/
  | sessionOpenDoorbell (src : Src) (p : Nat) (v : Word)
  /-- R43. A write to PART.SESSION_CLOSE starts closing a session. -/
  | sessionClose (src : Src) (p : Nat) (v : Word)
  /-- R97. A write to PART.RESYNC with REQUEST set requests a resync summary. -/
  | resync (src : Src) (p : Nat) (v : Word)
  /-- R66. Stops the named queues and aborts their uncommitted commands. -/
  | queueAbort (src : Src) (p : Nat) (v : Word)
  /-- R66. Returns the named stopped queues to ENABLED. -/
  | queueResume (src : Src) (p : Nat) (v : Word)
  /-- R423. A write to PART.JOB_DESC_HI requests a fabric job open. -/
  | jobOpenDoorbell (src : Src) (p : Nat) (v : Word)
  /-- R424. A write to PART.JOB_CLOSE starts closing a fabric job. -/
  | jobClose (src : Src) (p : Nat) (v : Word)
  /-- R448. A write to PART.STREAM_DESC_HI requests a stream open. -/
  | streamOpenDoorbell (src : Src) (p : Nat) (v : Word)
  /-- R450. A write to PART.STREAM_CLOSE starts closing a stream. -/
  | streamClose (src : Src) (p : Nat) (v : Word)
  /-- R451. A write to PART.STREAM_REKEY requests a reread of a stream's keys. -/
  | streamRekey (src : Src) (p : Nat) (v : Word)
  /-- R440. A write of the mail send tail, which hands new messages to the device. -/
  | mailSqTail (src : Src) (p : Nat) (v : Word)
  /-- R440. A write of the mail receive head, which frees room in the receive ring. -/
  | mailRqHead (src : Src) (p : Nat) (v : Word)
  /-- R442. The device takes a message from the send ring and sends it once the destination inbox has room. -/
  | mailSend (p : Nat) (env : Env)
  /-- R441. A message is written into its owner's receive ring, returned, or counted as a dead letter under the role-epoch test. -/
  | mailDeliver (env : Env)
  /-- R439. A write to FAB.RIG_SET queues a role change for the next edge. -/
  | rigSet (src : Src) (v : Word)
  /-- R189. Arms one error of the given kind in the next tile the array streams. -/
  | arrInject (src : Src) (a : Nat) (v : Word)
  /-- R212. Arms a single- or double-bit error in the next scratchpad word read by a tile of the core. -/
  | spdEccInject (src : Src) (n : Nat) (v : Word)
  /-- R291. Arms a residue or parity error in the next row group of the vector engine. -/
  | vecInject (src : Src) (n : Nat) (v : Word)
  /-- R239. Arms a one- or two-symbol error in the next read of the stack. -/
  | hbmEccInject (src : Src) (j : Nat) (v : Word)
  /-- R427. Arms a residue error in the reducer's next chunk. -/
  | redInject (src : Src) (d : Nat) (v : Word)
  /-- R219. A write to SHC.FLUSH starts the write-back of every dirty line of the die. -/
  | flush (src : Src) (d : Nat) (v : Word)
  /-- R219. A flush ends, FLUSH_BUSY clears, and FLUSH_DONE is raised. -/
  | flushDone (d : Nat)
  /-- R518. A write to D2D.RETRAIN forces a retrain of the link. -/
  | retrain (src : Src) (j : Nat) (v : Word)
  /-- R518. A link passes its CRC threshold or loses lock and retrains, killing tiles with traffic on it. -/
  | d2dRetrain (j : Nat) (crcErrors : Nat) (lostLock : Bool)
  /-- R508. FW_CTL.STAGE copies a firmware image into the component's inactive slot. -/
  | stage (src : Src) (component : Nat) (env : Env)
  /-- R508. Staging ends with verification, and FW_STATUS becomes STAGED or REFUSED. -/
  | fwStageComplete
  /-- R509. FW_CTL.ACTIVATE requests a handover to a staged component. -/
  | activate (src : Src) (component : Nat)
  /-- R509. One reserve slice of a handover runs within a window. -/
  | handoverSlice (cycles : Nat) (selfCheckOk : Bool)
  /-- R509. The handover ends, MR5 is extended and FW_STATUS becomes ACTIVE. -/
  | handoverEnd
  /-- R516. FW_CTL.COMMIT_SVN raises a component's rollback counter to its running SVN. -/
  | commitSvn (src : Src) (component : Nat)
  /-- R506. A write of a SEQ to MGT.ELOG_READ selects the entry that ELOG_WINDOW shows. -/
  | elogRead (src : Src) (v : Word)
  /-- R495. Crow's nest ends a sampling period and publishes its readings. -/
  | monitorSample (d : Nat) (sample : MonSample)
  /-- R499. Masthead re-evaluates the Reef requests and selects the step in force. -/
  | reefDecision
  /-- R501. A junction reading of 115 °C asserts MOD_THERMTRIP_N and removes power from the loads. -/
  | thermalTrip (d sensor : Nat)
  /-- R502. The 1 s input power exceeds the step's power by 10% or more, and a POWER entry is written. -/
  | powerExcess (watts : Nat)
  /-- R496. Masthead steps a die's core-rail voltage. -/
  | avsAdjust (d : Nat) (up : Bool)
  /-- R493. Masthead's watchdog expires, and the security block restarts Masthead. -/
  | watchdogExpiry
  /-- R493. Masthead comes back after a restart and logs it. -/
  | mastheadRestart
  /-- R492. A sideband or management-Ethernet message reads or writes register words. -/
  | managementMessage (transport : Nat) (msg : MgmtMessage)
  /-- R515. An SPDM request, such as certificate, challenge, measurements or key exchange, is answered. -/
  | spdmRequest (transport : Nat) (request : Bytes)
  /-- R529. An I3C controller assigns a dynamic address, and Masthead changes to I3C. -/
  | i3cAddressAssign (address : Nat)
  /-- R33. A disciplined tick source is lost or strays, and the generator enters holdover. -/
  | tickSourceLost
  /-- R33. The offset returns within ±1 µs, and LOCKED is set. -/
  | tickLocked (offsetNs : Int)
  /-- R30. A rising edge on TICK_IN serves as a tick reference. -/
  | tickInEdge (offsetNs : Int)
  /-- R30. A rising edge on PPS_IN aligns a tick edge. -/
  | ppsInEdge (offsetNs : Int)
  /-- R418. A BFT DATA packet is written at its offset, duplicates are dropped, and an ACK status is chosen. -/
  | bftDataReceive (pkt : BftData)
  /-- R419. An ACK frees retained payloads and may trigger retransmission or flow failure. -/
  | bftAckReceive (pkt : BftAck)
  /-- R418. An unacknowledged packet's ACK delay runs out, and an ACK is sent. -/
  | ackDelayExpiry (flow : Nat)
  /-- R419. A packet's retransmission timer runs out, and the packet is retransmitted or its flow fails. -/
  | rtoExpiry (flow psn : Nat)
  /-- R420. A NOT_READY flow exceeds JOB_WAIT and fails. -/
  | jobWaitExpiry (flow : Nat)
  /-- R421. Every 12,000 cycles a flow's congestion estimate and rate are updated. -/
  | flowRateUpdate (flow : Nat)
  /-- R441. A BFT MAIL or MAIL_RETURN packet arrives for delivery. -/
  | mailPacketReceive (pkt : BftMail)
  /-- R426. The reducer adds a chunk whose elements have all arrived and residue-checks the sum. -/
  | reducerChunk (d : Nat) (error : Bool)
  /-- R414. A fabric port loses its link. -/
  | ethLinkDown (e : Nat)
  /-- R414. A fabric port's link comes up. -/
  | ethLinkUp (e : Nat)
  /-- R452. A UDP packet is matched to a receive stream, authenticated, depacketised and buffered. -/
  | rtpReceive (pkt : UdpPacket)
  /-- R455. An RTCP packet, such as a sender report or a PLI, updates the stream's timing or its key-frame request. -/
  | rtcpReceive (pkt : UdpPacket)
  /-- R461. Every 100 ms while NEED_KEY lasts, a PLI is sent again. -/
  | pliTimer (stream : Nat)
  /-- R464. Once per RTCP interval, a sender or receiver report is sent. -/
  | rtcpReportTimer (stream : Nat)
  /-- R541. The PCI Express link reaches L0. -/
  | hostLinkUp (speed width : Nat) (flit : Bool)
  /-- R476. A hot reset or DL_Down resets every function's configuration space and leaves partitions running. -/
  | hotReset (linkDown : Bool)
  /-- R478. The host changes a function's Bus Master Enable, VF Enable, NumVFs or power state. -/
  | configSpaceWrite (f : Nat) (change : ConfigChange)
  /-- R489. A function-level reset of function p resets partition p as Table 17-2 gives. -/
  | functionLevelReset (f : Nat)
  /-- R479. A host read through BAR4, served by the home cache or denied. -/
  | apertureRead (f offset length : Nat)
  /-- R479. A host write through BAR4, served by the home cache or denied. -/
  | apertureWrite (f offset : Nat) (data : Bytes)
  /-- R224. A PCI Express AtomicOp to BAR4, completed as the matching atomic operation. -/
  | atomicop (f offset : Nat) (op : PcieAtomic)
  /-- R483. Unmasking a vector with its pending bit set sends one message. -/
  | msixUnmask (f vector : Nat)
  /-- R485. An invalidation request is completed once no request using the translation is outstanding. -/
  | atsInvalidate (f addr length : Nat)
  /-- R488. A data object arrives in the DOE mailbox and is answered or discarded. -/
  | doeObject (vendor kind : Nat) (length : Nat) (payload : Bytes)
  /-- R488. A DOE abort discards the object in progress and any unread response. -/
  | doeAbort
  /-- R487. An IDE integrity failure moves the stream to Insecure. -/
  | ideFailure (stream : Nat)
  /-- R521. Input power is applied, and the input capacitance charges. -/
  | inputApplied (millivolts : Nat)
  /-- R532. MOD_PWR_EN rises, and the module sequences its load rails and releases MOD_PWR_GOOD. -/
  | modPwrEnAssert (lowMs : Nat)
  /-- R533. MOD_PWR_EN held low for 10 ms shuts down the loads. -/
  | modPwrEnDeassert
  /-- R533. The input falls below 47.0 V, and the loads are removed. -/
  | underVoltage (millivolts : Nat)
  /-- R533. The input stays above 61.0 V for 1 ms, and the loads are removed. -/
  | overVoltage (millivolts : Nat)
  /-- R533. The input current stays above 95 A for 1 ms, and the loads are removed. -/
  | overCurrent (milliamps : Nat)
  /-- R533. A load rail stays more than 5% from its set-point for 10 µs, and the loads are removed. -/
  | railFault (d rail : Nat)
  /-- R534. A fundamental reset resets every unit and loses all volatile state. -/
  | modPerstNAssert
  /-- R540. The reset release starts bring-up at stages 0 and 4. -/
  | modPerstNRelease
  /-- R540. A bring-up stage ends DONE or FAILED, dependent stages start, and ready flags are set. -/
  | bringupStageEnd (j : Nat) (ok : Bool) (detail : Nat)
  /-- R544. The initialiser completes a chunk of 1,024 blocks, and the watermark advances. -/
  | hbmInitChunk (errors : List (Nat × Nat × Nat × EccError))
  /-- R175. Raising ends H cycles after it began, the array becomes hoisted, and weight injection of its dealt tile may start. -/
  | hoistRaiseEnd (a : Nat)
  /-- R175. Lowering ends H cycles after it began, the array becomes lowered, and a tile dealt meanwhile may then wait to raise. -/
  | hoistLowerEnd (a : Nat)
  /-- R540. REFCLK_ETH appears or disappears; its arrival lets bring-up stage 11 start, and its absence holds every fabric port down. -/
  | refclkEthChange (present : Bool)
  /-- R30. An IEEE 1588 PTP message arrives on the selected port and updates the disciplined tick source's reference. -/
  | ptpMessage (port domain : Nat) (seconds nanoseconds : Nat) (offsetNs : Int)
  /-- R354. A pool initialisation finishes writing every page-table entry, READY is set, INIT_BUSY clears, and INIT_DONE is raised. -/
  | kvpInitDone (p : Nat)
  /-- R489. A function-level reset finishes, FLR_BUSY clears within 2 ms, and the function's BARs answer again. -/
  | flrBusyClear (f : Nat)
  /-- R291. A residue or parity check of a vector engine fails, and the row group or tile it holds is killed and replayed. -/
  | vectorCheckFail (n : Nat) (parity : Bool) (lane reg : Nat)
  /-- R533. The 56 V input comes within its operating range with the capacitance charged, which lets an earlier MOD_PWR_EN take effect or restarts the module after an under- or over-voltage shutdown. -/
  | inputInRange (millivolts : Nat)
  /-- R533. One second after a shutdown during which MOD_PWR_EN returned high, the module restarts from step 3 of Table 19-8. -/
  | delayedRestart
deriving DecidableEq, Repr

end Sys2Proof
end

