-- ==== Sys2Proof/Machine/Types.lean ====
section
/-! DEFINITION. The plain-data types the machine's state and operations are made of: formats, values, tensors, commands in flight, tiles, sessions, pages, flows. No operation stands here. -/

namespace Sys2Proof.Machine

/-! ### Numbers -/

/-- The format codes of Table 5-1 (R126). -/
inductive Fmt where
  | fp32 | bf16 | fp16 | e4m3 | e5m2
  | mxE4m3 | mxE5m2 | mxE3m2 | mxE2m3 | mxFp4 | mxInt8
  | int32 | int8 | uint8 | int4 | int2 | tern2 | bin1
  | lut4 | lut2 | fp32x2 | cf32
deriving DecidableEq, Repr, Inhabited

/-- The exact value of an element: NaN, an infinity, or `(-1)^neg * m * 2^e` with both zeros kept apart (R128). -/
inductive Val where
  | nan
  | inf (neg : Bool)
  | fin (neg : Bool) (m : Nat) (e : Int)
deriving DecidableEq, Repr, Inhabited

/-- The parameters of a binary floating format (Table 5-2). -/
structure FpSpec where
  expBits : Nat
  manBits : Nat
  bias : Int
  /-- 0: infinities and NaNs as IEEE 754; 1: E4M3, no infinities, one NaN code; 2: neither (MX elements). -/
  specials : Nat
deriving DecidableEq, Repr

/-- The numeric flags of a completion record (R163); `waits` marks a computation that read a tagged slot which is not FULL (R202). -/
structure NumFlags where
  flushed : Bool := false
  saturated : Bool := false
  nanProduced : Bool := false
  waits : Bool := false
deriving DecidableEq, Repr, Inhabited

/-- The modes of NUM_MODE that a conversion reads (Table 3-3): ROUND 0 nearest-even, 1 toward zero, 2 stochastic. -/
structure NumMode where
  round : Nat := 0
  ftz : Bool := false
  fp8Sat : Bool := false
  arrivalOk : Bool := false
deriving DecidableEq, Repr, Inhabited

/-- A computation that may raise numeric flags. -/
abbrev Num := StateM NumFlags

/-! ### Register pages (chapter 4) -/

/-- The block types of Table 4-4. -/
inductive Block where
  | tick | part | num | rng | kvp | core | arr | vec | spd | shc | hal | hbm | stk
  | fab | eth | red | med | ing | pci | mgt | mon | sec | d2d
deriving DecidableEq, Repr, Inhabited

/-- Access codes of the register maps. -/
inductive Access where
  | ro | rws | w1c | l | wo
deriving DecidableEq, Repr, Inhabited

/-- One row of a register map: `count` registers from `off`, `stride` bytes apart; `mask` holds the implemented bits
and `pf` the bits marked PF (R124). -/
structure RegSpec where
  off : Nat
  stride : Nat
  count : Nat
  access : Access
  reset : Nat
  mask : Nat
  pf : Nat
deriving DecidableEq, Repr, Inhabited

/-- A failed check of a commit: the offset of the register it concerns and the reason of Table 4-9 (R120). -/
structure Reject where
  off : Nat
  reason : Nat
deriving DecidableEq, Repr, Inhabited

/-- A requested commit that has not yet been applied or rejected (R108): page index and cycle of the request. `waits` holds the
commands whose end a CORE_MASK change or a command boundary waits for (R114, R554). -/
structure PendingCommit where
  page : Nat
  since : Nat
  waits : List Nat := []
  /-- The partition's array commands that held tiles at the request (R554). -/
  tiles : List Nat := []
  /-- Session commands have started under the old active copy in this window (R115). -/
  passed : Bool := false
deriving DecidableEq, Repr, Inhabited

/-! ### Memory -/

/-- A sparse memory: listed cells in canonical form, and the ranges (first address, length, tag) whose contents the manual calls
undefined: a byte there that nothing has written since reads as the free byte of its tag. -/
structure Mem where
  cells : List (Nat × Byte) := []
  opens : List (Nat × Nat × Nat) := []
deriving DecidableEq, Repr, Inhabited

/-- One region of a partition's active table (Table 8-1); `raw` is its entry, empty for the default region (R231). -/
structure Region where
  base : Nat
  size : Nat
  mode : Nat
  die : Nat := 0
  readOnly : Bool := false
  rowBase : Nat := 0
  mask : Nat := 0
  raw : Bytes := []
deriving DecidableEq, Repr, Inhabited

/-! ### Commands, plan records and the journal (chapter 3) -/

/-- A tensor descriptor (Table 3-4). `stride` has one entry per dimension, that of dimension 0 being 1. -/
structure TensorD where
  addr : Nat := 0
  fmt : Nat := 0
  rank : Nat := 1
  space : Nat := 0
  tagged : Bool := false
  aux : Nat := 0xFF
  group : Nat := 0
  shape : List Nat := [1, 1, 1, 1, 1]
  stride : List Int := [1, 0, 0, 0, 0]
  raw : Bytes := []
deriving DecidableEq, Repr, Inhabited

/-- A plan command entry (Table 3-7). -/
structure PlanEntry where
  opcode : Nat := 0
  stage : Nat := 0xFF
  foldId : Nat := 0
  shared : Nat := 0
  maxes : List Nat := [0, 0, 0, 0, 0]
  wcArray : Nat := 0
  wcVector : Nat := 0
  soloArray : Nat := 0
  tileCycles : Nat := 0
  wcHbm : Nat := 0
  wcFabric : Nat := 0
  liveFirst : Nat := 0
  liveCount : Nat := 0
deriving DecidableEq, Repr, Inhabited

/-- A stage-cost entry (Table 2-7): seven fold points of four costs. -/
structure StageCost where
  offset : Nat
  foldId : Nat
  costs : List (List Nat)
deriving DecidableEq, Repr, Inhabited

/-- A live-range entry (Table 14-1), kept as its bytes. -/
structure LiveEntry where
  raw : Bytes
deriving DecidableEq, Repr, Inhabited

/-- A plan record in the plan cache (R71, R72). -/
structure PlanRec where
  part : Nat := 0
  addr : Nat := 0
  coreCount : Nat := 1
  entries : List PlanEntry := []
  stages : List StageCost := []
  live : List LiveEntry := []
deriving DecidableEq, Repr, Inhabited

/-- What is known of the command that a DEP or WAIT condition names (R76-R78). -/
inductive Pred where
  | none
  /-- Still uncommitted: its number. -/
  | live (uid : Nat)
  /-- Finished: whether it failed, and its COMMAND_ID. -/
  | ended (failed : Bool) (id : Nat)
deriving DecidableEq, Repr, Inhabited

/-- A page of a command's key list as the journal's snapshot holds it (R356): page number, FILL, BASE_POS, and whether it is a ring page. -/
structure KvPage where
  page : Nat
  fill : Nat
  base : Nat
  ring : Bool
deriving DecidableEq, Repr, Inhabited

/-- A page that an APPEND_KV writes (R359, R363): the descriptor entry it stands in (prefix i, or 64 + ring entry), the page it replaces there,
the page written, whether that page is a copy of the old one, whether it is written in place under WRITE_HELD, the FILL and BASE_POS it
starts with, and the command's positions that go into it (index of the first, and how many). -/
structure KvTarget where
  entry : Nat
  old : Option Nat := none
  page : Nat
  copied : Bool := false
  held : Bool := false
  fill : Nat
  base : Nat
  first : Nat
  count : Nat := 0
deriving DecidableEq, Repr, Inhabited

/-- A sequence descriptor (Table 12-4). -/
structure KvSeq where
  pre : List Nat := []
  ringSize : Nat := 0
  ringCount : Nat := 0
  ringHead : Nat := 0
  nextPos : Nat := 0
  ring : List Nat := []
deriving DecidableEq, Repr, Inhabited

/-- A complete frame waiting in a stream buffer (R454, R455): RTP timestamp, bytes, capture time in PTP ns. -/
structure RxFrame where
  ts : Nat
  data : Bytes
  capture : Int
deriving DecidableEq, Repr, Inhabited

/-- What a live MEDIA_DECODE fixes at its start (R458): its frames, whether it treats the stream as in NEED_KEY, the edge's PTP time, and the
timestamps that leave the buffer at its commit. -/
structure MediaPlan where
  frames : List RxFrame := []
  needKey : Bool := false
  edge : Int := 0
  taken : List Nat := []
  lost : Nat := 0
deriving DecidableEq, Repr, Inhabited

/-- STATE of Table 3-17. -/
inductive CmdState where
  | waiting | running | preempted | replaying | recordPending
deriving DecidableEq, Repr, Inhabited

/-- A tile of a command: its output tile's rank, and which of that tile's parts it is: segment, split-K group (the group count names
the finish tile) or pass (R253, R256, R263). -/
structure TileId where
  rank : Nat := 0
  sub : Nat := 0
deriving DecidableEq, Repr, Inhabited

/-- One element written: its space (0 device, 1 scratchpad), bit address, width and code. -/
structure ElemWrite where
  space : Nat
  bitAddr : Nat
  width : Nat
  code : Nat
deriving DecidableEq, Repr, Inhabited

/-- A bank op-write that a tile issues in its commit phase (R207, R265): partition scratchpad offset of the row, group number and
group count, FP32 or INT32 words, and whether arrival order is allowed. -/
structure CombineOp where
  off : Nat
  group : Nat
  groups : Nat
  words : List Word
  integer : Bool
  arrival : Bool
deriving DecidableEq, Repr, Inhabited

/-- One accumulator word: an FP32 chain value, an INT32 chain value, a pair-mode (s, e), or the code of a chained intermediate. -/
inductive Acc where
  | fp (s : Word)
  | int (v : Int)
  | pair (s e : Word)
  | code (v : Nat)
deriving DecidableEq, Repr, Inhabited

/-- What a tile's result holds once it is on chip: the elements and words it will write, the combines it will issue, its flags, and
whether a read it needed was lost. -/
structure TileResult where
  writes : List ElemWrite := []
  combines : List CombineOp := []
  /-- Accumulator rows kept for a later tile of the command: a segment save, a held row band, or a chained band. -/
  held : List Acc := []
  /-- Values handed to a reduction or a paired send (R301): logical element index of OUT and FP32 value or converted code. -/
  sends : List (Nat × Nat) := []
  flags : NumFlags := {}
  detail : Nat := 0
  lost : Option Nat := none
deriving DecidableEq, Repr, Inhabited

/-- A copy of a tile on a unit (R273-R276): when it was dealt, when its lease ends, when its result is on chip, and the result. -/
structure Copy where
  tile : TileId
  unit : Engine
  dealt : Nat
  lease : Nat
  started : Bool := false
  onChipAt : Nat := 0
  claimed : Bool := false
  result : TileResult := {}
deriving DecidableEq, Repr, Inhabited

/-- A cleat record other than OPEN (R273). -/
inductive Cleat where
  | claimed | committed
deriving DecidableEq, Repr, Inhabited

/-- The work counter word of one die for one command, its range and its reissue list (R269, R270, R275). -/
structure DieWork where
  die : Nat
  first : Nat
  units : Nat
  front : Nat := 0
  back : Nat
  reissue : List TileId := []
deriving DecidableEq, Repr, Inhabited

/-- The state of a command's tile space (R256, R269-R276). -/
structure Work where
  total : Nat := 0
  dies : List DieWork := []
  cleat : List (TileId × Cleat) := []
  copies : List Copy := []
  /-- Continuations and finish tiles that are due, with the core each is due on. -/
  due : List (TileId × Nat) := []
  /-- Segment save slots owned or reserved: core, slot 0 or 1, output tile. -/
  slots : List (Nat × Nat × Nat) := []
  /-- Row-band order: the tiles of each band (grid, band) dealt to each unit (R278). -/
  given : List (Engine × Nat × Nat) := []
  /-- The units left of the run an array is working through. -/
  runs : List (Engine × List TileId) := []
  committed : Nat := 0
  /-- Kept rows of committed tiles (save slots, held bands, chained bands), by tile. -/
  held : List (TileId × List Acc) := []
deriving DecidableEq, Repr, Inhabited

/-- A command that holds an in-flight slot: the journal's copy of it (R70) and its state. -/
structure Cmd where
  uid : Nat := 0
  part : Nat := 0
  queue : Nat := 0
  /-- The 128 bytes of the descriptor. -/
  raw : Bytes := []
  tensors : List TensorD := []
  planAddr : Nat := 0
  entry : PlanEntry := {}
  state : CmdState := .waiting
  started : Bool := false
  dealtLast : Bool := false
  dep : Pred := .none
  wait : Pred := .none
  /-- Throughput class (R44, R45, R54, R55). -/
  throughput : Bool := true
  /-- Its frame has missed, so that it completes as DEADLINE_MISS (R54). -/
  missed : Bool := false
  /-- The status and DETAIL of its completion record, once it has finished. -/
  status : Nat := 0
  detail : Nat := 0
  flags : NumFlags := {}
  replayed : Bool := false
  folded : Bool := false
  resumed : Bool := false
  frameRepeated : Bool := false
  arrival : Bool := false
  admitTick : Nat := 0
  commitTick : Nat := 0
  /-- Cycle of its start, and array, vector occupancy and HBM bytes so far. -/
  startAt : Nat := 0
  occArray : Nat := 0
  occVector : Nat := 0
  hbmBytes : Nat := 0
  /-- The spans of cycles in which units held its committed tiles, merged; copies killed and run again are not counted (R57). -/
  spans : List (Nat × Nat) := []
  work : Work := {}
  /-- Sequential counter bases taken at admission (R372). -/
  bases : List Nat := []
  /-- KV pages pinned (R362). -/
  pins : List Nat := []
  /-- Pages allocated or selected for it at admission or start: opcode-specific list. -/
  pages : List Nat := []
  /-- KV snapshot (R356): the key pages, and the pages an APPEND_KV will write. -/
  kvPages : List KvPage := []
  kvTargets : List KvTarget := []
  /-- The descriptor an APPEND_KV leaves, entries yet to be replaced by their targets. -/
  kvNext : KvSeq := {}
  /-- The ring ordinals that retrieval kept (R365), once it has run. -/
  kept : Option (List Nat) := none
  /-- The image of a vector program or other structure read at admission (R283, R356, R404). -/
  image : Bytes := []
  /-- Commands folded with it in one operation (R51): the uids, itself included. -/
  foldSet : List Nat := []
  /-- The active copies of the pages it uses, as they were when it started (R116). -/
  copy : List (Nat × Word) := []
  /-- Committed boxes of a restored command or of one whose core ranks changed: tensor, first and last coordinates (R407, R409). -/
  boxes : List (Nat × List Nat × List Nat) := []
  /-- The command runs again from its boxes because its core ranks changed (R409). -/
  restart : Bool := false
  /-- The next command admitted after it in its queue (R393). -/
  succ : Option Nat := none
  /-- What an EPI_SOURCE producer has handed to a waiting COLLECTIVE: logical element index and code (R301). -/
  contrib : List (Nat × Nat) := []
  /-- Whether a fabric command has handed its packets to its flows. -/
  shipped : Bool := false
  /-- MEDIA_DECODE: its frame set. -/
  media : MediaPlan := {}
  /-- COLLECTIVE: what has arrived of each other member's contribution (rank, bytes), and the sums formed so far (R426). -/
  arrived : List (Nat × Bytes) := []
  sums : List Word := []
deriving DecidableEq, Repr, Inhabited

/-- A completion record waiting for ring room (R63): queue and the 32 bytes with PHASE clear, and the command whose slot it keeps. -/
structure PendingRecord where
  part : Nat
  queue : Nat
  uid : Nat
  bytes : Bytes
  irq : Bool
deriving DecidableEq, Repr, Inhabited

/-! ### Partitions (chapters 2, 3, 14) -/

/-- The ring state of a queue (R61-R67). `state`: 0 disabled, 1 enabled, 2 stopped. -/
structure Queue where
  sqHead : Nat := 0
  sqTail : Nat := 0
  cqHead : Nat := 0
  cqTail : Nat := 0
  phase : Bool := true
  lastId : Nat := 0
  state : Nat := 0
  doorbellErr : Bool := false
  /-- The entry at SQ_HEAD has already been counted as waiting for a free KV page (R353). -/
  poolWaited : Bool := false
  /-- The queue was stopped by a failed host request on one of its rings (R556). -/
  hostFail : Bool := false
  last : Pred := .none
deriving DecidableEq, Repr, Inhabited

/-- An open or closing session (Table 2-5). -/
structure Session where
  id : Nat
  part : Nat
  missDrop : Bool
  noFold : Bool
  interval : Nat
  deadline : Nat
  t0 : Nat
  planAddr : Nat
  closing : Bool := false
  nextFrame : Nat := 0
  misses : Nat := 0
  /-- Frames already found missed (R54). -/
  missed : List Nat := []
  /-- Declared worst cases of the admitted commands, by frame and stage (R44). -/
  charged : List ((Nat × Nat) × List Nat) := []
deriving DecidableEq, Repr, Inhabited

/-- The quantities of one accounting window, or their totals (Tables 2-9 and 3-19). -/
structure Acct where
  arrayCycles : Nat := 0
  vectorCycles : Nat := 0
  bankAluCycles : Nat := 0
  hbmRead : Nat := 0
  hbmWrite : Nat := 0
  fabTx : Nat := 0
  fabRx : Nat := 0
  pcie : Nat := 0
  mediaPixels : Nat := 0
  energy : Nat := 0
  minSlack : Int := 0x7FFFFFFF
  misses : Nat := 0
  replays : Nat := 0
  tacks : Nat := 0
  /-- M and S of R57. -/
  measured : Nat := 0
  solo : Nat := 0
  missFlag : Bool := false
  reefChanged : Bool := false
  foldAcross : Bool := false
  handover : Bool := false
  holdover : Bool := false
deriving DecidableEq, Repr, Inhabited

/-- A completed window whose accounting record has not yet been written (R56). -/
structure AcctWindow where
  tick : Nat
  acct : Acct
  slowdown : Nat
  interference : Bool
  reefStep : Nat
  reserved : Nat
deriving DecidableEq, Repr, Inhabited

/-- The state of one partition beside its register pages. -/
structure Part where
  queues : List Queue := List.replicate 16 {}
  regions : List Region := []
  /-- Descriptor addresses of session, job and stream open doorbells waiting for the next edge, in doorbell order. -/
  sessionReq : List Nat := []
  jobReq : List Nat := []
  streamReq : List Nat := []
  rekeyReq : List Nat := []
  resyncPending : Bool := false
  /-- The resync window: bytes 0 to 4,095 of the last summary (R97). -/
  resyncWindow : Bytes := []
  window : Acct := {}
  totals : Acct := {}
  windows : Nat := 0
  acctQueue : List AcctWindow := []
  gap : Bool := false
  /-- Consecutive windows above INTERF.THRESH (R58). -/
  slowRun : Nat := 0
  /-- Cycles that session commands waited on command-class commits in this window (R115), and whether the limit was reached. -/
  commitWait : Nat := 0
  commitOpen : Bool := false
  /-- The queue whose ready throughput command was served last (R557). -/
  lastServed : Nat := 15
  /-- A function-level reset is zeroing the partition's cores, and no command starts before that ends (Table 17-2). -/
  flrZeroing : Bool := false
  /-- Sequential counters and augmentation epoch (R385). -/
  counters : List Nat := List.replicate 16 0
  augEpoch : Nat := 0
  /-- The cycle of a Tack request whose arrays are not yet free (R389). -/
  tackAt : Option Nat := none
  /-- Mail rings: send head and tail, receive head and tail, PHASE of the next receive entry; returned messages waiting for room (R440). -/
  mailSqHead : Nat := 0
  mailSqTail : Nat := 0
  mailRqHead : Nat := 0
  mailRqTail : Nat := 0
  mailPhase : Bool := true
  mailReturns : List Bytes := []
  /-- Committed commands with KEEP entries whose successor has not committed (R393). -/
  keeps : List Cmd := []
  /-- Cores whose save the Tack in progress still waits for (R396). -/
  saveCores : List Nat := []
  /-- A function-level reset takes the roles of its units at the next edge (Table 17-2). -/
  roleLoss : Bool := false
deriving DecidableEq, Repr, Inhabited

/-- A slot saved by a Tack: partition, core, slot, tag and its 256 bytes (R396). -/
structure SavedSlot where
  part : Nat
  core : Nat
  slot : Nat
  tag : Bool × Nat
  data : Bytes
deriving DecidableEq, Repr, Inhabited

/-- Masthead's Reef state (R497-R500): the step in force, the step decided and when, the requests of Table 18-3 other than the operator's,
the reason of the target, and the emergency. -/
structure Reef where
  step : Nat := 0
  decided : Option (Nat × Nat) := none
  target : Nat := 0
  reason : Nat := 0
  held : Bool := false
  junction : Nat := 0
  hbm : Nat := 0
  emergency : Bool := false
  emergencyStep : Nat := 0
  /-- The 100 ms period last accounted for, and whether a hot junction reading or a HOT stack was seen since. -/
  period : Nat := 0
  junctionSeen : Bool := false
  hbmSeen : Bool := false
  /-- The cycle since which every junction reading has stayed below AUTO - 5 °C, or no stack has had HOT set, or of the last step back. -/
  junctionCool : Option Nat := none
  hbmCool : Option Nat := none
  /-- The cycle at which the temperature emergency began. -/
  emergencyAt : Nat := 0
deriving DecidableEq, Repr, Inhabited

/-! ### Fabric (chapter 15) -/

/-- An open or closing fabric job (R422-R424): `addrs` is the copy of its members' node-table entries. -/
structure Job where
  id : Nat
  part : Nat
  twoLevel : Bool := false
  reducer : Nat := 0
  epoch : Nat := 0
  rank : Nat := 0
  members : List Nat := []
  group : Nat := 0
  addrs : List Bytes := []
  closing : Bool := false
  failed : Bool := false
  sent : Nat := 0
  received : Nat := 0
  lastId : Nat := 0
deriving DecidableEq, Repr, Inhabited

/-- A packet held in a retention buffer (R419): `kind` is the TYPE of Table 15-2; `uid` the command whose bytes it carries. -/
structure FlowPacket where
  kind : Nat := 0
  psn : Nat := 0
  xfer : Nat := 0
  offset : Nat := 0
  last : Bool := false
  epoch : Nat := 0
  data : Bytes := []
  uid : Nat := 0
  sentAt : Nat := 0
  tries : Nat := 0
  /-- Later PSNs of the flow acknowledged while it is not. -/
  passed : Nat := 0
deriving DecidableEq, Repr, Inhabited

/-- A sending flow (R417, R419-R421): destination node, job, issuing die; `waiting` holds the packets beyond the 64 unacknowledged ones. -/
structure TxFlow where
  id : Nat
  dst : Nat
  job : Nat
  die : Nat
  part : Nat := 0
  nextPsn : Nat := 0
  nextXfer : Nat := 0
  unacked : List FlowPacket := []
  waiting : List FlowPacket := []
  rate : Rat := 0
  alpha : Rat := 1
  marked : Nat := 0
  acked : Nat := 0
  notReadySince : Option Nat := none
  updatedAt : Nat := 0
deriving DecidableEq, Repr, Inhabited

/-- A receiving flow (R418): `next` is the lowest PSN not yet received, `above` the received PSNs beyond it. -/
structure RxFlow where
  id : Nat
  src : Nat
  job : Nat
  die : Nat
  next : Nat := 0
  above : List Nat := []
  unacked : Nat := 0
  ce : Nat := 0
  since : Nat := 0
  status : Nat := 0
deriving DecidableEq, Repr, Inhabited

/-- A payload received and placed at its offset within its transfer (R418). -/
structure RxPayload where
  src : Nat
  job : Nat
  die : Nat
  xfer : Nat
  offset : Nat
  data : Bytes
deriving DecidableEq, Repr, Inhabited

/-- A unit's entry in the rigging table (R438). -/
structure RigUnit where
  role : Nat := 0
  epoch : Nat := 0
  owner : Option Nat := none
deriving DecidableEq, Repr, Inhabited

/-- A message accepted for a unit and waiting in its inbox (R441, R442). -/
structure InboxMail where
  target : Nat
  srcNode : Nat
  srcPart : Nat
  msg : Bytes
deriving DecidableEq, Repr, Inhabited

/-- A reducer beside its register page: whether it is out of service, consecutive failed attempts, and bytes of sums written. -/
structure Reducer where
  outOfService : Bool := false
  failRun : Nat := 0
  reduced : Nat := 0
deriving DecidableEq, Repr, Inhabited

/-- A fabric port beside its register page: whether its link is up, and bytes sent and received. -/
structure EthPort where
  up : Bool := false
  txBytes : Nat := 0
  rxBytes : Nat := 0
deriving DecidableEq, Repr, Inhabited

/-! ### Media (chapter 16) -/

/-- A packet held until its frame is complete (R454): extended sequence number, timestamp, marker, payload, PTP arrival time. -/
structure RtpPacket where
  seq : Nat
  ts : Nat
  marker : Bool
  payload : Bytes
  arrival : Int
deriving DecidableEq, Repr, Inhabited

/-- An open or closing stream (R448): its descriptor and its state. -/
structure Stream where
  id : Nat
  part : Nat
  raw : Bytes
  closing : Bool := false
  keys : Bytes := []
  /-- The keys before a rekey, and the cycle until which they are tried (R451). -/
  oldKeys : Option (Bytes × Nat) := none
  /-- Highest extended sequence number, and those in the replay window (R453). -/
  highest : Option Nat := none
  seen : List Nat := []
  packets : List RtpPacket := []
  /-- The last packet and timestamp of the newest complete frame. -/
  lastEnd : Option (Nat × Nat) := none
  ready : List RxFrame := []
  lost : Nat := 0
  /-- The latest sender report: PTP ns and RTP timestamp (R455). -/
  report : Option (Int × Nat) := none
  needKey : Bool := false
  pliAt : Nat := 0
  decoder : Bytes := []
  picture : Option Config.Picture := none
  repeats : Nat := 0
  encoder : Bytes := []
  sent : Nat := 0
  frames : Nat := 0
  pli : Bool := false
  rtcpAt : Nat := 0
deriving DecidableEq, Repr, Inhabited

/-- An ingest unit beside its register page: decode cycles handed to its media unit in this window, and the backlog (R474). -/
structure IngUnit where
  handed : Nat := 0
  backlog : Nat := 0
deriving DecidableEq, Repr, Inhabited

/-! ### Units (chapters 6, 7) -/

/-- The hoist state of an array (R175-R180). -/
inductive Hoist where
  | lowered | waiting | raising | hoisted | lowering
deriving DecidableEq, Repr, Inhabited

/-- A matrix array beside its register page: hoist state and when it was entered, permit, failures, service, the mode of its last
tile, and the last weight tile's W, T and streaming span (R170). -/
structure ArrayState where
  hoist : Hoist := .lowered
  since : Nat := 0
  permit : Bool := false
  failRun : Nat := 0
  outOfService : Bool := false
  mode : Nat := 0
  integer : Bool := false
  warm : Bool := false
  wPrev : Nat := 0
  tPrev : Nat := 0
  span : Nat := 0
  lastWrite : Nat := 0
  lastEmit : Nat := 0
  busyUntil : Nat := 0
deriving DecidableEq, Repr, Inhabited

/-- A vector engine beside its register page (R291). -/
structure EngineState where
  busyUntil : Nat := 0
  /-- Left out of service by a failed self-test (R550). -/
  outOfService : Bool := false
  /-- Address and header CRC of the program image it holds (R283). -/
  prog : Option (Nat × Nat) := none
deriving DecidableEq, Repr, Inhabited

/-- A core beside its register pages: the end of a zeroing in progress (R193), scrub position and chain buffers held. -/
structure CoreState where
  zeroing : Bool := false
  scrubPos : Nat := 0
  /-- Bytes its data mover has read from and written to the scratchpad. -/
  moverRead : Nat := 0
  moverWrite : Nat := 0
deriving DecidableEq, Repr, Inhabited

/-- The tag of a scratchpad slot (R200). -/
structure SlotTag where
  full : Bool := false
  seq : Nat := 0
deriving DecidableEq, Repr, Inhabited

/-- A stack engine and HBM controller beside their register pages: bytes written and checked (Table 8-12), the next block of the patrol, and
commands in the mailbox ring. -/
structure StackState where
  moved : Nat := 0
  checked : Nat := 0
  patrol : Nat := 0
  /-- Results in the mailbox: the page list of the last SCORE and the CRC of the last CRC (R241, R243, R246). -/
  scores : List Nat := []
  crc : Nat := 0
deriving DecidableEq, Repr, Inhabited

/-! ### Host interface (chapter 17) -/

/-- The configuration space of a function, as far as the manual's rules read it (R478). -/
structure FnCfg where
  busMaster : Bool := false
  d3hot : Bool := false
  flrBusy : Bool := false
  ats : Bool := false
deriving DecidableEq, Repr, Inhabited

/-- A selective IDE stream (R486, R487): the functions it covers and whether it is in the Secure state. -/
structure IdeStream where
  id : Nat
  secure : Bool
  covers : List Nat
deriving DecidableEq, Repr, Inhabited

/-- The host interface beside its register page. -/
structure Pci where
  vfEnable : Bool := false
  numVfs : Nat := 0
  /-- Sizes of BAR4 of the physical function and of the virtual functions, in GiB (Table 17-1). -/
  pfBar : Nat := 64
  vfBar : Nat := 1
  fns : List FnCfg := List.replicate 64 {}
  /-- Unmasked vectors (function, vector); every other vector is masked. -/
  unmasked : List (Nat × Nat) := []
  /-- Vectors with their pending bit set (R483). -/
  msixPending : List (Nat × Nat) := []
  ide : List IdeStream := []
  /-- Translations held: function and page (R484). -/
  atc : List (Nat × Nat) := []
  /-- The data-object mailbox: the response not yet read, and DOE Error (R488). -/
  doeResponse : Bytes := []
  doeError : Bool := false
deriving DecidableEq, Repr, Inhabited

/-- The status outputs of the host connector (Table 19-6). -/
inductive Pin where
  | pwrGood | alertN | thermtripN
deriving DecidableEq, Repr, Inhabited

/-- How an IP packet goes out (R415, R416, R463): addresses of 16 bytes, an IPv4 address mapped; UDP ports; DSCP and ECN where the manual gives them. -/
structure Envelope where
  src : Bytes
  dst : Bytes
  srcPort : Nat
  dstPort : Nat
  dscp : Option Nat := none
  ecn : Option Nat := none
deriving DecidableEq, Repr, Inhabited

/-- Something the device sends to the outside world. -/
inductive Sent where
  /-- An MSI-X message: function and vector (R64, R481). -/
  | msix (f v : Nat)
  /-- A pulse on TICK_OUT (R34). -/
  | tickOut (count : Nat)
  /-- The bytes a read through BAR4 or a PCI Express AtomicOp returns. -/
  | readData (f : Nat) (data : Bytes)
  /-- A completion of an ATS invalidation (R485). -/
  | atsDone (f addr : Nat)
  /-- A UDP packet on a port: kind (0 BFT, 1 RTP, 2 RTCP), its addresses and its bytes. -/
  | packet (kind port : Nat) (envelope : Envelope) (data : Bytes)
  /-- An answer on a management transport: 0 MCTP, 1 management Ethernet, 2 data-object mailbox (R491, R492, R515). -/
  | answer (transport : Nat) (data : Bytes)
  /-- The BUSY reply of R492. -/
  | busy (transport : Nat)
  /-- A PCI Express request of function f completed as Unsupported Request (R224, R487, R546), or with Request Retry Status (R541). -/
  | unsupported (f : Nat)
  | retryStatus (f : Nat)
  /-- A tile's values handed to the receiving member of a job's send/receive (R301): element index and code. -/
  | elements (job uid : Nat) (values : List (Nat × Nat))
  /-- A module pin is driven: its signal and whether it is high. -/
  | pin (signal : Pin) (high : Bool)
deriving DecidableEq, Repr, Inhabited

/-! ### The tick (chapter 2) -/

/-- The tick generator beside its register page. -/
structure Tick where
  count : Nat := 0
  edgeAt : Nat := 0
  locked : Bool := false
  holdover : Bool := false
  /-- N and SOURCE of the window in progress. -/
  source : Nat := 0
  /-- Whether the selected source has been seen since selection. -/
  seen : Bool := false
  offsetNs : Int := 0
  /-- PTP time in ns of cycle 0. -/
  ptpBase : Int := 0
  /-- PTP time of the last edge, and its cycle. -/
  lastEdge : Nat := 0
deriving DecidableEq, Repr, Inhabited

/-! ### The error log (R503-R506) -/

/-- One entry of the error log (Table 18-5). -/
structure LogEntry where
  seq : Nat := 0
  tick : Nat := 0
  cls : Nat
  severity : Nat
  source : Nat
  part : Nat := 0xFF
  space : Nat := 0
  count : Nat := 1
  cmdId : Nat := 0
  queue : Nat := 0
  addr : Nat := 0
  detail : Bytes := []
deriving DecidableEq, Repr, Inhabited

/-! ### Shared cache (R215-R219) -/

/-- A line held by the shared cache of die `die`: device address divided by 256, way, whether it is dirty. -/
structure CacheLine where
  die : Nat
  line : Nat
  way : Nat
  dirty : Bool
deriving DecidableEq, Repr, Inhabited

/-- What a command of the device proper learns from bring-up, firmware and Masthead: MGT.READY, the watermark W, the three firmware identities
of the resync summary (96 bytes), and whether a handover is in progress. -/
structure Outside where
  flags : Nat := 0x3F
  water : Nat := 8323072
  fw : Bytes := []
  handover : Bool := false
deriving DecidableEq, Repr, Inhabited

/-- Why a structure could not be read (R60, R555). -/
inductive ReadFail where
  | invalid | notIssued
  | failed (kind : HostFail)
deriving DecidableEq, Repr, Inhabited

/-! ### Tile spaces (chapter 9) -/

/-- The tile space of an array command: `grids` grids of `rows` x `cols` outputs in bands of `mt` and blocks of `nt`, over `k` in chunks
of 256, `passes` passes of `r` cycles a row; `splits` split-K groups of `kg`; `second` is the column count of a second stage (a chained product
or the second pass of a row band), 0 for none. -/
structure TileSpace where
  grids : Nat := 1
  rows : Nat := 1
  cols : Nat := 1
  k : Nat := 1
  mt : Nat := 256
  nt : Nat := 256
  r : Nat := 1
  passes : Nat := 1
  finish : Bool := true
  splits : Nat := 0
  kg : Nat := 0
  second : Nat := 0
  secondNt : Nat := 256
  /-- The streaming interval of a chained second product, 0 for none. -/
  chainR : Nat := 0
  mode : Nat := 0
  integer : Bool := false
  bypass : Bool := false
  /-- ATTEND: the interval of P against V (R349), 0 for other commands; and the words of a save slot's row (R350). -/
  r2 : Nat := 0
  slotWords : Nat := 0
  /-- Cycles of a tile of the vector engines, 0 for array commands (R288, R380, R384). -/
  cost : Nat := 0
deriving DecidableEq, Repr, Inhabited

/-- A partition's KV pool as its KVP page configures it (R351, Table 12-7). -/
structure KvPool where
  base : Nat
  table : Nat
  sum : Nat
  pages : Nat
  fmt : Fmt
  hkv : Nat
  d : Nat
  dv : Nat
deriving DecidableEq, Repr, Inhabited

/-- A page-table entry (Table 12-3). -/
structure KvEntry where
  ref : Nat := 0
  pins : Nat := 0
  isSealed : Bool := false
  held : Bool := false
  free : Bool := false
  fill : Nat := 0
  base : Nat := 0
deriving DecidableEq, Repr, Inhabited

/-- An entry of a CTX_RESTORE's map (R404): the ordinal of a restored command, and the tensor descriptor or the plan reference it replaces. -/
structure CtxMap where
  ordinal : Nat
  plan : Bool
  tensor : Nat
  planAddr : Nat
  planEntry : Nat
  raw : Bytes
deriving DecidableEq, Repr, Inhabited

/-- What an opcode's own admission checks find (Table 3-8): for each step that fails, status and DETAIL; and the tensors the command reads
and writes, those it may read in place, and its work area in 64 KiB units (R85, R553). -/
structure OpCheck where
  formed : Option (Nat × Nat) := none
  format : Option (Nat × Nat) := none
  shape : Option (Nat × Nat) := none
  pad : Option (Nat × Nat) := none
  streams : Option (Nat × Nat) := none
  band : Option (Nat × Nat) := none
  inputs : List Nat := []
  outputs : List Nat := []
  inPlace : List Nat := []
  work : Option (Nat × Nat) := none
  /-- No output element, or an extent of R81 that is 0. -/
  empty : Bool := false
  /-- A fabric job the command needs (R301, R428). -/
  job : Option Nat := none
deriving DecidableEq, Repr, Inhabited

/-! ### Flash, security, bring-up, power and Masthead (chapters 18 to 20) -/

/-- A firmware image as far as the device keeps it apart from its bytes: VERSION, SVN and the digest of its body (Table 18-7). -/
structure FwImage where
  version : Nat := 0
  svn : Nat := 0
  digest : Bytes := List.replicate 48 0
deriving DecidableEq, Repr, Inhabited

/-- Module flash beside the error-log copies: the four rollback counters (stage one, Masthead, control firmware, configuration record), the two
copies of boot stage one with the copy that the next boot tries first, the images from which Masthead and the control firmware boot,
and the staged images by component (R508, R535). -/
structure Flash where
  counters : List Nat := [0, 0, 0, 0]
  stageOne : List FwImage := [{}, {}]
  first : Nat := 0
  masthead : FwImage := {}
  control : FwImage := {}
  staged : List (Nat × FwImage) := []
deriving DecidableEq, Repr, Inhabited

/-- The security block (R513-R515): measurement registers, the copy stage one was loaded from, the identity, and the open secure sessions, each
by the transport that it belongs to. -/
structure Security where
  mrs : List Bytes := List.replicate 8 (List.replicate 48 0)
  bootCopy : Nat := 0
  pufOk : Bool := false
  identityReady : Bool := false
  locked : Bool := false
  sessions : List Nat := []
deriving DecidableEq, Repr, Inhabited

/-- A stage of the stage log (R552): RESULT, start in us, and the duration in us once it has ended. -/
structure BootStage where
  result : Nat := 0
  start : Nat := 0
  duration : Nat := 0
deriving DecidableEq, Repr, Inhabited

/-- Bring-up: the fourteen stages, MGT.READY, the watermark W, whether REFCLK_ETH is present, lanes that failed calibration, whether a unit
failed since the fundamental reset, and whether the device has stopped in boot (R512, R541, R544, R547, R550). -/
structure Boot where
  stages : List BootStage := List.replicate 14 {}
  flags : Nat := 0
  water : Nat := 0
  refclkEth : Bool := true
  badLanes : List Nat := []
  unitOut : Bool := false
  stopped : Bool := false
deriving DecidableEq, Repr, Inhabited

/-- Power and reset (R521, R532-R534): input voltage in mV, whether the input is within range with its capacitance charged, MOD_PWR_EN,
MOD_PWR_GOOD, MOD_THERMTRIP_N asserted, MOD_PERST_N low, whether the device is held in reset, the restart condition of Table 19-9 (0 none, 1
under-voltage, 2 over-voltage, 3 next assertion of MOD_PWR_EN, 4 MOD_PWR_EN low for 1 s), and a restart due 1 s after a shutdown. -/
structure Power where
  input : Nat := 56000
  ready : Bool := true
  enable : Bool := true
  good : Bool := true
  trip : Bool := false
  perstLow : Bool := false
  held : Bool := false
  restart : Nat := 0
  delayed : Bool := false
deriving DecidableEq, Repr, Inhabited

/-- Masthead beside the MGT page (R493, R502, R507-R511, R529): whether it has been started and is down for a restart; FW_STATUS; the image
being staged (component, address, length, whether a host read of it fails); a requested activation and its cycle; the handover in
progress and its cycles so far; the running images and each component's active slot; whether the 1 s input power is in excess, an asserted alert,
the cycles of the dies' last samples and last rail steps, and the bus address (I3C once assigned). -/
structure Mgmt where
  started : Bool := false
  down : Bool := false
  fwComponent : Nat := 0
  fwStatus : Nat := 0
  fwBusy : Bool := false
  staging : Option (Nat × Nat × Nat × Bool) := none
  activate : Option (Nat × Nat) := none
  handover : Option (Nat × Nat) := none
  running : List FwImage := [{}, {}, {}]
  slots : List Nat := [0, 0, 0]
  excess : Bool := false
  alert : Bool := false
  sampleAt : List Nat := [0, 0, 0, 0]
  avsAt : List Nat := [0, 0, 0, 0]
  address : Nat := 0
  i3c : Bool := false
deriving DecidableEq, Repr, Inhabited

end Sys2Proof.Machine
end

