-- ==== Sys2Proof/Machine/RegMap.lean ====
section
/-! DEFINITION. The register maps of every block, from the register tables of chapters 2 to 20: offset, stride, count, access, reset value, implemented bits, PF bits. A reset value that the manual writes as a dash stands as 0 here and is computed elsewhere. Reset values that differ by instance are in State.reset. -/

namespace Sys2Proof.Machine

/-- The registers of a TICK page beyond the common header. -/
def tickMap : List RegSpec :=
  [
    ⟨0x040, 4, 1, .rws, 0x404, 0x7FF, 0x0⟩,  -- CONFIG
    ⟨0x044, 4, 1, .rws, 0x0, 0x1FFF, 0x0⟩,  -- PTP_CFG
    ⟨0x048, 4, 1, .rws, 0x0, 0x7FF, 0x0⟩,  -- TICK_IN_DELAY
    ⟨0x800, 4, 1, .ro, 0x0, 0xFFFFFFFF, 0x0⟩,  -- STATUS
    ⟨0x808, 4, 1, .ro, 0x0, 0xFFFFFFFF, 0x0⟩,  -- COUNT_LO
    ⟨0x80C, 4, 1, .ro, 0x0, 0xFFFFFFFF, 0x0⟩,  -- COUNT_HI
    ⟨0x810, 4, 1, .ro, 0x0, 0xFFFFFFFF, 0x0⟩,  -- OFFSET_NS
    ⟨0x814, 4, 1, .ro, 0x1E8480, 0xFFFFFFFF, 0x0⟩,  -- WINDOW_CYCLES
    ⟨0x818, 4, 1, .ro, 0x0, 0xFFFFFFFF, 0x0⟩,  -- LAST_EDGE_SEC_LO
    ⟨0x81C, 4, 1, .ro, 0x0, 0xFFFFFFFF, 0x0⟩,  -- LAST_EDGE_SEC_HI
    ⟨0x820, 4, 1, .ro, 0x0, 0xFFFFFFFF, 0x0⟩,  -- LAST_EDGE_NS
    ⟨0x824, 4, 1, .ro, 0x0, 0xFFFFFFFF, 0x0⟩  -- HOLDOVER_COUNT
  ]

/-- The registers of a PART page beyond the common header. -/
def partMap : List RegSpec :=
  [
    ⟨0x040, 4, 1, .rws, 0x0, 0xFFFFFFFF, 0xFFFFFFFF⟩,  -- CORE_MASK_LO
    ⟨0x044, 4, 1, .rws, 0x0, 0xFFFFFFFF, 0xFFFFFFFF⟩,  -- CORE_MASK_HI
    ⟨0x048, 4, 1, .rws, 0x0, 0x1FF01FF, 0x1FF01FF⟩,  -- SHARES
    ⟨0x04C, 4, 1, .rws, 0x0, 0xFFFF, 0xFFFF⟩,  -- FOLD_GROUP
    ⟨0x050, 4, 1, .rws, 0x40140, 0xFFFFFF, 0x0⟩,  -- INTERF
    ⟨0x054, 4, 1, .rws, 0xA, 0x11F, 0x0⟩,  -- ACCT_CFG
    ⟨0x058, 4, 1, .rws, 0x0, 0xFFFFFFFF, 0x0⟩,  -- ACCT_BASE_LO
    ⟨0x05C, 4, 1, .rws, 0x0, 0xFFFF, 0x0⟩,  -- ACCT_BASE_HI
    ⟨0x060, 4, 1, .rws, 0x0, 0x13F, 0x13F⟩,  -- REGION_CFG
    ⟨0x064, 4, 1, .rws, 0x0, 0xFFFFFFFF, 0xFFFFFFFF⟩,  -- REGION_TABLE_LO
    ⟨0x068, 4, 1, .rws, 0x0, 0xFFFF, 0xFFFF⟩,  -- REGION_TABLE_HI
    ⟨0x06C, 4, 1, .rws, 0x0, 0x7F7F7F, 0x7F7F7F⟩,  -- CTX_CFG
    ⟨0x070, 4, 1, .rws, 0x1000, 0x1FFFF, 0x0⟩,  -- TACK_CFG
    ⟨0x074, 4, 1, .rws, 0xA, 0x1F011F, 0x0⟩,  -- MAIL_CFG
    ⟨0x078, 4, 1, .rws, 0x0, 0xFFFFFFFF, 0x0⟩,  -- MAIL_SQ_BASE_LO
    ⟨0x07C, 4, 1, .rws, 0x0, 0xFFFF, 0x0⟩,  -- MAIL_SQ_BASE_HI
    ⟨0x080, 4, 1, .rws, 0x0, 0xFFFFFFFF, 0x0⟩,  -- MAIL_RQ_BASE_LO
    ⟨0x084, 4, 1, .rws, 0x0, 0xFFFF, 0x0⟩,  -- MAIL_RQ_BASE_HI
    ⟨0x088, 4, 1, .rws, 0x0, 0xFFFFFFFF, 0x0⟩,  -- APERTURE_BASE_LO
    ⟨0x08C, 4, 1, .rws, 0x0, 0xFFFF, 0x0⟩,  -- APERTURE_BASE_HI
    ⟨0x090, 4, 1, .rws, 0x0, 0x1F, 0x0⟩,  -- IRQ_CFG
    ⟨0x100, 0x20, 16, .rws, 0xA, 0x1F031F, 0x0⟩,  -- Q_CFG[q]
    ⟨0x104, 0x20, 16, .rws, 0x0, 0xFFFFFFFF, 0x0⟩,  -- Q_SQ_BASE_LO[q]
    ⟨0x108, 0x20, 16, .rws, 0x0, 0xFFFF, 0x0⟩,  -- Q_SQ_BASE_HI[q]
    ⟨0x10C, 0x20, 16, .rws, 0x0, 0xFFFFFFFF, 0x0⟩,  -- Q_CQ_BASE_LO[q]
    ⟨0x110, 0x20, 16, .rws, 0x0, 0xFFFF, 0x0⟩,  -- Q_CQ_BASE_HI[q]
    ⟨0x800, 4, 1, .ro, 0x0, 0xFFFFFFFF, 0x0⟩,  -- CAP_ARRAY
    ⟨0x804, 4, 1, .ro, 0x0, 0xFFFFFFFF, 0x0⟩,  -- CAP_VECTOR
    ⟨0x808, 4, 1, .ro, 0x0, 0xFFFFFFFF, 0x0⟩,  -- CAP_HBM
    ⟨0x80C, 4, 1, .ro, 0x0, 0xFFFFFFFF, 0x0⟩,  -- CAP_FABRIC
    ⟨0x810, 4, 1, .ro, 0x0, 0xFFFFFFFF, 0x0⟩,  -- PEAK_RES_ARRAY
    ⟨0x814, 4, 1, .ro, 0x0, 0xFFFFFFFF, 0x0⟩,  -- PEAK_RES_VECTOR
    ⟨0x818, 4, 1, .ro, 0x0, 0xFFFFFFFF, 0x0⟩,  -- PEAK_RES_HBM
    ⟨0x81C, 4, 1, .ro, 0x0, 0xFFFFFFFF, 0x0⟩,  -- PEAK_RES_FABRIC
    ⟨0x820, 4, 1, .ro, 0x0, 0xFFFFFFFF, 0x0⟩,  -- SESSIONS
    ⟨0x824, 4, 1, .ro, 0x100, 0xFFFFFFFF, 0x0⟩,  -- SLOWDOWN
    ⟨0x828, 4, 1, .ro, 0x0, 0xFFFFFFFF, 0x0⟩,  -- MISS_COUNT
    ⟨0x82C, 4, 1, .ro, 0x0, 0xFFFFFFFF, 0x0⟩,  -- OVERRUN_COUNT
    ⟨0x830, 4, 1, .ro, 0x0, 0xFFFFFFFF, 0x0⟩,  -- ACCT_HEAD
    ⟨0x834, 4, 1, .ro, 0x0, 0xFFFFFFFF, 0x0⟩  -- ACCT_DROPPED
  ] ++
  [
    ⟨0x838, 4, 1, .ro, 0x0, 0xFFFFFFFF, 0x0⟩,  -- RESYNC_STATUS
    ⟨0x83C, 4, 1, .ro, 0x0, 0xFFFFFFFF, 0x0⟩,  -- REGION_LOADED
    ⟨0x840, 4, 1, .ro, 0x0, 0xFFFFFFFF, 0x0⟩,  -- TACK_STATE
    ⟨0x844, 4, 1, .ro, 0x0, 0xFFFFFFFF, 0x0⟩,  -- TACKS
    ⟨0x848, 4, 1, .ro, 0x0, 0xFFFFFFFF, 0x0⟩,  -- TACK_SAVED_4K
    ⟨0x84C, 4, 1, .ro, 0x0, 0xFFFFFFFF, 0x0⟩,  -- TACK_MAX_LATENCY
    ⟨0x850, 4, 1, .ro, 0x0, 0xFFFFFFFF, 0x0⟩,  -- CLAIM_SLOTS
    ⟨0x854, 4, 1, .ro, 0x0, 0xFFFFFFFF, 0x0⟩,  -- JOBS
    ⟨0x858, 4, 1, .ro, 0x0, 0xFFFFFFFF, 0x0⟩,  -- MAIL_SQ_HEAD
    ⟨0x85C, 4, 1, .ro, 0x10000, 0xFFFFFFFF, 0x0⟩,  -- MAIL_RQ_TAIL
    ⟨0x860, 4, 1, .ro, 0x0, 0xFFFFFFFF, 0x0⟩,  -- ING_SPLIT
    ⟨0x864, 4, 1, .ro, 0x0, 0xFFFFFFFF, 0x0⟩,  -- STREAMS
    ⟨0x868, 4, 1, .ro, 0x0, 0xFFFFFFFF, 0x0⟩,  -- FUNC_STATE
    ⟨0x86C, 4, 1, .ro, 0x0, 0xFFFFFFFF, 0x0⟩,  -- IRQ_SRC
    ⟨0x880, 0x10, 16, .ro, 0x0, 0xFFFFFFFF, 0x0⟩,  -- Q_SQ_HEAD[q]
    ⟨0x884, 0x10, 16, .ro, 0x10000, 0xFFFFFFFF, 0x0⟩,  -- Q_CQ_TAIL[q]
    ⟨0x888, 0x10, 16, .ro, 0x0, 0xFFFFFFFF, 0x0⟩,  -- Q_LAST_ID[q]
    ⟨0x88C, 0x10, 16, .ro, 0x0, 0xFFFFFFFF, 0x0⟩,  -- Q_STATE[q]
    ⟨0xC00, 4, 1, .l, 0x0, 0xFFFFFFFF, 0x0⟩,  -- SESSION_DESC_LO
    ⟨0xC04, 4, 1, .l, 0x0, 0xFFFF, 0x0⟩,  -- SESSION_DESC_HI
    ⟨0xC08, 4, 1, .l, 0x0, 0xFFF, 0x0⟩,  -- SESSION_CLOSE
    ⟨0xC0C, 4, 1, .l, 0x0, 0xFFFFFFFF, 0x0⟩,  -- ACCT_TAIL
    ⟨0xC10, 4, 1, .l, 0x0, 0xFFFF01, 0x0⟩,  -- RESYNC
    ⟨0xC14, 4, 1, .l, 0x0, 0xFFFFFFFF, 0x0⟩,  -- RESYNC_BUF_LO
    ⟨0xC18, 4, 1, .l, 0x0, 0xFFFF, 0x0⟩,  -- RESYNC_BUF_HI
    ⟨0xC1C, 4, 1, .l, 0x0, 0xFFFF, 0x0⟩,  -- QUEUE_ABORT
    ⟨0xC20, 4, 1, .l, 0x0, 0xFFFF, 0x0⟩,  -- QUEUE_RESUME
    ⟨0xC24, 4, 1, .l, 0x0, 0xFFFFFFFF, 0x0⟩,  -- TACK_COUNT_CLEAR
    ⟨0xC28, 4, 1, .l, 0x0, 0xFFFFFFFF, 0x0⟩,  -- JOB_DESC_LO
    ⟨0xC2C, 4, 1, .l, 0x0, 0xFFFF, 0x0⟩,  -- JOB_DESC_HI
    ⟨0xC30, 4, 1, .l, 0x0, 0xFFFF, 0x0⟩,  -- JOB_CLOSE
    ⟨0xC34, 4, 1, .l, 0x0, 0xFFFF, 0x0⟩,  -- MAIL_SQ_TAIL
    ⟨0xC38, 4, 1, .l, 0x0, 0xFFFF, 0x0⟩,  -- MAIL_RQ_HEAD
    ⟨0xC3C, 4, 1, .l, 0x0, 0xFFFFFFFF, 0x0⟩,  -- STREAM_DESC_LO
    ⟨0xC40, 4, 1, .l, 0x0, 0xFFFF, 0x0⟩,  -- STREAM_DESC_HI
    ⟨0xC44, 4, 1, .l, 0x0, 0x3FF, 0x0⟩,  -- STREAM_CLOSE
    ⟨0xC48, 4, 1, .l, 0x0, 0x3FF, 0x0⟩  -- STREAM_REKEY
  ]

/-- The registers of a NUM page beyond the common header. -/
def numMap : List RegSpec :=
  [
    ⟨0x040, 4, 1, .rws, 0x0, 0x7, 0x7⟩,  -- POLICY
    ⟨0x800, 4, 1, .w1c, 0x0, 0xF, 0x0⟩,  -- STICKY
    ⟨0x804, 4, 1, .ro, 0x0, 0xFFFFFFFF, 0x0⟩,  -- FLUSH_COUNT
    ⟨0x808, 4, 1, .ro, 0x0, 0xFFFFFFFF, 0x0⟩,  -- SATURATE_COUNT
    ⟨0x80C, 4, 1, .ro, 0x0, 0xFFFFFFFF, 0x0⟩,  -- NAN_COUNT
    ⟨0x810, 4, 1, .ro, 0x0, 0xFFFFFFFF, 0x0⟩,  -- ARRIVAL_COUNT
    ⟨0x814, 4, 1, .ro, 0x0, 0xFFFFFFFF, 0x0⟩,  -- DENIED_COUNT
    ⟨0xC00, 4, 1, .l, 0x0, 0xFFFFFFFF, 0x0⟩  -- COUNT_CLEAR
  ]

/-- The registers of a RNG page beyond the common header. -/
def rngMap : List RegSpec :=
  [
    ⟨0x040, 8, 16, .rws, 0x0, 0xFFFFFFFF, 0x0⟩,  -- COUNTER_SET_LO[c]
    ⟨0x044, 8, 16, .rws, 0x0, 0xFFFFFFFF, 0x0⟩,  -- COUNTER_SET_HI[c]
    ⟨0x0C0, 4, 1, .rws, 0x0, 0xFFFFFFFF, 0x0⟩,  -- AUG_EPOCH_SET_LO
    ⟨0x0C4, 4, 1, .rws, 0x0, 0xFFFFFFFF, 0x0⟩,  -- AUG_EPOCH_SET_HI
    ⟨0x0C8, 4, 1, .rws, 0x0, 0x1FFFF, 0x0⟩,  -- LOAD
    ⟨0x800, 8, 16, .ro, 0x0, 0xFFFFFFFF, 0x0⟩,  -- COUNTER_LO[c]
    ⟨0x804, 8, 16, .ro, 0x0, 0xFFFFFFFF, 0x0⟩,  -- COUNTER_HI[c]
    ⟨0x880, 4, 1, .ro, 0x0, 0xFFFFFFFF, 0x0⟩,  -- AUG_EPOCH_LO
    ⟨0x884, 4, 1, .ro, 0x0, 0xFFFFFFFF, 0x0⟩,  -- AUG_EPOCH_HI
    ⟨0x888, 4, 1, .ro, 0x0, 0xFFFFFFFF, 0x0⟩,  -- FILLS
    ⟨0x88C, 4, 1, .ro, 0x0, 0xFFFFFFFF, 0x0⟩,  -- SAMPLE_ROWS
    ⟨0x890, 4, 1, .ro, 0x0, 0xFFFFFFFF, 0x0⟩,  -- SAMPLE_EMPTY
    ⟨0xC00, 4, 1, .l, 0x0, 0xFFFFFFFF, 0x0⟩  -- COUNT_CLEAR
  ]

/-- The registers of a KVP page beyond the common header. -/
def kvpMap : List RegSpec :=
  [
    ⟨0x040, 4, 1, .rws, 0x0, 0xFFFFFFFF, 0x0⟩,  -- POOL_BASE_LO
    ⟨0x044, 4, 1, .rws, 0x0, 0xFFFF, 0x0⟩,  -- POOL_BASE_HI
    ⟨0x048, 4, 1, .rws, 0x0, 0xFFFFFFFF, 0x0⟩,  -- TABLE_BASE_LO
    ⟨0x04C, 4, 1, .rws, 0x0, 0xFFFF, 0x0⟩,  -- TABLE_BASE_HI
    ⟨0x050, 4, 1, .rws, 0x0, 0xFFFFFFFF, 0x0⟩,  -- SUM_BASE_LO
    ⟨0x054, 4, 1, .rws, 0x0, 0xFFFF, 0x0⟩,  -- SUM_BASE_HI
    ⟨0x058, 4, 1, .rws, 0x0, 0x1FFFFFF, 0x0⟩,  -- POOL_PAGES
    ⟨0x05C, 4, 1, .rws, 0x0, 0x7FFF, 0x0⟩,  -- GEOM
    ⟨0x060, 4, 1, .rws, 0x0, 0x1FF01FF, 0x0⟩,  -- DIMS
    ⟨0x064, 4, 1, .rws, 0x0, 0x1FFFFFF, 0x0⟩,  -- LOW_WATER
    ⟨0x068, 4, 1, .rws, 0x0, 0x1, 0x0⟩,  -- CTL
    ⟨0x800, 4, 1, .ro, 0x0, 0xFFFFFFFF, 0x0⟩,  -- STATE
    ⟨0x804, 4, 1, .ro, 0x0, 0xFFFFFFFF, 0x0⟩,  -- PAGE_BYTES
    ⟨0x808, 4, 1, .ro, 0x0, 0xFFFFFFFF, 0x0⟩,  -- FREE_PAGES
    ⟨0x80C, 4, 1, .ro, 0x0, 0xFFFFFFFF, 0x0⟩,  -- PINNED_PAGES
    ⟨0x810, 4, 1, .ro, 0x0, 0xFFFFFFFF, 0x0⟩,  -- SHARED_PAGES
    ⟨0x814, 4, 1, .ro, 0x0, 0xFFFFFFFF, 0x0⟩,  -- SEALED_PAGES
    ⟨0x818, 4, 1, .ro, 0x0, 0xFFFFFFFF, 0x0⟩,  -- HELD_PAGES
    ⟨0x81C, 4, 1, .ro, 0x0, 0xFFFFFFFF, 0x0⟩,  -- ALLOCS
    ⟨0x820, 4, 1, .ro, 0x0, 0xFFFFFFFF, 0x0⟩,  -- FREES
    ⟨0x824, 4, 1, .ro, 0x0, 0xFFFFFFFF, 0x0⟩,  -- COPIES_STACK
    ⟨0x828, 4, 1, .ro, 0x0, 0xFFFFFFFF, 0x0⟩,  -- COPIES_MOVER
    ⟨0x82C, 4, 1, .ro, 0x0, 0xFFFFFFFF, 0x0⟩,  -- POOL_WAITS
    ⟨0x830, 4, 1, .ro, 0x0, 0xFFFFFFFF, 0x0⟩,  -- RETRIEVALS
    ⟨0xC00, 4, 1, .l, 0x0, 0xFFFFFFFF, 0x0⟩  -- COUNT_CLEAR
  ]

/-- The registers of a CORE page beyond the common header. -/
def coreMap : List RegSpec :=
  [
    ⟨0x800, 4, 1, .ro, 0xD00, 0xFFFFFFFF, 0x0⟩,  -- STATE
    ⟨0x804, 4, 1, .ro, 0x0, 0xFFFFFFFF, 0x0⟩,  -- TILES_STARTED
    ⟨0x808, 4, 1, .ro, 0x0, 0xFFFFFFFF, 0x0⟩,  -- MOVER_READ_4K
    ⟨0x80C, 4, 1, .ro, 0x0, 0xFFFFFFFF, 0x0⟩,  -- MOVER_WRITE_4K
    ⟨0x810, 4, 1, .ro, 0x0, 0xFFFFFFFF, 0x0⟩,  -- MOVER_WAIT_CYCLES
    ⟨0x814, 4, 1, .ro, 0x0, 0xFFFFFFFF, 0x0⟩,  -- SLOTS_HELD
    ⟨0xC00, 4, 1, .l, 0x0, 0xFFFFFFFF, 0x0⟩  -- COUNT_CLEAR
  ]

/-- The registers of a ARR page beyond the common header. -/
def arrMap : List RegSpec :=
  [
    ⟨0x040, 4, 1, .rws, 0x30, 0xFF, 0xFF⟩,  -- HOIST
    ⟨0x800, 4, 1, .ro, 0x400000, 0xFFFFFFFF, 0x0⟩,  -- STATE
    ⟨0x804, 4, 1, .ro, 0x0, 0xFFFFFFFF, 0x0⟩,  -- TILES_COMMITTED
    ⟨0x808, 4, 1, .ro, 0x0, 0xFFFFFFFF, 0x0⟩,  -- TILES_KILLED_ERR
    ⟨0x80C, 4, 1, .ro, 0x0, 0xFFFFFFFF, 0x0⟩,  -- TILES_KILLED_OTHER
    ⟨0x810, 4, 1, .ro, 0x0, 0xFFFFFFFF, 0x0⟩,  -- RESIDUE_ERRORS
    ⟨0x814, 4, 1, .ro, 0x0, 0xFFFFFFFF, 0x0⟩,  -- PARITY_ERRORS
    ⟨0x818, 4, 1, .ro, 0x0, 0xFFFFFFFF, 0x0⟩,  -- ACC_CORRECTED
    ⟨0x81C, 4, 1, .ro, 0x0, 0xFFFFFFFF, 0x0⟩,  -- ACC_UNCORRECTED
    ⟨0x820, 4, 1, .ro, 0x0, 0xFFFFFFFF, 0x0⟩,  -- STREAM_CYCLES_LO
    ⟨0x824, 4, 1, .ro, 0x0, 0xFFFFFFFF, 0x0⟩,  -- STREAM_CYCLES_HI
    ⟨0x828, 4, 1, .ro, 0x0, 0xFFFFFFFF, 0x0⟩,  -- IDLE_FILL_CYCLES_LO
    ⟨0x82C, 4, 1, .ro, 0x0, 0xFFFFFFFF, 0x0⟩,  -- IDLE_FILL_CYCLES_HI
    ⟨0x830, 4, 1, .ro, 0x0, 0xFFFFFFFF, 0x0⟩,  -- RAISES
    ⟨0x834, 4, 1, .ro, 0x0, 0xFFFFFFFF, 0x0⟩,  -- RAISE_WAIT_CYCLES
    ⟨0x838, 4, 1, .ro, 0x0, 0xFFFFFFFF, 0x0⟩,  -- LAST_ERROR
    ⟨0xC00, 4, 1, .l, 0x0, 0x7, 0x7⟩,  -- INJECT
    ⟨0xC04, 4, 1, .l, 0x0, 0xFFFFFFFF, 0x0⟩  -- COUNT_CLEAR
  ]

/-- The registers of a VEC page beyond the common header. -/
def vecMap : List RegSpec :=
  [
    ⟨0x040, 4, 1, .rws, 0x1, 0x1, 0x1⟩,  -- CTL
    ⟨0x800, 4, 1, .ro, 0x100, 0xFFFFFFFF, 0x0⟩,  -- STATE
    ⟨0x804, 4, 1, .ro, 0x0, 0xFFFFFFFF, 0x0⟩,  -- TILES_COMMITTED
    ⟨0x808, 4, 1, .ro, 0x0, 0xFFFFFFFF, 0x0⟩,  -- STAT_TASKS
    ⟨0x80C, 4, 1, .ro, 0x0, 0xFFFFFFFF, 0x0⟩,  -- RESIDUE_ERRORS
    ⟨0x810, 4, 1, .ro, 0x0, 0xFFFFFFFF, 0x0⟩,  -- PARITY_ERRORS
    ⟨0x814, 4, 1, .ro, 0x0, 0xFFFFFFFF, 0x0⟩,  -- PROG_LOADS
    ⟨0x818, 4, 1, .ro, 0x0, 0xFFFFFFFF, 0x0⟩,  -- BUSY_CYCLES_LO
    ⟨0x81C, 4, 1, .ro, 0x0, 0xFFFFFFFF, 0x0⟩,  -- BUSY_CYCLES_HI
    ⟨0x820, 4, 1, .ro, 0x0, 0xFFFFFFFF, 0x0⟩,  -- LAST_ERROR
    ⟨0xC00, 4, 1, .l, 0x0, 0xFFFFFFFF, 0x0⟩,  -- COUNT_CLEAR
    ⟨0xC04, 4, 1, .l, 0x0, 0x3, 0x3⟩  -- INJECT
  ]

/-- The registers of a SPD page beyond the common header. -/
def spdMap : List RegSpec :=
  [
    ⟨0x040, 4, 1, .rws, 0x1E8480, 0xFFFFFFFF, 0x0⟩,  -- TAG_TIMEOUT
    ⟨0x044, 4, 1, .rws, 0x1, 0x1, 0x0⟩,  -- SCRUB_CFG
    ⟨0x048, 8, 8, .rws, 0x0, 0x8001FFFF, 0x0⟩,  -- TAG_REGION[i]
    ⟨0x04C, 8, 8, .rws, 0x0, 0x1FFFF, 0x0⟩,  -- TAG_REGION_LIMIT[i]
    ⟨0x088, 4, 1, .rws, 0x0, 0x1FFFF, 0x0⟩,  -- TAG_INIT_BASE
    ⟨0x08C, 4, 1, .rws, 0x0, 0x3FFFF, 0x0⟩,  -- TAG_INIT_COUNT
    ⟨0x090, 4, 1, .rws, 0x0, 0xFFFF0001, 0x0⟩,  -- TAG_INIT_CTL
    ⟨0x800, 4, 1, .ro, 0x100, 0xFFFFFFFF, 0x0⟩,  -- STATE
    ⟨0x804, 4, 1, .ro, 0x0, 0xFFFFFFFF, 0x0⟩,  -- ECC_CORRECTED
    ⟨0x808, 4, 1, .ro, 0x0, 0xFFFFFFFF, 0x0⟩,  -- ECC_UNCORRECTABLE
    ⟨0x80C, 4, 1, .ro, 0x0, 0xFFFFFFFF, 0x0⟩,  -- SCRUB_PASSES
    ⟨0x810, 4, 1, .ro, 0x0, 0xFFFFFFFF, 0x0⟩,  -- TAG_WAITS
    ⟨0x814, 4, 1, .ro, 0x0, 0xFFFFFFFF, 0x0⟩,  -- TAG_TIMEOUTS
    ⟨0x818, 4, 1, .ro, 0x0, 0xFFFFFFFF, 0x0⟩,  -- TAG_WAIT_MAX
    ⟨0x81C, 4, 1, .ro, 0x0, 0xFFFFFFFF, 0x0⟩,  -- BALU_OPS
    ⟨0x820, 4, 1, .ro, 0x0, 0xFFFFFFFF, 0x0⟩,  -- BALU_CYCLES_LO
    ⟨0x824, 4, 1, .ro, 0x0, 0xFFFFFFFF, 0x0⟩,  -- BALU_CYCLES_HI
    ⟨0x828, 4, 1, .ro, 0x0, 0xFFFFFFFF, 0x0⟩,  -- LAST_ECC_ERROR
    ⟨0xC00, 4, 1, .l, 0x0, 0xFFFFFFFF, 0x0⟩,  -- COUNT_CLEAR
    ⟨0xC04, 4, 1, .l, 0x0, 0x3, 0x3⟩  -- ECC_INJECT
  ]

/-- The registers of a SHC page beyond the common header. -/
def shcMap : List RegSpec :=
  [
    ⟨0x040, 4, 1, .rws, 0x8000, 0xFFFF, 0xFFFF⟩,  -- SYS_WAYS
    ⟨0x080, 4, 32, .rws, 0x0, 0xFFFFFFFF, 0xFFFFFFFF⟩,  -- WAY_MASK[j]
    ⟨0x800, 4, 1, .ro, 0x0, 0xFFFFFFFF, 0x0⟩,  -- HITS_LO
    ⟨0x804, 4, 1, .ro, 0x0, 0xFFFFFFFF, 0x0⟩,  -- HITS_HI
    ⟨0x808, 4, 1, .ro, 0x0, 0xFFFFFFFF, 0x0⟩,  -- MISSES_LO
    ⟨0x80C, 4, 1, .ro, 0x0, 0xFFFFFFFF, 0x0⟩,  -- MISSES_HI
    ⟨0x810, 4, 1, .ro, 0x0, 0xFFFFFFFF, 0x0⟩,  -- WRITEBACKS
    ⟨0x814, 4, 1, .ro, 0x0, 0xFFFFFFFF, 0x0⟩,  -- ATOMICS
    ⟨0x818, 4, 1, .ro, 0x0, 0xFFFFFFFF, 0x0⟩,  -- ECC_CORRECTED
    ⟨0x81C, 4, 1, .ro, 0x0, 0xFFFFFFFF, 0x0⟩,  -- ECC_UNCORRECTABLE
    ⟨0x820, 4, 1, .ro, 0x0, 0xFFFFFFFF, 0x0⟩,  -- DIRTY_LINES
    ⟨0x824, 4, 1, .ro, 0x0, 0xFFFFFFFF, 0x0⟩,  -- LAST_ECC_ERROR
    ⟨0xC00, 4, 1, .l, 0x0, 0xFFFFFFFF, 0x0⟩,  -- COUNT_CLEAR
    ⟨0xC04, 4, 1, .l, 0x0, 0x1, 0x1⟩  -- FLUSH
  ]

/-- The registers of a HAL page beyond the common header. -/
def halMap : List RegSpec :=
  [
    ⟨0x040, 4, 1, .rws, 0x4, 0xF, 0xF⟩,  -- LEASE
    ⟨0x044, 4, 1, .rws, 0x4, 0x1F, 0x1F⟩,  -- CURVE
    ⟨0x048, 4, 1, .rws, 0x1, 0x1, 0x1⟩,  -- TAKE
    ⟨0x800, 4, 1, .ro, 0x0, 0xFFFFFFFF, 0x0⟩,  -- STATE
    ⟨0x804, 4, 1, .ro, 0x0, 0xFFFFFFFF, 0x0⟩,  -- TILES_DEALT
    ⟨0x808, 4, 1, .ro, 0x0, 0xFFFFFFFF, 0x0⟩,  -- TILES_COMMITTED
    ⟨0x80C, 4, 1, .ro, 0x0, 0xFFFFFFFF, 0x0⟩,  -- TAKES_MADE
    ⟨0x810, 4, 1, .ro, 0x0, 0xFFFFFFFF, 0x0⟩,  -- TAKES_GIVEN
    ⟨0x814, 4, 1, .ro, 0x0, 0xFFFFFFFF, 0x0⟩,  -- LEASE_EXPIRIES
    ⟨0x818, 4, 1, .ro, 0x0, 0xFFFFFFFF, 0x0⟩,  -- REISSUES
    ⟨0x81C, 4, 1, .ro, 0x0, 0xFFFFFFFF, 0x0⟩,  -- DUP_DISCARDS
    ⟨0x820, 4, 1, .ro, 0x0, 0xFFFFFFFF, 0x0⟩,  -- ABANDONS
    ⟨0x824, 4, 1, .ro, 0x0, 0xFFFFFFFF, 0x0⟩,  -- SEGMENT_SAVES
    ⟨0x828, 4, 1, .ro, 0x0, 0xFFFFFFFF, 0x0⟩,  -- FINISH_TILES
    ⟨0xC00, 4, 1, .l, 0x0, 0xFFFFFFFF, 0x0⟩  -- COUNT_CLEAR
  ]

/-- The registers of a HBM page beyond the common header. -/
def hbmMap : List RegSpec :=
  [
    ⟨0x040, 4, 1, .rws, 0x1, 0x1, 0x1⟩,  -- CFG
    ⟨0x800, 4, 1, .ro, 0x0, 0xFFFFFFFF, 0x0⟩,  -- STATUS
    ⟨0x804, 4, 1, .ro, 0x0, 0xFFFFFFFF, 0x0⟩,  -- READS_LO
    ⟨0x808, 4, 1, .ro, 0x0, 0xFFFFFFFF, 0x0⟩,  -- READS_HI
    ⟨0x80C, 4, 1, .ro, 0x0, 0xFFFFFFFF, 0x0⟩,  -- WRITES_LO
    ⟨0x810, 4, 1, .ro, 0x0, 0xFFFFFFFF, 0x0⟩,  -- WRITES_HI
    ⟨0x814, 4, 1, .ro, 0x0, 0xFFFFFFFF, 0x0⟩,  -- ECC_CORRECTED
    ⟨0x818, 4, 1, .ro, 0x0, 0xFFFFFFFF, 0x0⟩,  -- ECC_UNCORRECTABLE
    ⟨0x81C, 4, 1, .ro, 0x0, 0xFFFFFFFF, 0x0⟩,  -- RETRY_OK
    ⟨0x820, 4, 1, .ro, 0x0, 0xFFFFFFFF, 0x0⟩,  -- DATA_LOST
    ⟨0x824, 4, 1, .ro, 0x0, 0xFFFFFFFF, 0x0⟩,  -- PATROL_PASSES
    ⟨0x828, 4, 1, .ro, 0x0, 0xFFFFFFFF, 0x0⟩,  -- BAND_CHANGES
    ⟨0x82C, 4, 1, .ro, 0x0, 0xFFFFFFFF, 0x0⟩,  -- LAST_ECC_ERROR
    ⟨0x830, 4, 1, .ro, 0x0, 0xFFFFFFFF, 0x0⟩,  -- LAST_ECC_BLOCK
    ⟨0xC00, 4, 1, .l, 0x0, 0xFFFFFFFF, 0x0⟩,  -- COUNT_CLEAR
    ⟨0xC04, 4, 1, .l, 0x0, 0x3, 0x3⟩  -- ECC_INJECT
  ]

/-- The registers of a STK page beyond the common header. -/
def stkMap : List RegSpec :=
  [
    ⟨0x800, 4, 1, .ro, 0x0, 0xFFFFFFFF, 0x0⟩,  -- STATUS
    ⟨0x804, 4, 1, .ro, 0x0, 0xFFFFFFFF, 0x0⟩,  -- COMMANDS
    ⟨0x808, 4, 1, .ro, 0x0, 0xFFFFFFFF, 0x0⟩,  -- MOVED_4K
    ⟨0x80C, 4, 1, .ro, 0x0, 0xFFFFFFFF, 0x0⟩,  -- SCORED_PAGES
    ⟨0x810, 4, 1, .ro, 0x0, 0xFFFFFFFF, 0x0⟩,  -- CRC_4K
    ⟨0x814, 4, 1, .ro, 0x0, 0xFFFFFFFF, 0x0⟩,  -- FAILED
    ⟨0xC00, 4, 1, .l, 0x0, 0xFFFFFFFF, 0x0⟩  -- COUNT_CLEAR
  ]

/-- The registers of a FAB page beyond the common header. -/
def fabMap : List RegSpec :=
  [
    ⟨0x040, 4, 1, .rws, 0x0, 0x3FFF, 0x0⟩,  -- NODE
    ⟨0x044, 4, 1, .rws, 0x1010101, 0xF0F0F0F, 0x0⟩,  -- GROUP_CFG
    ⟨0x048, 4, 1, .rws, 0x2B9AA, 0x3FFFF, 0x0⟩,  -- BFT_UDP
    ⟨0x04C, 4, 1, .rws, 0x0, 0xFFFFFFFF, 0x0⟩,  -- NODE_TABLE_LO
    ⟨0x050, 4, 1, .rws, 0x0, 0xFFFF, 0x0⟩,  -- NODE_TABLE_HI
    ⟨0x054, 4, 1, .rws, 0x10005DC0, 0xFFFFFFFF, 0x0⟩,  -- RTO
    ⟨0x058, 4, 1, .rws, 0x10504, 0xFFFFFF, 0x0⟩,  -- ECN
    ⟨0x05C, 4, 1, .rws, 0x3E8, 0xFFFF, 0x0⟩,  -- JOB_WAIT
    ⟨0x060, 4, 1, .rws, 0x100010, 0xFFFFFF, 0x0⟩,  -- ACK_CFG
    ⟨0x800, 4, 1, .ro, 0x0, 0xFFFFFFFF, 0x0⟩,  -- STATUS
    ⟨0x804, 4, 1, .ro, 0x0, 0xFFFFFFFF, 0x0⟩,  -- DEAD_LETTERS
    ⟨0x808, 4, 1, .ro, 0x0, 0xFFFFFFFF, 0x0⟩,  -- MAIL_SENT
    ⟨0x80C, 4, 1, .ro, 0x0, 0xFFFFFFFF, 0x0⟩,  -- MAIL_DELIVERED
    ⟨0x810, 4, 1, .ro, 0x0, 0xFFFFFFFF, 0x0⟩,  -- MAIL_RETURNED
    ⟨0x814, 4, 1, .ro, 0x0, 0xFFFFFFFF, 0x0⟩,  -- STALE_DROPS
    ⟨0x818, 4, 1, .ro, 0x0, 0xFFFFFFFF, 0x0⟩,  -- DUP_DROPS
    ⟨0x81C, 4, 1, .ro, 0x0, 0xFFFFFFFF, 0x0⟩,  -- RETRANSMITS
    ⟨0x820, 4, 1, .ro, 0x0, 0xFFFFFFFF, 0x0⟩,  -- CE_MARKS
    ⟨0x824, 4, 1, .ro, 0x0, 0xFFFFFFFF, 0x0⟩,  -- FLOW_FAILS
    ⟨0x900, 4, 100, .ro, 0x0, 0xFFFFFFFF, 0x0⟩,  -- RIG[u]
    ⟨0xA90, 4, 25, .ro, 0x0, 0xFFFFFFFF, 0x0⟩,  -- RIG_OWNER[j]
    ⟨0xC00, 4, 1, .l, 0x0, 0xFFFF7F7F, 0x0⟩,  -- RIG_SET
    ⟨0xC04, 4, 1, .l, 0x0, 0xFFFFFFFF, 0x0⟩  -- COUNT_CLEAR
  ]

/-- The registers of a ETH page beyond the common header. -/
def ethMap : List RegSpec :=
  [
    ⟨0x040, 4, 1, .rws, 0x1, 0x7FFF0003, 0x0⟩,  -- CFG
    ⟨0x044, 4, 1, .rws, 0x0, 0xFFFFFFFF, 0x0⟩,  -- MAC_LO
    ⟨0x048, 4, 1, .rws, 0x0, 0xFFFF, 0x0⟩,  -- MAC_HI
    ⟨0x04C, 4, 1, .rws, 0x0, 0xFFFFFFFF, 0x0⟩,  -- IPV4
    ⟨0x050, 4, 4, .rws, 0x0, 0xFFFFFFFF, 0x0⟩,  -- IPV6[0..3]
    ⟨0x060, 4, 1, .rws, 0x221A, 0x3F3F, 0x0⟩,  -- DSCP
    ⟨0x800, 4, 1, .ro, 0x0, 0xFFFFFFFF, 0x0⟩,  -- STATUS
    ⟨0x804, 4, 1, .ro, 0x0, 0xFFFFFFFF, 0x0⟩,  -- TX_FRAMES
    ⟨0x808, 4, 1, .ro, 0x0, 0xFFFFFFFF, 0x0⟩,  -- RX_FRAMES
    ⟨0x80C, 4, 1, .ro, 0x0, 0xFFFFFFFF, 0x0⟩,  -- TX_4K
    ⟨0x810, 4, 1, .ro, 0x0, 0xFFFFFFFF, 0x0⟩,  -- RX_4K
    ⟨0x814, 4, 1, .ro, 0x0, 0xFFFFFFFF, 0x0⟩,  -- FCS_ERRORS
    ⟨0x818, 4, 1, .ro, 0x0, 0xFFFFFFFF, 0x0⟩,  -- FEC_CORRECTED
    ⟨0x81C, 4, 1, .ro, 0x0, 0xFFFFFFFF, 0x0⟩,  -- FEC_UNCORRECTED
    ⟨0x820, 4, 1, .ro, 0x0, 0xFFFFFFFF, 0x0⟩,  -- LINK_DOWNS
    ⟨0xC00, 4, 1, .l, 0x0, 0xFFFFFFFF, 0x0⟩  -- COUNT_CLEAR
  ]

/-- The registers of a RED page beyond the common header. -/
def redMap : List RegSpec :=
  [
    ⟨0x040, 4, 1, .rws, 0x1, 0xFF, 0xFF⟩,  -- ARB
    ⟨0x800, 4, 1, .ro, 0x0, 0xFFFFFFFF, 0x0⟩,  -- STATE
    ⟨0x804, 4, 1, .ro, 0x0, 0xFFFFFFFF, 0x0⟩,  -- REDUCED_4K
    ⟨0x808, 4, 1, .ro, 0x0, 0xFFFFFFFF, 0x0⟩,  -- THINNED_BLOCKS
    ⟨0x80C, 4, 1, .ro, 0x0, 0xFFFFFFFF, 0x0⟩,  -- RESIDUE_ERRORS
    ⟨0x810, 4, 1, .ro, 0x0, 0xFFFFFFFF, 0x0⟩,  -- REPEATS
    ⟨0xC00, 4, 1, .l, 0x0, 0xFFFFFFFF, 0x0⟩,  -- COUNT_CLEAR
    ⟨0xC04, 4, 1, .l, 0x0, 0x1, 0x1⟩  -- INJECT
  ]

/-- The registers of a MED page beyond the common header. -/
def medMap : List RegSpec :=
  [
    ⟨0x040, 4, 1, .rws, 0x25, 0xFF, 0xFF⟩,  -- UTC_OFFSET
    ⟨0x044, 4, 1, .rws, 0x3E8, 0xFFFF, 0xFFFF⟩,  -- RTCP
    ⟨0x800, 4, 1, .ro, 0x0, 0xFFFFFFFF, 0x0⟩,  -- STATE
    ⟨0x804, 4, 1, .ro, 0x0, 0xFFFFFFFF, 0x0⟩,  -- DEC_PEAK_RES
    ⟨0x808, 4, 1, .ro, 0x0, 0xFFFFFFFF, 0x0⟩,  -- ENC_PEAK_RES
    ⟨0x80C, 4, 1, .ro, 0x0, 0xFFFFFFFF, 0x0⟩,  -- DEC_PIXELS_LO
    ⟨0x810, 4, 1, .ro, 0x0, 0xFFFFFFFF, 0x0⟩,  -- DEC_PIXELS_HI
    ⟨0x814, 4, 1, .ro, 0x0, 0xFFFFFFFF, 0x0⟩,  -- ENC_PIXELS_LO
    ⟨0x818, 4, 1, .ro, 0x0, 0xFFFFFFFF, 0x0⟩,  -- ENC_PIXELS_HI
    ⟨0x81C, 4, 1, .ro, 0x0, 0xFFFFFFFF, 0x0⟩,  -- RTP_UNMATCHED
    ⟨0x820, 4, 1, .ro, 0x0, 0xFFFFFFFF, 0x0⟩,  -- SRTP_FAILS
    ⟨0x824, 4, 1, .ro, 0x0, 0xFFFFFFFF, 0x0⟩,  -- FRAMES_LOST
    ⟨0x828, 4, 1, .ro, 0x0, 0xFFFFFFFF, 0x0⟩,  -- FRAMES_REPEATED
    ⟨0x82C, 4, 1, .ro, 0x0, 0xFFFFFFFF, 0x0⟩,  -- DECODE_ERRORS
    ⟨0x830, 4, 1, .ro, 0x0, 0xFFFFFFFF, 0x0⟩,  -- PLI_SENT
    ⟨0x834, 4, 1, .ro, 0x0, 0xFFFFFFFF, 0x0⟩,  -- RTP_SENT
    ⟨0xC00, 4, 1, .l, 0x0, 0xFFFFFFFF, 0x0⟩  -- COUNT_CLEAR
  ]

/-- The registers of a ING page beyond the common header. -/
def ingMap : List RegSpec :=
  [
    ⟨0x040, 4, 1, .rws, 0x1000, 0x1FFFFF, 0x1FFFFF⟩,  -- MAX_PIXELS_PER_BYTE
    ⟨0x800, 4, 1, .ro, 0x0, 0xFFFFFFFF, 0x0⟩,  -- SPLIT
    ⟨0x804, 4, 1, .ro, 0x0, 0xFFFFFFFF, 0x0⟩,  -- SAMPLES_DECODED
    ⟨0x808, 4, 1, .ro, 0x0, 0xFFFFFFFF, 0x0⟩,  -- SAMPLES_RAW
    ⟨0x80C, 4, 1, .ro, 0x0, 0xFFFFFFFF, 0x0⟩,  -- SAMPLES_REJECTED
    ⟨0x810, 4, 1, .ro, 0x0, 0xFFFFFFFF, 0x0⟩,  -- LAST_REJECT
    ⟨0x814, 4, 1, .ro, 0x0, 0xFFFFFFFF, 0x0⟩,  -- LAST_REJECT_INDEX
    ⟨0x818, 4, 1, .ro, 0x0, 0xFFFFFFFF, 0x0⟩,  -- BACKLOG
    ⟨0xC00, 4, 1, .l, 0x0, 0xFFFFFFFF, 0x0⟩  -- COUNT_CLEAR
  ]

/-- The registers of a PCI page beyond the common header. -/
def pciMap : List RegSpec :=
  [
    ⟨0x040, 4, 1, .rws, 0x1F, 0x1F, 0x1F⟩,  -- IRQ_CFG
    ⟨0x044, 4, 1, .rws, 0x0, 0xFFFFFFFF, 0xFFFFFFFF⟩,  -- IDE_REQUIRE_LO
    ⟨0x048, 4, 1, .rws, 0x0, 0xFFFFFFFF, 0xFFFFFFFF⟩,  -- IDE_REQUIRE_HI
    ⟨0x800, 4, 1, .ro, 0x0, 0xFFFFFFFF, 0x0⟩,  -- LINK_STATUS
    ⟨0x804, 4, 1, .ro, 0x0, 0xFFFFFFFF, 0x0⟩,  -- SRIOV_STATE
    ⟨0x808, 4, 1, .ro, 0x0, 0xFFFFFFFF, 0x0⟩,  -- CORRECTABLE_ERRORS
    ⟨0x80C, 4, 1, .ro, 0x0, 0xFFFFFFFF, 0x0⟩,  -- LINK_DOWNS
    ⟨0x810, 4, 1, .ro, 0x0, 0xFFFFFFFF, 0x0⟩,  -- REPLAYS
    ⟨0x814, 4, 1, .ro, 0x0, 0xFFFFFFFF, 0x0⟩,  -- APERTURE_DENIED
    ⟨0x818, 4, 1, .ro, 0x0, 0xFFFFFFFF, 0x0⟩,  -- TRANSLATION_FAULTS
    ⟨0x81C, 4, 1, .ro, 0x0, 0xFFFFFFFF, 0x0⟩,  -- IDE_FAILURES
    ⟨0x820, 4, 1, .ro, 0x0, 0xFFFFFFFF, 0x0⟩,  -- INVALIDATIONS
    ⟨0x830, 4, 3, .ro, 0x0, 0xFFFFFFFF, 0x0⟩,  -- IRQ_SUMMARY[j]
    ⟨0x83C, 4, 1, .ro, 0x0, 0xFFFFFFFF, 0x0⟩,  -- IRQ_SUMMARY_CORES
    ⟨0x900, 4, 64, .ro, 0x0, 0xFFFFFFFF, 0x0⟩,  -- VF_DENIED[f]
    ⟨0xC00, 4, 1, .l, 0x0, 0xFFFFFFFF, 0x0⟩  -- COUNT_CLEAR
  ]

/-- The registers of a MGT page beyond the common header. -/
def mgtMap : List RegSpec :=
  [
    ⟨0x040, 4, 1, .rws, 0x0, 0x3, 0x3⟩,  -- REEF_REQ
    ⟨0x044, 4, 1, .rws, 0x3F, 0x3F, 0x3F⟩,  -- ALERT_EN
    ⟨0x048, 4, 1, .rws, 0x0, 0xFF, 0xFF⟩,  -- THERM_CFG
    ⟨0x800, 4, 1, .ro, 0x0, 0xFFFFFFFF, 0x0⟩,  -- READY
    ⟨0x804, 4, 1, .ro, 0x0, 0xFFFFFFFF, 0x0⟩,  -- STATE
    ⟨0x808, 4, 1, .ro, 0x0, 0xFFFFFFFF, 0x0⟩,  -- INPUT_MV
    ⟨0x80C, 4, 1, .ro, 0x0, 0xFFFFFFFF, 0x0⟩,  -- INPUT_MA
    ⟨0x810, 4, 1, .ro, 0x0, 0xFFFFFFFF, 0x0⟩,  -- INPUT_POWER
    ⟨0x814, 4, 1, .ro, 0x0, 0xFFFFFFFF, 0x0⟩,  -- COOLANT
    ⟨0x818, 4, 1, .ro, 0x0, 0xFFFFFFFF, 0x0⟩,  -- FW_STATUS
    ⟨0x820, 8, 3, .ro, 0x0, 0xFFFFFFFF, 0x0⟩,  -- FW_VERSION[c]
    ⟨0x824, 8, 3, .ro, 0x0, 0xFFFFFFFF, 0x0⟩,  -- FW_SVN[c]
    ⟨0x840, 4, 1, .ro, 0x0, 0xFFFFFFFF, 0x0⟩,  -- ELOG_HEAD
    ⟨0x844, 4, 1, .ro, 0x0, 0xFFFFFFFF, 0x0⟩,  -- ELOG_STATUS
    ⟨0x848, 4, 1, .ro, 0x0, 0xFFFFFFFF, 0x0⟩,  -- MASTHEAD_RESTARTS
    ⟨0x84C, 4, 1, .ro, 0x0, 0xFFFFFFFF, 0x0⟩,  -- HANDOVERS
    ⟨0x850, 4, 1, .ro, 0x0, 0xFFFFFFFF, 0x0⟩,  -- HBM_INIT_BLOCK
    ⟨0x854, 4, 1, .ro, 0x0, 0xFFFFFFFF, 0x0⟩,  -- HBM_INIT_DROPS
    ⟨0x858, 4, 1, .ro, 0x0, 0xFFFFFFFF, 0x0⟩,  -- STAGES_RUNNING
    ⟨0x880, 8, 16, .ro, 0x0, 0xFFFFFFFF, 0x0⟩,  -- STAGE_START[i]
    ⟨0x884, 8, 16, .ro, 0x0, 0xFFFFFFFF, 0x0⟩,  -- STAGE_INFO[i]
    ⟨0x900, 4, 16, .ro, 0x0, 0xFFFFFFFF, 0x0⟩,  -- ELOG_WINDOW
    ⟨0xC00, 4, 1, .l, 0x0, 0xFFFFFFFF, 0xFFFFFFFF⟩,  -- FW_STAGE_LO
    ⟨0xC04, 4, 1, .l, 0x0, 0xFFFF, 0xFFFF⟩,  -- FW_STAGE_HI
    ⟨0xC08, 4, 1, .l, 0x0, 0xFFFFFFFF, 0xFFFFFFFF⟩,  -- FW_STAGE_LEN
    ⟨0xC0C, 4, 1, .l, 0x0, 0x307, 0x307⟩,  -- FW_CTL
    ⟨0xC10, 4, 1, .l, 0x0, 0xFFFFFFFF, 0x0⟩  -- ELOG_READ
  ]

/-- The registers of a MON page beyond the common header. -/
def monMap : List RegSpec :=
  [
    ⟨0x800, 4, 16, .ro, 0x0, 0xFFFFFFFF, 0x0⟩,  -- TEMP[i]
    ⟨0x840, 4, 1, .ro, 0x0, 0xFFFFFFFF, 0x0⟩,  -- TEMP_MAX
    ⟨0x844, 4, 1, .ro, 0x0, 0xFFFFFFFF, 0x0⟩,  -- PROCESS
    ⟨0x848, 4, 1, .ro, 0x0, 0xFFFFFFFF, 0x0⟩,  -- AVS_MV
    ⟨0x850, 4, 8, .ro, 0x0, 0xFFFFFFFF, 0x0⟩,  -- RAIL[r]
    ⟨0x870, 4, 1, .ro, 0x0, 0xFFFFFFFF, 0x0⟩,  -- RAIL_FAULTS
    ⟨0xC00, 4, 1, .l, 0x0, 0xFFFFFFFF, 0x0⟩  -- COUNT_CLEAR
  ]

/-- The registers of a SEC page beyond the common header. -/
def secMap : List RegSpec :=
  [
    ⟨0x800, 4, 96, .ro, 0x0, 0xFFFFFFFF, 0x0⟩,  -- MR[m]
    ⟨0x980, 4, 4, .ro, 0x0, 0xFFFFFFFF, 0x0⟩,  -- SVN_COUNTER[c]
    ⟨0x990, 4, 1, .ro, 0x0, 0xFFFFFFFF, 0x0⟩,  -- STATE
    ⟨0x994, 4, 1, .ro, 0x0, 0xFFFFFFFF, 0x0⟩,  -- SPDM_SESSIONS
    ⟨0x998, 4, 1, .ro, 0x0, 0xFFFFFFFF, 0x0⟩  -- SIGN_FAILS
  ]

/-- The registers of a D2D page beyond the common header. -/
def d2dMap : List RegSpec :=
  [
    ⟨0x040, 4, 1, .rws, 0x40, 0xFFFF, 0xFFFF⟩,  -- CFG
    ⟨0x800, 4, 1, .ro, 0x0, 0xFFFFFFFF, 0x0⟩,  -- STATUS
    ⟨0x804, 4, 1, .ro, 0x0, 0xFFFFFFFF, 0x0⟩,  -- RETRAINS
    ⟨0x808, 4, 1, .ro, 0x0, 0xFFFFFFFF, 0x0⟩,  -- CRC_ERRORS
    ⟨0x80C, 4, 1, .ro, 0x0, 0xFFFFFFFF, 0x0⟩,  -- FLIT_REPLAYS
    ⟨0xC00, 4, 1, .l, 0x0, 0xFFFFFFFF, 0x0⟩,  -- COUNT_CLEAR
    ⟨0xC04, 4, 1, .l, 0x0, 0x1, 0x1⟩  -- RETRAIN
  ]

/-- The register map of a block type. -/
def Block.map : Block → List RegSpec
  | .tick => tickMap
  | .part => partMap
  | .num => numMap
  | .rng => rngMap
  | .kvp => kvpMap
  | .core => coreMap
  | .arr => arrMap
  | .vec => vecMap
  | .spd => spdMap
  | .shc => shcMap
  | .hal => halMap
  | .hbm => hbmMap
  | .stk => stkMap
  | .fab => fabMap
  | .eth => ethMap
  | .red => redMap
  | .med => medMap
  | .ing => ingMap
  | .pci => pciMap
  | .mgt => mgtMap
  | .mon => monMap
  | .sec => secMap
  | .d2d => d2dMap

end Sys2Proof.Machine
end

