-- ==== Sys2Proof/Machine/State.lean ====
section
/-! DEFINITION. The machine's state: everything the manual gives the device, the commands waiting for it, and the state right after reset release. -/

namespace Sys2Proof.Machine

/-- Why the model stops. -/
inductive Fault where
  /-- A command names a unit or an address that the manual says the device does not have. Raised by every command with a unit or
  address operand. Safe: the model says nothing of what follows. -/
  | noSuchUnit
deriving DecidableEq, Repr

/-- Why a command has no meaning. -/
inductive Refusal where
  /-- No meaning has been written for the command. Raised by the dispatch only. Safe. -/
  | notModelled (mnemonic : String)
deriving DecidableEq, Repr

/-- The device proper: everything but flash, power, boot, security and the rigging table. -/
structure Dev where
  /-- Arithmetic-clock cycles since reset release. -/
  now : Nat := 0
  /-- The model's own counter: the next free value to use. -/
  fresh : Nat := 0
  /-- Registers that differ from their reset value, by BAR0 offset; the active copy of a register lies 0x400 above it. -/
  regs : List (Nat × Word) := []
  commits : List PendingCommit := []
  tick : Tick := {}
  hbm : Mem := {}
  host : Mem := {}
  spd : Mem := {}
  /-- Tags that are not EMPTY with SEQ 0, by core * 98304 + slot. -/
  tags : List (Nat × SlotTag) := []
  /-- Lines held by the shared caches, oldest first, and the dies whose flush is in progress. -/
  lines : List CacheLine := []
  flushing : List Nat := []
  arrays : List ArrayState := List.replicate 128 {}
  engines : List EngineState := List.replicate 64 {}
  cores : List CoreState := List.replicate 64 {}
  stackUnits : List StackState := List.replicate 12 {}
  parts : List Part := []
  /-- Commands that hold an in-flight slot, in admission order. -/
  cmds : List Cmd := []
  nextUid : Nat := 1
  /-- Completion records waiting to be written (R63). -/
  records : List PendingRecord := []
  plans : List PlanRec := []
  saved : List SavedSlot := []
  reef : Reef := {}
  sessions : List Session := []
  jobs : List Job := []
  txFlows : List TxFlow := []
  rxFlows : List RxFlow := []
  nextFlow : Nat := 0
  received : List RxPayload := []
  /-- The rigging table: 100 units; changes queued for the next edge (unit, role, owner); the inboxes, in order of acceptance. -/
  rig : List RigUnit := List.replicate 100 {}
  rigQueue : List (Nat × Nat × Option Nat) := []
  inbox : List InboxMail := []
  reducers : List Reducer := List.replicate 4 {}
  ports : List EthPort := List.replicate 16 {}
  streams : List Stream := []
  ingest : List IngUnit := List.replicate 4 {}
  /-- The error log, oldest first: at most 4,096 entries in the ring, or 64 held in the security block until the ring exists. -/
  elog : List LogEntry := []
  elogSeq : Nat := 0
  elogRing : Bool := false
  /-- The last 256 entries of severity 4 and 5, in module flash (R505). -/
  flashLog : List LogEntry := []
  pci : Pci := {}
  /-- The old value that the last atomic returned to the unit that issued it (R221). -/
  atomicOld : Bytes := []
  /-- What has been sent to the outside, newest first. -/
  sent : List Sent := []
deriving DecidableEq, Repr, Inhabited

/-- The state of the machine. -/
structure State where
  /-- Commands waiting, first in first out. -/
  pending : List Instr := []
  dev : Dev := {}
  flash : Flash := {}
  sec : Security := {}
  boot : Boot := {}
  power : Power := {}
  mgmt : Mgmt := {}
deriving DecidableEq, Repr, Inhabited

/-- The device proper right after reset release: 64 partitions, partition 0 with the default region (R17, R231); arrays and engines idle. -/
def Dev.reset : Dev :=
  { parts := { regions := [{ base := 0, size := 762 * 2 ^ 30, mode := 0, rowBase := 0 }] } :: List.replicate 63 {} }

/-- Bring-up right after reset release: stages 0 and 4 run (R540). -/
def Boot.reset : Boot :=
  { stages := (List.range 14).map (fun i => { result := if i = 0 ∨ i = 4 then 1 else 0 }) }

/-- The machine right after MOD_PERST_N is released following power-up (step 5 of Table 19-8). -/
def State.reset : State := { dev := Dev.reset, boot := Boot.reset }

end Sys2Proof.Machine
end

