-- ==== Sys2Proof/Machine/Mem.lean ====
section
/-! DEFINITION. Sparse memories in canonical form, and the association lists that registers and tags are kept in. -/

namespace Sys2Proof.Machine

/-! ### Association lists with rising keys and a default -/

/-- The value at a key, or the default. -/
def assocGet {α : Type} (dflt : α) : List (Nat × α) → Nat → α
  | [], _ => dflt
  | (k, v) :: r, a => if k = a then v else assocGet dflt r a

/-- A pair put before the first greater key. -/
def assocPut {α : Type} (a : Nat) (x : α) : List (Nat × α) → List (Nat × α)
  | [] => [(a, x)]
  | (k, v) :: r => if a < k then (a, x) :: (k, v) :: r else (k, v) :: assocPut a x r

/-- The list with a key set, keys kept rising and the default never listed. -/
def assocSet {α : Type} [DecidableEq α] (dflt : α) (a : Nat) (x : α) (l : List (Nat × α)) : List (Nat × α) :=
  if x = dflt then l.filter (fun q => decide (q.1 ≠ a)) else assocPut a x (l.filter (fun q => decide (q.1 ≠ a)))

/-- Keys strictly rising, all of them above `lo`. -/
def risingFrom {α : Type} : Nat → List (Nat × α) → Bool
  | _, [] => true
  | lo, (k, _) :: r => decide (lo ≤ k) && risingFrom (k + 1) r

/-! ### Memories -/

/-- The tag of the open range that holds an address. -/
def openTag : List (Nat × Nat × Nat) → Nat → Option Nat
  | [], _ => none
  | (b, n, t) :: r, a => if b ≤ a ∧ a < b + n then some t else openTag r a

/-- What an unlisted address reads as: zero, or in a range the manual calls undefined the free byte of that range. -/
def Mem.unlisted (m : Mem) (a : Nat) : Byte :=
  match openTag m.opens a with
  | none => 0
  | some t => Config.freeByte t a

/-- The listed byte at an address. -/
def cellGet : List (Nat × Byte) → Nat → Option Byte
  | [], _ => none
  | (k, v) :: r, a => if k = a then some v else cellGet r a

/-- One byte. -/
def Mem.read (m : Mem) (a : Nat) : Byte :=
  match cellGet m.cells a with
  | some b => b
  | none => m.unlisted a

/-- The list with a byte put at its place, or taken out. -/
def cellSet (a : Nat) (x : Option Byte) (l : List (Nat × Byte)) : List (Nat × Byte) :=
  match x with
  | none => l.filter (fun q => decide (q.1 ≠ a))
  | some b => assocPut a b (l.filter (fun q => decide (q.1 ≠ a)))

/-- Writing one byte keeps the canonical form: outside the undefined ranges a zero is not listed, inside them every written byte is. -/
def Mem.write (m : Mem) (a : Nat) (b : Byte) : Mem :=
  let x : Option Byte := if b = 0 && (openTag m.opens a).isNone then none else some b
  { m with cells := cellSet a x m.cells }

/-- `n` bytes from `a`. -/
def Mem.readBytes (m : Mem) : Nat → Nat → Bytes
  | _, 0 => []
  | a, n + 1 => m.read a :: m.readBytes (a + 1) n

/-- A string of bytes written from `a` upward. -/
def Mem.writeBytes (m : Mem) : Nat → Bytes → Mem
  | _, [] => m
  | a, b :: bs => (m.write a b).writeBytes (a + 1) bs

/-- The contents of a range become undefined (tag `t`). -/
def Mem.undefine (m : Mem) (a n t : Nat) : Mem :=
  { cells := m.cells.filter (fun c => c.1 < a || a + n ≤ c.1), opens := (a, n, t) :: m.opens }

/-- An open range without the part that lies in `[a, a + n)`. -/
def openCut (a n : Nat) (r : Nat × Nat × Nat) : List (Nat × Nat × Nat) :=
  let lo := r.1
  let hi := r.1 + r.2.1
  let left := if lo < a then [(lo, min hi a - lo, r.2.2)] else []
  let right := if a + n < hi then [(max lo (a + n), hi - max lo (a + n), r.2.2)] else []
  left ++ right

/-- The contents of a range become zero. -/
def Mem.zero (m : Mem) (a n : Nat) : Mem :=
  { cells := m.cells.filter (fun c => c.1 < a || a + n ≤ c.1),
    opens := m.opens.flatMap (openCut a n) }

/-- The canonical form: addresses strictly rising, and outside the undefined ranges no entry equal to zero. -/
def Mem.wf (m : Mem) : Bool :=
  risingFrom 0 m.cells && m.cells.all (fun c => c.2 != 0 || (openTag m.opens c.1).isSome)

end Sys2Proof.Machine
end

