-- ==== Sys2Proof/Machine/Regs.lean ====
section
/-! DEFINITION. Register pages: the page index map, stored register values and their reset values, and the raising of interrupt bits (chapter 4). -/

namespace Sys2Proof.Machine

/-! ### Page index map (Table 4-1) -/

def pgMGT : Nat := 0x000
def pgSEC : Nat := 0x001
def pgTICK : Nat := 0x002
def pgPCI : Nat := 0x003
def pgFAB : Nat := 0x004
def pgSHC (d : Nat) : Nat := 0x010 + d
def pgHAL (d : Nat) : Nat := 0x014 + d
def pgRED (d : Nat) : Nat := 0x018 + d
def pgMED (d : Nat) : Nat := 0x01C + d
def pgING (d : Nat) : Nat := 0x020 + d
def pgMON (d : Nat) : Nat := 0x024 + d
def pgD2D (i : Nat) : Nat := 0x028 + i
def pgHBM (s : Nat) : Nat := 0x030 + s
def pgSTK (s : Nat) : Nat := 0x040 + s
def pgETH (e : Nat) : Nat := 0x050 + e
def pgCORE (n : Nat) : Nat := 0x080 + n
def pgVEC (n : Nat) : Nat := 0x0C0 + n
def pgSPD (n : Nat) : Nat := 0x100 + n
def pgARR (a : Nat) : Nat := 0x140 + a
def pgPART (p : Nat) : Nat := 0x200 + p
def pgNUM (p : Nat) : Nat := 0x240 + p
def pgRNG (p : Nat) : Nat := 0x280 + p
def pgKVP (p : Nat) : Nat := 0x2C0 + p
def pgWIN (p : Nat) : Nat := 0x300 + p

/-- The ranges of Table 4-1 that carry a header: first index, instances, block. -/
def pageRanges : List (Nat × Nat × Block) :=
  [(0x000, 1, .mgt), (0x001, 1, .sec), (0x002, 1, .tick), (0x003, 1, .pci), (0x004, 1, .fab),
   (0x010, 4, .shc), (0x014, 4, .hal), (0x018, 4, .red), (0x01C, 4, .med), (0x020, 4, .ing),
   (0x024, 4, .mon), (0x028, 6, .d2d), (0x030, 12, .hbm), (0x040, 12, .stk), (0x050, 16, .eth),
   (0x080, 64, .core), (0x0C0, 64, .vec), (0x100, 64, .spd), (0x140, 128, .arr), (0x200, 64, .part),
   (0x240, 64, .num), (0x280, 64, .rng), (0x2C0, 64, .kvp)]

/-- R100: the block and instance of a page index. -/
def blockOf (page : Nat) : Option (Block × Nat) :=
  (pageRanges.find? (fun r => decide (r.1 ≤ page) && decide (page < r.1 + r.2.1))).map
    (fun r => (r.2.2, page - r.1))

/-- Table 4-4. -/
def Block.code : Block → Nat
  | .core => 0x0001 | .arr => 0x0002 | .vec => 0x0003 | .spd => 0x0004 | .shc => 0x0005
  | .hal => 0x0006 | .hbm => 0x0007 | .stk => 0x0008 | .d2d => 0x0009 | .tick => 0x000A
  | .part => 0x000B | .num => 0x000C | .rng => 0x000D | .kvp => 0x000E | .fab => 0x000F
  | .eth => 0x0010 | .red => 0x0011 | .med => 0x0012 | .ing => 0x0013 | .pci => 0x0014
  | .mgt => 0x0015 | .mon => 0x0016 | .sec => 0x0017

/-- Table 4-8: whether a page's commits are of the tick class. -/
def Block.tickClass : Block → Bool
  | .tick | .part | .fab | .eth | .red | .med | .ing | .hbm | .shc | .d2d | .pci | .mgt | .mon | .sec => true
  | .core | .arr | .vec | .spd | .hal | .num | .rng | .kvp | .stk => false

/-- Whether an offset is one of a row's registers. -/
def RegSpec.holds (r : RegSpec) (off : Nat) : Bool :=
  decide (r.off ≤ off) && decide ((off - r.off) % r.stride = 0) && decide ((off - r.off) / r.stride < r.count)

/-- The map row of an offset of a block. -/
def regSpec (b : Block) (off : Nat) : Option RegSpec := b.map.find? (fun r => r.holds off)

/-- Reset values that differ by instance (Tables 2-12, 7-9, 8-8, 14-7). -/
def resetOverride (b : Block) (inst off : Nat) : Option Word :=
  match b, inst with
  | .part, 0 =>
    if off = 0x040 || off = 0x044 then some 0xFFFFFFFF
    else if off = 0x048 then some 0x01000100
    else if off = 0x060 then some 0x00000100
    else if off = 0x06C then some 0x00104000
    else none
  | .shc, _ => if off = 0x080 then some 0x00007FFF else none
  | _, _ => none

/-- The reset value of a stored register; the active copy's is its shadow's (R105). -/
def regReset (page off : Nat) : Word :=
  match blockOf page with
  | none => 0
  | some (b, inst) =>
    let o := if 0x440 ≤ off ∧ off < 0x800 then off - 0x400 else off
    match resetOverride b inst o with
    | some v => v
    | none => match regSpec b o with
      | some r => BitVec.ofNat 32 r.reset
      | none => 0

/-- The key of a register: its BAR0 offset (R100). -/
def regKey (page off : Nat) : Nat := page * 0x1000 + off

/-- The stored value of a register. -/
def Dev.reg (d : Dev) (page off : Nat) : Word :=
  assocGet (regReset page off) d.regs (regKey page off)

/-- The stored value as a number. -/
def Dev.regN (d : Dev) (page off : Nat) : Nat := (d.reg page off).toNat

/-- A register given a value. -/
def Dev.setReg (d : Dev) (page off : Nat) (v : Word) : Dev :=
  { d with regs := assocSet (regReset page off) (regKey page off) v d.regs }

/-- The active copy of a shadowed register (R107). -/
def Dev.active (d : Dev) (page off : Nat) : Nat := d.regN page (off + 0x400)

/-- Add to a saturating 32-bit counter. -/
def Dev.bump (d : Dev) (page off n : Nat) : Dev :=
  d.setReg page off (BitVec.ofNat 32 (satAdd 32 (d.regN page off) n))

/-- Add to a 64-bit counter held in two stored words, the high word beyond the latch: the count itself is kept under the pair's
high offset plus 0x600, where the map has no register. -/
def wideKey (off : Nat) : Nat := off + 0x604

/-- The whole of a 64-bit counter whose low word is at `off`. -/
def Dev.wide (d : Dev) (page off : Nat) : Nat :=
  d.regN page off + (d.regN page (wideKey off) <<< 32)

/-- Set a 64-bit counter. -/
def Dev.setWide (d : Dev) (page off v : Nat) : Dev :=
  (d.setReg page off (BitVec.ofNat 32 v)).setReg page (wideKey off) (BitVec.ofNat 32 (v >>> 32))

/-- Add to a 64-bit counter. -/
def Dev.bumpWide (d : Dev) (page off n : Nat) : Dev := d.setWide page off ((d.wide page off + n) % 2 ^ 64)

/-! ### Header registers (Table 4-2) -/

def oCtl : Nat := 0x008
def oStat : Nat := 0x00C
def oGen : Nat := 0x010
def oIntStat : Nat := 0x014
def oIntEn : Nat := 0x018

/-- R102: a page signals while a bit is set in both INT_STAT and INT_EN. -/
def Dev.signals (d : Dev) (page : Nat) : Bool :=
  (d.reg page oIntStat &&& d.reg page oIntEn) != 0

/-- The partition whose active mask holds a core (R16), lowest first. -/
def Dev.ownerOf (d : Dev) (n : Nat) : Option Nat :=
  (List.range 64).find? (fun p =>
    if n < 32 then bit (d.active (pgPART p) 0x040) n else bit (d.active (pgPART p) 0x044) (n - 32))

/-- The cores of a partition's active CORE_MASK, ascending. -/
def Dev.coresOf (d : Dev) (p : Nat) : List Nat :=
  setBitsOf (d.active (pgPART p) 0x040) 32 ++
    (setBitsOf (d.active (pgPART p) 0x044) 32).map (· + 32)

/-- The partition that a page's interrupt goes to, or none for the pages of R482. -/
def Dev.irqPart (d : Dev) (page : Nat) : Option Nat :=
  match blockOf page with
  | some (.part, p) | some (.num, p) | some (.rng, p) | some (.kvp, p) => some p
  | some (.core, n) | some (.vec, n) | some (.spd, n) => d.ownerOf n
  | some (.arr, a) => d.ownerOf (a / 2)
  | _ => none

/-! ### MSI-X (R481-R483) -/

/-- R477, R478: function f exists. -/
def Pci.hasFn (c : Pci) (f : Nat) : Bool := f == 0 || (c.vfEnable && decide (f ≤ c.numVfs) && decide (f < 64))

/-- R478, R487: the device may issue requests through function f. -/
def Dev.mayRequest (d : Dev) (f : Nat) : Bool :=
  let c := d.pci.fns.getD f {}
  let ideNeeded := if f < 32 then bit (d.active pgPCI 0x044) f else bit (d.active pgPCI 0x048) (f - 32)
  d.pci.hasFn f && c.busMaster && !c.d3hot && !c.flrBusy &&
    (!ideNeeded || d.pci.ide.any (fun s => s.secure && s.covers.contains f))

/-- R483: send vector v of function f, or set its pending bit while it is masked or the function may not send (R478). -/
def Dev.sendVector (d : Dev) (f v : Nat) : Dev :=
  if d.pci.unmasked.contains (f, v) && d.mayRequest f then { d with sent := .msix f v :: d.sent }
  else if d.pci.msixPending.contains (f, v) then d
  else { d with pci := { d.pci with msixPending := (f, v) :: d.pci.msixPending } }

/-- R481: event vector v of partition p. -/
def Dev.eventVector (d : Dev) (p v : Nat) : Dev :=
  if p = 0 then d.sendVector 0 v
  else if d.pci.hasFn p then d.sendVector p v
  else d.sendVector 0 (32 * p + v)

/-- R481, R482: send the vector a page's interrupt signal is routed to. -/
def Dev.sendPageIrq (d : Dev) (page : Nat) : Dev :=
  match d.irqPart page with
  | some p => d.eventVector p (d.active (pgPART p) 0x090)
  | none => d.sendVector 0 (d.active pgPCI 0x040)

/-- A change of INT_STAT or INT_EN: the page's vector is sent when the page begins to signal. -/
def Dev.withIrqEdge (d : Dev) (page : Nat) (f : Dev → Dev) : Dev :=
  let d' := f d
  if !d.signals page && d'.signals page then d'.sendPageIrq page else d'

/-- Set bits of a page's INT_STAT. -/
def Dev.raiseBits (d : Dev) (page : Nat) (v : Word) : Dev :=
  d.withIrqEdge page (fun d => d.setReg page oIntStat (d.reg page oIntStat ||| v))

/-- Set one bit of a page's INT_STAT. -/
def Dev.raise (d : Dev) (page i : Nat) : Dev := d.raiseBits page (BitVec.ofNat 32 (1 <<< i))

end Sys2Proof.Machine
end

