-- ==== Sys2Proof/Machine/Space.lean ====
section
/-! DEFINITION. Address spaces: device addresses and regions (R59, R225-R233), partition scratchpads (R191, R192), host memory (R59, R478), shared-cache lines (R215-R219), and the byte and element accesses that everything else uses. -/

namespace Sys2Proof.Machine

/-! ### Device addresses (R59) -/

def hbmEnd : Nat := 0x00C000000000
def regionEnd : Nat := 0x00BE80000000

/-- A host address: bit 47 set (R59). -/
def isHost (a : Nat) : Bool := bit a 47 && decide (a < 2 ^ 48)

/-- R59: a valid 48-bit device address. -/
def addrValid (a : Nat) : Bool := decide (a < hbmEnd) || isHost a

/-- `n` bytes from `a` lie within the device address space. -/
def rangeValid (a n : Nat) : Bool :=
  (decide (a + n ≤ hbmEnd)) || (isHost a && decide (a + n ≤ 2 ^ 48))

/-! ### Regions (R226-R231) -/

/-- Table 8-3. -/
def fold5 (q : Nat) : Nat :=
  (q ^^^ (q >>> 5) ^^^ (q >>> 10) ^^^ (q >>> 15) ^^^ ((q >>> 20) % 8)) % 32

/-- Channels of a mask, ascending. -/
def maskChannels (m : Nat) : List Nat := setBitsOf m 384

/-- Table 8-2: how many channels a region lists. -/
def Region.channels (r : Region) : Nat :=
  match r.mode with
  | 0 => 384
  | 1 => 96
  | _ => (maskChannels r.mask).length

/-- Table 8-2: channel j of a region's list. -/
def Region.channel (r : Region) (j : Nat) : Nat :=
  match r.mode with
  | 0 => 96 * (j % 4) + 32 * (j / 4 % 3) + j / 12
  | 1 => 96 * r.die + 32 * (j % 3) + j / 3
  | _ => (maskChannels r.mask).getD j 0

/-- R229: channel and channel block of a device address inside a region. -/
def Region.place (r : Region) (a : Nat) : Nat × Nat :=
  let i := (a - r.base) / 256
  let c := r.channels
  let q := i / c
  let w := if c ≥ 32 then c / 32 else 1
  let j := (i % c + fold5 q * w) % c
  (r.channel j, r.rowBase + q)

/-- The key of a byte of a channel block: the HBM memory is kept by physical cell. -/
def cellKey (channel block byte : Nat) : Nat := (channel * 8388608 + block) * 256 + byte

def Region.holds (r : Region) (a : Nat) : Bool := decide (r.base ≤ a) && decide (a < r.base + r.size)

/-- R231: the default region. -/
def defaultRegion : Region := { base := 0, size := 762 * 2 ^ 30, mode := 0, rowBase := 0 }

/-- R233: the reserved areas that have device addresses, copy A of the journal among them. -/
def reservedRegions : List Region :=
  [{ base := 0x00BF00000000, size := 0x80000000, mode := 0, rowBase := 8323072 },
   { base := 0x00BF80000000, size := 0x40000000, mode := 0, rowBase := 8344918 },
   { base := 0x00BFC0000000, size := 0x10000000, mode := 0, rowBase := 8366764 }] ++
  (List.range 12).map (fun s =>
    { base := 0x00BFD0000000 + s * 0x04000000, size := 0x04000000, mode := 2,
      mask := (2 ^ 32 - 1) <<< (32 * s), rowBase := 8380416 })

/-- The region of a partition that holds a device address. -/
def Dev.regionOf (d : Dev) (p a : Nat) : Option Region :=
  (d.parts.getD p {}).regions.find? (fun r => r.holds a)

/-- The physical cell a partition's HBM address names, if it lies in one of its regions. -/
def Dev.cellOf (d : Dev) (p a : Nat) : Option Nat :=
  (d.regionOf p a).map (fun r => let pl := r.place a; cellKey pl.1 pl.2 (a % 256))

/-- The physical cell of an HBM address that some partition's region holds. Regions of two tables never overlap without being identical
(R230), so an address names one cell whichever partition uses it; the partition's own regions are looked at first (log entry 62). -/
def Dev.heldCell (d : Dev) (p a : Nat) : Option Nat :=
  match d.cellOf p a with
  | some c => some c
  | none => (List.range 64).findSome? (fun q => d.cellOf q a)

/-- The physical cell of an address in a reserved area. -/
def reservedCell (a : Nat) : Option Nat :=
  (reservedRegions.find? (fun r => r.holds a)).map (fun r => let pl := r.place a; cellKey pl.1 pl.2 (a % 256))

/-- The physical cell of any HBM address, whichever partition holds its region: what the physical function's aperture reaches (R479). -/
def Dev.anyCell (d : Dev) (a : Nat) : Option Nat :=
  match (List.range 64).findSome? (fun p => d.cellOf p a) with
  | some c => some c
  | none => reservedCell a

/-- R216: the home die of a physical cell. -/
def homeDie (cell : Nat) : Nat := cell / 256 / 8388608 / 96

/-! ### Host memory -/

/-- The key of a byte of function f's host memory. -/
def hostKey (f a : Nat) : Nat := f * 2 ^ 47 + a % 2 ^ 47

/-- Whether the environment makes a request fail, and how. -/
def Env.failure (env : Env) (f a n : Nat) (write : Bool) : Option HostFail :=
  let b := a % 2 ^ 47
  (env.find? (fun e => e.fn == f && (if write then e.onWrite else e.onRead) &&
    decide (e.addr < b + n) && decide (b < e.addr + e.len))).map (·.kind)

/-- The outcome of a request to host memory by partition p (R478, R484, R556). -/
def Dev.hostRequest (d : Dev) (env : Env) (p a n : Nat) (write : Bool) : Except ReadFail Unit :=
  if !d.mayRequest p then .error .notIssued
  else match Env.failure env p a n write with
    | some k => .error (.failed k)
    | none => .ok ()

/-- R484: with ATS enabled, the translations of a range of host addresses that function f uses are held; of the 4,096 entries the newest
remain (log entry 31). -/
def Dev.atcFill (d : Dev) (f a n : Nat) : Dev :=
  if n = 0 || !(d.pci.fns.getD f {}).ats || !d.mayRequest f then d
  else
    let b := a % 2 ^ 47
    let l := (List.range (min 4096 ((b + n - 1) / 4096 - b / 4096 + 1))).map (fun k => (f, b / 4096 + k))
    let all := d.pci.atc.filter (fun x => !l.contains x) ++ l
    { d with pci := { d.pci with atc := all.drop (all.length - 4096) } }

/-! ### Byte accesses by partition -/

/-- A byte of device-address space as partition p reads it; an HBM address in no region has no cell, and what it reads as is free
(log entry 62). -/
def Dev.devByte (d : Dev) (p a : Nat) : Byte :=
  if isHost a then d.host.read (hostKey p a)
  else match d.heldCell p a with
    | some c => d.hbm.read c
    | none => Config.freeByte d.fresh a

/-- Write a byte of device-address space; an HBM address in no region takes no write. -/
def Dev.setDevByte (d : Dev) (p a : Nat) (b : Byte) : Dev :=
  if isHost a then { d with host := d.host.write (hostKey p a) b }
  else match d.heldCell p a with
    | some c => { d with hbm := d.hbm.write c b }
    | none => d

/-- R191: the core and local offset of a partition scratchpad offset. -/
def Dev.spdPlace (d : Dev) (p off : Nat) : Option (Nat × Nat) :=
  let l := off % 0x2000000
  if l ≥ 0x1800000 then none
  else ((d.coresOf p)[off / 0x2000000]?).map (fun n => (n, l))

/-- The key of a byte of a core's scratchpad. -/
def spdKey (n l : Nat) : Nat := n * 0x2000000 + l

/-- A byte of the partition's scratchpad. -/
def Dev.spdByte (d : Dev) (p off : Nat) : Byte :=
  match d.spdPlace p off with
  | some (n, l) => d.spd.read (spdKey n l)
  | none => 0

def Dev.setSpdByte (d : Dev) (p off : Nat) (b : Byte) : Dev :=
  match d.spdPlace p off with
  | some (n, l) => { d with spd := d.spd.write (spdKey n l) b }
  | none => d

/-- A byte of a tensor's space. -/
def Dev.byteIn (d : Dev) (p space a : Nat) : Byte :=
  if space = 1 then d.spdByte p a else d.devByte p a

def Dev.setByteIn (d : Dev) (p space a : Nat) (b : Byte) : Dev :=
  if space = 1 then d.setSpdByte p a b else d.setDevByte p a b

/-- `n` bytes of a space. -/
def Dev.bytesIn (d : Dev) (p space : Nat) : Nat → Nat → Bytes
  | _, 0 => []
  | a, n + 1 => d.byteIn p space a :: d.bytesIn p space (a + 1) n

/-- Bytes written to a space from `a` upward. -/
def Dev.putBytesIn (d : Dev) (p space : Nat) : Nat → Bytes → Dev
  | _, [] => d
  | a, b :: bs => (d.setByteIn p space a b).putBytesIn p space (a + 1) bs

/-- Read a structure from device-reachable memory (R60, R555). -/
def Dev.readStruct (d : Dev) (env : Env) (p a n : Nat) : Except ReadFail Bytes :=
  if !rangeValid a n then .error .invalid
  else if isHost a then
    match d.hostRequest env p a n false with
    | .error e => .error e
    | .ok _ => .ok (d.bytesIn p 0 a n)
  else .ok (d.bytesIn p 0 a n)

/-- The `width`-bit code at a bit address (R131). -/
def Dev.codeAt (d : Dev) (p space bitAddr width : Nat) : Nat :=
  let lo := bitAddr / 8
  let n := (bitAddr % 8 + width + 7) / 8
  bits (leNat (d.bytesIn p space lo n)) (bitAddr % 8) width

/-- Write a code at a bit address, leaving neighbouring bits. -/
def Dev.putCode (d : Dev) (p : Nat) (w : ElemWrite) : Dev :=
  let lo := w.bitAddr / 8
  let n := (w.bitAddr % 8 + w.width + 7) / 8
  let old := leNat (d.bytesIn p w.space lo n)
  d.putBytesIn p w.space lo (toLe n (setBits old (w.bitAddr % 8) w.width w.code))

/-! ### Shared-cache lines (R215-R219) -/

/-- R215: the set of a line. -/
def lineSet (line : Nat) : Nat := (line % 16384) ^^^ ((line / 16384) % 16384)

/-- R217: the ways of a partition on a die. -/
def Dev.waysOf (d : Dev) (die p : Nat) : List Nat :=
  let m := d.active (pgSHC die) (0x080 + 4 * (p / 2))
  setBitsOf (m >>> (16 * (p % 2))) 16

/-- A lookup of a line by partition p: hits mark it dirty on a write; a miss allocates in a free way of the partition's mask, or
replaces the line its ways have held longest, writing it back if it is dirty. -/
def Dev.touchLine (d : Dev) (p die line : Nat) (write : Bool) : Dev :=
  if d.lines.any (fun l => l.line == line) then
    let mark (l : CacheLine) : CacheLine := if l.line = line then { l with dirty := l.dirty || write } else l
    ({ d with lines := d.lines.map mark } : Dev).bumpWide (pgSHC die) 0x800 1
  else
    let d := d.bumpWide (pgSHC die) 0x808 1
    let ways := d.waysOf die p
    let held := d.lines.filter (fun l => l.die == die && lineSet l.line == lineSet line)
    match ways.find? (fun w => !held.any (fun l => l.way == w)) with
    | some w => { d with lines := d.lines ++ [⟨die, line, w, write⟩] }
    | none =>
      match held.find? (fun l => ways.contains l.way) with
      | none => d
      | some v =>
        let d := if v.dirty then d.bump (pgSHC die) 0x810 1 else d
        { d with lines := d.lines.filter (· != v) ++ [⟨die, line, v.way, write⟩] }

/-! ### Scratchpad tags (R200-R204) -/

def tagKey (n slot : Nat) : Nat := n * 98304 + slot

def Dev.tag (d : Dev) (n slot : Nat) : SlotTag := assocGet {} d.tags (tagKey n slot)

def Dev.setTag (d : Dev) (n slot : Nat) (t : SlotTag) : Dev :=
  { d with tags := assocSet {} (tagKey n slot) t d.tags }

/-- R201: a slot lies in an enabled tagged region of its core. -/
def Dev.inTagRegion (d : Dev) (n slot : Nat) : Bool :=
  (List.range 8).any (fun i =>
    let b := d.active (pgSPD n) (0x048 + 8 * i)
    let l := d.active (pgSPD n) (0x04C + 8 * i)
    bit b 31 && decide (bits b 0 17 ≤ slot) && decide (slot ≤ bits l 0 17))

/-- A core's scratchpad zeroed with every tag EMPTY and SEQ 0 (R193). -/
def Dev.zeroCore (d : Dev) (n : Nat) : Dev :=
  { d with spd := d.spd.zero (spdKey n 0) 0x2000000,
           tags := d.tags.filter (fun t => t.1 / 98304 != n) }

end Sys2Proof.Machine
end

