-- ==== Sys2Proof/Machine/Log.lean ====
section
/-! DEFINITION. The error log: writing, coalescing and the bytes of an entry (R503-R506). -/

namespace Sys2Proof.Machine

/-- Table 18-5: the 64 bytes of an entry. -/
def LogEntry.bytes (e : LogEntry) : Bytes :=
  toLe 4 e.seq ++ toLe 8 e.tick ++ toLe 1 e.cls ++ toLe 1 e.severity ++ toLe 2 e.source ++ toLe 1 e.part ++
  toLe 1 e.space ++ toLe 2 e.count ++ toLe 4 e.cmdId ++ toLe 1 e.queue ++ toLe 1 0 ++ toLe 6 e.addr ++
  (e.detail ++ List.replicate 32 0).take 32

/-- R504: two entries are joined. -/
def LogEntry.joins (e f : LogEntry) : Bool :=
  decide (e.severity ≤ 1) && decide (f.severity ≤ 1) && e.cls == f.cls && e.source == f.source && e.part == f.part &&
  e.tick == f.tick

/-- Keep the last `n` of a list. -/
def lastN {α : Type} (n : Nat) (l : List α) : List α := l.drop (l.length - n)

/-- Write an entry: joined to an earlier one of its window, or appended with the next sequence number (R503, R504), copied to flash from
severity 4 up (R505), with `MGT.INT_STAT.ELOG` raised. -/
def Dev.log (d : Dev) (e : LogEntry) : Dev :=
  let e := { e with tick := d.tick.count }
  if d.elog.any (fun f => f.joins e) then
    let join (f : LogEntry) : LogEntry := if f.joins e then { f with count := satAdd 16 f.count 1 } else f
    { d with elog := d.elog.map join }
  else
    let e := { e with seq := d.elogSeq }
    let d := { d with elog := lastN (if d.elogRing then 4096 else 64) (d.elog ++ [e]),
                      elogSeq := (d.elogSeq + 1) % 2 ^ 32,
                      flashLog := if e.severity ≥ 4 then lastN 256 (d.flashLog ++ [e]) else d.flashLog }
    d.raise pgMGT 2

/-- The sequence number that the entry about to be written will have, or that of the entry it will join. -/
def Dev.logSeq (d : Dev) (e : LogEntry) : Nat :=
  let e := { e with tick := d.tick.count }
  match d.elog.find? (fun f => f.joins e) with
  | some f => f.seq
  | none => d.elogSeq

/-- R506: the entry a SEQ names, if it is in the ring. -/
def Dev.logAt (d : Dev) (seq : Nat) : Option LogEntry := d.elog.find? (fun e => e.seq == seq)

/-- A HOST_REQUEST entry (Table 18-6): function, cause and address. -/
def hostEntry (f cause addr severity part cmdId queue : Nat) : LogEntry :=
  { cls := 0x0A, severity := severity, source := pgPCI, part := part, space := 3, cmdId := cmdId, queue := queue,
    addr := addr % 2 ^ 47, detail := [BitVec.ofNat 8 f, BitVec.ofNat 8 cause] }

/-- The cause byte of a failed host request: 0 error or timeout, 1 translation (Table 18-6). -/
def ReadFail.cause : ReadFail → Nat
  | .failed .translation => 1
  | _ => 0

/-- The counters and interrupts of a request not issued or not translated: `PART.INT_STAT.HOST_REQUEST_FAILED`,
`PCI.TRANSLATION_FAULTS` and `PCI.INT_STAT.TRANSLATION_FAULT` (R478, R484, Table 17-4). -/
def Dev.hostRefused (d : Dev) (p : Nat) (e : ReadFail) : Dev :=
  match e with
  | .notIssued => d.raise (pgPART p) 13
  | .failed .translation => ((d.bump pgPCI 0x818 1).raise pgPCI 3).raise (pgPART p) 13
  | _ => d

end Sys2Proof.Machine
end

