-- ==== Sys2Proof/Machine/Fp.lean ====
section
/-! DEFINITION. Encodings and exact arithmetic of the floating formats, rounding, conversion between formats and subnormal flushing (R126-R132, R154-R162). -/

namespace Sys2Proof.Machine

/-! ### Formats -/

/-- Table 5-1: the format a code names. -/
def Fmt.ofCode : Nat → Option Fmt
  | 0x01 => some .fp32 | 0x02 => some .bf16 | 0x03 => some .fp16
  | 0x04 => some .e4m3 | 0x05 => some .e5m2
  | 0x08 => some .mxE4m3 | 0x09 => some .mxE5m2 | 0x0A => some .mxE3m2
  | 0x0B => some .mxE2m3 | 0x0C => some .mxFp4 | 0x0D => some .mxInt8
  | 0x10 => some .int32 | 0x11 => some .int8 | 0x12 => some .uint8
  | 0x13 => some .int4 | 0x14 => some .int2 | 0x15 => some .tern2
  | 0x16 => some .bin1 | 0x18 => some .lut4 | 0x19 => some .lut2
  | 0x20 => some .fp32x2 | 0x21 => some .cf32
  | _ => none

/-- Table 5-1: the code of a format. -/
def Fmt.code : Fmt → Nat
  | .fp32 => 0x01 | .bf16 => 0x02 | .fp16 => 0x03 | .e4m3 => 0x04 | .e5m2 => 0x05
  | .mxE4m3 => 0x08 | .mxE5m2 => 0x09 | .mxE3m2 => 0x0A | .mxE2m3 => 0x0B
  | .mxFp4 => 0x0C | .mxInt8 => 0x0D
  | .int32 => 0x10 | .int8 => 0x11 | .uint8 => 0x12 | .int4 => 0x13 | .int2 => 0x14
  | .tern2 => 0x15 | .bin1 => 0x16 | .lut4 => 0x18 | .lut2 => 0x19
  | .fp32x2 => 0x20 | .cf32 => 0x21

/-- Bits per stored element (Table 5-1). -/
def Fmt.width : Fmt → Nat
  | .fp32 | .int32 => 32
  | .bf16 | .fp16 => 16
  | .e4m3 | .e5m2 | .mxE4m3 | .mxE5m2 | .mxInt8 | .int8 | .uint8 => 8
  | .mxE3m2 | .mxE2m3 => 6
  | .mxFp4 | .int4 | .lut4 => 4
  | .int2 | .tern2 | .lut2 => 2
  | .bin1 => 1
  | .fp32x2 | .cf32 => 64

/-- Elements of one packing group and its bytes (R131). -/
def Fmt.group (f : Fmt) : Nat × Nat :=
  match f.width with
  | 6 => (4, 3)
  | 4 => (2, 1)
  | 2 => (4, 1)
  | 1 => (8, 1)
  | w => (1, w / 8)

/-- The six microscaling formats (R133). -/
def Fmt.isMx : Fmt → Bool
  | .mxE4m3 | .mxE5m2 | .mxE3m2 | .mxE2m3 | .mxFp4 | .mxInt8 => true
  | _ => false

/-- The formats that take a companion tensor (R69). -/
def Fmt.takesCompanion (f : Fmt) : Bool :=
  f.isMx || f == .lut4 || f == .lut2 || f == .int4 || f == .int2

/-- The integer and ternary formats of R140. -/
def Fmt.isIntOperand : Fmt → Bool
  | .int8 | .uint8 | .int4 | .int2 | .tern2 | .bin1 => true
  | _ => false

/-- Table 5-1, column Activation: formats of the streamed operand of MATMUL and CONV. -/
def Fmt.okActivation : Fmt → Bool
  | .fp32 | .bf16 | .fp16 | .e4m3 | .e5m2
  | .mxE4m3 | .mxE5m2 | .mxE3m2 | .mxE2m3 | .mxFp4 | .mxInt8 | .int8 | .uint8 => true
  | _ => false

/-- Table 5-1, column Weight. -/
def Fmt.okWeight : Fmt → Bool
  | .int32 | .fp32x2 | .cf32 => false
  | _ => true

/-- Table 5-1, column Output, for an epilogue; INT32 only for an integer chain. -/
def Fmt.okOutput (f : Fmt) (integerChain : Bool) : Bool :=
  match f with
  | .int32 => integerChain
  | .int4 | .int2 | .tern2 | .bin1 | .lut4 | .lut2 | .cf32 => false
  | _ => true

/-- The four narrow floating formats that many positions take (R297, R338, GEOM). -/
def Fmt.isStream4 : Fmt → Bool
  | .bf16 | .fp16 | .e4m3 | .e5m2 => true
  | _ => false

/-- Formats of stream elements and vectors (R293). -/
def Fmt.isStream5 (f : Fmt) : Bool := f == .fp32 || f.isStream4

def fp32Spec : FpSpec := ⟨8, 23, 127, 0⟩
def bf16Spec : FpSpec := ⟨8, 7, 127, 0⟩
def fp16Spec : FpSpec := ⟨5, 10, 15, 0⟩
def e4m3Spec : FpSpec := ⟨4, 3, 7, 1⟩
def e5m2Spec : FpSpec := ⟨5, 2, 15, 0⟩
def e3m2Spec : FpSpec := ⟨3, 2, 3, 2⟩
def e2m3Spec : FpSpec := ⟨2, 3, 1, 2⟩
def e2m1Spec : FpSpec := ⟨2, 1, 1, 2⟩

/-- The floating encoding of a format or of an MX format's elements (Table 5-2). -/
def Fmt.spec : Fmt → Option FpSpec
  | .fp32 => some fp32Spec | .bf16 => some bf16Spec | .fp16 => some fp16Spec
  | .e4m3 | .mxE4m3 => some e4m3Spec
  | .e5m2 | .mxE5m2 => some e5m2Spec
  | .mxE3m2 => some e3m2Spec | .mxE2m3 => some e2m3Spec | .mxFp4 => some e2m1Spec
  | _ => none

/-- The NaN code the device writes (Table 5-2, R129). -/
def FpSpec.nanCode (f : FpSpec) : Nat :=
  if f.specials = 1 then 2 ^ (f.expBits + f.manBits) - 1
  else (2 ^ f.expBits - 1) * 2 ^ f.manBits + 2 ^ (f.manBits - 1)

/-- The exponent of the unit in the last place of the subnormals: `1 - bias - m`. -/
def FpSpec.minUlp (f : FpSpec) : Int := 1 - f.bias - (f.manBits : Int)

/-- The largest finite value as significand and exponent of its last place (Table 5-2). -/
def FpSpec.largest (f : FpSpec) : Nat × Int :=
  let top : Nat := if f.specials = 0 then 2 ^ f.expBits - 2 else 2 ^ f.expBits - 1
  let sig : Nat := if f.specials = 1 then 2 ^ (f.manBits + 1) - 2 else 2 ^ (f.manBits + 1) - 1
  (sig, (top : Int) - f.bias - (f.manBits : Int))

/-- R128: the value of a code. -/
def fpDecode (f : FpSpec) (c : Nat) : Val :=
  let neg := bit c (f.expBits + f.manBits)
  let ex := bits c f.manBits f.expBits
  let ma := bits c 0 f.manBits
  let topEx := 2 ^ f.expBits - 1
  if f.specials = 0 && ex == topEx then
    if ma = 0 then .inf neg else .nan
  else if f.specials = 1 && ex == topEx && ma == 2 ^ f.manBits - 1 then .nan
  else if ex = 0 then .fin neg ma f.minUlp
  else .fin neg (2 ^ f.manBits + ma) ((ex : Int) - f.bias - (f.manBits : Int))

/-! ### Exact arithmetic -/

/-- The value of an integer. -/
def Val.ofInt (x : Int) : Val := .fin (x < 0) x.natAbs 0

def Val.zero : Val := .fin false 0 0
def Val.one : Val := .fin false 1 0

/-- The sign, with NaN counted as positive (R129). -/
def Val.neg? : Val → Bool
  | .nan => false
  | .inf s => s
  | .fin s _ _ => s

def Val.isNan : Val → Bool
  | .nan => true
  | _ => false

def Val.isFinite : Val → Bool
  | .fin _ _ _ => true
  | _ => false

def Val.isZero : Val → Bool
  | .fin _ m _ => m == 0
  | _ => false

/-- Sign change. -/
def Val.negate : Val → Val
  | .nan => .nan
  | .inf s => .inf (!s)
  | .fin s m e => .fin (!s) m e

/-- Magnitude. -/
def Val.abs : Val → Val
  | .nan => .nan
  | .inf _ => .inf false
  | .fin _ m e => .fin false m e

/-- The exact product (R144: 0 × ∞ is NaN). -/
def Val.mul : Val → Val → Val
  | .nan, _ => .nan
  | _, .nan => .nan
  | .inf s, .inf t => .inf (s != t)
  | .inf s, .fin t m _ => if m = 0 then .nan else .inf (s != t)
  | .fin s m _, .inf t => if m = 0 then .nan else .inf (s != t)
  | .fin s m e, .fin t n f => .fin (s != t) (m * n) (e + f)

/-- A finite value as a signed integer at a common exponent. -/
def scaled (s : Bool) (m : Nat) (e base : Int) : Int :=
  let x : Int := ((m <<< (e - base).toNat : Nat) : Int)
  if s then -x else x

/-- The exact sum, with IEEE signs of zero under round-to-nearest (R144). -/
def Val.add : Val → Val → Val
  | .nan, _ => .nan
  | _, .nan => .nan
  | .inf s, .inf t => if s = t then .inf s else .nan
  | .inf s, .fin _ _ _ => .inf s
  | .fin _ _ _, .inf t => .inf t
  | .fin s m e, .fin t n f =>
    if m = 0 && n = 0 then .fin (s && t) 0 0
    else if m = 0 then .fin t n f
    else if n = 0 then .fin s m e
    else
      let base := min e f
      let x := scaled s m e base + scaled t n f base
      if x = 0 then .fin false 0 0 else .fin (x < 0) x.natAbs base

def Val.sub (a b : Val) : Val := a.add b.negate

/-- Exact comparison of two values that are not NaN: `a < b`. -/
def Val.lt : Val → Val → Bool
  | .nan, _ => false
  | _, .nan => false
  | .inf s, .inf t => s && !t
  | .inf s, .fin _ _ _ => s
  | .fin _ _ _, .inf t => !t
  | .fin s m e, .fin t n f =>
    let base := min e f
    scaled s m e base < scaled t n f base

/-- Equality of values, false with NaN; +0 equals −0. -/
def Val.eqv (a b : Val) : Bool :=
  !a.isNan && !b.isNan && !a.lt b && !b.lt a

/-- Position of the leading one: `floor(log2 m)`, 0 for 0. -/
def lead (m : Nat) : Nat := Nat.log2 m

/-- `floor(log2 |v|)` of a nonzero finite value. -/
def Val.exponent : Val → Int
  | .fin _ m e => (lead m : Int) + e
  | _ => 0

/-! ### Rounding -/

/-- `m / 2^sh` rounded under ROUND (R155, R156): 0 nearest-even, 1 toward zero, 2 stochastic with 16-bit draw `u`. -/
def roundShift (round u m sh : Nat) : Nat :=
  let q := m >>> sh
  let r := m - (q <<< sh)
  match round with
  | 0 =>
    let half := if sh = 0 then 1 else 1 <<< (sh - 1)
    if sh = 0 then q
    else if r > half then q + 1
    else if r = half then q + q % 2
    else q
  | 1 => q
  | _ => if (r <<< 16) >>> sh + u ≥ 65536 then q + 1 else q

/-- The magnitude `m * 2^e` in units of `2^ulp`, rounded. -/
def roundAt (round u m : Nat) (e ulp : Int) : Nat :=
  if e ≥ ulp then m <<< (e - ulp).toNat else roundShift round u m (ulp - e).toNat

/-- A nonzero magnitude rounded to a format's precision as if the exponent range were unbounded above (R157): the
significand and the exponent of its last place. -/
def roundSig (f : FpSpec) (round u m : Nat) (e : Int) : Nat × Int :=
  let ulp := max ((lead m : Int) + e - (f.manBits : Int)) f.minUlp
  (roundAt round u m e ulp, ulp)

/-- The code of `sig * 2^ulp`, where `sig` is at most `2^(m+1)`. -/
def fpPack (f : FpSpec) (neg : Bool) (sig : Nat) (ulp : Int) : Nat :=
  let s := b2n neg <<< (f.expBits + f.manBits)
  let p := if sig ≥ 2 ^ (f.manBits + 1) then (sig / 2, ulp + 1) else (sig, ulp)
  if p.1 < 2 ^ f.manBits then s + p.1
  else s + ((p.2 + (f.manBits : Int) + f.bias).toNat <<< f.manBits) + (p.1 - 2 ^ f.manBits)

/-- Whether `sig * 2^ulp` exceeds the format's largest finite magnitude. -/
def FpSpec.overflows (f : FpSpec) (sig : Nat) (ulp : Int) : Bool :=
  let top := f.largest
  let base := min ulp top.2
  decide ((sig <<< (ulp - base).toNat) > (top.1 <<< (top.2 - base).toNat))

/-- The code of the largest finite magnitude. -/
def FpSpec.largestCode (f : FpSpec) (neg : Bool) : Nat :=
  fpPack f neg f.largest.1 f.largest.2

/-- The code of an infinity (formats with infinities). -/
def FpSpec.infCode (f : FpSpec) (neg : Bool) : Nat :=
  (b2n neg <<< (f.expBits + f.manBits)) + ((2 ^ f.expBits - 1) <<< f.manBits)

/-- The code of a zero. -/
def FpSpec.zeroCode (f : FpSpec) (neg : Bool) : Nat := b2n neg <<< (f.expBits + f.manBits)

/-- Raise flags. -/
def raise (g : NumFlags) : Num Unit :=
  modify fun f => ⟨f.flushed || g.flushed, f.saturated || g.saturated, f.nanProduced || g.nanProduced, f.waits || g.waits⟩

def raiseFlush : Num Unit := raise { flushed := true }
def raiseSat : Num Unit := raise { saturated := true }
def raiseNan : Num Unit := raise { nanProduced := true }
def raiseWait : Num Unit := raise { waits := true }

/-- The join of two sets of flags. -/
def NumFlags.or (f g : NumFlags) : NumFlags :=
  ⟨f.flushed || g.flushed, f.saturated || g.saturated, f.nanProduced || g.nanProduced, f.waits || g.waits⟩

/-- A finite nonzero value below the smallest normal of its format is written as zero under FTZ (R162). -/
def flushPack (f : FpSpec) (ftz neg : Bool) (sig : Nat) (ulp : Int) : Num Nat :=
  if ftz && sig ≠ 0 && sig < 2 ^ f.manBits then do
    raiseFlush
    return f.zeroCode neg
  else return fpPack f neg sig ulp

/-- An FP32 step: the exact value rounded once to nearest-even, gradual underflow or FTZ, overflow to an infinity,
NaN as 0x7FC0_0000 (R142, R161, R162, R285). -/
def rnd32 (ftz : Bool) (v : Val) : Num Word :=
  match v with
  | .nan => return BitVec.ofNat 32 fp32Spec.nanCode
  | .inf s => return BitVec.ofNat 32 (fp32Spec.infCode s)
  | .fin s m e =>
    if m = 0 then return BitVec.ofNat 32 (fp32Spec.zeroCode s)
    else
      let p := roundSig fp32Spec 0 0 m e
      if fp32Spec.overflows p.1 p.2 then return BitVec.ofNat 32 (fp32Spec.infCode s)
      else do
        let c ← flushPack fp32Spec ftz s p.1 p.2
        return BitVec.ofNat 32 c

/-- The value of an FP32 word. -/
def val32 (w : Word) : Val := fpDecode fp32Spec w.toNat

/-- Table 5-7: a value converted to a floating format under ROUND, FP8_SAT and FTZ, with the 16-bit draw `u`. -/
def toFloat (f : FpSpec) (md : NumMode) (u : Nat) (v : Val) : Num Nat :=
  let big (s : Bool) (trunc : Bool) : Num Nat :=
    if f.specials = 1 || f.manBits = 2 then
      if md.fp8Sat || (trunc && md.round == 1) then do
        raiseSat
        return f.largestCode s
      else if f.specials = 1 then do
        raiseNan
        return f.nanCode
      else return f.infCode s
    else if trunc && md.round == 1 then do
      raiseSat
      return f.largestCode s
    else return f.infCode s
  match v with
  | .nan => do
    raiseNan
    return f.nanCode
  | .inf s => big s false
  | .fin s m e =>
    if m = 0 then return f.zeroCode s
    else
      let p := roundSig f md.round u m e
      if f.overflows p.1 p.2 then big s true
      else flushPack f md.ftz s p.1 p.2

/-- R136 step 5 for a floating element: magnitudes above the largest are written as the largest with SATURATED;
MX elements are never flushed (R162). -/
def toMxElement (f : FpSpec) (round u : Nat) (v : Val) : Num Nat :=
  match v with
  | .fin s m e =>
    if m = 0 then return f.zeroCode s
    else
      let p := roundSig f round u m e
      if f.overflows p.1 p.2 then do
        raiseSat
        return f.largestCode s
      else return fpPack f s p.1 p.2
  | _ => return 0

/-- The range of an integer format (Table 5-3). -/
def Fmt.intRange : Fmt → Int × Int
  | .int32 => (-2147483648, 2147483647)
  | .int8 => (-128, 127)
  | .uint8 => (0, 255)
  | .int4 => (-8, 7)
  | .int2 => (-2, 1)
  | .tern2 => (-1, 1)
  | _ => (-1, 1)

/-- R158: a value rounded under ROUND to an integer and clamped to a range; a clamp or a NaN sets SATURATED. -/
def toIntRange (lo hi : Int) (round u : Nat) (v : Val) : Num Int :=
  match v with
  | .nan => do
    raiseSat
    return 0
  | .inf s => do
    raiseSat
    return if s then lo else hi
  | .fin s m e =>
    let q : Int := (roundAt round u m e 0 : Nat)
    let x := if s then -q else q
    if x < lo then do
      raiseSat
      return lo
    else if x > hi then do
      raiseSat
      return hi
    else return x

/-- R136 for MXINT8 elements: an INT8 value in units of 2^-6, bounds by sign. -/
def toMxInt8 (round u : Nat) (v : Val) : Num Nat := do
  let x ← toIntRange (-128) 127 round u (v.mul (.fin false 64 0))
  return ofSigned 8 x

/-- The code of an integer in its format (Table 5-3). -/
def Fmt.intCode (f : Fmt) (x : Int) : Nat :=
  match f with
  | .bin1 => if x > 0 then 1 else 0
  | _ => ofSigned f.width x

/-- The value of an integer code (Table 5-3; TERN2 0b10 reads as 0). -/
def Fmt.intOfCode (f : Fmt) (c : Nat) : Int :=
  match f with
  | .uint8 => (c : Int)
  | .bin1 => if c = 1 then 1 else -1
  | .tern2 => if c = 2 then 0 else toSigned 2 c
  | _ => toSigned f.width c

/-- The exact value of an FP32X2 code: hi + lo (R132). -/
def valPair (c : Nat) : Val :=
  (val32 (BitVec.ofNat 32 c)).add (val32 (BitVec.ofNat 32 (c >>> 32)))

/-- R159: an FP32X2 pair holding a value: hi rounded to nearest-even, lo the remainder rounded to nearest-even. -/
def toPair (ftz : Bool) (v : Val) : Num Nat := do
  let hi ← rnd32 ftz v
  let lo ←
    match val32 hi with
    | .nan => do
      raiseNan
      rnd32 ftz .nan
    | .inf _ => pure Config.pairLoOfInf
    | .fin s m e => rnd32 ftz (v.sub (.fin s m e))
  return hi.toNat + (lo.toNat <<< 32)

/-- R154-R159: a value converted to the code of any destination but an MX, table or CF32 format. `u` is the element's
draw under stochastic rounding. -/
def convertTo (f : Fmt) (md : NumMode) (u : Nat) (v : Val) : Num Nat :=
  match f with
  | .fp32x2 => toPair md.ftz v
  | .bin1 =>
    match v with
    | .nan => do
      raiseSat
      return 1
    | w => return if w.neg? then 0 else 1
  | .int32 | .int8 | .uint8 | .int4 | .int2 | .tern2 => do
    let x ← toIntRange f.intRange.1 f.intRange.2 md.round u v
    return f.intCode x
  | _ =>
    match f.spec with
    | some sp => toFloat sp md u v
    | none => return 0

/-- An input code read as its exact value: under FTZ a subnormal of a floating format reads as zero of its sign and
sets FLUSHED (R162). MX element codes are read apart (R133). -/
def readCode (ftz : Bool) (f : Fmt) (c : Nat) : Num Val :=
  let flushed (sp : FpSpec) (c : Nat) : Num Val :=
    match fpDecode sp c with
    | .fin s m e =>
      if ftz && m ≠ 0 && m < 2 ^ sp.manBits then do
        raiseFlush
        return .fin s 0 0
      else return .fin s m e
    | v => return v
  match f with
  | .fp32x2 => do
    let h ← flushed fp32Spec (bits c 0 32)
    let l ← flushed fp32Spec (bits c 32 32)
    return h.add l
  | .fp32 | .bf16 | .fp16 | .e4m3 | .e5m2 =>
    match f.spec with
    | some sp => flushed sp c
    | none => return .nan
  | .int32 | .int8 | .uint8 | .int4 | .int2 | .tern2 | .bin1 => return .ofInt (f.intOfCode c)
  | _ => return .nan

/-! ### FP32 operations on words (R285) -/

def fadd (ftz : Bool) (a b : Word) : Num Word := rnd32 ftz ((val32 a).add (val32 b))
def fsub (ftz : Bool) (a b : Word) : Num Word := rnd32 ftz ((val32 a).sub (val32 b))
def fmul (ftz : Bool) (a b : Word) : Num Word := rnd32 ftz ((val32 a).mul (val32 b))
def ffma (ftz : Bool) (a b c : Word) : Num Word :=
  rnd32 ftz (((val32 a).mul (val32 b)).add (val32 c))

/-- The exact quotient of magnitudes with a sticky bit: enough bits that one rounding to FP32 is the exact rounding. -/
def divSticky (m n : Nat) (e : Int) : Nat × Int :=
  let k := 64 + lead n
  let q := (m <<< k) / n
  let r := (m <<< k) % n
  (2 * q + (if r = 0 then 0 else 1), e - k - 1)

/-- IEEE 754 division, exact before rounding up to a sticky bit (Table 10-2 DIV). -/
def Val.div : Val → Val → Val
  | .nan, _ => .nan
  | _, .nan => .nan
  | .inf _, .inf _ => .nan
  | .inf s, .fin t _ _ => .inf (s != t)
  | .fin s _ _, .inf t => .fin (s != t) 0 0
  | .fin s m e, .fin t n f =>
    if n = 0 then (if m = 0 then .nan else .inf (s != t))
    else if m = 0 then .fin (s != t) 0 0
    else
      let p := divSticky m n (e - f)
      .fin (s != t) p.1 p.2

/-- One bit of the integer square root: `n` bits remain, `r` is the root so far. -/
def isqrtBits (x : Nat) : Nat → Nat → Nat
  | 0, r => r
  | n + 1, r =>
    let c := r + 2 ^ n
    if c * c ≤ x then isqrtBits x n c else isqrtBits x n r

/-- The integer square root. -/
def isqrt (x : Nat) : Nat := isqrtBits x (lead x / 2 + 1) 0

/-- Square root with a sticky bit, exact before rounding (Table 10-2 SQRT). -/
def Val.sqrt : Val → Val
  | .nan => .nan
  | .inf s => if s then .nan else .inf false
  | .fin s m e =>
    if m = 0 then .fin s 0 0
    else if s then .nan
    else
      let odd := e % 2
      let n := m <<< (128 + odd.toNat)
      let r := isqrt n
      .fin false (2 * r + (if r * r = n then 0 else 1)) ((e - odd) / 2 - 65)

def fdiv (ftz : Bool) (a b : Word) : Num Word := rnd32 ftz ((val32 a).div (val32 b))
def fsqrt (ftz : Bool) (a : Word) : Num Word := rnd32 ftz (val32 a).sqrt

/-- MAX of Table 10-2: NaN in either input gives NaN; max(−0, +0) = +0. -/
def fmax (a b : Word) : Word :=
  let x := val32 a
  let y := val32 b
  if x.isNan || y.isNan then BitVec.ofNat 32 fp32Spec.nanCode
  else if x.lt y then b
  else if y.lt x then a
  else if x.neg? then b else a

/-- MIN of Table 10-2: min(−0, +0) = −0. -/
def fmin (a b : Word) : Word :=
  let x := val32 a
  let y := val32 b
  if x.isNan || y.isNan then BitVec.ofNat 32 fp32Spec.nanCode
  else if x.lt y then a
  else if y.lt x then b
  else if x.neg? then a else b

/-- Largest integer value not above a value, keeping zeros and infinities. -/
def Val.floor : Val → Val
  | .fin s m e =>
    if e ≥ 0 || m = 0 then .fin s m e
    else
      let sh := (-e).toNat
      let q := m >>> sh
      let r := m - (q <<< sh)
      let q' := if s && r ≠ 0 then q + 1 else q
      .fin s q' 0
  | v => v

/-- `+0.0` and `1.0` as words. -/
def w0 : Word := 0x00000000#32
def w1 : Word := 0x3F800000#32
def wNan : Word := 0x7FC00000#32
def wInf : Word := 0x7F800000#32
def wNegInf : Word := 0xFF800000#32

end Sys2Proof.Machine
end

