-- ==== Sys2Proof/Machine/Transc.lean ====
section
/-! DEFINITION. The transcendental functions of Table 10-4, correctly rounded by enclosures in 256-bit fixed point (R290), and the reduction order of R289. -/

namespace Sys2Proof.Machine

/-- Fractional bits of the fixed-point enclosures. -/
def fxBits : Nat := 256

def fxOne : Nat := 2 ^ fxBits

/-- Bound on the error of every fixed-point evaluation below, in units of the last place: each sums at most 200 terms, each within a
few units, scaled by at most 2^24. -/
def fxErr : Nat := 2 ^ 48

def fxMul (a b : Nat) : Nat := (a * b) >>> fxBits

/-- `atan(1/k)` or, with `hyper`, `atanh(1/k)`: `n` terms from index `i`, `pw` being `1/k^(2i+1)`. -/
def atanSeries (hyper : Bool) (k2 : Nat) : Nat → Nat → Nat → Int → Int
  | 0, _, _, acc => acc
  | n + 1, i, pw, acc =>
    let t : Int := (pw / (2 * i + 1) : Nat)
    atanSeries hyper k2 n (i + 1) (pw / k2) (if hyper || i % 2 == 0 then acc + t else acc - t)

def fxLn2 : Nat := (2 * atanSeries true 9 90 0 (fxOne / 3) 0).toNat

def fxPi : Nat :=
  (16 * atanSeries false 25 60 0 (fxOne / 5) 0 - 4 * atanSeries false 57121 20 0 (fxOne / 239) 0).toNat

/-- The exponential series: `n` terms from index `i`, `t` being the term before. -/
def expSeries (x : Nat) : Nat → Nat → Nat → Nat → Nat
  | 0, _, _, acc => acc
  | n + 1, i, t, acc =>
    let t' := fxMul t x / i
    expSeries x n (i + 1) t' (acc + t')

/-- Sine (from the first power) or cosine (from the zeroth) by alternating terms: `t` is the last term, of power `i`. -/
def trigSeries (x2 : Nat) : Nat → Nat → Nat → Bool → Int → Int
  | 0, _, _, _, acc => acc
  | n + 1, i, t, minus, acc =>
    let t' := fxMul t x2 / ((i + 1) * (i + 2))
    trigSeries x2 n (i + 2) t' (!minus) (if minus then acc - (t' : Int) else acc + (t' : Int))

/-- The error-function series: `t` is `x^(2i+1)/i!`. -/
def erfSeries (x2 : Nat) : Nat → Nat → Nat → Int → Int
  | 0, _, _, acc => acc
  | n + 1, i, t, acc =>
    let q : Int := (t / (2 * i + 1) : Nat)
    erfSeries x2 n (i + 1) (fxMul t x2 / (i + 1)) (if i % 2 = 0 then acc + q else acc - q)

/-- Round an enclosure `v ± fxErr` (times `2^e`) to FP32: the result when both ends round alike, else the undecided constant of
the function and argument. -/
def fxRound (ftz : Bool) (fn : Nat) (arg : Word) (neg : Bool) (v : Nat) (e : Int) : Num Word := do
  let lo ← rnd32 ftz (.fin neg (v - fxErr) e)
  let hi ← rnd32 ftz (.fin neg (v + fxErr) e)
  return if lo = hi then lo else Config.undecided fn arg

/-- A finite value's magnitude in fixed point: exact for every FP32 value below 2^128. -/
def toFx (m : Nat) (e : Int) : Nat :=
  let k := e + (fxBits : Int)
  if k ≥ 0 then m <<< k.toNat else m >>> (-k).toNat

def exp2W (ftz : Bool) (a : Word) : Num Word :=
  match val32 a with
  | .nan => return wNan
  | .inf s => return if s then w0 else wInf
  | .fin s m e =>
    if m = 0 then return w1
    else if !s && lead m + e ≥ 7 then return wInf
    else if s && (lead m : Int) + e ≥ 8 then rnd32 ftz (.fin false 1 (-400))
    else
      let fx := toFx m e
      let ip := fx / fxOne
      let fr := fx % fxOne
      -- x = k + f with 0 ≤ f < 1
      let k : Int := if s then (if fr = 0 then -(ip : Int) else -(ip : Int) - 1) else ip
      let f := if s then (if fr = 0 then 0 else fxOne - fr) else fr
      if f = 0 then rnd32 ftz (.fin false 1 k)
      else fxRound ftz 0x28 a false (expSeries (fxMul f fxLn2) 80 1 fxOne fxOne) (k - fxBits)

def log2W (ftz : Bool) (a : Word) : Num Word :=
  match val32 a with
  | .nan => return wNan
  | .inf s => return if s then wNan else wInf
  | .fin s m e =>
    if m = 0 then return wNegInf
    else if s then return wNan
    else
      let l := lead m
      let ex : Int := l + e
      let y := m <<< (fxBits - l)
      if y = fxOne then rnd32 ftz (Val.ofInt ex)
      else
        let big := decide (y > fxOne + fxOne / 2)
        let num : Nat := if big then 2 * fxOne - y else y - fxOne
        let den : Nat := if big then 2 * fxOne + y else y + fxOne
        let z := num * fxOne / den
        let z2 := fxMul z z
        let rec go : Nat → Nat → Nat → Nat → Nat
          | 0, _, _, acc => acc
          | n + 1, i, pw, acc => go n (i + 1) (fxMul pw z2) (acc + pw / (2 * i + 1))
        let q := (2 * go 90 0 z 0) * fxOne / fxLn2
        let total : Int := if big then (ex + 1) * (fxOne : Int) - (q : Int) else ex * (fxOne : Int) + (q : Int)
        fxRound ftz 0x29 a (total < 0) total.natAbs (-fxBits)

def rcpW (ftz : Bool) (a : Word) : Num Word := rnd32 ftz (Val.one.div (val32 a))

def rsqrtW (ftz : Bool) (a : Word) : Num Word :=
  match val32 a with
  | .nan => return wNan
  | .inf s => return if s then wNan else w0
  | .fin s m e =>
    if m = 0 then return if s then wNegInf else wInf
    else if s then return wNan
    else
      let odd := e % 2
      let m' := m <<< odd.toNat
      let r := isqrt (2 ^ 400 / m')
      let st := if r * r * m' = 2 ^ 400 then 0 else 1
      rnd32 ftz (.fin false (2 * r + st) (-(e - odd) / 2 - 201))

/-- sin (or cos) of `2π·s` for `s` in `[0, 1/4)` in fixed point. -/
def quarterWave (cosine : Bool) (s : Nat) : Nat :=
  let x := fxMul (2 * fxPi) s
  let x2 := fxMul x x
  (if cosine then trigSeries x2 60 0 fxOne true fxOne else trigSeries x2 60 1 x true x).toNat

/-- sin(2πx) with `shift` 0, cos(2πx) with `shift` 1 (a quarter turn added), for a finite nonzero argument. -/
def turnW (ftz : Bool) (fn : Nat) (a : Word) (shift : Nat) (s : Bool) (m : Nat) (e : Int) : Num Word :=
  let fr := toFx m e % fxOne
  let q := (fr * 4 / fxOne + shift) % 4
  let r := fr * 4 % fxOne / 4
  let neg := (decide (q ≥ 2)) != (s && shift == 0)
  if fr * 4 % fxOne = 0 then
    if q % 2 = 0 then return w0 else return if neg then 0xBF800000#32 else w1
  else fxRound ftz fn a neg (quarterWave (q % 2 == 1) r) (-fxBits)

def sintW (ftz : Bool) (a : Word) : Num Word :=
  match val32 a with
  | .fin s m e => if m = 0 then return a else turnW ftz 0x2C a 0 s m e
  | _ => return wNan

def costW (ftz : Bool) (a : Word) : Num Word :=
  match val32 a with
  | .fin s m e => if m = 0 then return w1 else turnW ftz 0x2D a 1 s m e
  | _ => return wNan

def erfW (ftz : Bool) (a : Word) : Num Word :=
  match val32 a with
  | .nan => return wNan
  | .inf s => return if s then 0xBF800000#32 else w1
  | .fin s m e =>
    if m = 0 then return a
    else if (lead m : Int) + e ≥ 2 then return if s then 0xBF800000#32 else w1
    else
      let x := toFx m e
      let sum := (erfSeries (fxMul x x) 200 0 x 0).toNat
      let sqrtPi := isqrt (fxPi * fxOne)
      fxRound ftz 0x2E a s (2 * sum * fxOne / sqrtPi) (-fxBits)

/-! ### Reduction order (R289) -/

/-- One level of the tree over present values: neighbours combine. -/
def treeLevel {m : Type → Type} [Monad m] {α : Type} (op : α → α → m α) : List (Option α) → m (List (Option α))
  | some a :: some b :: r => do
    let c ← op a b
    let t ← treeLevel op r
    return some c :: t
  | some a :: none :: r => do
    let t ← treeLevel op r
    return some a :: t
  | none :: b :: r => do
    let t ← treeLevel op r
    return b :: t
  | [x] => return [x]
  | [] => return []

/-- The value of a block of up to 32 elements. -/
def treeBlock {m : Type → Type} [Monad m] {α : Type} (op : α → α → m α) (xs : List (Option α)) : m (Option α) := do
  let l1 ← treeLevel op (xs ++ List.replicate (32 - xs.length) none)
  let l2 ← treeLevel op l1
  let l3 ← treeLevel op l2
  let l4 ← treeLevel op l3
  let l5 ← treeLevel op l4
  return l5.headD none

/-- Blocks of 32, in order. -/
def blocksOf {α : Type} : Nat → List α → List (List α)
  | 0, _ => []
  | _, [] => []
  | n + 1, l => l.take 32 :: blocksOf n (l.drop 32)

/-- R289: a row of present or absent elements reduced. -/
def reduceRow {m : Type → Type} [Monad m] {α : Type} (op : α → α → m α) (empty : α) (xs : List (Option α)) : m α := do
  let bs ← (blocksOf xs.length xs).mapM (treeBlock op)
  let rec go (acc : Option α) : List (Option α) → m α
    | [] => return acc.getD empty
    | none :: r => go acc r
    | some b :: r => do
      match acc with
      | none => go (some b) r
      | some a => do
        let c ← op a b
        go (some c) r
  go none bs

def rsum (ftz : Bool) (xs : List (Option Word)) : Num Word := reduceRow (fadd ftz) w0 xs
def rmax (xs : List (Option Word)) : Num Word := reduceRow (fun a b => pure (fmax a b)) wNegInf xs
def rmin (xs : List (Option Word)) : Num Word := reduceRow (fun a b => pure (fmin a b)) wInf xs

end Sys2Proof.Machine
end

