-- ==== Sys2Proof/Machine/Rng.lean ====
section
/-! DEFINITION. The random block function, draws, and the transforms from bits to values (R367-R376). -/

namespace Sys2Proof.Machine

/-- `rotl` of R367. -/
def rotl (x : Word) (n : Nat) : Word := x.rotateLeft n

/-- The rotation pair of round r. -/
def rotPair (r : Nat) : Nat × Nat :=
  match r % 4 with
  | 0 => (16, 12)
  | 1 => (8, 7)
  | 2 => (24, 19)
  | _ => (5, 13)

/-- One round, with the key injection that follows rounds 3, 7 and 11. -/
def rngRound (ks : List Word) (r : Nat) (x : Word × Word × Word × Word) : Word × Word × Word × Word :=
  let p := rotPair r
  let x0 := x.1 + x.2.1
  let x3 := rotl (x.2.2.2 ^^^ x0) p.1
  let x2 := x.2.2.1 + x3
  let x1 := rotl (x.2.1 ^^^ x2) p.2
  if r % 4 = 3 then
    let s := (r + 1) / 4
    let k (i : Nat) : Word := ks.getD ((s + i) % 5) 0
    (x0 + k 0, x1 + k 1, x2 + k 2, x3 + k 3 + BitVec.ofNat 32 s)
  else (x0, x1, x2, x3)

/-- R367: the four words of the block function. -/
def rngWords (seed stream pos rounds : Nat) : Word × Word × Word × Word :=
  let w (v i : Nat) : Word := BitVec.ofNat 32 (v >>> (32 * i))
  let k0 := w seed 0
  let k1 := w seed 1
  let k2 := w stream 0
  let k3 := w stream 1
  let ks := [k0, k1, k2, k3, 0x243F6A88#32 ^^^ k0 ^^^ k1 ^^^ k2 ^^^ k3]
  let x := (w pos 0 + k0, w pos 1 + k1, 0x9E3779B9#32 + k2, 0xB7E15163#32 + k3)
  (List.range rounds).foldl (fun x r => rngRound ks r x) x

/-- R367: the 128-bit result. -/
def rngBlock (seed stream pos rounds : Nat) : Nat :=
  let x := rngWords seed stream pos rounds
  x.1.toNat + (x.2.1.toNat <<< 32) + (x.2.2.1.toNat <<< 64) + (x.2.2.2.toNat <<< 96)

/-- R371: the draw of width w at element index L. -/
def draw (seed stream l w rounds : Nat) : Nat :=
  bits (rngBlock seed (stream % 2 ^ 64) (l * w / 128 % 2 ^ 64) rounds) (l * w % 128) w

/-- A draw of the full generator. -/
def fullDraw (seed stream l w : Nat) : Nat := draw seed stream (l % 2 ^ 64) w 12

/-- R374. -/
def uniform32 (a : Nat) : Word := BitVec.ofNat 32 (fpPackUniform (a >>> 8))
where
  /-- The FP32 code of `n × 2^-24` for `n` below 2^24: exact. -/
  fpPackUniform (n : Nat) : Nat := if n = 0 then 0 else
    let p := roundSig fp32Spec 0 0 n (-24)
    fpPack fp32Spec false p.1 p.2

/-- The FP32 word of `n × 2^-24`, exact for `n` up to 2^24. -/
def frac24 (n : Nat) : Word := BitVec.ofNat 32 (uniform32.fpPackUniform n)

/-- R375. -/
def normal64 (ftz : Bool) (v : Nat) (mu sigma : Word) : Num Word := do
  let u1 := frac24 ((bits v 0 32 >>> 8) + 1)
  let u2 := frac24 (bits v 32 32 >>> 8)
  let l ← log2W ftz u1
  let t ← fmul ftz l 0xBFB17218#32
  let r ← fsqrt ftz t
  let c ← costW ftz u2
  let z ← fmul ftz r c
  ffma ftz z sigma mu

/-- R376. -/
def bernoulli (a : Nat) (p : Val) : Bool :=
  match p with
  | .fin _ m e => decide (a < (if e + 32 ≥ 0 then m <<< (e + 32).toNat else m >>> (-(e + 32)).toNat))
  | _ => false

end Sys2Proof.Machine
end

