-- ==== Sys2Proof/Machine/Tensor.lean ====
section
/-! DEFINITION. Tensor descriptors, element addresses and footprints, elements read with their companions, and rows of elements converted and written (R69, R84, R131-R138, R154-R159). -/

namespace Sys2Proof.Machine

/-! ### Descriptors (Table 3-4) -/

/-- The tensor descriptor in 64 bytes. -/
def parseTensor (b : Bytes) : TensorD :=
  { addr := fieldAt b 0 6, fmt := fieldAt b 6 1, rank := fieldAt b 7 1,
    space := bits (fieldAt b 8 1) 0 2, tagged := bit (fieldAt b 8 1) 2,
    aux := fieldAt b 9 1, group := fieldAt b 10 2,
    shape := (List.range 5).map (fun i => fieldAt b (12 + 4 * i) 4),
    stride := 1 :: (List.range 4).map (fun i => toSigned 64 (fieldAt b (32 + 8 * i) 8)),
    raw := b }

/-- The format of a tensor; formats that no code names are refused at admission and read here as UINT8. -/
def TensorD.format (t : TensorD) : Fmt := (Fmt.ofCode t.fmt).getD .uint8

def TensorD.dim (t : TensorD) (i : Nat) : Nat := t.shape.getD i 1

/-- The number of elements. -/
def TensorD.count (t : TensorD) : Nat := t.shape.foldl (· * ·) 1

/-- Coordinates of element number `i`, dimension 0 fastest. -/
def coordsOf : List Nat → Nat → List Nat
  | [], _ => []
  | n :: ns, i => (if n = 0 then 0 else i % n) :: coordsOf ns (if n = 0 then 0 else i / n)

/-- The number of an element within a shape, dimension 0 fastest: its logical index. -/
def indexOf : List Nat → List Nat → Nat
  | n :: ns, c :: cs => c + n * indexOf ns cs
  | _, _ => 0

/-- The element offset of coordinates under the strides. -/
def linear : List Int → List Nat → Int
  | s :: ss, c :: cs => s * (c : Int) + linear ss cs
  | _, _ => 0

/-- The bit address of an element (R131). -/
def TensorD.bitAddr (t : TensorD) (c : List Nat) : Nat :=
  ((t.addr * 8 : Nat) + linear t.stride c * (t.format.width : Int)).toNat

/-- The lowest and highest byte that shape and strides can touch (R84); `none` for a tensor without elements, or one that reaches below 0. -/
def TensorD.footprint (t : TensorD) : Option (Nat × Nat) :=
  if t.count = 0 then none
  else
    let ext := (t.stride.zip t.shape).map (fun p => p.1 * ((p.2 : Int) - 1))
    let lo := ext.foldl (fun a x => a + min x 0) 0
    let hi := ext.foldl (fun a x => a + max x 0) 0
    let w : Int := t.format.width
    let loB := ((t.addr * 8 : Nat) + lo * w) / 8
    let hiB := ((t.addr * 8 : Nat) + hi * w + w - 1) / 8
    if loB < 0 then none else some (loB.toNat, hiB.toNat)

/-- R84: two footprints overlap. -/
def overlaps (t u : TensorD) : Bool :=
  match t.footprint, u.footprint with
  | some a, some b =>
    (if t.space = 1 then u.space == 1 else u.space != 1 && isHost t.addr == isHost u.addr) &&
      decide (a.1 ≤ b.2) && decide (b.1 ≤ a.2)
  | _, _ => false

/-- The scratchpad offsets a core's part of a partition space takes (R191): all bytes of a footprint lie in cores and local offsets that exist. -/
def spdRangeOk (cores lo hi : Nat) : Bool :=
  decide (hi / 0x2000000 < cores) && decide (lo % 0x2000000 < 0x1800000) && decide (hi % 0x2000000 < 0x1800000) &&
    (decide (lo / 0x2000000 = hi / 0x2000000))

/-- R191: no element of a tensor lies beyond 24 MiB of its core or beyond the partition's cores. Each line along dimension 0 is checked, so
that a tensor spread over cores by an outer stride passes. -/
def TensorD.spdOk (t : TensorD) (cores : Nat) : Bool :=
  let lines := t.count / max 1 (t.dim 0)
  (List.range lines).all (fun i =>
    let c := 0 :: coordsOf (t.shape.drop 1) i
    let b : Int := (t.addr * 8 : Nat) + linear t.stride c * (t.format.width : Int)
    decide (0 ≤ b) && spdRangeOk cores (b.toNat / 8) ((b.toNat + t.dim 0 * t.format.width - 1) / 8))

/-- The slots (core, slot) that a scratchpad tensor touches (R201). -/
def Dev.slotsOf (d : Dev) (p : Nat) (t : TensorD) : List (Nat × Nat) :=
  let lines := t.count / max 1 (t.dim 0)
  ((List.range lines).flatMap (fun i =>
    let c := 0 :: coordsOf (t.shape.drop 1) i
    let lo := t.bitAddr c / 8
    let hi := (t.bitAddr c + t.dim 0 * t.format.width - 1) / 8
    (List.range (hi / 256 - lo / 256 + 1)).filterMap (fun k =>
      (d.spdPlace p ((lo / 256 + k) * 256)).map (fun q => (q.1, q.2 / 256))))).eraseDups

/-! ### Reading -/

/-- The code of an element. -/
def Dev.elemCode (d : Dev) (p : Nat) (t : TensorD) (c : List Nat) : Nat :=
  d.codeAt p t.space (t.bitAddr c) t.format.width

/-- R202: a read of an element of a tagged tensor waits while its slot is not FULL. -/
def Dev.readTag (d : Dev) (p : Nat) (t : TensorD) (c : List Nat) : Num Unit :=
  if !t.tagged then return ()
  else match d.spdPlace p (t.bitAddr c / 8) with
    | some q => if (d.tag q.1 (q.2 / 256)).full then return () else raiseWait
    | none => return ()

/-- The code of an element read under R202. -/
def Dev.readElem (d : Dev) (p : Nat) (t : TensorD) (c : List Nat) : Num Nat := do
  d.readTag p t c
  return d.elemCode p t c

/-- Multiply a value by a power of two. -/
def Val.scale2 (v : Val) (k : Int) : Val :=
  match v with
  | .fin s m e => .fin s m (e + k)
  | w => w

/-- R138: a zero point rounded to nearest-even and saturated to -128..127. -/
def zeroPoint (v : Val) : Int :=
  match v with
  | .nan => 0
  | .inf s => if s then -128 else 127
  | .fin s m e =>
    let q : Int := (roundAt 0 0 m e 0 : Nat)
    let x := if s then -q else q
    max (-128) (min 127 x)

/-- The exact value of an element, with MX scale (R133), table entry (R137) or scale and zero point (R138), and inputs flushed under
FTZ (R162). Coordinates are [k, n, problem, ..]. -/
def Dev.elem (d : Dev) (p : Nat) (ftz : Bool) (ts : List TensorD) (t : TensorD) (c : List Nat) : Num Val := do
  let f := t.format
  let code ← d.readElem p t c
  let k := c.getD 0 0
  let aux := ts.getD t.aux {}
  let g := if t.group = 0 then 0 else k / t.group
  let pj := if aux.dim 3 = 1 then 0 else c.getD 2 0
  if f.isMx then
    let sc ← d.readElem p aux ((k / 32) :: c.drop 1)
    if sc = 0xFF then return .nan
    else
      match f.spec with
      | some sp => return (fpDecode sp code).scale2 ((sc : Int) - 127)
      | none => return (Val.ofInt (toSigned 8 code)).scale2 ((sc : Int) - 127 - 6)
  else
    match f with
    | .lut4 | .lut2 => do
      let w ← d.readElem p aux [code, g, c.getD 1 0, pj, 0]
      readCode ftz .bf16 w
    | .int4 | .int2 =>
      if t.aux = 0xFF then return .ofInt (f.intOfCode code)
      else do
        d.readTag p aux [0, g, c.getD 1 0, pj, 0]
        d.readTag p aux [1, g, c.getD 1 0, pj, 0]
        let s ← readCode ftz .bf16 (d.elemCode p aux [0, g, c.getD 1 0, pj, 0])
        let z ← readCode ftz .bf16 (d.elemCode p aux [1, g, c.getD 1 0, pj, 0])
        return s.mul (.ofInt (f.intOfCode code - zeroPoint z))
    | _ => readCode ftz f code

/-! ### Writing -/

/-- Zero codes for the positions of a line's last packing group beyond SHAPE[0] (R131). -/
def TensorD.padWrites (t : TensorD) (c : List Nat) : List ElemWrite :=
  let g := t.format.group.1
  let n := t.dim 0
  if c.getD 0 0 + 1 = n then
    (List.range ((g - n % g) % g)).map (fun i =>
      { space := t.space, bitAddr := t.bitAddr c + (i + 1) * t.format.width, width := t.format.width, code := 0 })
  else []

/-- The write of one code at coordinates. -/
def TensorD.put (t : TensorD) (c : List Nat) (code : Nat) : List ElemWrite :=
  { space := t.space, bitAddr := t.bitAddr c, width := t.format.width, code := code } :: t.padWrites c

/-- Table 5-4. -/
def Fmt.emax : Fmt → Int
  | .mxE4m3 => 8 | .mxE5m2 => 15 | .mxE3m2 => 4 | .mxE2m3 => 2 | .mxFp4 => 2 | _ => 0

/-- The largest magnitude of a list. -/
def amaxOf (vs : List Val) : Val := vs.foldl (fun a v => if a.lt v.abs then v.abs else a) .zero

/-- R136: a block converted to an MX format: its scale code and element codes. -/
def toMxBlock (f : Fmt) (round : Nat) (vs : List (Val × Nat)) : Num (Nat × List Nat) := do
  let vals := vs.map (·.1)
  if vals.any (fun v => !v.isFinite) then
    raiseNan
    return (0xFF, vs.map (fun _ => 0))
  else
    let am := amaxOf vals
    if am.isZero then return (0, vs.map (fun _ => 0))
    else
      let x := am.exponent - f.emax
      let code := (max 0 (min 254 (x + 127))).toNat
      let conv (v : Val × Nat) : Num Nat :=
        let w := v.1.scale2 (127 - (code : Int))
        match f.spec with
        | some sp => toMxElement sp round v.2 w
        | none => toMxInt8 round v.2 w
      let cs ← vs.mapM conv
      return (code, cs)

/-- Split a run that starts at column `start` at the block boundaries of its line: (start, run) pairs. -/
def mxRuns {α : Type} : Nat → Nat → List α → List (Nat × List α)
  | 0, _, _ => []
  | _, _, [] => []
  | n + 1, start, l => (start, l.take (32 - start % 32)) :: mxRuns n (start / 32 * 32 + 32) (l.drop (32 - start % 32))

/-- A run of a row of an output tensor: values for columns `start`, `start + 1`, .. at the outer coordinates `outer`, each with its draw
(R155-R159, R136), as element writes. Values beyond SHAPE[0] do not occur. -/
def Dev.emitRow (md : NumMode) (ts : List TensorD) (t : TensorD) (start : Nat) (outer : List Nat) (vs : List (Val × Nat)) :
    Num (List ElemWrite) := do
  let f := t.format
  if f.isMx then
    let aux := ts.getD t.aux {}
    let rec go : List (Nat × List (Val × Nat)) → Num (List ElemWrite)
      | [] => return []
      | (c0, blk) :: rest => do
        let r ← toMxBlock f md.round blk
        let more ← go rest
        let elems := (List.range r.2.length).flatMap (fun i => t.put ((c0 + i) :: outer) (r.2.getD i 0))
        return aux.put ((c0 / 32) :: outer) r.1 ++ elems ++ more
    go (mxRuns vs.length start vs)
  else
    let rec each (i : Nat) : List (Val × Nat) → Num (List ElemWrite)
      | [] => return []
      | v :: rest => do
        let code ← convertTo f md v.2 v.1
        let more ← each (i + 1) rest
        return t.put ((start + i) :: outer) code ++ more
    each 0 vs

/-- Apply element writes in order. -/
def Dev.applyWrites (d : Dev) (p : Nat) (ws : List ElemWrite) : Dev := ws.foldl (fun d w => d.putCode p w) d

end Sys2Proof.Machine
end

