-- ==== Sys2Proof/Machine/Command.lean ====
section
/-! DEFINITION. Fields of a command's descriptor (Table 3-3), its modes, and completion of a command with a status (R63, R74, R76, R78, R94). -/

namespace Sys2Proof.Machine

def Cmd.u8 (c : Cmd) (i : Nat) : Nat := fieldAt c.raw i 1
def Cmd.u16 (c : Cmd) (i : Nat) : Nat := fieldAt c.raw i 2
def Cmd.u32 (c : Cmd) (i : Nat) : Nat := fieldAt c.raw i 4
def Cmd.u48 (c : Cmd) (i : Nat) : Nat := fieldAt c.raw i 6
def Cmd.u64 (c : Cmd) (i : Nat) : Nat := fieldAt c.raw i 8
def Cmd.w32 (c : Cmd) (i : Nat) : Word := BitVec.ofNat 32 (c.u32 i)

def Cmd.id (c : Cmd) : Nat := c.u32 0
def Cmd.opcode (c : Cmd) : Nat := c.u8 4
def Cmd.depMode (c : Cmd) : Nat := bits (c.u8 5) 0 2
def Cmd.irq (c : Cmd) : Bool := bit (c.u8 5) 2
def Cmd.skipOnFail (c : Cmd) : Bool := bit (c.u8 5) 3
def Cmd.waitEn (c : Cmd) : Bool := bit (c.u8 5) 4
def Cmd.order (c : Cmd) : Nat := bits (c.u8 7) 0 2
def Cmd.foldMode (c : Cmd) : Nat := bits (c.u8 7) 2 2
def Cmd.fallbackOk (c : Cmd) : Bool := bit (c.u8 7) 4
def Cmd.freqOk (c : Cmd) : Bool := bit (c.u8 7) 5
def Cmd.skipPadTaps (c : Cmd) : Bool := bit (c.u8 7) 6
def Cmd.session (c : Cmd) : Nat := bits (c.u16 8) 0 12
def Cmd.sessionValid (c : Cmd) : Bool := bit (c.u16 8) 15
def Cmd.stage (c : Cmd) : Nat := c.u8 10
def Cmd.frame (c : Cmd) : Nat := c.u32 12
def Cmd.seed (c : Cmd) : Nat := c.u64 48
def Cmd.streamBase (c : Cmd) : Nat := c.u64 56

/-- NUM_MODE (Table 3-3). -/
def Cmd.num (c : Cmd) : NumMode :=
  { round := bits (c.u8 6) 0 2, ftz := bit (c.u8 6) 2, fp8Sat := bit (c.u8 6) 3, arrivalOk := bit (c.u8 6) 4 }

def Cmd.ftz (c : Cmd) : Bool := bit (c.u8 6) 2

/-- Tensor i of the command. -/
def Cmd.tensor (c : Cmd) (i : Nat) : TensorD := c.tensors.getD i {}

/-- Table 3-5: whether an opcode's commands are array commands. -/
def isArrayOp (op : Nat) : Bool := op == 0x01 || op == 0x02 || op == 0x03 || op == 0x05

/-- Table 3-5: control commands. -/
def isControlOp (op : Nat) : Bool := decide (0x10 ≤ op) && decide (op ≤ 0x13)

/-- Table 3-5: a defined opcode. -/
def opcodeDefined (op : Nat) : Bool := (decide (1 ≤ op) && decide (op ≤ 0x0E)) || isControlOp op

/-- The logical element index of an element of a tensor (R370). -/
def TensorD.logical (t : TensorD) (c : List Nat) : Nat := indexOf t.shape c

/-- The 16-bit draw of stochastic rounding for an element of tensor index i (Table 13-2); 0 when ROUND is not 2. -/
def Cmd.roundDraw (c : Cmd) (i : Nat) (co : List Nat) : Nat :=
  if c.num.round = 2 then fullDraw c.seed (c.streamBase + i) ((c.tensor i).logical co) 16 else 0

/-- An element of tensor i as its exact value. -/
def Dev.elemOf (d : Dev) (c : Cmd) (i : Nat) (co : List Nat) : Num Val :=
  d.elem c.part c.ftz c.tensors (c.tensor i) co

/-- An element of an FP32, BF16, FP16, E4M3 or E5M2 stream or vector widened to FP32 (R293). -/
def Dev.streamWord (d : Dev) (c : Cmd) (i : Nat) (co : List Nat) : Num Word := do
  let v ← d.elemOf c i co
  rnd32 false v

/-! ### Finding and updating commands -/

def Dev.cmd? (d : Dev) (u : Nat) : Option Cmd := d.cmds.find? (fun c => c.uid == u)

/-- Replace a command. -/
def Dev.setCmd (d : Dev) (c : Cmd) : Dev :=
  { d with cmds := d.cmds.map (fun x => if x.uid = c.uid then c else x) }

/-- Uncommitted: it has no completion record pending. -/
def Cmd.live (c : Cmd) : Bool := c.state != .recordPending

def Dev.part (d : Dev) (p : Nat) : Part := d.parts.getD p {}

def Dev.setPart (d : Dev) (p : Nat) (x : Part) : Dev := { d with parts := d.parts.set p x }

def Dev.modPart (d : Dev) (p : Nat) (f : Part → Part) : Dev := d.setPart p (f (d.part p))

def Part.queue (x : Part) (q : Nat) : Queue := x.queues.getD q {}

def Dev.queue (d : Dev) (p q : Nat) : Queue := (d.part p).queue q

def Dev.modQueue (d : Dev) (p q : Nat) (f : Queue → Queue) : Dev :=
  d.modPart p (fun x => { x with queues := x.queues.set q (f (x.queue q)) })

def Dev.modArray (d : Dev) (a : Nat) (f : ArrayState → ArrayState) : Dev :=
  { d with arrays := d.arrays.set a (f (d.arrays.getD a {})) }

def Dev.array (d : Dev) (a : Nat) : ArrayState := d.arrays.getD a {}

def Dev.core (d : Dev) (n : Nat) : CoreState := d.cores.getD n {}

def Dev.modCore (d : Dev) (n : Nat) (f : CoreState → CoreState) : Dev :=
  { d with cores := d.cores.set n (f (d.core n)) }

/-! ### Status codes (Table 3-12) -/

def stOK : Nat := 0x00
def stSHAPE : Nat := 0x01
def stALIAS : Nat := 0x02
def stFORMAT : Nat := 0x03
def stBAND : Nat := 0x04
def stINVALID : Nat := 0x05
def stSTREAMS : Nat := 0x06
def stDEP : Nat := 0x07
def stBUDGET : Nat := 0x08
def stMISS : Nat := 0x09
def stLOST : Nat := 0x0A
def stKV : Nat := 0x0B
def stRESTORE : Nat := 0x0C
def stROLE : Nat := 0x0D
def stPAD : Nat := 0x0E
def stTAG : Nat := 0x0F
def stDIMS : Nat := 0x10
def stCORRUPT : Nat := 0x11
def stSTALE : Nat := 0x12
def stJOB : Nat := 0x13
def stABORT : Nat := 0x1F

/-- R78: a status that counts as failed. -/
def hasFailed (status detail : Nat) : Bool :=
  !(status == stOK || (status == stMISS && bit detail 0))

/-- The completion record of a command, PHASE clear (Table 3-11). -/
def Cmd.record (c : Cmd) : Bytes :=
  let fl := b2n c.flags.flushed + 2 * b2n c.flags.saturated + 4 * b2n c.replayed + 8 * b2n c.folded +
    16 * b2n c.resumed + 32 * b2n c.frameRepeated + 64 * b2n c.flags.nanProduced
  toLe 4 c.id ++ toLe 1 c.status ++ toLe 1 fl ++ toLe 2 c.part ++ toLe 8 c.commitTick ++
  toLe 4 (min c.occArray (2 ^ 32 - 1)) ++ toLe 4 (min c.occVector (2 ^ 32 - 1)) ++
  toLe 4 (ceilDiv c.hbmBytes 4096) ++ toLe 4 c.detail

/-- R76, R78: what a predecessor condition becomes when command u ends. -/
def Pred.settle (u : Nat) (failed : Bool) (id : Nat) : Pred → Pred
  | .live v => if v = u then .ended failed id else .live v
  | p => p

/-- R164: a partition's sticky bit, counter and interrupt for one numeric flag. -/
def Dev.sticky (d : Dev) (p i : Nat) (on : Bool) : Dev :=
  if on then
    let was := bit (d.regN (pgNUM p) 0x800) i
    let d := d.setReg (pgNUM p) 0x800 (d.reg (pgNUM p) 0x800 ||| BitVec.ofNat 32 (1 <<< i))
    let d := d.bump (pgNUM p) (0x804 + 4 * i) 1
    if was then d else d.raise (pgNUM p) i
  else d

/-- R67: a queue with STOP_ON_ERROR stops when one of its commands fails. -/
def Dev.stopOnError (d : Dev) (c : Cmd) : Dev :=
  let stop := bit (d.active (pgPART c.part) (0x100 + 0x20 * c.queue)) 9
  if stop && hasFailed c.status c.detail && (d.queue c.part c.queue).state == 1 then
    (d.modQueue c.part c.queue (fun q => { q with state := 2 })).raise (pgPART c.part) 7
  else d

/-- A command that has ended, with its status and DETAIL (Table 3-11). -/
def Cmd.endedAs (c : Cmd) (status detail tick : Nat) : Cmd :=
  { c with status := status, detail := detail, state := .recordPending, commitTick := tick, pins := [] }

/-- What a command's conditions become when command u ends (R76, R78). -/
def Cmd.hears (u : Nat) (failed : Bool) (id : Nat) (x : Cmd) : Cmd :=
  { x with dep := x.dep.settle u failed id, wait := x.wait.settle u failed id }

/-- An ended command takes its place, the commands and the queue that name it are told, and its record is queued in the order in which its
queue's commands finish (R63). -/
def Dev.tellEnd (d : Dev) (e : Cmd) : Dev :=
  let failed := hasFailed e.status e.detail
  let d : Dev := { d with cmds := (d.cmds.map (fun (x : Cmd) => if x.uid = e.uid then e else x)).map (Cmd.hears e.uid failed e.id) }
  let d := d.modQueue e.part e.queue (fun q => { q with last := q.last.settle e.uid failed e.id })
  { d with records := d.records ++ [⟨e.part, e.queue, e.uid, e.record, e.irq⟩] }

/-- A command ends with a status: commands that name it are told, its pins are released, and its numeric flags go to the partition's NUM page
when its record is formed (R88, R164). -/
def Dev.finish (d : Dev) (c : Cmd) (status detail : Nat) : Dev :=
  let e := c.endedAs status detail d.tick.count
  (d.tellEnd e).stopOnError e

/-- An entry names the command it affects, if one is known and still waits (Table 18-5). -/
def Dev.naming (d : Dev) (u : Option Nat) (e : LogEntry) : LogEntry :=
  match u.bind d.cmd? with
  | none => e
  | some c => { e with cmdId := c.id, queue := c.queue }

/-- DATA_LOST (Tables 3-12 and 3-13): end a command whose data was lost, with an error-log entry named in DETAIL (R240, R478, R555). -/
def Dev.finishLost (d : Dev) (c : Cmd) (e : LogEntry) : Dev :=
  let e := { e with cmdId := c.id, queue := c.queue, part := c.part }
  let seq := d.logSeq e
  (d.log e).finish c stLOST seq

end Sys2Proof.Machine
end

