-- ==== Sys2Proof/Machine/Chain.lean ====
section
/-! DEFINITION. The chain rule: floating, integer and pair-mode chains over logical k, and combines of split-K partials (R140-R152). -/

namespace Sys2Proof.Machine

/-- How a command's chain is formed (R140). -/
def chainKind (a b : TensorD) : Acc :=
  if a.format = .fp32 && b.format = .fp32 then .pair w0 w0
  else if a.format.isIntOperand && b.format.isIntOperand && b.aux = 0xFF then .int 0
  else .fp w0

/-- Whether an accumulator is an integer one. -/
def Acc.isInt : Acc → Bool
  | .int _ => true
  | _ => false

def Acc.isPair : Acc → Bool
  | .pair _ _ => true
  | _ => false

/-- Saturate to INT32, flagging a clamp (R143). -/
def satInt32 (x : Int) : Num Int :=
  if x < -2147483648 then do
    raiseSat
    return -2147483648
  else if x > 2147483647 then do
    raiseSat
    return 2147483647
  else return x

/-- The integer value of an exact value. -/
def Val.toInt : Val → Int
  | .fin s m e => let q : Int := (roundAt 1 0 m e 0 : Nat); if s then -q else q
  | _ => 0

/-- The carry-in as an accumulator of a chain kind (R142, R143, R150). -/
def carryAcc (ftz : Bool) (kind : Acc) (t : TensorD) (code : Nat) : Num Acc := do
  match kind with
  | .int _ => return .int (toSigned 32 code)
  | .pair _ _ =>
    if t.format = .fp32x2 then do
      let h ← readCode ftz .fp32 (bits code 0 32)
      let l ← readCode ftz .fp32 (bits code 32 32)
      let hw ← rnd32 false h
      let lw ← rnd32 false l
      return .pair hw lw
    else do
      let v ← readCode ftz t.format code
      let w ← rnd32 false v
      return .pair w w0
  | _ => do
    let v ← readCode ftz t.format code
    let w ← rnd32 ftz v
    return .fp w

/-- R142: one step of a floating chain. -/
def chainStep (ftz : Bool) (s : Word) (p : Val × Val) : Num Word := rnd32 ftz ((val32 s).add (p.1.mul p.2))

/-- R143: one step of an integer chain. -/
def intStep (s : Int) (p : Val × Val) : Num Int := satInt32 (s + p.1.toInt * p.2.toInt)

/-- A floating chain over its products. -/
def chainRun (ftz : Bool) (s : Word) : List (Val × Val) → Num Word
  | [] => return s
  | p :: ps => do
    let s ← chainStep ftz s p
    chainRun ftz s ps

/-- An integer chain. -/
def intRun (s : Int) : List (Val × Val) → Num Int
  | [] => return s
  | p :: ps => do
    let s ← intStep s p
    intRun s ps

/-- The BF16 rounding of a value, as a value (R149). -/
def roundBf16 (ftz : Bool) (v : Val) : Num Val := do
  let c ← toFloat bf16Spec { ftz := ftz } 0 v
  return fpDecode bf16Spec c

/-- R149: hi and lo parts. -/
def pairSplit (ftz : Bool) (v : Val) : Num (Val × Val) := do
  let hi ← roundBf16 ftz v
  let lo ← roundBf16 ftz (v.sub hi)
  return (hi, lo)

/-- R152: an operand that keeps an element out of pair mode: not finite, or of a magnitude whose hi part would be infinite. -/
def pairUnfit (v : Val) : Bool :=
  match v with
  | .fin _ m e => m != 0 && !((Val.fin false m e).lt (.fin false 511 119))
  | _ => true

/-- The inner loop of R150. -/
def pairStep (ftz : Bool) (s e : Word) (a b : Val) : Num (Word × Word) := do
  let p ← rnd32 ftz (a.mul b)
  let t ← fadd ftz s p
  let z ← fsub ftz t s
  let x ← fsub ftz t z
  let y ← fsub ftz s x
  let w ← fsub ftz p z
  let err ← fadd ftz y w
  let e ← fadd ftz e err
  return (t, e)

/-- One pass of R150. -/
def pairPass (ftz : Bool) (s e : Word) : List (Val × Val) → Num (Word × Word)
  | [] => return (s, e)
  | p :: ps => do
    let r ← pairStep ftz s e p.1 p.2
    pairPass ftz r.1 r.2 ps

/-- R150: the three passes. -/
def pairRun (ftz : Bool) (s e : Word) (ps : List (Val × Val)) : Num (Word × Word) := do
  let split ← ps.mapM (fun p => do
    let a ← pairSplit ftz p.1
    let b ← pairSplit ftz p.2
    return (a, b))
  let r ← pairPass ftz s e (split.map (fun q => (q.1.1, q.2.1)))
  let r ← pairPass ftz r.1 r.2 (split.map (fun q => (q.1.1, q.2.2)))
  pairPass ftz r.1 r.2 (split.map (fun q => (q.1.2, q.2.1)))

/-- One accumulator continued over products in logical k order (R142, R143, R150, R152). -/
def accRun (ftz : Bool) (acc : Acc) (ps : List (Val × Val)) : Num Acc :=
  match acc with
  | .fp s => do
    let s ← chainRun ftz s ps
    return .fp s
  | .int s => do
    let s ← intRun s ps
    return .int s
  | .pair s e =>
    if ps.any (fun p => pairUnfit p.1 || pairUnfit p.2) then do
      let s0 ← fadd ftz s e
      let s ← chainRun ftz s0 ps
      return .fp s
    else do
      let r ← pairRun ftz s e ps
      return .pair r.1 r.2
  | .code v => return .code v

/-- R147, R208, R209: one combine of two words. -/
def combineWord (ftz integer : Bool) (d s : Word) : Num Word :=
  if integer then do
    let x ← satInt32 (d.toInt + s.toInt)
    return BitVec.ofInt 32 x
  else fadd ftz d s

/-- An accumulator as the 32-bit word a combine or a save carries. -/
def Acc.word : Acc → Word
  | .fp s => s
  | .int v => BitVec.ofInt 32 v
  | .pair s _ => s
  | .code v => BitVec.ofNat 32 v

/-- The exact value of an accumulator (R151: s + e in pair mode). -/
def Acc.val (fmt : Fmt) : Acc → Val
  | .fp s => val32 s
  | .int v => .ofInt v
  | .pair s e => (val32 s).add (val32 e)
  | .code v => match fmt.spec with
    | some sp => fpDecode sp v
    | none => .nan

/-- R293: the FP32 value d that the epilogue starts from. -/
def Acc.epi (ftz : Bool) : Acc → Num Word
  | .fp s => return s
  | .int v => rnd32 ftz (.ofInt v)
  | .pair s e => fadd ftz s e
  | .code v => return BitVec.ofNat 32 v

end Sys2Proof.Machine
end

