-- ==== Sys2Proof/Machine/Fuse.lean ====
section
/-! DEFINITION. The FUSE field: epilogue and prologue steps, activation functions, dropout, row statistics, the two outputs of an epilogue, and the checks of streams and fields (R292-R308). -/

namespace Sys2Proof.Machine

/-! ### Fields of Table 10-6 -/

def Cmd.epiCount (c : Cmd) : Nat := bits (c.u8 80) 0 4
def Cmd.proCount (c : Cmd) : Nat := bits (c.u8 80) 4 3
def Cmd.tap (c : Cmd) : Nat := c.u8 81
def Cmd.out2 (c : Cmd) : Nat := c.u8 82
def Cmd.sendMode (c : Cmd) : Nat := bits (c.u8 83) 0 2
def Cmd.out2En (c : Cmd) : Bool := bit (c.u8 83) 2
def Cmd.chainEn (c : Cmd) : Bool := bit (c.u8 83) 3
def Cmd.fbufEn (c : Cmd) : Bool := bit (c.u8 83) 4
def Cmd.sendJob (c : Cmd) : Nat := c.u16 84
def Cmd.fbuf (c : Cmd) : Nat := c.u8 86
def Cmd.chainW (c : Cmd) : Nat := c.u8 87
def Cmd.chainFmt (c : Cmd) : Fmt := (Fmt.ofCode (c.u8 88)).getD .bf16
def Cmd.chainEpi (c : Cmd) : Nat := c.u8 89
def Cmd.sc0 (c : Cmd) : Word := c.w32 92
def Cmd.sc1 (c : Cmd) : Word := c.w32 96
def Cmd.epiOp (c : Cmd) (i : Nat) : Nat := c.u8 (100 + 2 * i)
def Cmd.epiArg (c : Cmd) (i : Nat) : Nat := c.u8 (101 + 2 * i)
def Cmd.proOp (c : Cmd) (i : Nat) : Nat := c.u8 (116 + 2 * i)
def Cmd.proArg (c : Cmd) (i : Nat) : Nat := c.u8 (117 + 2 * i)

/-- The steps of an epilogue from `lo` up to `hi`, as (op, arg). -/
def Cmd.epiSteps (c : Cmd) (lo hi : Nat) : List (Nat × Nat) :=
  (List.range (hi - lo)).map (fun i => (c.epiOp (lo + i), c.epiArg (lo + i)))

/-- A statistic step (R294). -/
def isStat (op : Nat) : Bool := op == 0x10 || op == 0x11 || op == 0x12

/-- The position of the command's statistic step, if it has one. -/
def Cmd.statAt (c : Cmd) : Option Nat := (List.range c.epiCount).find? (fun i => isStat (c.epiOp i))

/-! ### Activation functions (Table 10-8) -/

def wOne : Word := w1

def actFn (ftz : Bool) (code : Nat) (sc0 x : Word) : Num Word :=
  match code with
  | 0 => return fmax x w0
  | 1 => do
    let t ← fmul ftz x 0x3F3504F3#32
    let e ← erfW ftz t
    let u ← fadd ftz e wOne
    let h ← fmul ftz x u
    fmul ftz h 0x3F000000#32
  | 2 => do
    let t ← fmul ftz x 0xBFB8AA3B#32
    let e ← exp2W ftz t
    let u ← fadd ftz e wOne
    fdiv ftz x u
  | 3 => do
    let t ← fmul ftz x 0xBFB8AA3B#32
    let e ← exp2W ftz t
    let u ← fadd ftz e wOne
    rcpW ftz u
  | _ => do
    let s ← fmul ftz x sc0
    return if (val32 x).lt .zero then s else x

/-! ### Steps (Tables 10-7 and 10-9) -/

/-- A vector's element at an index of one axis, with the problem in dimension 1 when the vector has one. -/
def Dev.vecWord (d : Dev) (c : Cmd) (i idx p : Nat) : Num Word :=
  let t := c.tensor i
  d.streamWord c i [idx, if t.dim 1 > 1 then p else 0, 0, 0, 0]

/-- The column, row and problem of an output element, as the vectors of an epilogue count them: for CONV a row is a pixel (R313). -/
def Cmd.epiIndex (c : Cmd) (out : Nat) (co : List Nat) : Nat × Nat × Nat :=
  if c.opcode = 0x02 then (co.getD 0 0, indexOf ((c.tensor out).shape.drop 1) (co.drop 1), 0)
  else (co.getD 0 0, co.getD 1 0, co.getD 2 0)

/-- One epilogue step on the value of the element at (n, m, p). `dropStream` is STREAM_BASE + 64 + OUT, `l` the element's index. -/
def Dev.epiStep (d : Dev) (c : Cmd) (out : Nat) (co : List Nat) (x : Word) (st : Nat × Nat) : Num Word :=
  let ix := c.epiIndex out co
  let n := ix.1
  let m := ix.2.1
  let p := ix.2.2
  let f := c.ftz
  match st.1 with
  | 0x01 => do
    let v ← d.vecWord c st.2 n p
    fadd f x v
  | 0x02 => do
    let v ← d.vecWord c st.2 m p
    fadd f x v
  | 0x03 => do
    let v ← d.vecWord c st.2 n p
    fmul f x v
  | 0x04 => do
    let v ← d.vecWord c st.2 m p
    fmul f x v
  | 0x05 => fmul f x (if st.2 = 0 then c.sc0 else c.sc1)
  | 0x06 => actFn f st.2 c.sc0 x
  | 0x07 => do
    let v ← d.streamWord c st.2 co
    fadd f x v
  | 0x08 => do
    let v ← d.streamWord c st.2 co
    fmul f x v
  | 0x09 =>
    let q := draw c.seed (c.streamBase + 64 + out) ((c.tensor out).logical co) 16 4
    if q < 256 * st.2 then fmul f x c.sc0 else return w0
  | _ => return x

/-- A run of epilogue steps, with the values before the first and after each. -/
def Dev.epiRun (d : Dev) (c : Cmd) (out : Nat) (co : List Nat) (x : Word) : List (Nat × Nat) → Num (List Word)
  | [] => return [x]
  | st :: r => do
    let y ← d.epiStep c out co x st
    let t ← d.epiRun c out co y r
    return x :: t

/-- One prologue step on an element of the streamed operand at coordinates (k, m, p) (Table 10-9). -/
def Dev.proStep (d : Dev) (c : Cmd) (co : List Nat) (x : Word) (st : Nat × Nat) : Num Word :=
  let k := co.getD 0 0
  let m := co.getD 1 0
  let p := co.getD 2 0
  let f := c.ftz
  match st.1 with
  | 0x41 => do
    let v ← d.vecWord c st.2 k p
    fmul f x v
  | 0x42 => do
    let v ← d.vecWord c st.2 k p
    fadd f x v
  | 0x43 => do
    let v ← d.vecWord c st.2 m p
    fmul f x v
  | 0x44 => do
    let v ← d.streamWord c st.2 co
    fadd f x v
  | 0x45 => do
    let v ← d.streamWord c st.2 co
    fmul f x v
  | 0x46 => actFn f st.2 c.sc0 x
  | _ => return x

/-- R297: an element of the streamed operand after the prologue, rounded to nearest-even back to its own format. -/
def Dev.streamed (d : Dev) (c : Cmd) (a : Nat) (co : List Nat) : Num Val := do
  let v ← d.elemOf c a co
  if c.proCount = 0 then return v
  else
    let x ← rnd32 false v
    let steps := (List.range c.proCount).map (fun i => (c.proOp i, c.proArg i))
    let y ← steps.foldlM (fun x st => d.proStep c co x st) x
    let f := (c.tensor a).format
    let code ← convertTo f { c.num with round := 0 } 0 (val32 y)
    match f.spec with
    | some sp => return fpDecode sp code
    | none => return v

/-! ### Row statistics (R306) -/

/-- The normalised row of a statistic step over held values, and the sums that ROW_SUMS writes. -/
def Dev.rowStat (d : Dev) (c : Cmd) (st : Nat × Nat) (p : Nat) (xs : List Word) : Num (List Word × List Word) := do
  let f := c.ftz
  let some' (l : List Word) := l.map some
  let nW ← rnd32 false (.ofInt xs.length)
  let gamma (ys : List Word) : Num (List Word) :=
    if st.2 = 0xFF then return ys
    else (ys.zip (List.range ys.length)).mapM (fun q => do
      let g ← d.vecWord c st.2 q.2 p
      fmul f q.1 g)
  match st.1 with
  | 0x10 => do
    let sq ← xs.mapM (fun x => fmul f x x)
    let ss ← rsum f (some' sq)
    let q ← fdiv f ss nW
    let q ← fadd f q c.sc1
    let r ← rsqrtW f q
    let ys ← xs.mapM (fun x => fmul f x r)
    let ys ← gamma ys
    return (ys, [])
  | 0x11 => do
    let s ← rsum f (some' xs)
    let mean ← fdiv f s nW
    let ds ← xs.mapM (fun x => fsub f x mean)
    let sq ← ds.mapM (fun x => fmul f x x)
    let v ← rsum f (some' sq)
    let q ← fdiv f v nW
    let q ← fadd f q c.sc1
    let r ← rsqrtW f q
    let ys ← ds.mapM (fun x => fmul f x r)
    let ys ← gamma ys
    return (ys, [])
  | _ => do
    let s ← rsum f (some' xs)
    let sq ← xs.mapM (fun x => fmul f x x)
    let s2 ← rsum f (some' sq)
    return (xs, [s, s2])

/-! ### Outputs -/

/-- The two outputs and the sends of a run of columns of one row: for each column its final value and its tapped value. -/
def Cmd.emitOutputs (c : Cmd) (out : Nat) (start : Nat) (outer : List Nat) (fin : List Val) (tapped : List (Option Word)) :
    Num (List ElemWrite × List (Nat × Nat)) := do
  let co (i : Nat) : List Nat := (start + i) :: outer
  let t := c.tensor out
  let vs := (List.range fin.length).map (fun i => (fin.getD i .nan, c.roundDraw out (co i)))
  let w1 ← Dev.emitRow c.num c.tensors t start outer vs
  let taps := (List.range tapped.length).filterMap (fun i => (tapped.getD i none).map (fun w => (i, w)))
  let w2 ← if c.out2En && !taps.isEmpty then
      Dev.emitRow c.num c.tensors (c.tensor c.out2) start outer
        (taps.map (fun q => (val32 q.2, c.roundDraw c.out2 (co q.1))))
    else pure []
  let sends ← if c.sendMode = 0 then pure []
    else if c.sendMode = 1 then pure (taps.map (fun q => (t.logical (co q.1), q.2.toNat)))
    else taps.mapM (fun q => do
      let code ← convertTo t.format c.num (c.roundDraw out (co q.1)) (val32 q.2)
      return (t.logical (co q.1), code))
  return (w1 ++ w2, sends)

/-! ### Checks (R292-R299) -/

/-- R292, R294, R295: an epilogue step with defined codes. -/
def epiStepOk (c : Cmd) (i : Nat) : Bool :=
  let op := c.epiOp i
  let a := c.epiArg i
  let n := c.tensors.length
  (decide (0x01 ≤ op) && decide (op ≤ 0x04) && decide (a < n)) || (op == 0x05 && decide (a ≤ 1)) || (op == 0x06 && decide (a ≤ 4)) ||
  ((op == 0x07 || op == 0x08) && decide (a < n)) || (op == 0x09 && decide (1 ≤ a)) ||
  ((op == 0x10 || op == 0x11) && (a == 0xFF || decide (a < n))) || (op == 0x12 && decide (a < n))

/-- R297: a prologue step with defined codes. -/
def proStepOk (c : Cmd) (i : Nat) : Bool :=
  let op := c.proOp i
  let a := c.proArg i
  (decide (0x41 ≤ op) && decide (op ≤ 0x45) && decide (a < c.tensors.length)) || (op == 0x46 && decide (a ≤ 4))

/-- The tensors of the epilogue's input streams, each once. -/
def Cmd.epiStreams (c : Cmd) : List Nat :=
  ((List.range c.epiCount).filterMap (fun i => if c.epiOp i = 0x07 || c.epiOp i = 0x08 then some (c.epiArg i) else none)).eraseDups

def Cmd.proStreams (c : Cmd) : List Nat :=
  ((List.range c.proCount).filterMap (fun i => if c.proOp i = 0x44 || c.proOp i = 0x45 then some (c.proArg i) else none)).eraseDups

def Cmd.epiVectors (c : Cmd) : List Nat :=
  ((List.range c.epiCount).filterMap (fun i =>
    if decide (0x01 ≤ c.epiOp i) && decide (c.epiOp i ≤ 0x04) then some (c.epiArg i)
    else if (c.epiOp i = 0x10 || c.epiOp i = 0x11) && c.epiArg i ≠ 0xFF then some (c.epiArg i) else none)).eraseDups

def Cmd.proVectors (c : Cmd) : List Nat :=
  ((List.range c.proCount).filterMap (fun i =>
    if decide (0x41 ≤ c.proOp i) && decide (c.proOp i ≤ 0x43) then some (c.proArg i) else none)).eraseDups

/-- R299: the first limit exceeded, as the DETAIL of STREAMS_EXCEEDED. -/
def Cmd.streamsExceeded (c : Cmd) : Option Nat :=
  let e := c.epiStreams.length
  let p := c.proStreams.length
  let o := 1 + b2n c.out2En + b2n (c.sendMode != 0)
  let v := c.epiVectors.length + c.proVectors.length
  if e > 3 then some (e <<< 8)
  else if p > 2 then some (1 + (p <<< 8))
  else if o > 2 then some (2 + (o <<< 8))
  else if v > 4 then some (3 + (v <<< 8))
  else none

/-- The bad byte of a step: OP where it names no step of the table (or the step beyond the count has a nonzero one), else ARG. -/
def stepByte (pos op arg : Nat) (inCount ok : Bool) (known : Nat → Bool) : Option Nat :=
  if inCount then (if ok then none else if known op then some (pos + 1) else some pos)
  else if op != 0 then some pos else if arg != 0 then some (pos + 1) else none

/-- The steps of Tables 10-7 and 10-9 have these codes. -/
def epiKnown (op : Nat) : Bool := (decide (0x01 ≤ op) && decide (op ≤ 0x09)) || (decide (0x10 ≤ op) && decide (op ≤ 0x12))
def proKnown (op : Nat) : Bool := decide (0x41 ≤ op) && decide (op ≤ 0x46)

/-- R292: the first byte of FUSE that breaks its rules. `pair` is a pair-mode chain. -/
def Cmd.fuseBad (c : Cmd) : Option Nat :=
  if c.epiCount > 8 then some 80
  else if c.proCount > 4 || bit (c.u8 80) 7 then some 80
  else if c.tap > c.epiCount then some 81
  else if (if c.out2En then decide (c.out2 ≥ c.tensors.length) else c.out2 != 0) then some 82
  else if c.sendMode = 3 || c.u8 83 / 32 ≠ 0 then some 83
  else if c.sendMode = 0 && c.sendJob ≠ 0 then some 84
  else if (if c.fbufEn then decide (c.fbuf ≥ c.tensors.length) else c.fbuf != 0) then some 86
  else if (if c.chainEn then decide (c.chainW ≥ c.tensors.length) else c.chainW != 0) then some 87
  else if (if c.chainEn then !(Fmt.ofCode (c.u8 88)).any Fmt.isStream4 else c.u8 88 != 0) then some 88
  else if (if c.chainEn then decide (c.chainEpi > c.epiCount) else c.chainEpi != 0) then some 89
  else if !zeroAt c.raw 90 2 then some 90
  else match (List.range 8).findSome? (fun i =>
      stepByte (100 + 2 * i) (c.epiOp i) (c.epiArg i) (decide (i < c.epiCount)) (epiStepOk c i) epiKnown) with
    | some b => some b
    | none =>
      match (List.range 4).findSome? (fun i =>
          stepByte (116 + 2 * i) (c.proOp i) (c.proArg i) (decide (i < c.proCount)) (proStepOk c i) proKnown) with
      | some b => some b
      | none =>
        if !zeroAt c.raw 124 4 then some 124
        else if ((List.range c.epiCount).filter (fun i => isStat (c.epiOp i))).length > 1 then some 100
        else if c.chainEn && c.statAt.isSome then some 83
        else none

end Sys2Proof.Machine
end

