-- ==== Sys2Proof/Machine/Halyard.lean ====
section
/-! DEFINITION. Tile spaces and visit orders: bands, blocks, chunks, segments, ranks, the Hilbert curve, split-K groups, and the division of ranks among dies (R250-R271). -/

namespace Sys2Proof.Machine

/-! ### Array modes (Table 6-1) -/

/-- The row of Table 6-1 of a weight format: mode number, columns per cell, largest band. -/
def weightMode (w : Fmt) (pair : Bool) : Nat × Nat × Nat :=
  if pair then (4, 1, 512)
  else match w with
    | .bf16 | .fp16 => (0, 1, 1024)
    | .e4m3 | .e5m2 | .mxE4m3 | .mxE5m2 | .int8 | .uint8 | .mxInt8 => (1, 1, 1024)
    | .mxE3m2 | .mxE2m3 | .mxFp4 | .int4 | .lut4 => (2, 2, 512)
    | _ => (3, 4, 256)

/-- The streaming interval r of Table 6-1 (4 in each of 3 passes in pair mode). -/
def streamInterval (a w : Fmt) (pair : Bool) : Nat :=
  if pair then 4
  else if w == .bf16 || w == .fp16 || a == .bf16 || a == .fp16 then 2 else 1

/-! ### Bands, blocks and chunks (R250-R254) -/

def TileSpace.bands (t : TileSpace) : Nat := ceilDiv t.rows t.mt
def TileSpace.blocks (t : TileSpace) : Nat := ceilDiv t.cols t.nt
def TileSpace.perGrid (t : TileSpace) : Nat := t.bands * t.blocks

/-- The number of output tiles. -/
def TileSpace.outputs (t : TileSpace) : Nat := t.grids * t.perGrid

/-- Rows present in a band. -/
def TileSpace.bandRows (t : TileSpace) (b : Nat) : Nat := min t.mt (t.rows - b * t.mt)

/-- Columns present in a block. -/
def TileSpace.blockCols (t : TileSpace) (n : Nat) : Nat := min t.nt (t.cols - n * t.nt)

def TileSpace.chunks (t : TileSpace) : Nat := ceilDiv t.k 256

/-- Cycles of one chunk for a band (R252), or of one key block (R349). -/
def TileSpace.chunkCycles (t : TileSpace) (b : Nat) : Nat :=
  let rows := t.bandRows b
  if t.r2 > 0 then max (max (rows * t.r) 256 + max (rows * t.r2) 256) (3 * rows)
  else t.passes * max (rows * t.r) 256

/-- R253, R350: chunks in a full segment of a band's tiles. -/
def TileSpace.segChunks (t : TileSpace) (b : Nat) : Nat := max 1 (32768 / t.chunkCycles b)

/-- R253: the number of segments of a tile of band b: 1 when it is not cut. -/
def TileSpace.segments (t : TileSpace) (b : Nat) : Nat :=
  if t.bypass || t.chunks * t.chunkCycles b ≤ 32768 || t.splits > 0 then 1 else ceilDiv t.chunks (t.segChunks b)

/-- The k range of segment s of a tile of band b. -/
def TileSpace.segRange (t : TileSpace) (b s : Nat) : Nat × Nat :=
  if t.segments b = 1 then (0, t.k)
  else (s * t.segChunks b * 256, min t.k ((s + 1) * t.segChunks b * 256))

/-- R254, R350: a save slot's size in 64 KiB units. -/
def TileSpace.slotUnits (t : TileSpace) : Nat :=
  let words := if t.slotWords > 0 then t.slotWords else if t.passes = 3 then 512 else t.nt
  ceilDiv (t.mt * words * 4) 65536

/-! ### Visit order (R257, R258) -/

/-- The least power of two not below n, as an exponent. -/
def log2Up (n : Nat) : Nat := if n ≤ 1 then 0 else Nat.log2 (n - 1) + 1

/-- One bit pair of the Hilbert walk: `n` steps remain, at side `s`. -/
def hilbertStep : Nat → Nat → Nat → Nat → Nat → Nat × Nat
  | 0, _, _, x, y => (x, y)
  | n + 1, s, t, x, y =>
    let rx := (t / 2) % 2
    let ry := (t ^^^ rx) % 2
    let fl := decide (ry = 0)
    let x1 := if fl && rx == 1 then s - 1 - x else x
    let y1 := if fl && rx == 1 then s - 1 - y else y
    let x2 := if fl then y1 else x1
    let y2 := if fl then x1 else y1
    hilbertStep n (2 * s) (t / 4) (x2 + s * rx) (y2 + s * ry)

/-- R258: the cell of distance d on the curve of side 2^p. -/
def hilbertCell (p d : Nat) : Nat × Nat := hilbertStep p 1 d 0 0

/-- R258: the curve's cells in the grid, in rank order. -/
def TileSpace.curve (t : TileSpace) : List (Nat × Nat) :=
  let p := log2Up (max t.bands t.blocks)
  ((List.range (4 ^ p)).map (hilbertCell p)).filter (fun c => decide (c.1 < t.bands) && decide (c.2 < t.blocks))

/-- R256: grid, band and block of a rank. -/
def TileSpace.cell (t : TileSpace) (rank : Nat) : Nat × Nat × Nat :=
  let g := rank / max 1 t.perGrid
  let i := rank % max 1 t.perGrid
  if t.finish then (g, i / max 1 t.blocks, i % max 1 t.blocks)
  else let c := t.curve.getD i (0, 0); (g, c.1, c.2)

/-! ### Parts of an output tile -/

/-- Parts per output tile: segments, or split-K groups and the finish tile, or the two passes. -/
def TileSpace.parts (t : TileSpace) (rank : Nat) : Nat :=
  if t.splits > 0 then t.splits + 1
  else t.segments (t.cell rank).2.1

/-- Second-stage tiles (chained product or second pass): grid and band by row, then block of the second width. -/
def TileSpace.secondBlocks (t : TileSpace) : Nat := if t.second = 0 then 0 else ceilDiv t.second t.secondNt

def TileSpace.secondTiles (t : TileSpace) : Nat := t.grids * t.bands * t.secondBlocks

/-- The tile number that marks second-stage tiles in `TileId.sub`. -/
def secondSub : Nat := 1000000

/-- The second-stage tiles of one band of a grid. -/
def TileSpace.bandSecond (t : TileSpace) (g b : Nat) : List TileId :=
  (List.range t.secondBlocks).map (fun n => ⟨(g * t.bands + b) * t.secondBlocks + n, secondSub⟩)

/-- Every tile of the space (R256): output tiles by rank with their parts, then second-stage tiles. -/
def TileSpace.tiles (t : TileSpace) : List TileId :=
  (List.range t.outputs).flatMap (fun k => (List.range (t.parts k)).map (fun s => ⟨k, s⟩)) ++
  (List.range t.secondTiles).map (fun k => ⟨k, secondSub⟩)

/-- R91: the number of tiles, counted without listing them. -/
def TileSpace.count (t : TileSpace) : Nat :=
  (if t.splits > 0 then t.outputs * (t.splits + 1)
   else t.grids * t.blocks * ((List.range t.bands).foldl (fun a b => a + t.segments b) 0)) + t.secondTiles

/-- Streaming cycles of a tile (R252, R560). -/
def TileSpace.cycles (t : TileSpace) (id : TileId) : Nat :=
  if t.cost > 0 then t.cost
  else if id.sub = secondSub then
    let rows := t.bandRows (id.rank / max 1 t.secondBlocks % max 1 t.bands)
    let nc := min t.secondNt (t.second - id.rank % max 1 t.secondBlocks * t.secondNt)
    if t.chainR > 0 then ceilDiv t.cols 256 * max (rows * t.chainR) 256 else rows * ceilDiv nc 256
  else
    let c := t.cell id.rank
    let rows := t.bandRows c.2.1
    if t.bypass || (t.splits > 0 && id.sub == t.splits) || t.k = 0 then rows * ceilDiv (t.blockCols c.2.2) 256
    else if t.splits > 0 then ceilDiv (min t.kg (t.k - id.sub * t.kg)) 256 * t.chunkCycles c.2.1
    else
      let r := t.segRange c.2.1 id.sub
      ceilDiv (r.2 - r.1) 256 * t.chunkCycles c.2.1

/-! ### Dealing (R267, R269) -/

/-- R269: the ranks of each die: first rank and number of output tiles, from the partition's cores on each die. -/
def dieRanges (total : Nat) (cores : List Nat) : List (Nat × Nat × Nat) :=
  (List.range 4).map (fun die =>
    let below := (cores.filter (fun n => decide (n / 16 < die))).length
    let upto := (cores.filter (fun n => decide (n / 16 ≤ die))).length
    let lo := total * below / max 1 cores.length
    let hi := total * upto / max 1 cores.length
    (die, lo, hi - lo))

/-- R267: the tile of a die-local unit. -/
def TileSpace.unitTile (t : TileSpace) (first n i : Nat) : TileId :=
  if t.splits > 0 then ⟨first + i % max 1 n, i / max 1 n⟩ else ⟨first + i, 0⟩

/-- The work counters of a command at its start (R270). -/
def TileSpace.startWork (t : TileSpace) (cores : List Nat) : Work :=
  { total := t.count,
    dies := (dieRanges t.outputs cores).map (fun r =>
      { die := r.1, first := r.2.1, units := if t.splits > 0 then r.2.2 * t.splits else r.2.2,
        back := if t.splits > 0 then r.2.2 * t.splits else r.2.2 }) }

end Sys2Proof.Machine
end

