-- ==== Sys2Proof/Machine/Matmul.lean ====
section
/-! DEFINITION. MATMUL: parameters, shapes, admission checks, tile space and the result of each of its tiles (R248-R268, R277-R279, R293-R307). -/

namespace Sys2Proof.Machine

/-! ### Helpers shared by the opcodes' checks -/

/-- DESCRIPTOR_INVALID at a byte of a tensor descriptor, or with `ti` 0xFF of the command descriptor (Table 3-13). -/
def badAt (off ti : Nat) : Option (Nat × Nat) := some (stINVALID, off + (ti <<< 8))

/-- DESCRIPTOR_INVALID at the shape of dimension i of tensor ti. -/
def badShape (ti i : Nat) : Option (Nat × Nat) := badAt (12 + 4 * i) ti

/-- FORMAT_UNSUPPORTED for a tensor. -/
def badFormat (c : Cmd) (ti : Nat) : Option (Nat × Nat) := some (stFORMAT, ti + ((c.tensor ti).fmt <<< 8))

/-- The first failure of a list of checks. -/
def firstBad (l : List (Option (Nat × Nat))) : Option (Nat × Nat) := l.findSome? id

/-- A failure only where a condition does not hold. -/
def need (ok : Bool) (f : Option (Nat × Nat)) : Option (Nat × Nat) := if ok then none else f

/-- The first extent above its plan maximum: (MAX index, extent, tensor index). -/
def overPlan (c : Cmd) (l : List (Nat × Nat × Nat)) : Option (Nat × Nat) :=
  (l.find? (fun x => decide (x.2.1 > c.entry.maxes.getD x.1 0))).map (fun x => (stSHAPE, x.1 + (x.2.2 <<< 8)))

/-- A tensor index below N_TENSORS. -/
def Cmd.idxOk (c : Cmd) (i : Nat) : Bool := decide (i < c.tensors.length)

/-- Shapes agree with a list of extents. -/
def shapeIs (c : Cmd) (ti : Nat) (want : List Nat) : Option (Nat × Nat) :=
  let t := c.tensor ti
  match (List.range 5).find? (fun i => t.dim i != want.getD i 1) with
  | some i => badShape ti i
  | none => none

/-- A vector of [n] or [n, p] (Table 10-7). -/
def vecShape (c : Cmd) (ti n p : Nat) : Option (Nat × Nat) :=
  let t := c.tensor ti
  if t.dim 0 != n then badShape ti 0
  else if !(t.dim 1 == 1 || t.dim 1 == p) then badShape ti 1
  else if t.dim 2 != 1 then badShape ti 2 else none

/-! ### Parameters (Table 9-1) -/

def Cmd.mA (c : Cmd) : Nat := c.u8 64
def Cmd.mB (c : Cmd) : Nat := c.u8 65
def Cmd.mOut (c : Cmd) : Nat := c.u8 66
def Cmd.mCarry (c : Cmd) : Nat := c.u8 67
def Cmd.mSplit (c : Cmd) : Nat := c.u16 68
def Cmd.mMt (c : Cmd) : Nat := c.u8 70
def Cmd.mCombine (c : Cmd) : Nat := c.u8 71
def Cmd.mWorkBase (c : Cmd) : Nat := c.u16 72
def Cmd.mWorkSize (c : Cmd) : Nat := c.u16 74

def Cmd.mChain (c : Cmd) : Acc := chainKind (c.tensor c.mA) (c.tensor c.mB)

/-- R259: whether the effective order is FINISH. -/
def Cmd.finishOrder (c : Cmd) : Bool :=
  c.order == 1 || (c.order == 0 && c.sessionValid) || c.chainEn || c.statAt.isSome

/-- The tile space of a MATMUL. -/
def Cmd.mSpace (c : Cmd) : TileSpace :=
  let a := c.tensor c.mA
  let b := c.tensor c.mB
  let o := c.tensor c.mOut
  let pair := c.mChain.isPair
  let wm := weightMode b.format pair
  let n := b.dim 1
  let m := a.dim 1
  let p := o.dim 2
  let w2 := weightMode (c.tensor c.chainW).format false
  let kg := 256 * c.mSplit
  { grids := if c.foldMode = 3 then p else 1,
    rows := if c.foldMode = 1 then p * m else m,
    cols := if c.foldMode = 2 then p * n else n,
    k := a.dim 0,
    mt := if c.mMt = 0 then wm.2.2 else 128 * 2 ^ c.mMt,
    nt := 256 * wm.2.1,
    r := streamInterval a.format b.format pair,
    passes := if pair then 3 else 1,
    finish := c.finishOrder,
    splits := if c.mSplit = 0 || a.dim 0 ≤ kg then 0 else ceilDiv (a.dim 0) kg,
    kg := kg,
    second := if c.chainEn then (c.tensor c.chainW).dim 1 else if c.statAt.isSome then (if c.foldMode = 2 then p * n else n) else 0,
    secondNt := if c.chainEn then 256 * w2.2.1 else 256 * wm.2.1,
    chainR := if c.chainEn then streamInterval c.chainFmt (c.tensor c.chainW).format false else 0,
    mode := wm.1,
    integer := c.mChain.isInt,
    bypass := a.dim 0 == 0 }

/-! ### Checks -/

/-- R279: the work area of a row band, and of the two slots of a segmented command, in 64 KiB units. -/
def TileSpace.bandUnits (t : TileSpace) (arrays : Nat) : Nat :=
  let h := ceilDiv t.blocks (max 1 arrays)
  let seg := (List.range t.bands).any (fun b => decide (t.segments b > 1))
  ceilDiv (16 * h * t.mt * t.nt + (if seg then 2 * t.slotUnits * 65536 else 0)) 65536

/-- R303: the two band buffers of a chain, in 64 KiB units. -/
def Cmd.chainUnits (c : Cmd) (t : TileSpace) : Nat :=
  2 * ceilDiv (t.mt * t.cols * c.chainFmt.width / 8) 65536

/-- Formats and shapes of the fused steps of an output [n, m, p] (R293, R294, R297). -/
def Cmd.fuseShapes (c : Cmd) (n m p n2 : Nat) : Option (Nat × Nat) :=
  firstBad ((List.range c.epiCount).map (fun i =>
    let a := c.epiArg i
    let nn := if c.chainEn && decide (i ≥ c.chainEpi) then n2 else n
    match c.epiOp i with
    | 0x01 | 0x03 => vecShape c a nn p
    | 0x02 | 0x04 => vecShape c a m p
    | 0x07 | 0x08 => shapeIs c a [nn, m, p, 1, 1]
    | 0x10 | 0x11 => if a = 0xFF then none else vecShape c a nn p
    | 0x12 => shapeIs c a [2, m, p, 1, 1]
    | _ => none))

def Cmd.proShapes (c : Cmd) (a : TensorD) : Option (Nat × Nat) :=
  firstBad ((List.range c.proCount).map (fun i =>
    let t := c.proArg i
    match c.proOp i with
    | 0x41 | 0x42 => vecShape c t (a.dim 0) (a.dim 2)
    | 0x43 => vecShape c t (a.dim 1) (a.dim 2)
    | 0x44 | 0x45 => shapeIs c t a.shape
    | _ => none))

/-- Formats of the fused steps (R293, R294, R297, R298). -/
def Cmd.fuseFormats (c : Cmd) (integer : Bool) (a : Nat) : Option (Nat × Nat) :=
  firstBad (((c.epiStreams ++ c.epiVectors ++ c.proStreams ++ c.proVectors).map (fun i =>
      need (c.tensor i).format.isStream5 (badFormat c i))) ++
    [need (c.proCount == 0 || (c.tensor a).format.isStream4) (badFormat c a),
     need (!c.out2En || (c.tensor c.out2).format.okOutput (integer && c.epiCount == 0)) (badFormat c c.out2)] ++
    (List.range c.epiCount).map (fun i => need (c.epiOp i != 0x12 || (c.tensor (c.epiArg i)).format == .fp32) (badFormat c (c.epiArg i))))

/-- A companion of the shape its format asks (R133, R137, R138); `pb` is the number of problems of a weight. -/
def Cmd.companionOk (c : Cmd) (ti : Nat) (weight : Bool) : Option (Nat × Nat) :=
  let t := c.tensor ti
  let f := t.format
  let x := c.tensor t.aux
  let groups := if t.group = 0 then 1 else ceilDiv (t.dim 0) t.group
  let groupOk := t.group == 32 || t.group == 64 || t.group == 128
  if f.isMx then
    firstBad [need (c.idxOk t.aux && x.format == .uint8 && x.dim 0 == ceilDiv (t.dim 0) 32 && x.shape.drop 1 == t.shape.drop 1) (badAt 9 ti),
      need (t.group == 0) (badAt 10 ti)]
  else if f == .lut4 || f == .lut2 then
    firstBad [need (c.idxOk t.aux && x.format == .bf16) (badAt 9 ti), need (t.group == 0 || groupOk) (badAt 10 ti),
      need (x.dim 0 == (if f == .lut4 then 16 else 4) && x.dim 1 == groups && x.dim 2 == t.dim 1 && (x.dim 3 == 1 || x.dim 3 == t.dim 2) && x.dim 4 == 1)
        (badAt 9 ti)]
  else if (f == .int4 || f == .int2) && t.aux != 0xFF then
    firstBad [need weight (badAt 9 ti), need (c.idxOk t.aux && x.format == .bf16) (badAt 9 ti), need groupOk (badAt 10 ti),
      need (x.dim 0 == 2 && x.dim 1 == groups && x.dim 2 == t.dim 1 && (x.dim 3 == 1 || x.dim 3 == t.dim 2) && x.dim 4 == 1) (badAt 9 ti)]
  else firstBad [need (t.aux == 0xFF) (badAt 9 ti), need (t.group == 0) (badAt 10 ti)]

/-- The work area of MATMUL and CONV: base and size within 384 units. -/
def workOk (base size : Nat) : Bool := decide (base + size ≤ 384)

/-- Problem and row of a stacked row index, and of a column index (R261). -/
def Cmd.mRow (c : Cmd) (g r : Nat) : Nat × Nat :=
  let m := (c.tensor c.mA).dim 1
  if c.foldMode = 1 then (r / max 1 m, r % max 1 m) else (g, r)

def Cmd.mCol (c : Cmd) (p col : Nat) : Nat × Nat :=
  let n := (c.tensor c.mB).dim 1
  if c.foldMode = 2 then (col / max 1 n, col % max 1 n) else (p, col)

/-- Coordinates (n, m, p) of OUT for a stacked row and column of grid g. -/
def Cmd.mCoord (c : Cmd) (g r col : Nat) : List Nat :=
  let pm := c.mRow g r
  let pn := c.mCol pm.1 col
  [pn.2, pm.2, pn.1, 0, 0]

/-- R264: each row of the combine tensor begins a 256-byte slot, and the slots of each output tile lie in the scratchpad of one core. -/
def Cmd.combineOk (c : Cmd) (t : TileSpace) : Bool :=
  let w := c.tensor c.mCombine
  w.count == 0 || (List.range t.grids).all (fun g => (List.range t.bands).all (fun b =>
    let rows := (List.range (t.bandRows b)).map (fun i => w.bitAddr (c.mCoord g (b * t.mt + i) 0) / 8)
    rows.all (fun a => a % 256 == 0 && a / 0x2000000 == rows.headD 0 / 0x2000000)))

/-- The admission checks of a MATMUL on a partition of `cores` cores. -/
def Cmd.mCheck (c : Cmd) (cores : Nat) : OpCheck :=
  let a := c.tensor c.mA
  let b := c.tensor c.mB
  let o := c.tensor c.mOut
  let t := c.mSpace
  let kind := c.mChain
  let p := o.dim 2
  let m := a.dim 1
  let n := b.dim 1
  let n2 := (c.tensor c.chainW).dim 1
  let pa := a.dim 2
  let pb := b.dim 2
  let folds : Nat × Nat := match c.foldMode with
    | 0 => (1, 1)
    | 1 => (p, 1)
    | 2 => (1, p)
    | _ => (p, p)
  let carry := c.mCarry != 0xFF
  let split := c.mSplit != 0
  let comb := c.tensor c.mCombine
  let seg := (List.range t.bands).any (fun b => decide (t.segments b > 1))
  let arrays := 2 * cores
  { formed := firstBad [
      need (c.idxOk c.mA) (badAt 64 0xFF), need (c.idxOk c.mB) (badAt 65 0xFF), need (c.idxOk c.mOut) (badAt 66 0xFF),
      need (!carry || c.idxOk c.mCarry) (badAt 67 0xFF),
      need (!split || !(t.finish || kind.isPair || c.statAt.isSome || c.chainEn)) (badAt 68 0xFF),
      need (!split || (decide (ceilDiv (a.dim 0) (256 * c.mSplit) ≤ 32767) &&
        decide (min c.mSplit t.chunks * t.chunkCycles 0 ≤ 32768))) (badAt 68 0xFF),
      need (decide (c.mMt ≤ 3) && decide (t.mt ≤ (weightMode b.format kind.isPair).2.2)) (badAt 70 0xFF),
      need (if split then c.idxOk c.mCombine else c.mCombine == 0xFF) (badAt 71 0xFF),
      need (workOk c.mWorkBase c.mWorkSize) (badAt 74 0xFF), need (zeroAt c.raw 76 4) (badAt 76 0xFF),
      c.fuseBad.elim none (fun off => badAt off 0xFF),
      need (c.foldMode != 0 || p == 1) (badShape c.mOut 2), need (pa == folds.1) (badShape c.mA 2), need (pb == folds.2) (badShape c.mB 2),
      need (b.dim 0 == a.dim 0) (badShape c.mB 0),
      shapeIs c c.mOut [if c.chainEn then n2 else n, m, p, 1, 1],
      need (a.dim 3 == 1 && a.dim 4 == 1) (badShape c.mA 3), need (b.dim 3 == 1 && b.dim 4 == 1) (badShape c.mB 3),
      (if carry then shapeIs c c.mCarry o.shape else none),
      (if split then firstBad [need (comb.space == 1 && comb.tagged) (badAt 8 c.mCombine),
        need (comb.format == (if kind.isInt then .int32 else .fp32)) (badAt 6 c.mCombine), shapeIs c c.mCombine o.shape,
        need (c.combineOk t) (badAt 0 c.mCombine)] else none),
      (if c.chainEn then firstBad [need ((c.tensor c.chainW).dim 0 == n) (badShape c.chainW 0), need ((c.tensor c.chainW).dim 2 == pb) (badShape c.chainW 2),
        need (c.order != 2) (badAt 7 0xFF)] else none),
      (if c.out2En then shapeIs c c.out2 o.shape else none),
      (if c.fbufEn then shapeIs c c.fbuf (if c.chainEn then [n, m, p, 1, 1] else o.shape) else none),
      (if c.fbufEn && c.statAt.isSome then need ((c.tensor c.fbuf).format == .fp32) (badAt 6 c.fbuf) else none),
      (if c.fbufEn && c.chainEn then need ((c.tensor c.fbuf).format == c.chainFmt) (badAt 6 c.fbuf) else none),
      c.fuseShapes n m p n2, c.proShapes a,
      c.companionOk c.mA false, c.companionOk c.mB true, c.companionOk c.mOut false,
      (if c.out2En then c.companionOk c.out2 false else none), (if c.chainEn then c.companionOk c.chainW true else none),
      need (!(kind.isPair && o.format == .fp32x2 && decide (c.epiCount > 0))) (badAt 80 0xFF),
      need (!seg || decide (c.mWorkSize ≥ 2 * t.slotUnits)) (badAt 74 0xFF)],
    format := firstBad [
      need a.format.okActivation (badFormat c c.mA), need b.format.okWeight (badFormat c c.mB),
      need ((a.format == .fp32) == (b.format == .fp32)) (badFormat c (if a.format == .fp32 then c.mA else c.mB)),
      need (o.format.okOutput kind.isInt) (badFormat c c.mOut),
      (if carry then need (if kind.isInt then (c.tensor c.mCarry).format == .int32
        else [Fmt.fp32, .bf16, .fp16, .fp32x2].contains (c.tensor c.mCarry).format) (badFormat c c.mCarry) else none),
      (if c.chainEn then need ((c.tensor c.chainW).format.okWeight && (c.tensor c.chainW).format != .fp32) (badFormat c c.chainW) else none),
      c.fuseFormats kind.isInt c.mA],
    shape := overPlan c ([(0, a.dim 0, c.mA), (1, m, c.mA), (2, n, c.mB), (3, p, c.mOut)] ++
      (if c.chainEn then [(4, n2, c.chainW)] else [])),
    streams := c.streamsExceeded.map (fun v => (stSTREAMS, v)),
    band :=
      if c.chainEn then
        if decide (c.chainUnits t ≤ c.mWorkSize) || (c.fallbackOk && c.fbufEn) then none else some (stBAND, c.chainUnits t)
      else if c.statAt.isSome then
        if decide (t.bandUnits arrays ≤ c.mWorkSize) || (c.fallbackOk && c.fbufEn) then none else some (stBAND, 0)
      else none,
    inputs := ([c.mA, c.mB] ++ (if carry then [c.mCarry] else []) ++ (if c.chainEn then [c.chainW] else []) ++
      c.epiStreams ++ c.epiVectors ++ c.proStreams ++ c.proVectors ++
      ([c.mA, c.mB] ++ (if c.chainEn then [c.chainW] else [])).filterMap (fun i =>
        if (c.tensor i).aux = 0xFF then none else some (c.tensor i).aux)).eraseDups,
    outputs := ([c.mOut] ++ (if c.out2En then [c.out2] else []) ++ (if c.fbufEn then [c.fbuf] else []) ++ (if split then [c.mCombine] else []) ++
      (if o.format.isMx then [o.aux] else []) ++ (match c.statAt with
        | some i => if c.epiOp i = 0x12 then [c.epiArg i] else []
        | none => [])).eraseDups,
    inPlace := c.epiStreams,
    work := if c.mWorkSize = 0 then none else some (c.mWorkBase, c.mWorkSize),
    empty := m == 0 || n == 0 || p == 0 || o.count == 0,
    job := if c.sendMode = 0 then none else some c.sendJob }

/-- Whether the command runs in its fallback form (R304, R307). -/
def Cmd.mFallback (c : Cmd) (cores : Nat) : Bool :=
  let t := c.mSpace
  c.fbufEn && ((c.chainEn && decide (c.chainUnits t > c.mWorkSize)) ||
    (c.statAt.isSome && decide (t.bandUnits (2 * cores) > c.mWorkSize)))

/-! ### Tile results -/

/-- The products of an output element over a range of k (R142). -/
def Dev.mProducts (d : Dev) (c : Cmd) (co : List Nat) (lo hi : Nat) : Num (List (Val × Val)) :=
  let p := co.getD 2 0
  let pa := if (c.tensor c.mA).dim 2 = 1 then 0 else p
  let pb := if (c.tensor c.mB).dim 2 = 1 then 0 else p
  (List.range (hi - lo)).mapM (fun i => do
    let x ← d.streamed c c.mA [lo + i, co.getD 1 0, pa, 0, 0]
    let y ← d.elemOf c c.mB [lo + i, co.getD 0 0, pb, 0, 0]
    return (x, y))

/-- The accumulator an output element starts from: the carry-in or zero. -/
def Dev.mStart (d : Dev) (c : Cmd) (co : List Nat) : Num Acc :=
  if c.mCarry = 0xFF then return c.mChain
  else do
    let t := c.tensor c.mCarry
    let w ← d.readElem c.part t co
    carryAcc c.ftz c.mChain t w

/-- The final value and tapped value of an output element from its accumulator: steps `lo` to `hi`, the tap counted from step 0. -/
def Dev.finishElem (d : Dev) (c : Cmd) (out : Nat) (co : List Nat) (acc : Acc) (lo hi : Nat) : Num (Val × Option Word) := do
  let fmt := (c.tensor out).format
  if c.epiCount = 0 then
    let w ← acc.epi c.ftz
    return (acc.val fmt, some w)
  else
    let x ← acc.epi c.ftz
    let vs ← d.epiRun c out co x (c.epiSteps lo hi)
    let tapped := if lo ≤ c.tap && decide (c.tap ≤ hi) then vs[c.tap - lo]? else none
    return (val32 (vs.getLastD x), tapped)

/-- Group the columns of a row into runs along dimension 0 of one line of the output. -/
def lineRuns {α : Type} : List (List Nat × α) → List (List Nat × List α)
  | [] => []
  | (co, x) :: r =>
    match lineRuns r with
    | (co', xs) :: t => if co'.drop 1 = co.drop 1 then (co, x :: xs) :: t else (co, [x]) :: (co', xs) :: t
    | [] => [(co, [x])]

/-- Emit a tile's rows: `nr` rows from `r0`, for each the columns from `c0`, `nc` of them. -/
def emitTile (c : Cmd) (out : Nat) (r0 nr c0 nc : Nat) (coord : Nat → Nat → List Nat)
    (val : Nat → Nat → Num (Val × Option Word)) : Num (List ElemWrite × List (Nat × Nat)) := do
  let rows ← (List.range nr).mapM (fun i => do
    let vs ← (List.range nc).mapM (fun j => do
      let v ← val (r0 + i) (c0 + j)
      return (coord (r0 + i) (c0 + j), v))
    let es ← (lineRuns vs).mapM (fun q =>
      c.emitOutputs out (q.1.getD 0 0) (q.1.drop 1) (q.2.map (·.1)) (q.2.map (·.2)))
    return (es.flatMap (·.1), es.flatMap (·.2)))
  return (rows.flatMap (·.1), rows.flatMap (·.2))

/-- The kept accumulators of a tile: row-major over the tile's own columns. -/
def Work.kept (w : Work) (id : TileId) : List Acc := ((w.held.find? (fun h => h.1 == id)).map (·.2)).getD []

/-- A kept value of row `i` and column `j` (of `nc`) of a tile. -/
def Work.keptAt (w : Work) (id : TileId) (nc i j : Nat) : Acc := (w.kept id).getD (i * nc + j) (.fp w0)

/-- The accumulators of a tile over its k range, row by row. -/
def Dev.mAccs (d : Dev) (c : Cmd) (t : TileSpace) (g b n lo hi : Nat) (start : Nat → Nat → Num Acc) : Num (List (List Acc)) :=
  (List.range (t.bandRows b)).mapM (fun i => (List.range (t.blockCols n)).mapM (fun j => do
    let co := c.mCoord g (b * t.mt + i) (n * t.nt + j)
    let s ← start i j
    let ps ← d.mProducts c co lo hi
    accRun c.ftz s ps))

/-- R265: the op-writes of a group tile: each row's slots of 64 words. -/
def combineOps (c : Cmd) (t : TileSpace) (g b n grp : Nat) (accs : List (List Acc)) : List CombineOp :=
  (List.range accs.length).flatMap (fun i =>
    let row := accs.getD i []
    (List.range (ceilDiv row.length 64)).map (fun s =>
      { off := (c.tensor c.mCombine).bitAddr (c.mCoord g (b * t.mt + i) (n * t.nt + 64 * s)) / 8,
        group := grp, groups := t.splits, words := ((row.drop (64 * s)).take 64).map Acc.word,
        integer := c.mChain.isInt, arrival := c.num.arrivalOk }))

/-- The chained intermediate of an element: the first steps, then CHAIN_FMT under ROUND (R302). -/
def Dev.chainCode (d : Dev) (c : Cmd) (co : List Nat) (acc : Acc) : Num Nat := do
  let x ← acc.epi c.ftz
  let vs ← d.epiRun c c.mOut co x (c.epiSteps 0 c.chainEpi)
  let o := c.tensor c.mOut
  let u := if c.num.round = 2 then
      fullDraw c.seed (c.streamBase + c.chainW) (indexOf [(c.tensor c.mB).dim 1, o.dim 1, o.dim 2, 1, 1] co) 16 else 0
  convertTo c.chainFmt c.num u (val32 (vs.getLastD x))

/-- A chained intermediate read back: the first-product tile of its band and column holds it. -/
def Work.chainAt (w : Work) (t : TileSpace) (fmt : Fmt) (g b i k : Nat) : Val :=
  let n := k / t.nt
  let id : TileId := ⟨g * t.perGrid + b * t.blocks + n, t.segments b - 1⟩
  (w.keptAt id (t.blockCols n) i (k % t.nt)).val fmt

/-- The held row of a row band: its FP32 values over all columns. -/
def Work.rowOf (w : Work) (t : TileSpace) (g b i : Nat) : List Word :=
  (List.range t.cols).map (fun j =>
    let n := j / t.nt
    (w.keptAt ⟨g * t.perGrid + b * t.blocks + n, t.segments b - 1⟩ (t.blockCols n) i (j % t.nt)).word)

/-- The result of a second-stage tile of a chained product (R302). -/
def Dev.chainSecond (d : Dev) (c : Cmd) (t : TileSpace) (id : TileId) : Num TileResult := do
  let gb := id.rank / max 1 t.secondBlocks
  let n := id.rank % max 1 t.secondBlocks
  let g := gb / max 1 t.bands
  let b := gb % max 1 t.bands
  let nc := min t.secondNt (t.second - n * t.secondNt)
  let coord (r col : Nat) : List Nat := let pm := c.mRow g r; [col, pm.2, pm.1, 0, 0]
  let val (r col : Nat) : Num (Val × Option Word) := do
    let co := coord r col
    let pb := if (c.tensor c.chainW).dim 2 = 1 then 0 else co.getD 2 0
    let ps ← (List.range t.cols).mapM (fun k => do
      let y ← d.elemOf c c.chainW [k, col, pb, 0, 0]
      return (c.work.chainAt t c.chainFmt g b (r - b * t.mt) k, y))
    let s ← chainRun c.ftz w0 ps
    d.finishElem c c.mOut co (.fp s) c.chainEpi c.epiCount
  let e ← emitTile c c.mOut (b * t.mt) (t.bandRows b) (n * t.secondNt) nc coord val
  return { writes := e.1, sends := e.2 }

/-- The result of a second-pass tile of a row band (R306): the statistic over the whole row, then the later steps on the tile's columns. -/
def Dev.bandSecond (d : Dev) (c : Cmd) (t : TileSpace) (st : Nat) (coord : Nat → Nat → Nat → List Nat) (out nlen : Nat) (id : TileId) : Num TileResult := do
  let gb := id.rank / max 1 t.secondBlocks
  let n := id.rank % max 1 t.secondBlocks
  let g := gb / max 1 t.bands
  let b := gb % max 1 t.bands
  let rows ← (List.range (t.bandRows b)).mapM (fun i => do
    let r := b * t.mt + i
    let xs := c.work.rowOf t g b i
    -- one statistic for each problem's row of length N
    let stats ← (List.range (t.cols / max 1 nlen)).mapM (fun q =>
      d.rowStat c (c.epiOp st, c.epiArg st) (c.epiIndex out (coord g r (q * nlen))).2.2 ((xs.drop (q * nlen)).take nlen))
    let ys := stats.flatMap (·.1)
    let c0 := n * t.secondNt
    let nc := t.blockCols n
    let vs ← (List.range nc).mapM (fun j => do
      let co := coord g r (c0 + j)
      let w ← d.epiRun c out co (ys.getD (c0 + j) w0) (c.epiSteps (st + 1) c.epiCount)
      let tapped := if decide (c.tap > st) then w[c.tap - st - 1]? else none
      return (val32 (w.getLastD w0), tapped))
    let es ← (lineRuns ((List.range nc).map (fun j => (coord g r (c0 + j), vs.getD j (.nan, none))))).mapM (fun q =>
      c.emitOutputs out (q.1.getD 0 0) (q.1.drop 1) (q.2.map (·.1)) (q.2.map (·.2)))
    let e := (es.flatMap (·.1), es.flatMap (·.2))
    let sums := if n = 0 && c.epiOp st == 0x12 then
        (List.range stats.length).flatMap (fun q =>
          let co := coord g r (q * nlen)
          let sm := (stats.getD q ([], [])).2
          (List.range sm.length).flatMap (fun k =>
            (c.tensor (c.epiArg st)).put [k, co.getD 1 0, co.getD 2 0, 0, 0] (sm.getD k w0).toNat)) else []
    return (e.1 ++ sums, e.2))
  return { writes := rows.flatMap (·.1), sends := rows.flatMap (·.2) }

/-- The last part of an output tile whose chain values are known: what it writes or keeps. -/
def Dev.gridFinish (d : Dev) (c : Cmd) (t : TileSpace) (out g b n : Nat) (fallback : Bool) (coord : Nat → Nat → Nat → List Nat)
    (accs : List (List Acc)) : Num TileResult := do
  let r0 := b * t.mt
  let c0 := n * t.nt
  let at' (r col : Nat) : Acc := (accs.getD (r - r0) []).getD (col - c0) (.fp w0)
  if c.chainEn then
    let codes ← (List.range accs.length).mapM (fun i => (List.range (t.blockCols n)).mapM (fun j => do
      let co := coord g (r0 + i) (c0 + j)
      let v ← d.chainCode c co (at' (r0 + i) (c0 + j))
      return (co, v)))
    let wr := if fallback then codes.flatten.flatMap (fun q => (c.tensor c.fbuf).put q.1 q.2) else []
    return { writes := wr, held := codes.flatten.map (fun q => .code q.2) }
  else
    match c.statAt with
    | some st => do
      let vals ← (List.range accs.length).mapM (fun i => do
        let row ← (List.range (t.blockCols n)).mapM (fun j => do
          let co := coord g (r0 + i) (c0 + j)
          let x ← (at' (r0 + i) (c0 + j)).epi c.ftz
          let vs ← d.epiRun c out co x (c.epiSteps 0 st)
          return (co, vs.getLastD x, if c.tap ≤ st then vs[c.tap]? else none))
        -- values tapped before the statistic step are written at the first-pass commit
        let taps := row.map (fun q => q.2.2)
        let t2 ← if c.out2En && decide (c.tap ≤ st) then do
            let es ← (lineRuns row).mapM (fun q =>
              Dev.emitRow c.num c.tensors (c.tensor c.out2) (q.1.getD 0 0) (q.1.drop 1)
                ((List.range q.2.length).map (fun k =>
                  (val32 ((q.2.getD k (w0, none)).2.getD w0), c.roundDraw c.out2 ((q.1.getD 0 0 + k) :: q.1.drop 1)))))
            pure es.flatten
          else pure []
        let sends := if c.sendMode = 1 && decide (c.tap ≤ st) then
            (row.zip taps).filterMap (fun q => q.2.map (fun w => ((c.tensor out).logical q.1.1, w.toNat))) else []
        return (row, t2, sends))
      let rows := vals.flatMap (·.1)
      let wr := if fallback then rows.flatMap (fun q => (c.tensor c.fbuf).put q.1 q.2.1.toNat) else []
      return { writes := wr ++ vals.flatMap (fun v => v.2.1), held := rows.map (fun q => .fp q.2.1), sends := vals.flatMap (fun v => v.2.2) }
    | none => do
      let e ← emitTile c out r0 accs.length c0 (t.blockCols n) (coord g)
        (fun r col => d.finishElem c out (coord g r col) (at' r col) 0 c.epiCount)
      return { writes := e.1, sends := e.2 }

/-- The result of one MATMUL tile, flags apart. -/
def Dev.mTileM (d : Dev) (c : Cmd) (fallback : Bool) (id : TileId) : Num TileResult := do
  let t := c.mSpace
  if id.sub = secondSub then
    if c.chainEn then d.chainSecond c t id
    else d.bandSecond c t (c.statAt.getD 0) c.mCoord c.mOut ((c.tensor c.mB).dim 1) id
  else
    let cell := t.cell id.rank
    let g := cell.1
    let b := cell.2.1
    let n := cell.2.2
    let start0 (i j : Nat) : Num Acc := d.mStart c (c.mCoord g (b * t.mt + i) (n * t.nt + j))
    if t.splits > 0 then
      if id.sub = t.splits then
        -- finish tile: the slots hold the combined values (R266)
        let accs := (List.range (t.bandRows b)).map (fun i => (List.range (t.blockCols n)).map (fun j =>
          let code := d.elemCode c.part (c.tensor c.mCombine) (c.mCoord g (b * t.mt + i) (n * t.nt + j))
          if c.mChain.isInt then Acc.int (toSigned 32 code) else Acc.fp (BitVec.ofNat 32 code)))
        d.gridFinish c t c.mOut g b n fallback c.mCoord accs
      else
        let lo := id.sub * t.kg
        let hi := min t.k (lo + t.kg)
        let accs ← d.mAccs c t g b n lo hi (fun i j => if id.sub = 0 then start0 i j else pure c.mChain)
        return { combines := combineOps c t g b n id.sub accs }
    else
      let segs := t.segments b
      let last := decide (id.sub + 1 = segs)
      let pair := c.mChain.isPair
      let range := if pair then (0, t.k) else t.segRange b id.sub
      if pair && !last then
        -- pair mode runs its passes over all of K; the value is formed with the last segment
        return { held := [] }
      else
        let prev : TileId := ⟨id.rank, id.sub - 1⟩
        let accs ← d.mAccs c t g b n range.1 range.2 (fun i j =>
          if id.sub = 0 || pair then start0 i j else pure (c.work.keptAt prev (t.blockCols n) i j))
        if last then d.gridFinish c t c.mOut g b n fallback c.mCoord accs
        else return { held := accs.flatten }

/-- Run a computation of a tile, with its flags in the result (R163). -/
def runTile (x : Num TileResult) : TileResult :=
  let r := x.run {}
  { r.1 with flags := r.2 }

end Sys2Proof.Machine
end

