-- ==== Sys2Proof/Machine/Copy.lean ====
section
/-! DEFINITION. The stack engines and COPY: scoring, block copies, fills, gathers, compactions and CRCs (R241-R247). -/

namespace Sys2Proof.Machine

/-! ### Stack-engine primitives (Table 8-6) -/

/-- The blocks of a stack: 32 channels of 8,388,608 channel blocks, numbered channel by channel (log entry 21). -/
def stackBlocks : Nat := 32 * 8388608

/-- The key of the first byte of block `b` of stack `s`. -/
def blockKey (s b : Nat) : Nat := (32 * s * 8388608 + b) * 256

/-- The bytes of a block. -/
def Dev.block (d : Dev) (s b : Nat) : Bytes := d.hbm.readBytes (blockKey s b) 256

def Dev.putBlock (d : Dev) (s b : Nat) (x : Bytes) : Dev := { d with hbm := d.hbm.writeBytes (blockKey s b) x }

/-- Count a command an engine completed, the bytes it wrote and the bytes it checked. -/
def Dev.stkCount (d : Dev) (s moved checked scored : Nat) : Dev :=
  let st := d.stackUnits.getD s {}
  let d : Dev := { d with stackUnits := d.stackUnits.set s { st with moved := st.moved + moved, checked := st.checked + checked } }
  (d.bump (pgSTK s) 0x804 1).bump (pgSTK s) 0x80C scored

/-- R243: the score of a summary against a query: the chain of R142 over BF16 products. -/
def scoreOf (query key : Bytes) : Word :=
  let vs (b : Bytes) : List Val := (List.range (b.length / 2)).map (fun i => fpDecode bf16Spec (fieldAt b (2 * i) 2))
  ((chainRun false w0 ((vs query).zip (vs key))).run {}).1

/-- R243: one score ranks before another. -/
def scoreBefore (a b : Nat × Word) : Bool :=
  let x := val32 a.2
  let y := val32 b.2
  if x.isNan then y.isNan && decide (a.1 < b.1)
  else if y.isNan then true
  else if y.lt x then true
  else if x.lt y then false
  else decide (a.1 < b.1)

/-- Put an item in rank order. -/
def rankInsert (x : Nat × Word) : List (Nat × Word) → List (Nat × Word)
  | [] => [x]
  | y :: r => if scoreBefore x y then x :: y :: r else y :: rankInsert x r

/-- R243: the first `top` of a list of scores, by rank. -/
def rankTop (top : Nat) (l : List (Nat × Word)) : List Nat := ((l.foldr rankInsert []).take top).map (·.1)

/-! ### COPY (Table 8-7) -/

def Cmd.cpMode (c : Cmd) : Nat := c.u8 64
def Cmd.cpSrc (c : Cmd) : Nat := c.u8 65
def Cmd.cpDst (c : Cmd) : Nat := c.u8 66
def Cmd.cpAux (c : Cmd) : Nat := c.u8 67

/-- Every coordinate of a tensor, dimension 0 fastest. -/
def TensorD.coords (t : TensorD) : List (List Nat) := (List.range t.count).map (coordsOf t.shape)

/-- The outermost dimension of a tensor (R246). -/
def TensorD.outer (t : TensorD) : Nat := t.rank - 1

/-- Coordinates of a slice. -/
def TensorD.inSlice (t : TensorD) (i : Nat) : List (List Nat) :=
  let t' : TensorD := { t with shape := t.shape.set t.outer 1 }
  t'.coords.map (fun co => co.set t.outer i)

/-- The stored bytes of the lines of a tensor, dimension 1 fastest (R246). -/
def Dev.lineBytes (d : Dev) (p : Nat) (t : TensorD) : Bytes :=
  (List.range (t.count / max 1 (t.dim 0))).flatMap (fun i =>
    let co := 0 :: coordsOf (t.shape.drop 1) i
    let g := t.format.group.1
    let n := ceilDiv (ceilDiv (t.dim 0) g * g * t.format.width) 8
    d.bytesIn p t.space (t.bitAddr co / 8) n)

/-- What a COPY command writes, whether it sets SATURATED, and its DETAIL. -/
def Dev.copyWrites (d : Dev) (c : Cmd) : List ElemWrite × Bool × Nat :=
  let p := c.part
  let s := c.tensor c.cpSrc
  let t := c.tensor c.cpDst
  let x := c.tensor c.cpAux
  match c.cpMode with
  | 0 => (t.coords.flatMap (fun co => t.put co (d.elemCode p s co)), false, 0)
  | 1 => (t.coords.flatMap (fun co => t.put co (bits (c.u32 68) 0 t.format.width)), false, 0)
  | 2 =>
    let r := (List.range (t.dim t.outer)).map (fun i =>
      let a := toSigned 32 (d.elemCode p x [i, 0, 0, 0, 0])
      let ok := decide (0 ≤ a) && decide (a < s.dim s.outer)
      ((t.inSlice i).flatMap (fun co => t.put co (if ok then d.elemCode p s (co.set s.outer a.toNat) else 0)), !ok))
    (r.flatMap (·.1), r.any (·.2), 0)
  | 3 =>
    let kept := (List.range (s.dim s.outer)).filter (fun i => d.elemCode p x [i, 0, 0, 0, 0] != 0)
    ((List.range kept.length).flatMap (fun i =>
      (t.inSlice i).flatMap (fun co => t.put co (d.elemCode p s (co.set s.outer (kept.getD i 0))))), false, kept.length)
  | _ =>
    let v := crc32c (d.lineBytes p s)
    (t.put [0, 0, 0, 0, 0] v, false, v)

/-- The physical block of an HBM address of a partition. -/
def Dev.blockAt (d : Dev) (p a : Nat) : Option Nat := (d.cellOf p a).map (· / 256)

/-- The stack of a physical block. -/
def stackOf (block : Nat) : Nat := block / 8388608 / 32

/-- The HBM blocks a tensor's lines touch. -/
def Dev.tensorBlocks (d : Dev) (p : Nat) (t : TensorD) : List Nat :=
  if t.space = 1 || isHost t.addr then []
  else
    ((List.range (t.count / max 1 (t.dim 0))).flatMap (fun i =>
      let lo := t.bitAddr (0 :: coordsOf (t.shape.drop 1) i) / 8
      let hi := (t.bitAddr (0 :: coordsOf (t.shape.drop 1) i) + t.dim 0 * t.format.width - 1) / 8
      (List.range (hi / 256 - lo / 256 + 1)).filterMap (fun k => d.blockAt p ((lo / 256 + k) * 256)))).eraseDups

/-- R244: two byte ranges of equal length that the stack engines can copy between. -/
def Dev.stackRange (d : Dev) (p a b n : Nat) : Bool :=
  match d.regionOf p a, d.regionOf p b with
  | some r, some q =>
    let x := a - r.base
    let y := b - q.base
    let diff := if x ≤ y then y - x else x - y
    x % 256 == 0 && y % 256 == 0 && n % 256 == 0 &&
      ((r.mode == 0 && q.mode == 0 && diff % 3072 == 0) || (r.mode == 1 && q.mode == 1 && r.die == q.die && diff % 768 == 0))
  | _, _ => false

/-- A tensor whose bytes are one run: start and length. -/
def TensorD.flatBytes (t : TensorD) : Option (Nat × Nat) :=
  match t.footprint with
  | some (lo, hi) => if (hi - lo + 1) * 8 = t.count * t.format.width then some (lo, hi - lo + 1) else none
  | none => none

/-- R244, R246: whether a COPY command is carried by the stack engines: both tensors in HBM, each one run of bytes, and every pair of
source and destination ranges (slices, in GATHER and COMPACT) meeting the offset condition. -/
def Dev.usesStacks (d : Dev) (c : Cmd) : Bool :=
  let s := c.tensor c.cpSrc
  let t := c.tensor c.cpDst
  let p := c.part
  let hbm (t : TensorD) : Bool := t.space == 0 && !isHost t.addr
  match c.cpMode with
  | 4 => hbm s
  | 1 => hbm t && (match t.flatBytes with
    | some (a, n) => d.stackRange p a a n
    | none => false)
  | 0 => hbm s && hbm t && (match s.flatBytes, t.flatBytes with
    | some (a, n), some (b, m) => n == m && d.stackRange p a b n
    | _, _ => false)
  | _ => hbm s && hbm t && (match s.flatBytes, t.flatBytes with
    | some (a, n), some (b, m) =>
      let len := n / max 1 (s.dim s.outer)
      let len' := m / max 1 (t.dim t.outer)
      len == len' && len % 3072 == 0 && d.stackRange p a b len
    | _, _ => false)

/-- Count the work of a COPY on the engines it used: one command on each stack, with the bytes it wrote there. -/
def Dev.countStacks (d : Dev) (c : Cmd) : Dev :=
  if !d.usesStacks c then d
  else
    let crc := c.cpMode == 4
    let blocks := d.tensorBlocks c.part (c.tensor (if crc then c.cpSrc else c.cpDst))
    (List.range 12).foldl (fun d s =>
      let n := (blocks.filter (fun b => stackOf b == s)).length * 256
      if n = 0 then d else d.stkCount s (if crc then 0 else n) (if crc then n else 0) 0) d

/-- The admission checks of a COPY. -/
def Cmd.cpCheck (c : Cmd) : OpCheck :=
  let s := c.tensor c.cpSrc
  let t := c.tensor c.cpDst
  let x := c.tensor c.cpAux
  let m := c.cpMode
  let fill := m == 1
  let aux := m == 2 || m == 3
  let sameInner := (List.range 5).find? (fun i => i != t.outer && t.dim i != s.dim i)
  { formed := firstBad [
      need (decide (m ≤ 4)) (badAt 64 0xFF), need (if fill then c.cpSrc == 0xFF else c.idxOk c.cpSrc) (badAt 65 0xFF),
      need (c.idxOk c.cpDst) (badAt 66 0xFF), need (if aux then c.idxOk c.cpAux else c.cpAux == 0xFF) (badAt 67 0xFF),
      need (fill || c.u32 68 == 0) (badAt 68 0xFF), need (zeroAt c.raw 72 56) (badAt 72 0xFF), need (c.foldMode == 0) (badAt 7 0xFF),
      (if m = 0 then firstBad [shapeIs c c.cpDst s.shape, need (s.fmt == t.fmt) (badAt 6 c.cpDst)] else none),
      (if aux then firstBad [need (s.rank == t.rank) (badAt 7 c.cpDst), need (s.fmt == t.fmt) (badAt 6 c.cpDst),
        (match sameInner with
          | some i => badShape c.cpDst i
          | none => none),
        need (x.rank == 1) (badAt 7 c.cpAux),
        need (x.format == (if m = 2 then Fmt.int32 else .uint8)) (badAt 6 c.cpAux),
        need (x.dim 0 == (if m = 2 then t.dim t.outer else s.dim s.outer)) (badShape c.cpAux 0),
        need (m != 3 || decide (t.dim t.outer ≥ s.dim s.outer)) (badShape c.cpDst t.outer)] else none),
      (if m = 4 then firstBad [need (t.format == .int32) (badAt 6 c.cpDst), need (s.fmt == t.fmt) (badAt 6 c.cpSrc), need (t.count == 1) (badShape c.cpDst 0)] else none)],
    format := firstBad [need (fill || s.format != .cf32) (badFormat c c.cpSrc), need (t.format != .cf32) (badFormat c c.cpDst),
      need (!fill || (decide (t.format.width ≤ 32) && !t.format.isMx)) (badFormat c c.cpDst)],
    shape := if m = 3 || m = 4 then overPlan c ((List.range 5).map (fun i => (i, s.dim i, c.cpSrc)))
      else overPlan c ((List.range 5).map (fun i => (i, t.dim i, c.cpDst))),
    inputs := (if fill then [] else [c.cpSrc]) ++ (if aux then [c.cpAux] else []),
    outputs := [c.cpDst],
    empty := t.count == 0 }

end Sys2Proof.Machine
end

