-- ==== Sys2Proof/Machine/Plan.lean ====
section
/-! DEFINITION. Plan records: parsing, validation, the plan cache, and the claim set of a partition (R40, R71, R72, R392-R395). -/

namespace Sys2Proof.Machine

/-! ### Parsing -/

/-- Table 3-7. -/
def parseEntry37 (b : Bytes) : PlanEntry :=
  { opcode := fieldAt b 0 1, stage := fieldAt b 1 1, foldId := fieldAt b 2 1, shared := fieldAt b 4 8,
    maxes := (List.range 5).map (fun i => fieldAt b (12 + 4 * i) 4),
    wcArray := fieldAt b 32 4, wcVector := fieldAt b 36 4, soloArray := fieldAt b 40 4, tileCycles := fieldAt b 44 4,
    wcHbm := fieldAt b 48 8, wcFabric := fieldAt b 56 4, liveFirst := fieldAt b 60 2, liveCount := fieldAt b 62 2 }

/-- Table 2-7: seven fold points of array, vector, HBM and fabric cost. -/
def parseStage (b : Bytes) : StageCost :=
  { offset := fieldAt b 0 1, foldId := fieldAt b 1 1,
    costs := (List.range 7).map (fun i => (List.range 4).map (fun r => fieldAt b (16 + 32 * i + 8 * r) 8)) }

/-- A table of `n` records of `size` bytes. -/
def tableOf (b : Bytes) (off size n : Nat) : List Bytes := (List.range n).map (fun i => (b.drop (off + size * i)).take size)

/-- Live-range fields (Table 14-1). -/
def LiveEntry.kind (e : LiveEntry) : Nat := fieldAt e.raw 0 1
def LiveEntry.tensor (e : LiveEntry) : Nat := fieldAt e.raw 1 1
def LiveEntry.keep (e : LiveEntry) : Bool := bit (fieldAt e.raw 2 1) 0
def LiveEntry.tileFirst (e : LiveEntry) : Nat := fieldAt e.raw 4 4
def LiveEntry.tileLast (e : LiveEntry) : Nat := fieldAt e.raw 8 4
def LiveEntry.lFirst (e : LiveEntry) : Nat := fieldAt e.raw 12 8
def LiveEntry.lCount (e : LiveEntry) : Nat := fieldAt e.raw 20 8

/-- How many live-range entries the command entries name. -/
def liveTotal (es : List PlanEntry) : Nat :=
  es.foldl (fun a e => if e.liveCount = 0 then a else max a (e.liveFirst + e.liveCount)) 0

/-- The record in its bytes (R71). -/
def parsePlan (p addr : Nat) (b : Bytes) : PlanRec :=
  let es := (tableOf b (fieldAt b 8 4) 64 (fieldAt b 2 2)).map parseEntry37
  { part := p, addr := addr, coreCount := fieldAt b 6 1, entries := es,
    stages := (tableOf b (fieldAt b 12 4) 240 (fieldAt b 4 2)).map parseStage,
    live := (tableOf b (fieldAt b 16 4) 32 (liveTotal es)).map (fun r => ⟨r⟩) }

/-! ### Validation (R72, R392)

A fault is a pair: the command entry it lies in, if any, and the byte offset of Table 3-13. -/

/-- The first bad field of the header of a record at `addr`. -/
def planHeaderBad (addr : Nat) (h : Bytes) : Option Nat :=
  let f (off n : Nat) : Nat := fieldAt h off n
  let len := f 20 4
  let table (off size n : Nat) : Bool := f off 4 % 64 == 0 && decide (f off 4 + size * n ≤ len)
  if f 0 2 ≠ 1 then some 0
  else if f 2 2 = 0 then some 2
  else if f 4 2 > 240 then some 4
  else if f 6 1 = 0 ∨ f 6 1 > 64 then some 6
  else if f 7 1 > 3 then some 7
  else if !(table 8 64 (f 2 2) && decide (f 8 4 ≥ 64)) then some 8
  else if (if f 4 2 = 0 then f 12 4 != 0 else !(table 12 240 (f 4 2) && decide (f 12 4 ≥ 64))) then some 12
  else if !(table 16 32 0) then some 16
  else if !(decide (len ≥ 64) && rangeValid addr len) then some 20
  else if !zeroAt h 28 36 then some 28
  else none

/-- CRC-32C of a record with its CRC field taken as 0. -/
def crcWithout (b : Bytes) (off : Nat) : Nat := crc32c (putAt b off [0, 0, 0, 0])

/-- A command entry's own fault. -/
def entryBad (stages : List StageCost) (e : PlanEntry) (raw : Bytes) : Option Nat :=
  if e.stage ≠ 0xFF ∧ e.stage ≥ stages.length then some 1
  else if e.stage ≠ 0xFF && (stages.getD e.stage ⟨0, 0, []⟩).foldId != e.foldId then some 2
  else if fieldAt raw 3 1 ≠ 0 then some 3
  else none

/-- Whether a live-range entry is well formed as far as the record alone shows. -/
def LiveEntry.ok (e : LiveEntry) : Bool :=
  let k := e.kind
  decide (k ≤ 4) && (fieldAt e.raw 2 1 == 0 || (fieldAt e.raw 2 1 == 1 && k == 1)) && fieldAt e.raw 3 1 == 0 && zeroAt e.raw 28 4 &&
  (if k = 2 || k = 3 then e.tensor == 0xFF else true) && (if k ≥ 3 then e.tileLast == 0 else true) &&
  (k != 3 || decide (e.lFirst + e.lCount ≤ 98304))

/-- The first fault of a record's tables: command entries, stage costs, live ranges. -/
def planTablesBad (b : Bytes) (r : PlanRec) : Option (Option Nat × Nat) :=
  let raws := tableOf b (fieldAt b 8 4) 64 r.entries.length
  match (List.range r.entries.length).findSome? (fun i =>
      (entryBad r.stages (r.entries.getD i {}) (raws.getD i [])).map (fun off => (some i, off))) with
  | some x => some x
  | none =>
    if (tableOf b (fieldAt b 12 4) 240 r.stages.length).any (fun s => !zeroAt s 2 14) then some (none, 12)
    else if fieldAt b 16 4 + 32 * r.live.length > fieldAt b 20 4 || r.live.any (fun e => !e.ok) then some (none, 16)
    else none

/-! ### The plan cache (R72) -/

/-- A cached record that an open session or an uncommitted command of the partition refers to. -/
def Dev.cachedPlan (d : Dev) (p addr : Nat) : Option PlanRec :=
  let used := d.sessions.any (fun s => s.part == p && s.planAddr == addr) ||
    d.cmds.any (fun c => c.live && c.part == p && c.planAddr == addr)
  if used then d.plans.find? (fun r => r.part == p && r.addr == addr) else none

/-- Why a plan record cannot be used: a fault at an offset of its header or of a command entry, or a failed read. -/
abbrev PlanFail := (Option Nat × Nat) ⊕ ReadFail

/-- Load a record, or take the cached copy. -/
def Dev.loadPlan (d : Dev) (env : Env) (p addr : Nat) : Except PlanFail (Dev × PlanRec) :=
  match d.cachedPlan p addr with
  | some r => .ok (d, r)
  | none =>
    match d.readStruct env p addr 64 with
    | .error e => .error (.inr e)
    | .ok h =>
      match planHeaderBad addr h with
      | some off => .error (.inl (none, off))
      | none =>
        match d.readStruct env p addr (fieldAt h 20 4) with
        | .error e => .error (.inr e)
        | .ok b =>
          if crcWithout b 24 ≠ fieldAt b 24 4 then .error (.inl (none, 24))
          else
            let r := parsePlan p addr b
            match planTablesBad b r with
            | some x => .error (.inl x)
            | none => .ok ({ d with plans := d.plans.filter (fun q => !(q.part == p && q.addr == addr)) ++ [r] }, r)

/-- The record of an address as the cache holds it. -/
def Dev.planAt (d : Dev) (p addr : Nat) : PlanRec := (d.plans.find? (fun r => r.part == p && r.addr == addr)).getD {}

/-- The live-range entries of a command entry (R392). -/
def PlanRec.liveOf (r : PlanRec) (e : PlanEntry) : List LiveEntry := (r.live.drop e.liveFirst).take e.liveCount

/-- R392: the entries of a command that its tensors make invalid. -/
def Cmd.liveBad (c : Cmd) (es : List LiveEntry) : Bool :=
  es.any (fun e => decide (e.kind ≤ 1) &&
    (!decide (e.tensor < c.tensors.length) || (c.tensor e.tensor).space != 1 || decide (e.lFirst + e.lCount > (c.tensor e.tensor).count)))

/-! ### The claim set (R394, R395) -/

/-- The slot ranges, first and count, that a record claims. -/
def PlanRec.claims (r : PlanRec) : List (Nat × Nat) :=
  (r.live.filter (fun e => e.kind == 3)).map (fun e => (e.lFirst % 131072, e.lCount))

/-- The claim ranges of a partition. -/
def Dev.claims (d : Dev) (p : Nat) : List (Nat × Nat) :=
  (d.sessions.filter (fun s => s.part == p)).flatMap (fun s => (d.planAt p s.planAddr).claims)

/-- A range put among others by first slot. -/
def rangeInsert (x : Nat × Nat) : List (Nat × Nat) → List (Nat × Nat)
  | [] => [x]
  | y :: r => if x.1 ≤ y.1 then x :: y :: r else y :: rangeInsert x r

/-- The size of a union of ranges in order of their starts, from `at` upward. -/
def unionFrom : Nat → List (Nat × Nat) → Nat
  | _, [] => 0
  | low, (b, n) :: r => (b + n - max low b) + unionFrom (max low (b + n)) r

/-- Slots per core in a claim set. -/
def claimSlots (l : List (Nat × Nat)) : Nat := unionFrom 0 (l.foldr rangeInsert [])

/-- A slot lies in a claim set. -/
def claimed (l : List (Nat × Nat)) (slot : Nat) : Bool := l.any (fun r => decide (r.1 ≤ slot) && decide (slot < r.1 + r.2))

/-- PART.CTX_CFG (Table 14-8): base, size and save space in 32 MiB units. -/
def Dev.ctxCfg (d : Dev) (p : Nat) : Nat × Nat × Nat :=
  let v := d.active (pgPART p) 0x06C
  (bits v 0 7, bits v 8 7, bits v 16 7)

/-- R395: the claim set fits the Tack save space of a partition of `cores` cores. -/
def claimsFit (tack cores slots : Nat) : Bool := decide (slots * 256 ≤ tack * 0x2000000 / max 1 cores)

end Sys2Proof.Machine
end

