-- ==== Sys2Proof/Machine/Kv.lean ====
section
/-! DEFINITION. KV pages: the pool, the page table, sequence descriptors, rotary embedding, admission of page lists, pins and copy-on-write, APPEND_KV and PAGE_RELEASE (R343, R351-R364). -/

namespace Sys2Proof.Machine

/-! ### The pool and its page table (R351, R352) -/

/-- The pool that the registers of a KVP page describe. -/
def kvPoolOf (r : Nat → Nat) : KvPool :=
  let a (off : Nat) : Nat := r off + ((r (off + 4) % 65536) <<< 32)
  { base := a 0x040, table := a 0x048, sum := a 0x050, pages := bits (r 0x058) 0 25,
    fmt := (Fmt.ofCode (bits (r 0x05C) 0 8)).getD .bf16, hkv := bits (r 0x05C) 8 7,
    d := bits (r 0x060) 0 9, dv := bits (r 0x060) 16 9 }

def Dev.kvPool (d : Dev) (p : Nat) : KvPool := kvPoolOf (d.active (pgKVP p))

/-- Bytes of an element of the pool's format. -/
def KvPool.e (k : KvPool) : Nat := k.fmt.width / 8

/-- PAGE_BYTES (R351). -/
def KvPool.pageBytes (k : KvPool) : Nat := roundUp (256 * k.hkv * (k.d + k.dv) * k.e) 4096

def KvPool.keyAddr (k : KvPool) (n h s i : Nat) : Nat := k.base + n * k.pageBytes + ((h * 256 + s) * k.d + i) * k.e

def KvPool.valAddr (k : KvPool) (n h s i : Nat) : Nat :=
  k.base + n * k.pageBytes + 256 * k.hkv * k.d * k.e + ((h * 256 + s) * k.dv + i) * k.e

def KvPool.entryAddr (k : KvPool) (n : Nat) : Nat := k.table + 32 * n
def KvPool.sumAddr (k : KvPool) (n : Nat) : Nat := k.sum + 256 * n

/-- The 32 bytes of an entry (Table 12-3). -/
def KvPool.entryBytes (k : KvPool) (n : Nat) (e : KvEntry) : Bytes :=
  toLe 6 (k.base + n * k.pageBytes) ++ toLe 2 e.ref ++ toLe 2 e.pins ++
  toLe 1 (b2n e.isSealed + 2 * b2n e.held + 4 * b2n e.free) ++ toLe 1 0 ++ toLe 2 e.fill ++ toLe 2 0 ++
  toLe 6 (k.sumAddr n) ++ toLe 2 0 ++ toLe 4 e.base ++ toLe 4 0

def parseEntry (b : Bytes) : KvEntry :=
  { ref := fieldAt b 6 2, pins := fieldAt b 8 2, isSealed := bit (fieldAt b 10 1) 0, held := bit (fieldAt b 10 1) 1,
    free := bit (fieldAt b 10 1) 2, fill := fieldAt b 12 2, base := fieldAt b 24 4 }

/-- The entry of page n. -/
def Dev.kvEntry (d : Dev) (p n : Nat) : KvEntry :=
  let k := d.kvPool p
  parseEntry (d.bytesIn p 0 (k.entryAddr n) 32)

def Dev.setKvEntry (d : Dev) (p n : Nat) (e : KvEntry) : Dev :=
  let k := d.kvPool p
  d.putBytesIn p 0 (k.entryAddr n) (k.entryBytes n e)

def Dev.modKvEntry (d : Dev) (p n : Nat) (f : KvEntry → KvEntry) : Dev := d.setKvEntry p n (f (d.kvEntry p n))

/-- READY and INIT_BUSY of KVP.STATE. -/
def Dev.kvReady (d : Dev) (p : Nat) : Bool := bit (d.regN (pgKVP p) 0x800) 0
def Dev.kvBusy (d : Dev) (p : Nat) : Bool := bit (d.regN (pgKVP p) 0x800) 1

/-- The pages of a partition's pool that satisfy a condition. -/
def Dev.kvCount (d : Dev) (p : Nat) (f : KvEntry → Bool) : Nat :=
  if d.kvReady p then ((List.range (d.kvPool p).pages).filter (fun n => f (d.kvEntry p n))).length else 0

def Dev.kvFree (d : Dev) (p : Nat) : Nat := d.kvCount p (·.free)

/-- R353: the lowest FREE page that a condition allows. -/
def Dev.kvFind (d : Dev) (p : Nat) (ok : Nat → Bool) : Option Nat :=
  if d.kvReady p then (List.range (d.kvPool p).pages).find? (fun n => ok n && (d.kvEntry p n).free) else none

/-- R353: the page that a copy of page n goes to. -/
def Dev.kvCopyTarget (d : Dev) (p n : Nat) : Option Nat :=
  let k := d.kvPool p
  let unit := match d.regionOf p k.base with
    | some r => if r.mode = 1 then 768 else if r.mode = 0 then 3072 else 1
    | none => 1
  let near (m : Nat) : Bool := ((if n ≤ m then m - n else n - m) * k.pageBytes) % unit == 0
  match d.kvFind p near with
  | some m => some m
  | none => d.kvFind p (fun _ => true)

/-- An allocated page: FREE clear, REFCOUNT 0, FILL 0, SEALED clear; LOW_WATER is raised when the count falls below its mark. -/
def Dev.kvTake (d : Dev) (p n : Nat) : Dev :=
  let low := bits (d.active (pgKVP p) 0x064) 0 25
  let d1 := (d.setKvEntry p n {}).bump (pgKVP p) 0x81C 1
  if d1.kvFree p < low && low ≤ d.kvFree p then d1.raise (pgKVP p) 0 else d1

/-- R364: a page with neither references nor pins becomes FREE. -/
def Dev.kvSettle (d : Dev) (p n : Nat) : Dev :=
  let e := d.kvEntry p n
  if e.ref = 0 && e.pins = 0 && !e.free then
    (d.setKvEntry p n { free := true }).bump (pgKVP p) 0x820 1
  else d

/-! ### Sequence descriptors (R355, R356) -/

/-- The extent of a sequence descriptor. -/
def seqLen : Nat := 4416

/-- A tensor that can be a sequence descriptor. -/
def TensorD.isSeq (t : TensorD) : Bool := t.format == .uint8 && t.rank == 1 && t.dim 0 == seqLen && t.space == 0 && t.fmt == 0x12

def parseSeq (b : Bytes) : KvSeq :=
  let ent (off : Nat) : Nat := fieldAt b off 3
  { pre := (List.range (min 64 (fieldAt b 2 1))).map (fun i => ent (64 + 4 * i)),
    ringSize := fieldAt b 4 2, ringCount := fieldAt b 6 2, ringHead := fieldAt b 8 2, nextPos := fieldAt b 16 4,
    ring := (List.range 1024).map (fun i => ent (320 + 4 * i)) }

/-- The entry of ring ordinal i, oldest first. -/
def KvSeq.ringEntry (s : KvSeq) (i : Nat) : Nat := (s.ringHead + i) % max 1 s.ringSize

/-- The first byte of a descriptor that breaks Table 12-4; entries not in use are ignored. -/
def seqBad (b : Bytes) : Option Nat :=
  let s := parseSeq b
  if fieldAt b 0 2 ≠ 1 then some 0
  else if fieldAt b 2 1 > 64 then some 2
  else if fieldAt b 3 1 ≠ 0 then some 3
  else if s.ringSize > 1024 then some 4
  else if s.ringCount > s.ringSize then some 6
  else if (if s.ringSize = 0 then s.ringHead != 0 else decide (s.ringHead ≥ s.ringSize)) then some 8
  else if !zeroAt b 10 6 then some 10
  else if !zeroAt b 20 44 then some 20
  else match (List.range s.pre.length).find? (fun i => fieldAt b (64 + 4 * i + 3) 1 != 0) with
    | some i => some (64 + 4 * i + 3)
    | none => ((List.range s.ringCount).find? (fun i => fieldAt b (320 + 4 * s.ringEntry i + 3) 1 != 0)).map
      (fun i => 320 + 4 * s.ringEntry i + 3)

/-- R356: the page list of a sequence: prefix pages, then ring pages from oldest to newest. -/
def KvSeq.pageList (s : KvSeq) : List Nat :=
  s.pre ++ (List.range s.ringCount).map (fun i => s.ring.getD (s.ringEntry i) 0)

/-- The snapshot of a sequence's pages. -/
def Dev.kvSnapshot (d : Dev) (p : Nat) (s : KvSeq) : List KvPage :=
  let snap (ring : Bool) (n : Nat) : KvPage := let e := d.kvEntry p n; ⟨n, e.fill, e.base, ring⟩
  s.pre.map (snap false) ++ (List.range s.ringCount).map (fun i => snap true (s.ring.getD (s.ringEntry i) 0))

/-- The bytes of a descriptor with new entries and counts; the rest as it was. -/
def seqBytes (b : Bytes) (s : KvSeq) : Bytes :=
  let b := putAt b 2 (toLe 1 s.pre.length)
  let b := putAt b 6 (toLe 2 s.ringCount ++ toLe 2 s.ringHead)
  let b := putAt b 16 (toLe 4 s.nextPos)
  let b := (List.range s.pre.length).foldl (fun b i => putAt b (64 + 4 * i) (toLe 4 (s.pre.getD i 0))) b
  (List.range s.ringCount).foldl (fun b i => let e := s.ringEntry i; putAt b (320 + 4 * e) (toLe 4 (s.ring.getD e 0))) b

/-! ### Admission of page lists (R356, R357, R361, R362) -/

def Cmd.prMode (c : Cmd) : Nat := c.u8 64

/-- R356: how often admitted, uncommitted PAGE_RELEASE commands of a partition list a page in a mode. -/
def Dev.kvPending (d : Dev) (p mode n : Nat) : Nat :=
  d.cmds.foldl (fun a c =>
    if c.live && c.part == p && c.opcode == 0x0A && c.prMode == mode then a + c.pages.count n else a) 0

/-- References less pending releases. -/
def Dev.kvRefs (d : Dev) (p n : Nat) : Nat := (d.kvEntry p n).ref - d.kvPending p 0 n

/-- R356: the first index of a page list that names no mapped page. -/
def Dev.kvUnmapped (d : Dev) (p : Nat) (l : List Nat) : Option Nat :=
  let pages := if d.kvReady p then (d.kvPool p).pages else 0
  (List.range l.length).find? (fun i =>
    let n := l.getD i 0
    decide (n ≥ pages) || decide (d.kvRefs p n < 1))

/-- R357: a page list names a page that a writer holds. -/
def Dev.kvHeld (d : Dev) (p : Nat) (l : List Nat) : Bool := l.any (fun n => (d.kvEntry p n).held)

/-- R361: a page that a RETAIN would take above 65,535 references. -/
def Dev.kvOverRetained (d : Dev) (p : Nat) (l : List Nat) : Bool :=
  l.any (fun n => decide ((d.kvEntry p n).ref + d.kvPending p 1 n + l.count n > 65535))

/-- R362: take the pins of a list of pages. -/
def Dev.kvPin (d : Dev) (p : Nat) (l : List Nat) : Dev :=
  l.foldl (fun d n => d.modKvEntry p n (fun e => { e with pins := e.pins + 1 })) d

/-- R362-R364: a command's end gives back its pins and write holds, and pages left with neither references nor pins become FREE. -/
def Dev.kvRelease (d : Dev) (c : Cmd) : Dev :=
  let p := c.part
  let d := c.kvTargets.foldl (fun d t => if t.held then d.modKvEntry p t.page (fun e => { e with held := false }) else d) d
  let d := c.pins.foldl (fun d n => d.modKvEntry p n (fun e => { e with pins := e.pins - 1 })) d
  (c.pins ++ c.pages).eraseDups.foldl (fun d n => d.kvSettle p n) d

/-- Cycles from now to the deadline edge of a session command's frame (MIN_SLACK of Table 2-9). -/
def Dev.slackOf (d : Dev) (c : Cmd) : Option Int :=
  if !c.sessionValid then none
  else (d.sessions.find? (fun s => s.part == c.part && s.id == c.session)).map (fun s =>
    let due : Int := (s.t0 + c.frame * s.interval + s.deadline : Nat)
    (d.tick.edgeAt : Int) + (due - d.tick.count) * ((bits (d.active pgTICK 0x040) 0 8 * 500000 : Nat) : Int) - d.now)

/-- What a commit adds to its partition's window: M and S of R57 for an array command, and the least slack of a session command. -/
def Dev.accountCommit (d : Dev) (c : Cmd) : Dev :=
  let slack := (d.slackOf c).map (fun x => min x 0x7FFFFFFF)
  let arr := isArrayOp c.opcode
  let add (w : Acct) : Acct :=
    { w with measured := if arr then w.measured + c.occArray else w.measured,
             solo := if arr then w.solo + c.entry.soloArray else w.solo,
             minSlack := match slack with
               | some x => max (-0x80000000) (min w.minSlack x)
               | none => w.minSlack }
  d.modPart c.part (fun x => { x with window := add x.window })

/-- The status and DETAIL of a command that has run to its end: a command of a missed frame ends as DEADLINE_MISS with OUTPUT_COMPLETE set
(R54, R96). -/
def Cmd.endStatus (c : Cmd) (status detail : Nat) : Nat × Nat :=
  if c.missed && (status == stOK || (decide (stDIMS ≤ status) && decide (status ≤ stSTALE))) then (stMISS, 1) else (status, detail)

/-- R393: at a command's end the KEEP entries that lasted until then end; at its commit its own begin, if its successor has not committed. -/
def Dev.settleKeeps (d : Dev) (c : Cmd) (ran : Bool) : Dev :=
  let own := ran && ((d.planAt c.part c.planAddr).liveOf c.entry).any (fun e => e.kind == 1 && e.keep)
  let open' := match c.succ with
    | none => true
    | some u => d.cmds.any (fun x => x.uid == u && x.live)
  d.modPart c.part (fun x =>
    let l := x.keeps.filter (fun k => k.succ != some c.uid)
    { x with keeps := if own && open' then l ++ [c] else l })

/-- A command's status says that it ran to its commit (R57, R393). -/
def ranToEnd (status detail : Nat) : Bool :=
  status == stOK || (decide (stDIMS ≤ status) && decide (status ≤ stSTALE)) || (status == stMISS && detail == 1)

/-- What the end of a command does before its record is queued: the window's accounts, its KEEP entries, and its pages (R57, R362, R393). -/
def Dev.givesBack (d : Dev) (c : Cmd) (ran : Bool) : Dev :=
  let d := (if ran then d.accountCommit c else d).settleKeeps c ran
  if c.pins.isEmpty && c.kvTargets.isEmpty then d else d.kvRelease c

/-- A command ends: its pages are given back and its record is queued (R88, R362). -/
def Dev.complete (d : Dev) (c : Cmd) (status detail : Nat) : Dev :=
  let e := c.endStatus status detail
  (d.givesBack c (ranToEnd e.1 e.2)).finish c e.1 e.2

/-! ### Rotary embedding (R343) -/

/-- The angle of pair j of a row: its cosine and sine. `pos` gives the coordinate code on an axis. -/
def Dev.ropeAngle (d : Dev) (c : Cmd) (freq t y j : Nat) (pos : Nat → Nat) : Num (Word × Word) := do
  let axis := if j < t then 0 else if j < t + y then 1 else 2
  let x ← rnd32 false (.ofInt (toSigned 32 (pos axis)))
  let f ← d.streamWord c freq [j, 0, 0, 0, 0]
  let th ← fmul c.ftz x f
  let co ← costW c.ftz th
  let si ← sintW c.ftz th
  return (co, si)

/-- A rounding to nearest-even in an operand's own format under FP8_SAT and FTZ. -/
def Cmd.own (c : Cmd) (f : Fmt) (w : Word) : Num Nat := convertTo f { c.num with round := 0 } 0 (val32 w)

/-- R343: the codes of a rotated row. -/
def Dev.rope (d : Dev) (c : Cmd) (f : Fmt) (freq t y : Nat) (pos : Nat → Nat) (xs : List Val) : Num (List Nat) := do
  let prs ← (List.range (xs.length / 2)).mapM (fun j => do
    let a ← d.ropeAngle c freq t y j pos
    let x0 := xs.getD (2 * j) .nan
    let x1 := xs.getD (2 * j + 1) .nan
    let co := val32 a.1
    let si := val32 a.2
    let r0 ← rnd32 c.ftz ((x0.mul co).sub (x1.mul si))
    let r1 ← rnd32 c.ftz ((x0.mul si).add (x1.mul co))
    let c0 ← c.own f r0
    let c1 ← c.own f r1
    return [c0, c1])
  return prs.flatten

/-- Codes of a floating format as values. -/
def decodeCodes (f : Fmt) (l : List Nat) : List Val :=
  l.map (fun x => match f.spec with
    | some sp => fpDecode sp x
    | none => .nan)

/-! ### APPEND_KV (R358-R360, R363) -/

def Cmd.akSeq (c : Cmd) : Nat := c.u8 64
def Cmd.akK (c : Cmd) : Nat := c.u8 65
def Cmd.akV (c : Cmd) : Nat := c.u8 66
def Cmd.akPrefix (c : Cmd) : Bool := bit (c.u8 67) 0
def Cmd.akRope (c : Cmd) : Bool := bit (c.u8 67) 1
def Cmd.akT (c : Cmd) : Nat := (c.tensor c.akK).dim 1

/-- R363: a page may be written in place. -/
def Dev.kvInPlace (d : Dev) (p n : Nat) : Bool :=
  let e := d.kvEntry p n
  d.kvRefs p n == 1 && e.pins == 0 && !e.isSealed

/-- A step of R359's choice of pages: the device with what has been allocated so far, the descriptor and the targets so far. -/
abbrev KvPlan := Dev × KvSeq × List KvTarget

/-- The target that already stands for an entry. -/
def targetOf (ts : List KvTarget) (e : Nat) : Option KvTarget := ts.find? (fun t => t.entry == e)

/-- Put a target in place of the one with the same entry, or at the end. -/
def putTarget (ts : List KvTarget) (t : KvTarget) : List KvTarget :=
  if ts.any (fun x => x.entry == t.entry) then ts.map (fun x => if x.entry = t.entry then t else x) else ts ++ [t]

/-- Give an entry a page that will be written from slot 0 (a new page, or a recycled one). -/
def Dev.kvFresh (d : Dev) (p : Nat) (s : KvSeq) (ts : List KvTarget) (entry : Nat) (old : Option Nat) (i : Nat) : Option KvPlan :=
  match targetOf ts entry with
  | some t => some (d, s, putTarget ts { t with fill := 0, base := s.nextPos + i, first := i, count := 0 })
  | none =>
    match old with
    | some n =>
      if d.kvInPlace p n then
        some (d, s, ts ++ [{ entry := entry, page := n, held := true, fill := 0, base := s.nextPos + i, first := i }])
      else (d.kvFind p (fun _ => true)).map (fun m =>
        (d.kvTake p m, s, ts ++ [{ entry := entry, old := some n, page := m, fill := 0, base := s.nextPos + i, first := i }]))
    | none => (d.kvFind p (fun _ => true)).map (fun m =>
        (d.kvTake p m, s, ts ++ [{ entry := entry, page := m, fill := 0, base := s.nextPos + i, first := i }]))

/-- The page to go on with in an entry that holds positions: in place, or a copy (R363). -/
def Dev.kvContinue (d : Dev) (p : Nat) (s : KvSeq) (ts : List KvTarget) (entry n i : Nat) : Option KvPlan :=
  match targetOf ts entry with
  | some _ => some (d, s, ts)
  | none =>
    let e := d.kvEntry p n
    if d.kvInPlace p n then
      some (d, s, ts ++ [{ entry := entry, page := n, held := true, fill := e.fill, base := e.base, first := i }])
    else (d.kvCopyTarget p n).map (fun m =>
      (d.kvTake p m, s, ts ++ [{ entry := entry, old := some n, page := m, copied := true, fill := e.fill, base := e.base, first := i }]))

/-- FILL of an entry as the plan has it so far. -/
def Dev.kvFillOf (d : Dev) (p : Nat) (ts : List KvTarget) (entry n : Nat) : Nat :=
  match targetOf ts entry with
  | some t => t.fill + t.count
  | none => (d.kvEntry p n).fill

/-- Add positions to an entry's target. -/
def addTo (ts : List KvTarget) (entry n : Nat) : List KvTarget :=
  ts.map (fun t => if t.entry = entry then { t with count := t.count + n } else t)

/-- R359: choose pages for positions i to T - 1. Each round fills one page, or opens one. -/
def Dev.kvChoose (p : Nat) (pre : Bool) (total : Nat) : Nat → Nat → KvPlan → Option KvPlan
  | 0, _, s => some s
  | fuel + 1, i, (d, s, ts) =>
    if i ≥ total then some (d, s, ts)
    else
      let newest := if pre then s.pre.length - 1 else 64 + s.ringEntry (s.ringCount - 1)
      let page := if pre then s.pre.getD newest 0 else s.ring.getD (newest - 64) 0
      let none' := if pre then s.pre.isEmpty else s.ringCount == 0
      if none' || d.kvFillOf p ts newest page == 256 then
        -- a page must be opened: the prefix grows, the ring grows, or its oldest entry is recycled
        if pre then
          let e := s.pre.length
          match d.kvFresh p { s with pre := s.pre ++ [0] } ts e none i with
          | none => none
          | some x => Dev.kvChoose p pre total fuel i x
        else if s.ringCount < s.ringSize then
          let e := s.ringEntry s.ringCount
          match d.kvFresh p { s with ringCount := s.ringCount + 1 } ts (64 + e) none i with
          | none => none
          | some x => Dev.kvChoose p pre total fuel i x
        else
          let e := s.ringHead
          match d.kvFresh p { s with ringHead := (s.ringHead + 1) % max 1 s.ringSize } ts (64 + e) (some (s.ring.getD e 0)) i with
          | none => none
          | some x => Dev.kvChoose p pre total fuel i x
      else
        match d.kvContinue p s ts newest page i with
        | none => none
        | some (d, s, ts) =>
          let n := min (total - i) (256 - d.kvFillOf p ts newest page)
          Dev.kvChoose p pre total fuel (i + n) (d, s, addTo ts newest n)

/-- The pages an APPEND_KV will write, the descriptor it will leave (entries still to be replaced by their targets), and the device with
its allocations made; none while no page is FREE. -/
def Dev.kvPlan (d : Dev) (c : Cmd) (s : KvSeq) : Option KvPlan :=
  Dev.kvChoose c.part c.akPrefix c.akT (4 * c.akT + 8) 0 (d, s, [])

/-- R358: prefix pages needed beyond 64. -/
def Dev.kvPrefixOver (d : Dev) (c : Cmd) (s : KvSeq) : Bool :=
  if !c.akPrefix then false
  else
    let room := if s.pre.isEmpty then 0 else 256 - (d.kvEntry c.part (s.pre.getLastD 0)).fill
    decide (s.pre.length + ceilDiv (c.akT - room) 256 > 64)

/-- The codes of key row t of head h, rotated when ROPE_EN is set. -/
def Dev.akKey (d : Dev) (c : Cmd) (t h : Nat) : Num (List Nat) := do
  let k := c.tensor c.akK
  let codes := (List.range (k.dim 0)).map (fun i => d.elemCode c.part k [i, t, h, 0, 0])
  if !c.akRope then return codes
  else
    let xs ← (List.range (k.dim 0)).mapM (fun i => d.elemOf c c.akK [i, t, h, 0, 0])
    let pt := c.tensor (c.u8 68)
    d.rope c k.format (c.u8 69) (c.u8 70) (c.u8 71) (fun a => d.elemCode c.part pt [a, t, 0, 0, 0]) xs

/-- Write one position into a page. -/
def Dev.kvPutRow (d : Dev) (c : Cmd) (page slot t : Nat) : StateT NumFlags Id Dev := do
  let k := d.kvPool c.part
  let v := c.tensor c.akV
  let rec go (d : Dev) : List Nat → Num Dev
    | [] => return d
    | h :: r => do
      let key ← d.akKey c t h
      let d1 := d.putBytesIn c.part 0 (k.keyAddr page h slot 0) (key.flatMap (toLe k.e))
      let val := (List.range k.dv).map (fun i => d.elemCode c.part v [i, t, h, 0, 0])
      go (d1.putBytesIn c.part 0 (k.valAddr page h slot 0) (val.flatMap (toLe k.e))) r
  go d (List.range k.hkv)

/-- R360: the summary of a page. -/
def Dev.kvSummary (d : Dev) (c : Cmd) (page fill : Nat) : Num Bytes := do
  let k := d.kvPool c.part
  let n ← rnd32 false (.ofInt (fill * k.hkv))
  let vs ← (List.range (min k.d 128)).mapM (fun i => do
    let xs ← (List.range k.hkv).mapM (fun h => (List.range fill).mapM (fun s => do
      let v ← readCode c.ftz k.fmt (leNat (d.bytesIn c.part 0 (k.keyAddr page h s i) k.e))
      let w ← rnd32 false v
      return some w))
    let s ← rsum c.ftz xs.flatten
    let q ← fdiv c.ftz s n
    convertTo .bf16 { ftz := c.ftz } 0 (val32 q))
  return (vs.flatMap (toLe 2) ++ List.replicate 256 0).take 256

/-- One target at the commit of its APPEND_KV: the copy, the rows, FILL, BASE_POS, the summary and the reference counts (R360, R363). -/
def Dev.kvWriteTarget (d : Dev) (c : Cmd) (t : KvTarget) : Num Dev := do
  let p := c.part
  let k := d.kvPool p
  let d := if t.copied then
      match t.old with
      | some o => d.putBytesIn p 0 (k.base + t.page * k.pageBytes) (d.bytesIn p 0 (k.base + o * k.pageBytes) k.pageBytes)
      | none => d
    else d
  let rec rows (d : Dev) : List Nat → Num Dev
    | [] => return d
    | j :: r => do
      let d ← d.kvPutRow c t.page (t.fill + j) (t.first + j)
      rows d r
  let d ← rows d (List.range t.count)
  let fill := t.fill + t.count
  let s ← d.kvSummary c t.page fill
  let d := d.putBytesIn p 0 (k.sumAddr t.page) s
  let d := d.modKvEntry p t.page (fun e => { e with fill := fill, base := t.base, ref := if t.held then e.ref else 1 })
  return match t.old with
  | some o => d.modKvEntry p o (fun e => { e with ref := e.ref - 1 })
  | none => d

/-- Count the copies a command makes by the unit that makes them (R363, R244). -/
def Dev.kvCountCopies (d : Dev) (c : Cmd) : Dev :=
  c.kvTargets.foldl (fun d t =>
    match t.copied, t.old with
    | true, some o =>
      let k := d.kvPool c.part
      let a := k.base + o * k.pageBytes
      let b := k.base + t.page * k.pageBytes
      if d.stackRange c.part a b k.pageBytes then d.bump (pgKVP c.part) 0x824 1 else d.bump (pgKVP c.part) 0x828 1
    | _, _ => d) d

/-- The descriptor an APPEND_KV leaves, from the one its snapshot holds. -/
def Cmd.akSeqAfter (c : Cmd) (old new : KvSeq) : KvSeq :=
  let pageOf (e n : Nat) : Nat := match targetOf c.kvTargets e with
    | some t => t.page
    | none => n
  { new with nextPos := (old.nextPos + c.akT) % 2 ^ 32,
             pre := (List.range new.pre.length).map (fun i => pageOf i (new.pre.getD i 0)),
             ring := (List.range 1024).map (fun i => pageOf (64 + i) (new.ring.getD i 0)) }

/-- What the commit of an APPEND_KV writes, and the command's flags with it (R360). -/
def Dev.akStored (d : Dev) (c : Cmd) : Dev × NumFlags :=
  let t := c.tensor c.akSeq
  let s := parseSeq c.image
  let rec go (d : Dev) : List KvTarget → Num Dev
    | [] => return d
    | x :: r => do
      let d ← d.kvWriteTarget c x
      go d r
  let r := (go d c.kvTargets).run {}
  let d := r.1.kvCountCopies c
  let d := d.putBytesIn c.part 0 t.addr (seqBytes c.image (c.akSeqAfter s c.kvNext))
  (d, c.flags.or r.2)

/-- APPEND_KV commits. -/
def Dev.akCommit (d : Dev) (c : Cmd) : Dev :=
  let r := d.akStored c
  r.1.complete { c with flags := r.2 } stOK 0

/-- The shape, format and field checks of an APPEND_KV (R358); `s` is its descriptor's bytes, once read. -/
def Dev.akCheck (d : Dev) (c : Cmd) (b : Bytes) : OpCheck :=
  let k := c.tensor c.akK
  let v := c.tensor c.akV
  let pool := d.kvPool c.part
  let s := parseSeq b
  let t := c.akT
  { formed := firstBad [
      need (c.idxOk c.akSeq && (c.tensor c.akSeq).isSeq) (badAt 64 0xFF), need (c.idxOk c.akK) (badAt 65 0xFF),
      need (c.idxOk c.akV) (badAt 66 0xFF), need (c.u8 67 / 4 == 0) (badAt 67 0xFF),
      need (if c.akRope then c.idxOk (c.u8 68) else c.u8 68 == 0xFF) (badAt 68 0xFF),
      need (if c.akRope then c.idxOk (c.u8 69) else c.u8 69 == 0 || c.u8 69 == 0xFF) (badAt 69 0xFF),
      need (c.akRope || c.u8 70 == 0) (badAt 70 0xFF),
      need (if c.akRope then decide (c.u8 70 + c.u8 71 ≤ pool.d / 2) else c.u8 71 == 0) (badAt 71 0xFF),
      need (zeroAt c.raw 72 56) (badAt 72 0xFF), need (c.foldMode == 0) (badAt 7 0xFF),
      shapeIs c c.akK [pool.d, t, pool.hkv, 1, 1], shapeIs c c.akV [pool.dv, t, pool.hkv, 1, 1],
      (if c.akRope then firstBad [
        need ((c.tensor (c.u8 68)).format == .int32) (badAt 6 (c.u8 68)), shapeIs c (c.u8 68) [3, t, 1, 1, 1],
        need ((c.tensor (c.u8 69)).format == .fp32) (badAt 6 (c.u8 69)), shapeIs c (c.u8 69) [pool.d / 2, 1, 1, 1, 1]] else none),
      (match seqBad b with
        | some off => badAt (off % 256) c.akSeq
        | none => none),
      need (c.akPrefix || decide (s.ringSize > 0)) (badAt 4 c.akSeq),
      need (c.akPrefix || decide (t ≤ s.ringSize * 256)) (badShape c.akK 1),
      need (!d.kvPrefixOver c s) (badAt 2 c.akSeq)],
    format := firstBad [need (k.format == pool.fmt) (badFormat c c.akK), need (v.format == pool.fmt) (badFormat c c.akV)],
    shape := overPlan c [(0, t, c.akK)],
    inputs := [c.akK, c.akV] ++ (if c.akRope then [c.u8 68, c.u8 69] else []) ++ [c.akSeq],
    outputs := [c.akSeq],
    inPlace := [c.akSeq],
    empty := t == 0 }

/-! ### PAGE_RELEASE (R361) -/

def Cmd.prList (c : Cmd) : Nat := c.u8 65
def Cmd.prSeq (c : Cmd) : Nat := c.u8 66

/-- The pages a PAGE_RELEASE lists, from its LIST tensor or its descriptor. -/
def Dev.prPages (d : Dev) (c : Cmd) (b : Bytes) : List Nat :=
  if c.prSeq = 0xFF then
    let t := c.tensor c.prList
    (List.range (t.dim 0)).map (fun i => d.elemCode c.part t [i, 0, 0, 0, 0])
  else (parseSeq b).pageList

def Dev.prCheck (d : Dev) (c : Cmd) (b : Bytes) : OpCheck :=
  let l := c.tensor c.prList
  let seq := c.prSeq != 0xFF
  { formed := firstBad [
      need (decide (c.prMode ≤ 3)) (badAt 64 0xFF), need ((c.prList == 0xFF) == seq && (seq || c.idxOk c.prList)) (badAt 65 0xFF),
      need (!seq || (c.idxOk c.prSeq && (c.tensor c.prSeq).isSeq)) (badAt 66 0xFF), need (zeroAt c.raw 67 61) (badAt 67 0xFF),
      need (c.foldMode == 0) (badAt 7 0xFF),
      (if seq then none else firstBad [need (l.format == .int32) (badAt 6 c.prList), need (l.rank == 1) (badAt 7 c.prList)]),
      (if seq then (match seqBad b with
        | some off => badAt (off % 256) c.prSeq
        | none => none) else none),
      need (c.prMode != 1 || !d.kvOverRetained c.part (d.prPages c b)) (badAt 64 0xFF)],
    inputs := [if seq then c.prSeq else c.prList],
    outputs := if seq && c.prMode == 0 then [c.prSeq] else [],
    inPlace := if seq then [c.prSeq] else [] }

/-- R361: the effect on one listed occurrence. -/
def KvEntry.act (mode : Nat) (e : KvEntry) : KvEntry :=
  match mode with
  | 0 => { e with ref := e.ref - 1 }
  | 1 => { e with ref := e.ref + 1 }
  | 2 => { e with isSealed := true }
  | _ => { e with isSealed := false }

/-- What the commit of a PAGE_RELEASE does to its pages and its sequence (R361). -/
def Dev.prActed (d : Dev) (c : Cmd) : Dev :=
  let d := c.pages.foldl (fun d n => d.modKvEntry c.part n (KvEntry.act c.prMode)) d
  if c.prSeq ≠ 0xFF && c.prMode = 0 then
    d.putBytesIn c.part 0 (c.tensor c.prSeq).addr (putAt (putAt c.image 2 [0]) 6 [0, 0, 0, 0])
  else d

/-- PAGE_RELEASE commits. -/
def Dev.prCommit (d : Dev) (c : Cmd) : Dev := (d.prActed c).complete c stOK 0

end Sys2Proof.Machine
end

