-- ==== Sys2Proof/Machine/Attend.lean ====
section
/-! DEFINITION. ATTEND: parameters, key list, masks, online softmax, retrieval, checks, tile space and tile results (R338-R350, R365, R366). -/

namespace Sys2Proof.Machine

/-! ### Parameters (Table 12-1) -/

def Cmd.atQ (c : Cmd) : Nat := c.u8 64
def Cmd.atK (c : Cmd) : Nat := c.u8 65
def Cmd.atV (c : Cmd) : Nat := c.u8 66
def Cmd.atO (c : Cmd) : Nat := c.u8 67
def Cmd.atLse (c : Cmd) : Nat := c.u8 68
def Cmd.atMask (c : Cmd) : Nat := bits (c.u8 69) 0 3
def Cmd.atRope (c : Cmd) : Bool := bit (c.u8 69) 3
def Cmd.atPaged (c : Cmd) : Bool := bit (c.u8 69) 4
def Cmd.atRetrieve (c : Cmd) : Bool := bit (c.u8 69) 5
def Cmd.atMt (c : Cmd) : Nat := bits (c.u8 69) 6 2
def Cmd.atMaskT (c : Cmd) : Nat := c.u8 70
def Cmd.atSeq (c : Cmd) : Nat := c.u8 71
def Cmd.atWindow (c : Cmd) : Nat := c.u16 72
def Cmd.atFrame (c : Cmd) : Nat := c.u16 74
def Cmd.atPFmt (c : Cmd) : Fmt := (Fmt.ofCode (c.u8 76)).getD .bf16
def Cmd.atTopP (c : Cmd) : Nat := c.u16 82
def Cmd.atScale (c : Cmd) : Word := c.w32 84
def Cmd.atSc0 (c : Cmd) : Word := c.w32 88
def Cmd.atEpi (c : Cmd) : Nat := bits (c.u8 92) 0 3
def Cmd.atWorkBase (c : Cmd) : Nat := c.u16 102
def Cmd.atWorkSize (c : Cmd) : Nat := c.u16 104
def Cmd.atQBase (c : Cmd) : Nat := c.u32 106
def Cmd.atLBase (c : Cmd) : Nat := c.u32 110

def Cmd.atLocal (c : Cmd) : Bool := c.atK != 0xFF
def Cmd.atTq (c : Cmd) : Nat := (c.tensor c.atQ).dim 1
def Cmd.atHq (c : Cmd) : Nat := (c.tensor c.atQ).dim 2
def Cmd.atB (c : Cmd) : Nat := (c.tensor c.atQ).dim 3
def Cmd.atD (c : Cmd) : Nat := (c.tensor c.atQ).dim 0
def Cmd.atDv (c : Cmd) : Nat := (c.tensor c.atO).dim 0
def Cmd.atTl (c : Cmd) : Nat := if c.atLocal then (c.tensor c.atK).dim 1 else 0

/-- The count of KV heads: of the local keys, or of the pool. -/
def Dev.atHkv (d : Dev) (c : Cmd) : Nat :=
  if c.atPaged then (d.kvPool c.part).hkv else (c.tensor c.atK).dim 2

/-! ### The key list (R340) -/

/-- The ring pages of the snapshot that are attended: all of them, or those retrieval kept, oldest first. -/
def Cmd.atPages (c : Cmd) : List KvPage :=
  let pre := c.kvPages.filter (fun g => !g.ring)
  let ring := c.kvPages.filter (·.ring)
  match c.kept with
  | none => pre ++ ring
  | some l => pre ++ (List.range ring.length).filterMap (fun i => if l.contains i then ring[i]? else none)

/-- A key block (R340): the page, or the first local key of it, its length, and whether it is anchored prefix. -/
def Cmd.atBlocks (c : Cmd) : List (Option KvPage × Nat × Nat) :=
  (if c.atPaged then c.atPages.map (fun g => (some g, 0, g.fill)) else []) ++
  (List.range (ceilDiv c.atTl 256)).map (fun i => (none, 256 * i, min 256 (c.atTl - 256 * i)))

/-- A key block of local keys, or of pages, with its place in the key list: (block, key index of its first key). -/
def numbered : Nat → List (Option KvPage × Nat × Nat) → List ((Option KvPage × Nat × Nat) × Nat)
  | _, [] => []
  | n, b :: r => (b, n) :: numbered (n + b.2.2) r

/-- The position of key s of a block (R341). -/
def Cmd.atPos (c : Cmd) (b : Option KvPage × Nat × Nat) (s : Nat) : Nat :=
  match b.1 with
  | some g => (g.base + s) % 2 ^ 32
  | none => (c.atLBase + b.2.1 + s) % 2 ^ 32

/-- R342, Table 12-2: whether a key is present for query row i of head h and batch item b. -/
def Dev.atPresent (d : Dev) (c : Cmd) (blk : Option KvPage × Nat × Nat) (s j i h b : Nat) : Bool :=
  let qp := (c.atQBase + i) % 2 ^ 32
  let kp := c.atPos blk s
  let anchored := match blk.1 with
    | some g => !g.ring
    | none => false
  match c.atMask with
  | 1 => anchored || decide (kp ≤ qp)
  | 2 => anchored || (decide (kp ≤ qp) && decide (kp + c.atWindow > qp))
  | 3 => anchored || decide (kp / max 1 c.atFrame ≤ qp / max 1 c.atFrame)
  | 4 =>
    let t := c.tensor c.atMaskT
    bit (d.elemCode c.part t [j / 8, i, if t.dim 2 = 1 then 0 else h, b, 0]) (j % 8)
  | _ => true

/-! ### Operands -/

/-- A row of Q or of local K as its chain takes it: rotated when ROPE_EN is set (R343). -/
def Dev.atRow (d : Dev) (c : Cmd) (ti posT i h b : Nat) : Num (List Val) := do
  let t := c.tensor ti
  let xs ← (List.range (t.dim 0)).mapM (fun k => d.elemOf c ti [k, i, h, b, 0])
  if !c.atRope then return xs
  else
    let pt := c.tensor posT
    (List.range 3).forM (fun a => d.readTag c.part pt [a, i, b, 0, 0])
    let codes ← d.rope c t.format (c.u8 79) (c.u8 80) (c.u8 81) (fun a => d.elemCode c.part pt [a, i, b, 0, 0]) xs
    return decodeCodes t.format codes

/-- Key row s of a block. -/
def Dev.atKey (d : Dev) (c : Cmd) (blk : Option KvPage × Nat × Nat) (s h b : Nat) : Num (List Val) :=
  match blk.1 with
  | some g =>
    let k := d.kvPool c.part
    (List.range k.d).mapM (fun i => readCode c.ftz k.fmt (leNat (d.bytesIn c.part 0 (k.keyAddr g.page h s i) k.e)))
  | none => d.atRow c c.atK (c.u8 78) (blk.2.1 + s) h b

/-- Value row s of a block. -/
def Dev.atVal (d : Dev) (c : Cmd) (blk : Option KvPage × Nat × Nat) (s h b : Nat) : Num (List Val) :=
  match blk.1 with
  | some g =>
    let k := d.kvPool c.part
    (List.range k.dv).mapM (fun i => readCode c.ftz k.fmt (leNat (d.bytesIn c.part 0 (k.valAddr g.page h s i) k.e)))
  | none => (List.range c.atDv).mapM (fun i => d.elemOf c c.atV [i, blk.2.1 + s, h, b, 0])

/-! ### Online softmax (R344) -/

def log2e : Word := 0x3FB8AA3B#32
def ln2 : Word := 0x3F317218#32

/-- The state of a row: m, l and o. -/
abbrev AtRow := Word × Word × List Word

/-- One key block for one query row. -/
def Dev.atBlock (d : Dev) (c : Cmd) (q : List Val) (i h hkv b : Nat) (st : AtRow) (blk : (Option KvPage × Nat × Nat) × Nat) : Num AtRow := do
  let f := c.ftz
  let ss ← (List.range blk.1.2.2).mapM (fun s => do
    let key ← d.atKey c blk.1 s hkv b
    let dot ← chainRun f w0 (q.zip key)
    let x ← fmul f dot c.atScale
    let x ← if c.atMask = 5 then do
        let t := c.tensor c.atMaskT
        let w ← d.streamWord c c.atMaskT [blk.2 + s, i, if t.dim 2 = 1 then 0 else h, b, 0]
        fadd f x w
      else pure x
    let mt := c.tensor c.atMaskT
    if c.atMask = 4 then d.readTag c.part mt [(blk.2 + s) / 8, i, if mt.dim 2 = 1 then 0 else h, b, 0]
    return (x, d.atPresent c blk.1 s (blk.2 + s) i h b))
  if ss.all (fun x => !x.2) then return st
  else
    let mx ← rmax (ss.map (fun x => if x.2 then some x.1 else none))
    let mNew := fmax st.1 mx
    if (val32 mNew).eqv (.inf true) then return st
    else
      let dm ← fsub f st.1 mNew
      let dm ← fmul f dm log2e
      let a ← exp2W f dm
      let ps ← ss.mapM (fun x =>
        if x.2 then do
          let y ← fsub f x.1 mNew
          let y ← fmul f y log2e
          exp2W f y
        else pure w0)
      let la ← fmul f st.2.1 a
      let sum ← rsum f (ps.map some)
      let l ← fadd f la sum
      let pr ← ps.mapM (fun p => do
        let code ← convertTo c.atPFmt { ftz := f } 0 (val32 p)
        return (decodeCodes c.atPFmt [code]).headD .nan)
      let vs ← (List.range blk.1.2.2).mapM (fun s => d.atVal c blk.1 s hkv b)
      let o ← (List.range c.atDv).mapM (fun dv => do
        let o0 ← fmul f (st.2.2.getD dv w0) a
        chainRun f o0 ((List.range pr.length).map (fun k => (pr.getD k .nan, (vs.getD k []).getD dv .nan))))
      return (mNew, l, o)

/-- All key blocks of a row. -/
def Dev.atRun (d : Dev) (c : Cmd) (q : List Val) (i h hkv b : Nat) (st : AtRow) :
    List ((Option KvPage × Nat × Nat) × Nat) → Num AtRow
  | [] => return st
  | x :: r => do
    let st ← d.atBlock c q i h hkv b st x
    d.atRun c q i h hkv b st r

/-- The row's O before the epilogue, and its LSE. -/
def Dev.atFinal (c : Cmd) (st : AtRow) : Num (List Word × Word) := do
  let f := c.ftz
  if (val32 st.2.1).isZero then return (List.replicate c.atDv w0, wNegInf)
  else
    let o ← st.2.2.mapM (fun x => fdiv f x st.2.1)
    let g ← log2W f st.2.1
    let g ← fmul f g ln2
    let lse ← fadd f st.1 g
    return (o, lse)

/-! ### Epilogue (R345) -/

def Cmd.atStep (c : Cmd) (i : Nat) : Nat × Nat := (c.u8 (94 + 2 * i), c.u8 (95 + 2 * i))

/-- One step on o[d] at [d, i, h, b]. -/
def Dev.atEpiStep (d : Dev) (c : Cmd) (co : List Nat) (x : Word) (st : Nat × Nat) : Num Word := do
  let f := c.ftz
  match st.1 with
  | 0x01 => do
    let v ← d.vecWord c st.2 (co.getD 0 0) (co.getD 2 0)
    fadd f x v
  | 0x03 => do
    let v ← d.vecWord c st.2 (co.getD 0 0) (co.getD 2 0)
    fmul f x v
  | 0x05 => fmul f x c.atSc0
  | 0x07 => do
    let v ← d.streamWord c st.2 co
    fadd f x v
  | 0x08 => do
    let v ← d.streamWord c st.2 co
    fmul f x v
  | _ => return x

/-! ### Tiles (R348-R350) -/

/-- The tile space of an ATTEND: problems by batch item and KV head, bands of its rows; a key block counts as a chunk. -/
def Dev.atSpace (d : Dev) (c : Cmd) : TileSpace :=
  let hkv := max 1 (d.atHkv c)
  let q := (c.tensor c.atQ).format
  let kf := if c.atPaged then (d.kvPool c.part).fmt else (c.tensor c.atK).format
  let vf := if c.atPaged then (d.kvPool c.part).fmt else (c.tensor c.atV).format
  { grids := c.atB * hkv, rows := c.atHq / hkv * c.atTq, cols := 1, k := 256 * c.atBlocks.length,
    mt := if c.atMt = 0 then 1024 else 128 * 2 ^ c.atMt, nt := 1,
    r := streamInterval q kf false, r2 := streamInterval c.atPFmt vf false, slotWords := c.atDv + 2,
    mode := (weightMode kf false).1 }

/-- The result of one ATTEND tile. Segments before the last write only their save slot; the value is formed with the last. -/
def Dev.atTile (d : Dev) (c : Cmd) (id : TileId) : Num TileResult := do
  let t := d.atSpace c
  let hkv := max 1 (d.atHkv c)
  let g := c.atHq / hkv
  let cell := t.cell id.rank
  let b := cell.1 / hkv
  let hk := cell.1 % hkv
  if decide (id.sub + 1 < t.segments cell.2.1) then return {}
  else
    let blocks := numbered 0 c.atBlocks
    let rows ← (List.range (t.bandRows cell.2.1)).mapM (fun ri => do
      let r := cell.2.1 * t.mt + ri
      let i := r % max 1 c.atTq
      let h := hk * g + r / max 1 c.atTq
      let q ← d.atRow c c.atQ (c.u8 77) i h b
      let st ← d.atRun c q i h hk b (wNegInf, w0, List.replicate c.atDv w0) blocks
      let fin ← Dev.atFinal c st
      let vs ← (List.range c.atDv).mapM (fun k => do
        let co := [k, i, h, b, 0]
        let x ← (List.range c.atEpi).foldlM (fun x n => d.atEpiStep c co x (c.atStep n)) (fin.1.getD k w0)
        return (val32 x, c.roundDraw c.atO co))
      let w ← Dev.emitRow c.num c.tensors (c.tensor c.atO) 0 [i, h, b, 0] vs
      let lse := if c.atLse = 0xFF then [] else (c.tensor c.atLse).put [i, h, b, 0, 0] fin.2.toNat
      return w ++ lse)
    return { writes := rows.flatten }

/-! ### Retrieval (R365) -/

/-- The query summary: BF16 means over heads and rows. -/
def Dev.atQuery (d : Dev) (c : Cmd) : Num Bytes := do
  let n ← rnd32 false (.ofInt (c.atTq * c.atHq))
  let rows ← (List.range c.atHq).mapM (fun h => (List.range c.atTq).mapM (fun i => d.atRow c c.atQ (c.u8 77) i h 0))
  let vs ← (List.range (min c.atD 128)).mapM (fun k => do
    let xs ← rows.flatten.mapM (fun row => do
      let w ← rnd32 false (row.getD k .nan)
      return some w)
    let s ← rsum c.ftz xs
    let q ← fdiv c.ftz s n
    convertTo .bf16 { ftz := c.ftz } 0 (val32 q))
  return vs.flatMap (toLe 2)

/-- The scoring of a command's ring, once, before its first tile: which ring ordinals are kept, and the counters. -/
def Dev.atRetrieveNow (d : Dev) (c : Cmd) : Dev :=
  let ring := c.kvPages.filter (·.ring)
  if !(c.atRetrieve && c.atPaged) || ring.length ≤ c.atTopP || c.kept.isSome then d
  else
    let k := d.kvPool c.part
    let q := (d.atQuery c).run {}
    let scores := (List.range ring.length).map (fun i =>
      (i, scoreOf q.1 (d.bytesIn c.part 0 (k.sumAddr (ring.getD i ⟨0, 0, 0, true⟩).page) (2 * min c.atD 128))))
    let kept := rankTop c.atTopP scores
    let d := (List.range 12).foldl (fun d s =>
      let n := (ring.filter (fun g => (d.cellOf c.part (k.sumAddr g.page)).any (fun x => stackOf (x / 256) == s))).length
      if n = 0 then d else d.stkCount s 0 0 n) d
    (d.setCmd { c with kept := some kept }).bump (pgKVP c.part) 0x830 1

/-! ### Checks -/

/-- The sum of the n largest. -/
def sumLargest (n : Nat) (l : List Nat) : Nat := ((l.mergeSort (fun a b => decide (b ≤ a))).take n).foldl (· + ·) 0

/-- MAX[4]: the most keys the key list can hold: prefix, attended ring pages and local keys. -/
def Cmd.atKeysMost (c : Cmd) : Nat :=
  let fills (l : List KvPage) : List Nat := l.map (·.fill)
  let ring := c.kvPages.filter (·.ring)
  (fills (c.kvPages.filter (fun g => !g.ring))).foldl (· + ·) 0 + c.atTl +
    (if c.atRetrieve then sumLargest c.atTopP (fills ring) else (fills ring).foldl (· + ·) 0)

/-- The admission checks of an ATTEND whose snapshot has been taken; `b` is its sequence descriptor's bytes. -/
def Dev.atCheck (d : Dev) (c : Cmd) (b : Bytes) : OpCheck :=
  let q := c.tensor c.atQ
  let o := c.tensor c.atO
  let pool := d.kvPool c.part
  let loc := c.atLocal
  let m := c.atMask
  let t := d.atSpace c
  let hkv := d.atHkv c
  let mt := c.tensor c.atMaskT
  let seg := (List.range t.bands).any (fun b => decide (t.segments b > 1))
  let epi := (List.range c.atEpi).map c.atStep
  let streams := ((epi.filter (fun s => s.1 == 0x07 || s.1 == 0x08)).map (·.2)).eraseDups
  let vecs := ((epi.filter (fun s => s.1 == 0x01 || s.1 == 0x03)).map (·.2)).eraseDups
  let stepOk (s : Nat × Nat) : Bool :=
    ((s.1 == 0x01 || s.1 == 0x03 || s.1 == 0x07 || s.1 == 0x08) && c.idxOk s.2) || (s.1 == 0x05 && s.2 == 0)
  let fmt4 (i : Nat) := need (c.tensor i).format.isStream4 (badFormat c i)
  { formed := firstBad ([
      need (c.idxOk c.atQ) (badAt 64 0xFF), need (!loc || c.idxOk c.atK) (badAt 65 0xFF),
      need (if loc then c.idxOk c.atV else c.atV == 0xFF) (badAt 66 0xFF), need (c.idxOk c.atO) (badAt 67 0xFF),
      need (c.atLse == 0xFF || c.idxOk c.atLse) (badAt 68 0xFF),
      need (decide (m ≤ 5) && (!c.atRetrieve || c.atPaged) && (loc || c.atPaged)) (badAt 69 0xFF),
      need (if m ≥ 4 then c.idxOk c.atMaskT else c.atMaskT == 0xFF) (badAt 70 0xFF),
      need (if c.atPaged then c.idxOk c.atSeq && (c.tensor c.atSeq).isSeq else c.atSeq == 0xFF) (badAt 71 0xFF),
      need (if m = 2 then c.atWindow != 0 else c.atWindow == 0) (badAt 72 0xFF),
      need (if m = 3 then c.atFrame != 0 else c.atFrame == 0) (badAt 74 0xFF),
      need c.atPFmt.isStream4 (badAt 76 0xFF), need ((Fmt.ofCode (c.u8 76)).isSome) (badAt 76 0xFF),
      need (if c.atRope then c.idxOk (c.u8 77) else c.u8 77 == 0 || c.u8 77 == 0xFF) (badAt 77 0xFF),
      need (if c.atRope && loc then c.idxOk (c.u8 78) else c.u8 78 == 0xFF || (!c.atRope && c.u8 78 == 0)) (badAt 78 0xFF),
      need (if c.atRope then c.idxOk (c.u8 79) else c.u8 79 == 0 || c.u8 79 == 0xFF) (badAt 79 0xFF),
      need (c.atRope || c.u8 80 == 0) (badAt 80 0xFF),
      need (if c.atRope then decide (c.u8 80 + c.u8 81 ≤ c.atD / 2) else c.u8 81 == 0) (badAt 81 0xFF),
      need (if c.atRetrieve then decide (1 ≤ c.atTopP) && decide (c.atTopP ≤ 1024) else c.atTopP == 0) (badAt 82 0xFF),
      need (epi.any (fun s => s.1 == 0x05) || c.u32 88 == 0) (badAt 88 0xFF),
      need (decide (c.atEpi ≤ 4) && c.u8 92 / 8 == 0) (badAt 92 0xFF), need (c.u8 93 == 0) (badAt 93 0xFF)] ++
      (List.range 4).map (fun i => need (if i < c.atEpi then stepOk (c.atStep i) else c.atStep i == (0, 0)) (badAt (94 + 2 * i) 0xFF)) ++ [
      need (workOk c.atWorkBase c.atWorkSize) (badAt 104 0xFF), need (zeroAt c.raw 114 14) (badAt 114 0xFF),
      need (c.foldMode == 0) (badAt 7 0xFF),
      need (q.rank == 4 && q.dim 4 == 1) (badAt 7 c.atQ), need (o.rank == 4) (badAt 7 c.atO),
      need (decide (1 ≤ c.atD) && decide (c.atD ≤ 256) && (!c.atRope || c.atD % 2 == 0)) (badShape c.atQ 0),
      need (decide (1 ≤ c.atDv) && decide (c.atDv ≤ 256)) (badShape c.atO 0),
      need (decide (0 < hkv) && c.atHq % max 1 hkv == 0) (badShape c.atQ 2),
      shapeIs c c.atO [c.atDv, c.atTq, c.atHq, c.atB, 1],
      (if loc then firstBad [shapeIs c c.atK [c.atD, c.atTl, hkv, c.atB, 1], shapeIs c c.atV [c.atDv, c.atTl, hkv, c.atB, 1]] else none),
      (if c.atLse = 0xFF then none else firstBad [need ((c.tensor c.atLse).format == .fp32) (badAt 6 c.atLse),
        shapeIs c c.atLse [c.atTq, c.atHq, c.atB, 1, 1]]),
      (if c.atPaged then firstBad [need (c.atB == 1) (badShape c.atQ 3), need (c.atD == pool.d) (badShape c.atQ 0),
        need (c.atDv == pool.dv) (badShape c.atO 0), (match seqBad b with
          | some off => badAt (off % 256) c.atSeq
          | none => none)] else none),
      (if m ≥ 4 then firstBad [
        need (if m = 4 then decide (mt.dim 0 ≥ ceilDiv c.atKeysMost 8) else decide (mt.dim 0 ≥ c.atKeysMost)) (badShape c.atMaskT 0),
        need (mt.dim 1 == c.atTq) (badShape c.atMaskT 1), need (mt.dim 2 == 1 || mt.dim 2 == c.atHq) (badShape c.atMaskT 2),
        need (mt.dim 3 == c.atB) (badShape c.atMaskT 3),
        need (if m = 4 then mt.format == .uint8 else mt.format == .fp32 || mt.format == .bf16) (badAt 6 c.atMaskT)] else none),
      (if c.atRope then firstBad ([
        need ((c.tensor (c.u8 77)).format == .int32) (badAt 6 (c.u8 77)), shapeIs c (c.u8 77) [3, c.atTq, c.atB, 1, 1],
        need ((c.tensor (c.u8 79)).format == .fp32) (badAt 6 (c.u8 79)), shapeIs c (c.u8 79) [c.atD / 2, 1, 1, 1, 1]] ++
        (if loc then [need ((c.tensor (c.u8 78)).format == .int32) (badAt 6 (c.u8 78)), shapeIs c (c.u8 78) [3, c.atTl, c.atB, 1, 1]] else [])) else none)] ++
      vecs.map (fun i => vecShape c i c.atDv c.atHq) ++ streams.map (fun i => shapeIs c i o.shape) ++ [
      c.companionOk c.atO false,
      need (!seg || decide (c.atWorkSize ≥ 2 * t.slotUnits)) (badAt 104 0xFF)]),
    format := firstBad ([fmt4 c.atQ] ++ (if loc then [fmt4 c.atK, fmt4 c.atV] else []) ++ [
      need (o.format.okOutput false) (badFormat c c.atO)] ++
      (streams ++ vecs).map (fun i => need (c.tensor i).format.isStream5 (badFormat c i))),
    shape := overPlan c [(0, c.atTq, c.atQ), (1, c.atTl, c.atK), (2, c.atHq, c.atQ), (3, c.atB, c.atQ), (4, c.atKeysMost, c.atSeq)],
    streams := if streams.length > 3 then some (stSTREAMS, streams.length <<< 8)
      else if vecs.length > 4 then some (stSTREAMS, 3 + (vecs.length <<< 8)) else none,
    inputs := ([c.atQ] ++ (if loc then [c.atK, c.atV] else []) ++ (if m ≥ 4 then [c.atMaskT] else []) ++
      (if c.atPaged then [c.atSeq] else []) ++ (if c.atRope then [c.u8 77, c.u8 79] ++ (if loc then [c.u8 78] else []) else []) ++
      streams ++ vecs).eraseDups,
    outputs := ([c.atO] ++ (if c.atLse = 0xFF then [] else [c.atLse]) ++ (if o.format.isMx then [o.aux] else [])).eraseDups,
    inPlace := streams,
    work := if c.atWorkSize = 0 then none else some (c.atWorkBase, c.atWorkSize),
    empty := c.atTq == 0 || c.atHq == 0 || c.atB == 0 || o.count == 0 }

end Sys2Proof.Machine
end

