-- ==== Sys2Proof/Machine/Convert.lean ====
section
/-! DEFINITION. CONVERT: parameters, checks, and the result of each of its tiles (R154-R160). -/

namespace Sys2Proof.Machine

def Cmd.ctSrc (c : Cmd) : Nat := c.u8 64
def Cmd.ctDst (c : Cmd) : Nat := c.u8 65
def Cmd.ctScale (c : Cmd) : Nat := c.u8 66

/-- The destination elements of one CONVERT tile (R160). -/
def convertTileElems : Nat := 65536

/-- The tile space of a CONVERT: tiles of 65,536 elements, 256 elements a cycle with the cells bypassed (R160). -/
def Cmd.ctSpace (c : Cmd) : TileSpace :=
  { rows := ceilDiv (c.tensor c.ctDst).count convertTileElems, cols := 1, mt := 1, nt := 256, bypass := true }

/-- R160: the scale of a line, widened as an operand. -/
def Dev.ctScaleOf (d : Dev) (c : Cmd) (co : List Nat) : Num Val :=
  let t := c.tensor c.ctScale
  d.elemOf c c.ctScale [if t.dim 0 = 1 then 0 else co.getD 1 0, 0, 0, 0, 0]

/-- The exact value CONVERT rounds for an element (R154). -/
def Dev.ctValue (d : Dev) (c : Cmd) (co : List Nat) : Num Val := do
  let v ← d.elemOf c c.ctSrc co
  if c.ctScale = 0xFF then return v
  else
    let s ← d.ctScaleOf c co
    return v.mul s

/-- The runs of a tile: (first column, outer coordinates, length). For an MX destination a block belongs to the tile that holds its
first element (log entry 20). -/
def Cmd.ctRuns (c : Cmd) (tile : Nat) : List (Nat × List Nat × Nat) :=
  let t := c.tensor c.ctDst
  let n := max 1 (t.dim 0)
  let lo := tile * convertTileElems
  let hi := min t.count (lo + convertTileElems)
  let align (line x : Nat) : Nat :=
    if t.format.isMx then min n (roundUp (x - line * n) 32) else x - line * n
  (List.range (ceilDiv hi n - lo / n)).map (fun i =>
    let line := lo / n + i
    let a := align line (max lo (line * n))
    let b := if hi ≥ (line + 1) * n then n else align line hi
    (a, coordsOf (t.shape.drop 1) line, b - a))

/-- The result of one CONVERT tile. -/
def Dev.ctTile (d : Dev) (c : Cmd) (id : TileId) : Num TileResult := do
  let t := c.tensor c.ctDst
  let ws ← (c.ctRuns id.rank).mapM (fun r => do
    let vs ← (List.range r.2.2).mapM (fun j => do
      let co := (r.1 + j) :: r.2.1
      let v ← d.ctValue c co
      return (v, c.roundDraw c.ctDst co))
    Dev.emitRow c.num c.tensors t r.1 r.2.1 vs)
  return { writes := ws.flatten }

/-- A format CONVERT can write (Table 5-1, R159). -/
def Fmt.okConvertDst (f : Fmt) : Bool := !(f == .lut4 || f == .lut2 || f == .cf32)

/-- The admission checks of a CONVERT. -/
def Cmd.ctCheck (c : Cmd) : OpCheck :=
  let s := c.tensor c.ctSrc
  let t := c.tensor c.ctDst
  let k := c.tensor c.ctScale
  let scaled := c.ctScale != 0xFF
  { formed := firstBad [
      need (c.idxOk c.ctSrc) (badAt 64 0xFF), need (c.idxOk c.ctDst) (badAt 65 0xFF),
      need (!scaled || c.idxOk c.ctScale) (badAt 66 0xFF), need (zeroAt c.raw 67 61) (badAt 67 0xFF),
      need (c.foldMode == 0) (badAt 7 0xFF),
      shapeIs c c.ctDst s.shape,
      (if scaled then firstBad [need (k.format == .fp32) (badAt 6 c.ctScale), need (k.rank == 1) (badAt 7 c.ctScale),
        need (k.dim 0 == 1 || k.dim 0 == s.dim 1) (badShape c.ctScale 0)] else none),
      c.companionOk c.ctSrc true, c.companionOk c.ctDst false],
    format := firstBad [need (s.format != .cf32) (badFormat c c.ctSrc), need t.format.okConvertDst (badFormat c c.ctDst)],
    shape := overPlan c ((List.range 5).map (fun i => (i, s.dim i, c.ctSrc))),
    inputs := ([c.ctSrc] ++ (if scaled then [c.ctScale] else []) ++ (if s.aux = 0xFF then [] else [s.aux])).eraseDups,
    outputs := ([c.ctDst] ++ (if t.format.isMx then [t.aux] else [])).eraseDups,
    inPlace := [c.ctSrc],
    empty := t.count == 0 }

end Sys2Proof.Machine
end

