-- ==== Sys2Proof/Machine/Session.lean ====
section
/-! DEFINITION. Capacity, the calendar, session opens and closes, and reading or answering the structures of doorbells (R36-R47, R60, R394, R395, R498, R555, R558). -/

namespace Sys2Proof.Machine

/-! ### Capacity (R36, R498) -/

/-- Table 18-2: hoistable arrays of the whole device at a Reef step. -/
def reefArrays : Nat → Nat
  | 0 => 128 | 1 => 96 | 2 => 64 | _ => 32

/-- The tick period N in force. -/
def Dev.tickN (d : Dev) : Nat := bits (d.active pgTICK 0x040) 0 8

/-- R36: the reserve of a window. -/
def reserveOf (n : Nat) : Nat := max (n * 499950 * 8 / 100) 100000

/-- R36: the admissible cycles of a window. -/
def admissible (n : Nat) : Nat := n * 499950 - reserveOf n

/-- The arrays of a partition, and those of them in service. -/
def Dev.arraysOf (d : Dev) (p : Nat) : List Nat := (d.coresOf p).flatMap (fun n => [2 * n, 2 * n + 1])

def Dev.inService (d : Dev) (a : Nat) : Bool := !(d.array a).outOfService

def Dev.serviceArrays (d : Dev) (p : Nat) : List Nat := (d.arraysOf p).filter d.inService

/-- R498: hoistable arrays of a partition at a Reef step. -/
def Dev.hoistable (d : Dev) (p step : Nat) : Nat := (d.serviceArrays p).length * reefArrays step / 128

/-- HBM_SHARE and FAB_SHARE of a partition. -/
def Dev.hbmShare (d : Dev) (p : Nat) : Nat := bits (d.active (pgPART p) 0x048) 0 9
def Dev.fabShare (d : Dev) (p : Nat) : Nat := bits (d.active (pgPART p) 0x048) 16 9

/-- Table 2-4 at a Reef step: 0 array, 1 vector, 2 HBM, 3 fabric. -/
def Dev.capacityAt (d : Dev) (p step r : Nat) : Nat :=
  let a := admissible d.tickN
  let n := (d.arraysOf p).length
  match r with
  | 0 => if n = 0 then 0 else a * d.hoistable p step / n
  | 1 => a
  | 2 => 25000 * a * d.hbmShare p / 256
  | _ => 2000 * a * d.fabShare p / 768

/-- The capacity of the Reef step in force. -/
def Dev.capacity (d : Dev) (p r : Nat) : Nat := d.capacityAt p d.reef.step r

/-! ### The calendar (R41, R42) -/

/-- A fold key: plan record, FOLD_ID, and the session for a session with NO_FOLD. -/
abbrev FoldKey := Nat × Nat × Option Nat

/-- The key of a stage of a session. -/
def Session.key (s : Session) (foldId : Nat) : FoldKey := (s.planAddr, foldId, if s.noFold then some s.id else none)

/-- A stage of offset o lands in a slot. -/
def Session.lands (s : Session) (o slot : Nat) : Bool := (slot + 4800 * (s.t0 + o + 1) - (s.t0 + o)) % s.interval == 0

/-- The stage instances of some sessions in a slot: key and costs. -/
def Dev.instancesIn (d : Dev) (ss : List Session) (slot : Nat) : List (FoldKey × StageCost) :=
  ss.flatMap (fun s => ((d.planAt s.part s.planAddr).stages.filter (fun g => s.lands g.offset slot)).map (fun g => (s.key g.foldId, g)))

/-- The smallest fold point not below m, as its index: 1, 2, 4, .. 64. -/
def foldPoint (m : Nat) : Nat := ((List.range 7).find? (fun i => decide (m ≤ 2 ^ i))).getD 6

/-- R41: the largest cost of some stages at a fold point. -/
def costAt (gs : List StageCost) (pt r : Nat) : Nat := gs.foldl (fun a g => max a ((g.costs.getD pt []).getD r 0)) 0

/-- R41: what admission charges for the instances of one key. -/
def keyCharge (gs : List StageCost) (r : Nat) : Nat :=
  let k := gs.length
  k / 64 * costAt gs 6 r + (if k % 64 = 0 then 0 else costAt gs (foldPoint (k % 64)) r)

/-- The demand of some sessions in a slot. -/
def Dev.demand (d : Dev) (ss : List Session) (slot r : Nat) : Nat :=
  let l := d.instancesIn ss slot
  let keys := (l.map (·.1)).eraseDups
  keys.foldl (fun a k => a + keyCharge ((l.filter (fun x => x.1 == k)).map (·.2)) r) 0

/-- The sessions of a partition, closing ones included (R43). -/
def Dev.sessionsOf (d : Dev) (p : Nat) : List Session := d.sessions.filter (fun s => s.part == p)

/-- What a partition has reserved in a slot. -/
def Dev.reserved (d : Dev) (p slot r : Nat) : Nat := d.demand (d.sessionsOf p) slot r

/-- The largest reservation over the calendar (PEAK_RES). -/
def Dev.peak (d : Dev) (p r : Nat) : Nat :=
  if (d.sessionsOf p).isEmpty then 0 else (List.range 4800).foldl (fun a s => max a (d.reserved p s r)) 0

/-- R42: the first slot and resource whose demand exceeds capacity. -/
def Dev.overBudget (d : Dev) (p : Nat) (ss : List Session) : Option (Nat × Nat × Nat) :=
  (List.range 4800).findSome? (fun slot => (List.range 4).findSome? (fun r =>
    let x := d.demand ss slot r
    if x > d.capacity p r then some (r, slot, x - d.capacity p r) else none))

/-! ### Doorbell structures (R60, R555, R558) -/

/-- A HOST_REQUEST entry for a failed request of partition p. -/
def Dev.logHost (d : Dev) (p addr severity : Nat) (e : ReadFail) : Dev :=
  (d.hostRefused p e).log (hostEntry p e.cause addr severity p 0 0)

/-- Read the structure of a doorbell of a PART page: `n` bytes, aligned to `al`; on failure DOORBELL_ADDR is raised. -/
def Dev.doorbellRead (d : Dev) (env : Env) (p addr al n : Nat) : Dev × Option Bytes :=
  if addr % al ≠ 0 then (d.raise (pgPART p) 14, none)
  else match d.readStruct env p addr n with
    | .ok b => (if isHost addr then d.atcFill p addr n else d, some b)
    | .error .invalid => (d.raise (pgPART p) 14, none)
    | .error e => ((d.logHost p addr 0 e).raise (pgPART p) 14, none)

/-- Write `bs` for partition p at a device address; a host write that is not issued or fails is logged and dropped. -/
def Dev.writeOut (d : Dev) (env : Env) (p addr : Nat) (bs : Bytes) : Dev × Bool :=
  if isHost addr then
    match d.hostRequest env p addr bs.length true with
    | .ok _ => ((d.atcFill p addr bs.length).putBytesIn p 0 addr bs, true)
    | .error e => (d.logHost p addr 0 e, false)
  else (d.putBytesIn p 0 addr bs, true)

/-! ### Session opens (R38, R42) -/

/-- A result as bytes 48-63 of a session descriptor. -/
def sessionResult (tick code r slot excess : Nat) : Bytes := toLe 8 tick ++ toLe 1 code ++ toLe 1 r ++ toLe 2 slot ++ toLe 4 (min excess (2 ^ 32 - 1))

/-- The session a descriptor declares. -/
def parseSession (p : Nat) (b : Bytes) : Session :=
  { id := bits (fieldAt b 0 2) 0 12, part := p, missDrop := bit (fieldAt b 2 1) 0, noFold := bit (fieldAt b 2 1) 1,
    interval := fieldAt b 4 2, deadline := fieldAt b 6 1, t0 := fieldAt b 8 8, planAddr := fieldAt b 16 8 }

/-- Fields that Table 2-5 keeps 0. -/
def sessionZeros (b : Bytes) : Bool :=
  fieldAt b 0 2 / 4096 == 0 && fieldAt b 2 1 / 4 == 0 && zeroAt b 3 1 && zeroAt b 7 1 && zeroAt b 24 24

/-- The plan of a session open, if it can be used by the partition: a read that fails is logged (R555). -/
def Dev.sessionPlan (d : Dev) (env : Env) (s : Session) : Dev × Option PlanRec :=
  let cores := (d.coresOf s.part).length
  match d.loadPlan env s.part s.planAddr with
  | .error (.inr .invalid) => (d, none)
  | .error (.inr e) => (d.logHost s.part s.planAddr 3 e, none)
  | .error (.inl _) => (d, none)
  | .ok (d', r) =>
    let claims := d.claims s.part ++ r.claims
    if r.coreCount = cores && claimsFit (d.ctxCfg s.part).2.2 cores (claimSlots claims) then (d', some r) else (d, none)

/-- Table 2-6: the lowest failing code of the checks before the slot test. -/
def Dev.sessionCode (d : Dev) (s : Session) (zeros : Bool) (plan : Option PlanRec) : Option Nat :=
  if d.sessions.any (fun x => x.id == s.id) then some 0x80
  else if d.sessions.length ≥ 4096 then some 0x81
  else if s.interval = 0 || decide (s.interval > 4800) || 4800 % s.interval != 0 then some 0x82
  else if s.deadline = 0 || decide (s.deadline > 240) ||
      (match plan with
        | some r => r.stages.any (fun g => decide (g.offset ≥ s.deadline))
        | none => false) then some 0x83
  else if plan.isNone then some 0x84
  else if s.t0 ≤ d.tick.count then some 0x85
  else if !zeros then some 0x86
  else none

/-- One session open at a tick edge (R38, R42, R60, R558). -/
def Dev.openSession (d : Dev) (env : Env) (p addr : Nat) : Dev :=
  match d.doorbellRead env p addr 64 64 with
  | (d, none) => d
  | (d, some b) =>
    let s := parseSession p b
    let pl := d.sessionPlan env s
    let d := pl.1
    let answer (d : Dev) (code r slot excess : Nat) : Dev :=
      (d.writeOut env p (addr + 48) (sessionResult d.tick.count code r slot excess)).1.raise (pgPART p) 0
    match d.sessionCode s (sessionZeros b) pl.2 with
    | some code => answer d code 0 0 0
    | none =>
      match d.overBudget p (d.sessionsOf p ++ [s]) with
      | some (r, slot, x) => answer d stBUDGET r slot (if r ≤ 1 then x else ceilDiv x 4096)
      | none => answer { d with sessions := d.sessions ++ [s] } stOK 0 0 0

/-! ### Sessions by number, frames and deadlines (R39, R43) -/

def Dev.session? (d : Dev) (p id : Nat) : Option Session := d.sessions.find? (fun s => s.part == p && s.id == id)

def Dev.modSession (d : Dev) (id : Nat) (f : Session → Session) : Dev :=
  { d with sessions := d.sessions.map (fun s => if s.id = id then f s else s) }

/-- R39: the deadline edge of a frame. -/
def Session.deadlineOf (s : Session) (f : Nat) : Nat := s.t0 + f * s.interval + s.deadline

/-- R39: the window of a stage of a frame. -/
def Session.windowOf (s : Session) (f o : Nat) : Nat := s.t0 + f * s.interval + o

/-- The session of a command. -/
def Dev.sessionOf (d : Dev) (c : Cmd) : Option Session := if c.sessionValid then d.session? c.part c.session else none

/-- The stage cost entry of a session command. -/
def Dev.stageOf (d : Dev) (c : Cmd) : StageCost := (d.planAt c.part c.planAddr).stages.getD c.stage ⟨0, 0, []⟩

/-- R43: a write to SESSION_CLOSE; a session that is not open in the partition, or closing, is an ignored write. -/
def Dev.closeSession (d : Dev) (p id : Nat) : Option Dev :=
  match d.session? p id with
  | some s => if s.closing then none else some (d.modSession id (fun s => { s with closing := true }))
  | none => none

/-- R43: at an edge, closing sessions without an uncommitted command leave the calendar. -/
def Dev.endSessions (d : Dev) : Dev :=
  { d with sessions := d.sessions.filter (fun s => !(s.closing &&
      !d.cmds.any (fun c => c.live && c.part == s.part && c.sessionValid && c.session == s.id))) }

/-! ### Declared costs (R44, R46) -/

/-- A plan entry's worst cases: array, vector, HBM bytes, fabric bytes. -/
def PlanEntry.costs (e : PlanEntry) : List Nat := [e.wcArray, e.wcVector, e.wcHbm, 4096 * e.wcFabric]

/-- What the admitted commands of a frame's stage have declared. -/
def Session.chargedTo (s : Session) (frame stage : Nat) : List Nat :=
  ((s.charged.find? (fun x => x.1 == (frame, stage))).map (·.2)).getD [0, 0, 0, 0]

/-- Charge a command to its frame's stage (R44). -/
def Session.charge (s : Session) (frame stage : Nat) (costs : List Nat) : Session :=
  let sum := (List.range 4).map (fun r => (s.chargedTo frame stage).getD r 0 + costs.getD r 0)
  { s with charged := ((frame, stage), sum) :: s.charged.filter (fun x => x.1 != (frame, stage)) }

/-- R44, R46: the lowest-numbered resource that a command overdraws. -/
def Dev.budgetFails (d : Dev) (c : Cmd) : Option Nat :=
  let own := c.entry.costs
  let before := match d.sessionOf c with
    | some s => s.chargedTo c.frame c.stage
    | none => []
  let stage := (d.stageOf c).costs.getD 0 []
  (List.range 4).find? (fun r =>
    decide (own.getD r 0 > d.capacity c.part r) ||
    (c.sessionValid && decide (before.getD r 0 + own.getD r 0 > stage.getD r 0)))

end Sys2Proof.Machine
end

