-- ==== Sys2Proof/Machine/Fabric.lean ====
section
/-! DEFINITION. The fabric: ports, Baivite Fabric Transport with its flows, retention and acknowledgements, and fabric jobs (R410-R425). -/

namespace Sys2Proof.Machine

/-! ### Ports (R410, R411, R414) -/

/-- Lanes per port of a die's group, and Gb/s per lane. -/
def Dev.groupLanes (d : Dev) (die : Nat) : Nat := 8 / 2 ^ bits (d.active pgFAB 0x044) (8 * die) 2
def Dev.laneRate (d : Dev) (die : Nat) : Nat := 200 / 2 ^ bits (d.active pgFAB 0x044) (8 * die + 2) 2

/-- R411: port e exists in the mode in force. -/
def Dev.portExists (d : Dev) (e : Nat) : Bool := decide (e < 16) && 2 * e % max 1 (d.groupLanes (e / 4)) == 0

/-- Gb/s of a port. -/
def Dev.portRate (d : Dev) (e : Nat) : Nat := d.groupLanes (e / 4) * d.laneRate (e / 4)

def Dev.portUp (d : Dev) (e : Nat) : Bool := d.portExists e && (d.ports.getD e {}).up

/-- FAB.STATUS.TX_RATE. -/
def Dev.txRate (d : Dev) : Nat := ((List.range 16).filter d.portUp).foldl (fun a e => a + d.portRate e) 0

/-- R415: an address that is sent over IPv4 (::ffff:a.b.c.d). -/
def isIpv4 (a : Bytes) : Bool := zeroAt a 0 10 && fieldAt a 10 2 == 0xFFFF

/-- R416: the port's address of the version a destination needs is nonzero. -/
def Dev.portSource (d : Dev) (e : Nat) (v4 : Bool) : Bool :=
  if v4 then d.active (pgETH e) 0x04C != 0
  else (List.range 4).any (fun i => d.active (pgETH e) (0x050 + 4 * i) != 0)

/-- R414: the ports of the first die, from `die` on, that has one up. -/
def Dev.upPorts (d : Dev) (die : Nat) : List Nat :=
  ((List.range 4).findSome? (fun k =>
    let l := ((List.range 4).map (fun i => 4 * ((die + k) % 4) + i)).filter d.portUp
    if l.isEmpty then none else some l)).getD []

/-- R414, R416: the ports a flow may leave through: those up, and of them those with an address of the needed version, looked for die by die. -/
def Dev.usablePorts (d : Dev) (die : Nat) (v4 : Bool) : List Nat :=
  ((List.range 4).findSome? (fun k =>
    let l := ((List.range 4).map (fun i => 4 * ((die + k) % 4) + i)).filter (fun e => d.portUp e && d.portSource e v4)
    if l.isEmpty then none else some l)).getD []

/-! ### Jobs -/

def Dev.job? (d : Dev) (id : Nat) : Option Job := d.jobs.find? (fun j => j.id == id)

def Dev.modJob (d : Dev) (id : Nat) (f : Job → Job) : Dev := { d with jobs := d.jobs.map (fun j => if j.id = id then f j else j) }

/-- The fabric job a command names: a COLLECTIVE's, or that of an epilogue's SEND (R301, R428). -/
def Cmd.jobId (c : Cmd) : Option Nat :=
  if c.opcode = 0x0B then some (c.u16 68)
  else if (c.opcode == 0x01 || c.opcode == 0x02) && c.sendMode != 0 then some c.sendJob
  else none

/-- Fail every command of a list with one DATA_LOST entry. -/
def Dev.failAll (d : Dev) (us : List Nat) (e : LogEntry) : Dev :=
  let seq := d.logSeq e
  us.foldl (fun d u => match d.cmd? u with
    | some c => if c.live then d.complete c stLOST seq else d
    | none => d) (d.log e)

/-- A FABRIC entry of Table 18-6. -/
def fabricEntry (node job cause part : Nat) (lane : Nat := 0) : LogEntry :=
  { cls := 0x08, severity := 3, source := pgFAB, part := part,
    detail := toLe 2 node ++ toLe 2 job ++ toLe 1 cause ++ toLe 1 lane }

/-- R420: a job fails: its uncommitted commands end with DATA_LOST. -/
def Dev.failJob (d : Dev) (id : Nat) (e : LogEntry) : Dev :=
  let us := (d.cmds.filter (fun c => c.live && c.jobId == some id)).map (·.uid)
  let d := d.modJob id (fun j => { j with failed := true })
  d.failAll us e

/-! ### Packets (Table 15-2) -/

/-- The node's own ID. -/
def Dev.node (d : Dev) : Nat := bits (d.active pgFAB 0x040) 0 14

/-- Payload bytes of a full packet (R417). -/
def Dev.payloadMax (d : Dev) : Nat := 1024 * 2 ^ bits (d.active pgFAB 0x048) 16 2

/-- The 32-byte header. -/
def bftHeader (kind : Nat) (last retrans : Bool) (src dst job epoch die psn offset xfer len : Nat) : Bytes :=
  toLe 1 (1 + 16 * kind) ++ toLe 1 (b2n last + 2 * b2n retrans) ++ toLe 2 src ++ toLe 2 dst ++ toLe 2 job ++ toLe 2 epoch ++
  toLe 1 die ++ toLe 1 0 ++ toLe 4 psn ++ toLe 8 offset ++ toLe 4 xfer ++ toLe 2 len ++ toLe 2 0

/-- The address that die `die` of a destination node is reached at: the job's copy of its entry, or for mail the node table (R422). -/
def Dev.flowAddr (d : Dev) (f : TxFlow) : Bytes :=
  match d.job? f.job with
  | some j => ((j.addrs.getD (j.members.idxOf f.dst) []).drop (16 * f.die)).take 16
  | none =>
    let t := d.active pgFAB 0x04C + ((d.active pgFAB 0x050 % 65536) <<< 32)
    d.bytesIn 0 0 (t + 64 * f.dst + 16 * f.die) 16

/-- A port's source address (R416): its IPv4 address, mapped, or its IPv6 address. -/
def Dev.portAddr (d : Dev) (e : Nat) (v4 : Bool) : Bytes :=
  let be (off : Nat) : Bytes := (toLe 4 (d.active (pgETH e) off)).reverse
  if v4 then List.replicate 10 0 ++ [0xFF, 0xFF] ++ be 0x04C else be 0x050 ++ be 0x054 ++ be 0x058 ++ be 0x05C

/-- Send a packet of a flow, with ECN codepoint ECT(0) (R415): through the port R414 chooses, if one is up. -/
def Dev.emit (d : Dev) (f : TxFlow) (p : FlowPacket) : Dev :=
  let l := d.usablePorts f.die (isIpv4 (d.flowAddr f))
  match l[Config.portHash f.dst f.job % max 1 l.length]? with
  | none => d
  | some e =>
    let b := bftHeader p.kind p.last (decide (p.tries > 0)) d.node f.dst f.job p.epoch f.die p.psn p.offset p.xfer p.data.length ++ p.data
    let x := d.ports.getD e {}
    let d := d.bump (pgETH e) 0x804 1
    let v : Envelope :=
      { src := d.portAddr e (isIpv4 (d.flowAddr f)), dst := d.flowAddr f, srcPort := Config.udpSource d.node f.dst f.job f.die,
        dstPort := bits (d.active pgFAB 0x048) 0 16, dscp := some (bits (d.active (pgETH e) 0x060) 0 6), ecn := some 2 }
    { d with ports := d.ports.set e { x with txBytes := x.txBytes + b.length }, sent := .packet 0 e v b :: d.sent }

/-- R416: ports are up for the flow, and none of those its search reaches has an address. -/
def Dev.noSource (d : Dev) (f : TxFlow) : Bool :=
  !(d.upPorts f.die).isEmpty && (d.usablePorts f.die (isIpv4 (d.flowAddr f))).isEmpty

def Dev.setTx (d : Dev) (f : TxFlow) : Dev := { d with txFlows := d.txFlows.map (fun x => if x.id = f.id then f else x) }

/-- Move packets from the waiting list into the 64 unacknowledged ones, sending each (R419). -/
def Dev.pump : Nat → Dev → TxFlow → Dev
  | 0, d, f => d.setTx f
  | n + 1, d, f =>
    match f.waiting with
    | [] => d.setTx f
    | p :: r =>
      if f.unacked.length ≥ 64 then d.setTx f
      else
        let p := { p with sentAt := d.now }
        Dev.pump n (d.emit f p) { f with waiting := r, unacked := f.unacked ++ [p] }

/-- The initial rate of a flow: the line rate of its port (R421). -/
def Dev.lineRate (d : Dev) (die : Nat) : Nat := d.groupLanes die * d.laneRate die

/-- The flow to a node for a job from a die, made if there is none (R417). -/
def Dev.txFlow (d : Dev) (part dst job die : Nat) : Dev × TxFlow :=
  match d.txFlows.find? (fun f => f.dst == dst && f.job == job && f.die == die) with
  | some f => (d, f)
  | none =>
    let f : TxFlow := { id := d.nextFlow, dst := dst, job := job, die := die, part := part, rate := (d.lineRate die : Nat), updatedAt := d.now }
    ({ d with txFlows := d.txFlows ++ [f], nextFlow := d.nextFlow + 1 }, f)

/-- Bytes cut into payloads of at most `n`, each padded to a multiple of 64. -/
def payloads (n : Nat) : Nat → Bytes → List Bytes
  | 0, _ => []
  | fuel + 1, b =>
    if b.isEmpty then []
    else
      let x := b.take n
      (x ++ List.replicate (roundUp x.length 64 - x.length) 0) :: payloads n fuel (b.drop n)

/-! ### Failure of a flow (R420) -/

/-- A message that cannot be delivered goes back to its sender's partition, or is a dead letter (R441). -/
def Dev.mailBack (d : Dev) (part : Nat) (msg : Bytes) (status unit : Nat) : Dev :=
  if bit (fieldAt msg 6 1) 0 then
    let m := putAt (putAt msg 6 (toLe 1 (setBits (fieldAt msg 6 1) 1 1 1) ++ toLe 1 status)) 12 (toLe 2 unit)
    d.modPart part (fun x => { x with mailReturns := x.mailReturns ++ [m] })
  else
    ((d.bump pgFAB 0x804 1).raise pgFAB 0).log { fabricEntry (fieldAt msg 0 2) 0 3 part with severity := 0 }

/-- A flow fails: its job's commands end with DATA_LOST, or its mail comes back. -/
def Dev.failFlow (d : Dev) (f : TxFlow) (cause : Nat) : Dev :=
  let d : Dev := { d with txFlows := d.txFlows.filter (fun x => x.id != f.id) }
  let d := (d.bump pgFAB 0x824 1).raise pgFAB 1
  if f.job ≠ 0 then d.failJob f.job (fabricEntry f.dst f.job cause f.part)
  else
    let d := d.log (fabricEntry f.dst 0 cause f.part)
    (f.unacked ++ f.waiting).foldl (fun d p => if p.kind = 2 then d.mailBack f.part p.data stLOST 0 else d) d

/-- Hand a transfer to a flow: its payloads become packets with the next PSNs (R417). -/
def Dev.sendTransfer (d : Dev) (part dst job die kind epoch uid : Nat) (data : Bytes) : Dev :=
  let r := d.txFlow part dst job die
  let d := r.1
  let f := r.2
  let ps := payloads d.payloadMax (data.length + 1) data
  let pk := (List.range ps.length).map (fun i =>
    ({ kind := kind, psn := (f.nextPsn + i) % 2 ^ 32, xfer := f.nextXfer, offset := i * d.payloadMax, last := i + 1 == ps.length,
       epoch := epoch, data := ps.getD i [], uid := uid } : FlowPacket))
  let f := { f with nextPsn := (f.nextPsn + ps.length) % 2 ^ 32, nextXfer := f.nextXfer + 1, waiting := f.waiting ++ pk }
  let d := (d.setTx f).modPart part (fun x => { x with window := { x.window with fabTx := x.window.fabTx + data.length } })
  if d.noSource f then d.failFlow f 4 else Dev.pump (f.waiting.length + 1) d f

/-! ### Acknowledgements (R418-R420) -/

/-- How far PSN `b` lies beyond `a`, modulo 2^32. -/
def psnDist (a b : Nat) : Nat := (b + 2 ^ 32 - a % 2 ^ 32) % 2 ^ 32

/-- A PSN that an ACK covers. -/
def ackCovers (cum bitmap psn : Nat) : Bool :=
  decide (psnDist psn cum < 2 ^ 31) || (decide (1 ≤ psnDist cum psn) && decide (psnDist cum psn ≤ 64) && bit bitmap (psnDist cum psn - 1))

/-- Retransmit a packet from the retention buffer (R419). -/
def Dev.resend (d : Dev) (f : TxFlow) (p : FlowPacket) (counted : Bool) : Dev × FlowPacket :=
  let p := { p with tries := p.tries + (if counted then 1 else 0), passed := 0, sentAt := d.now }
  let d := d.bump pgFAB 0x81C 1
  (d.emit f { p with tries := max 1 p.tries }, p)

/-- Commands all of whose bytes have been acknowledged commit (R437). -/
def Dev.settleSent (d : Dev) : Dev :=
  let busy := d.txFlows.flatMap (fun f => (f.unacked ++ f.waiting).map (·.uid))
  (d.cmds.filter (fun c => c.live && c.shipped && !busy.contains c.uid)).foldl (fun d c => match d.cmd? c.uid with
    | some x => d.complete x stOK 0
    | none => d) d

/-- An ACK of status OK for a flow. -/
def Dev.ackFlow (d : Dev) (f : TxFlow) (cum bitmap ce : Nat) : Dev :=
  let got := f.unacked.filter (fun p => ackCovers cum bitmap p.psn)
  let left := (f.unacked.filter (fun p => !ackCovers cum bitmap p.psn)).map (fun p =>
    { p with passed := p.passed + (got.filter (fun q => decide (0 < psnDist p.psn q.psn) && decide (psnDist p.psn q.psn < 2 ^ 31))).length })
  let d := if ce > 0 then d.bump pgFAB 0x820 ce else d
  let bytes := got.foldl (fun a p => a + p.data.length) 0
  let d := if f.job = 0 then d else d.modJob f.job (fun j => { j with sent := j.sent + bytes })
  let r := left.foldl (fun (a : Dev × List FlowPacket) p =>
    if p.passed ≥ 3 then let x := a.1.resend f p true; (x.1, a.2 ++ [x.2]) else (a.1, a.2 ++ [p])) (d, [])
  let f := { f with unacked := r.2, marked := f.marked + ce, acked := f.acked + got.length, notReadySince := none }
  (Dev.pump (f.waiting.length + 1) (r.1.setTx f) f).settleSent

/-- A received ACK packet (R419, R420): header and 16-byte payload. -/
def Dev.ackReceive (d : Dev) (raw : Bytes) : Dev :=
  let src := bits (fieldAt raw 2 2) 0 14
  let job := fieldAt raw 6 2
  let die := bits (fieldAt raw 10 1) 0 2
  match d.txFlows.find? (fun f => f.dst == src && f.job == job && f.die == die) with
  | none => d
  | some f =>
    match fieldAt raw (32 + 14) 1 with
    | 0 => d.ackFlow f (fieldAt raw 32 4) (fieldAt raw 36 8) (fieldAt raw 44 2)
    | 1 => d.setTx { f with notReadySince := some (f.notReadySince.getD d.now) }
    | _ => d.failFlow f 2

/-- FAB.RTO, the retry limit and the job wait in cycles. -/
def Dev.rtoCycles (d : Dev) : Nat := bits (d.active pgFAB 0x054) 0 24
def Dev.retryLimit (d : Dev) : Nat := bits (d.active pgFAB 0x054) 24 8
def Dev.jobWaitCycles (d : Dev) : Nat := d.active pgFAB 0x05C % 65536 * 1200000

/-- A packet's retransmission timer runs out (R419, R420). -/
def Dev.rtoExpire (d : Dev) (flow psn : Nat) : Dev :=
  match d.txFlows.find? (fun f => f.id == flow) with
  | none => d
  | some f =>
    match f.unacked.find? (fun p => p.psn == psn) with
    | none => d
    | some p =>
      let d := { d with now := max d.now (p.sentAt + d.rtoCycles) }
      if f.notReadySince.isNone && decide (p.tries ≥ d.retryLimit) then d.failFlow f 0
      else
        let r := d.resend f p f.notReadySince.isNone
        r.1.setTx { f with unacked := f.unacked.map (fun q => if q.psn = psn then r.2 else q) }

/-- A flow has been NOT_READY for JOB_WAIT (R420). -/
def Dev.jobWaitExpire (d : Dev) (flow : Nat) : Dev :=
  match d.txFlows.find? (fun f => f.id == flow) with
  | some f =>
    match f.notReadySince with
    | some t => { d with now := max d.now (t + d.jobWaitCycles) }.failFlow f 1
    | none => d
  | none => d

/-- R421: a flow's congestion estimate and rate. -/
def Dev.rateUpdate (d : Dev) (flow : Nat) : Dev :=
  match d.txFlows.find? (fun f => f.id == flow) with
  | none => d
  | some f =>
    let v := d.active pgFAB 0x058
    let g : Rat := 1 / ((2 ^ bits v 0 4 : Nat) : Rat)
    let fr : Rat := if f.acked > 0 then (f.marked : Rat) / (f.acked : Rat) else 0
    let alpha := (1 - g) * f.alpha + g * fr
    let lo : Rat := (bits v 16 8 : Nat)
    let hi : Rat := (d.lineRate f.die : Nat)
    let up := f.rate + ((bits v 8 8 : Nat) : Rat)
    let down := f.rate * (1 - alpha / 2)
    let rate := if f.marked > 0 then (if down < lo then lo else down) else (if hi < up then hi else up)
    { d with now := max d.now (f.updatedAt + 12000) }.setTx { f with alpha := alpha, rate := rate, marked := 0, acked := 0, updatedAt := max d.now (f.updatedAt + 12000) }

/-! ### Receiving (R418, R420) -/

/-- The receiving flow of a packet, made if there is none. -/
def Dev.rxFlow (d : Dev) (src job die : Nat) : Dev × RxFlow :=
  match d.rxFlows.find? (fun f => f.src == src && f.job == job && f.die == die) with
  | some f => (d, f)
  | none =>
    let f : RxFlow := { id := d.nextFlow, src := src, job := job, die := die }
    ({ d with rxFlows := d.rxFlows ++ [f], nextFlow := d.nextFlow + 1 }, f)

def Dev.setRx (d : Dev) (f : RxFlow) : Dev := { d with rxFlows := d.rxFlows.map (fun x => if x.id = f.id then f else x) }

/-- Whether a receiving flow has already taken a PSN. -/
def RxFlow.has (f : RxFlow) (psn : Nat) : Bool := decide (psnDist psn f.next < 2 ^ 31 ∧ psnDist psn f.next ≠ 0) || f.above.contains psn

/-- Move the lowest missing PSN past those already there. -/
def RxFlow.advance : Nat → RxFlow → RxFlow
  | 0, f => f
  | n + 1, f =>
    if f.above.contains f.next then RxFlow.advance n { f with next := (f.next + 1) % 2 ^ 32, above := f.above.filter (· != f.next) } else f

/-- Record a PSN as received. -/
def RxFlow.take (f : RxFlow) (psn : Nat) : RxFlow :=
  RxFlow.advance (f.above.length + 1) { f with above := psn :: f.above }

/-- The ACK payload of R418. -/
def RxFlow.ackBytes (f : RxFlow) : Bytes :=
  let cum := (f.next + 2 ^ 32 - 1) % 2 ^ 32
  let bm := bitMask ((f.above.filter (fun p => decide (psnDist cum p ≥ 1) && decide (psnDist cum p ≤ 64))).map (fun p => psnDist cum p - 1))
  toLe 4 cum ++ toLe 8 bm ++ toLe 2 f.ce ++ toLe 1 f.status ++ toLe 1 0

/-- Send the ACK of a receiving flow. -/
def Dev.sendAck (d : Dev) (f : RxFlow) : Dev :=
  let t : TxFlow := { id := f.id, dst := f.src, job := f.job, die := f.die }
  let p : FlowPacket := { kind := 1, data := f.ackBytes }
  (d.emit t p).setRx { f with unacked := 0, ce := 0 }

/-- A packet counted towards the flow's next ACK: sent at once after ACK_CFG.EVERY packets (R418). -/
def Dev.countForAck (d : Dev) (f : RxFlow) (ce : Bool) : Dev :=
  let f := { f with unacked := f.unacked + 1, ce := f.ce + b2n ce, since := if f.unacked = 0 then d.now else f.since }
  if f.unacked ≥ bits (d.active pgFAB 0x060) 0 8 then d.sendAck f else d.setRx f

/-- The header fields of a received packet: source, job, issuing die, PSN. -/
def bftSource (raw : Bytes) : Nat := bits (fieldAt raw 2 2) 0 14

/-- A received DATA packet (R418, R420). -/
def Dev.dataReceive (d : Dev) (raw : Bytes) (ce : Bool) : Dev :=
  let src := bftSource raw
  let job := fieldAt raw 6 2
  let die := bits (fieldAt raw 10 1) 0 2
  let psn := fieldAt raw 12 4
  let r := d.rxFlow src job die
  let status := match d.job? job with
    | none => 1
    | some j => if j.epoch = fieldAt raw 8 2 then 0 else 2
  let f := { r.2 with status := status }
  if status ≠ 0 then
    ((if status = 2 then r.1.bump pgFAB 0x814 1 else r.1).countForAck f ce)
  else if f.has psn then (r.1.bump pgFAB 0x818 1).countForAck f ce
  else
    let len := fieldAt raw 28 2
    let data := (raw.drop 32).take len
    let d := r.1.modJob job (fun j => { j with received := j.received + len })
    let d : Dev := { d with received := d.received ++ [⟨src, job, die, fieldAt raw 24 4, fieldAt raw 16 8, data⟩] }
    let d := match d.job? job with
      | some j => d.modPart j.part (fun x => { x with window := { x.window with fabRx := x.window.fabRx + len } })
      | none => d
    d.countForAck (f.take psn) ce

/-- The ACK delay of a receiving flow runs out (R418). -/
def Dev.ackDelay (d : Dev) (flow : Nat) : Dev :=
  match d.rxFlows.find? (fun f => f.id == flow) with
  | some f =>
    if f.unacked = 0 then d
    else { d with now := max d.now (f.since + bits (d.active pgFAB 0x060) 8 16) }.sendAck f
  | none => d

/-! ### Opening and closing jobs (R422-R424) -/

/-- The lowest in-service reducer with a free context, or the named one. -/
def Dev.reducerFor (d : Dev) (want : Nat) : Option Nat :=
  let ok (r : Nat) : Bool := !(d.reducers.getD r {}).outOfService && decide ((d.jobs.filter (fun j => j.reducer == r)).length < 64)
  if want = 0xFF then (List.range 4).find? ok else if want < 4 && ok want then some want else none

/-- The node-table entry of a node (R422). -/
def Dev.nodeEntry (d : Dev) (env : Env) (node : Nat) : Bytes :=
  let t := d.active pgFAB 0x04C + ((d.active pgFAB 0x050 % 65536) <<< 32)
  match d.readStruct env 0 (t + 64 * node) 64 with
  | .ok b => b
  | .error _ => List.replicate 64 0

/-- Reserved fields of Table 15-3. -/
def jobZeros (b : Bytes) : Bool := fieldAt b 2 1 / 2 == 0 && zeroAt b 12 4 && zeroAt b 22 26 && zeroAt b 57 7

/-- Table 15-4: the lowest failing code of a job open. -/
def Dev.jobCode (d : Dev) (j : Job) (listOk zeros : Bool) (want : Nat) : Nat :=
  let p := j.members.length
  let groupOk := if j.twoLevel then decide (j.group ≥ 2) && p % j.group == 0 else j.group == 0
  if (d.job? j.id).isSome then 0x90
  else if d.jobs.length ≥ 64 then 0x91
  else if !(listOk && zeros && groupOk && decide (1 ≤ p) && decide (p ≤ 10240) && decide (1 ≤ j.id) && j.members.eraseDups.length == p &&
      j.members.all (fun n => decide (n < 16384)) && j.addrs.all (fun a => !zeroAt a 0 64) && j.members[j.rank]? == some d.node &&
      (want == 0xFF || decide (want < 4))) then 0x92
  else if (d.reducerFor want).isNone then 0x93
  else 0

/-- One job open at a tick edge (R423, R558). -/
def Dev.openJob (d : Dev) (env : Env) (p addr : Nat) : Dev :=
  match d.doorbellRead env p addr 64 64 with
  | (d, none) => d
  | (d, some b) =>
    let n := fieldAt b 8 2
    let list := d.readStruct env p (fieldAt b 16 6) (2 * n)
    let members := match list with
      | .ok l => (List.range n).map (fun i => fieldAt l (2 * i) 2)
      | .error _ => []
    let d := match list with
      | .error .invalid => d
      | .error e => d.logHost p (fieldAt b 16 6) 0 e
      | .ok _ => d
    let j : Job := { id := fieldAt b 0 2, part := p, twoLevel := bit (fieldAt b 2 1) 0, epoch := fieldAt b 4 2, rank := fieldAt b 6 2,
                     members := members, group := fieldAt b 10 2, addrs := members.map (d.nodeEntry env) }
    let code := d.jobCode j (decide (members.length = n)) (jobZeros b) (fieldAt b 3 1)
    let d := if code = 0 then { d with jobs := d.jobs ++ [{ j with reducer := (d.reducerFor (fieldAt b 3 1)).getD 0 }] } else d
    (d.writeOut env p (addr + 48) (toLe 8 d.tick.count ++ toLe 1 code)).1.raise (pgPART p) 9

/-- R424: closing jobs without an uncommitted command close; their contexts and retention entries are freed. -/
def Dev.endJobs (d : Dev) : Dev :=
  let gone := d.jobs.filter (fun j => j.closing && !d.cmds.any (fun c => c.live && c.jobId == some j.id))
  let ids := gone.map (·.id)
  { d with jobs := d.jobs.filter (fun j => !ids.contains j.id), txFlows := d.txFlows.filter (fun f => !ids.contains f.job),
           rxFlows := d.rxFlows.filter (fun f => !ids.contains f.job), received := d.received.filter (fun r => !ids.contains r.job) }

/-- R424: a write to JOB_CLOSE. -/
def Dev.closeJob (d : Dev) (p id : Nat) : Dev :=
  match d.job? id with
  | some j => if j.part = p then d.modJob id (fun j => { j with closing := true }) else d
  | none => d

/-! ### Links (R412, R414) -/

/-- A port's link goes down or comes up. -/
def Dev.linkDown (d : Dev) (e : Nat) : Dev :=
  if (d.ports.getD e {}).up then
    let d : Dev := { d with ports := d.ports.set e { d.ports.getD e {} with up := false } }
    ((d.bump (pgETH e) 0x820 1).raise (pgETH e) 0).raise pgFAB 2
  else d

def Dev.linkUp (d : Dev) (e : Nat) : Dev :=
  if d.portExists e && bit (d.active (pgETH e) 0x040) 0 && !(d.ports.getD e {}).up then
    ({ d with ports := d.ports.set e { d.ports.getD e {} with up := true } } : Dev).raise (pgETH e) 1
  else d

end Sys2Proof.Machine
end

