-- ==== Sys2Proof/Machine/Mail.lean ====
section
/-! DEFINITION. The rigging table and mail (R438-R443). -/

namespace Sys2Proof.Machine

/-! ### The rigging table (R438, R439) -/

def Dev.unit (d : Dev) (u : Nat) : RigUnit := d.rig.getD u {}

/-- The unit that holds a role. -/
def Dev.holderOf (d : Dev) (role : Nat) : Option Nat :=
  if role = 0 then none else (List.range 100).find? (fun u => (d.unit u).role == role)

/-- The current epoch of a role, 0 if no unit holds it. -/
def Dev.roleEpoch (d : Dev) (role : Nat) : Nat := ((d.holderOf role).map (fun u => (d.unit u).epoch)).getD 0

/-- A unit given a role and owner: a change raises its epoch (R439). -/
def RigUnit.become (x : RigUnit) (role : Nat) (owner : Option Nat) : RigUnit :=
  if x.role = role ∧ x.owner = owner then x else { role := role, epoch := (x.epoch + 1) % 2 ^ 16, owner := owner }

/-- One change of the table: another unit that holds the role loses it. -/
def rigChange (t : List RigUnit) (u role : Nat) (owner : Option Nat) : List RigUnit :=
  let cleared := (List.range t.length).map (fun i =>
    let x := t.getD i {}
    if i ≠ u ∧ role ≠ 0 ∧ x.role = role then x.become 0 x.owner else x)
  cleared.set u ((t.getD u {}).become role owner)

/-! ### Delivery (R440-R442) -/

/-- The test of R441: the unit that holds the message's role at the message's epoch. -/
def Dev.mailTarget (d : Dev) (msg : Bytes) : Option Nat :=
  match d.holderOf (fieldAt msg 2 2) with
  | some u => if (d.unit u).epoch = fieldAt msg 4 2 then some u else none
  | none => none

/-- A message that fails the test goes back to its sender, here or over the fabric, or is a dead letter. -/
def Dev.mailFails (d : Dev) (srcNode srcPart : Nat) (msg : Bytes) : Dev :=
  let ep := d.roleEpoch (fieldAt msg 2 2)
  if srcNode = d.node || !bit (fieldAt msg 6 1) 0 then d.mailBack srcPart msg stROLE ep
  else
    let m := putAt (putAt msg 6 (toLe 1 (setBits (fieldAt msg 6 1) 1 1 1) ++ toLe 1 stROLE)) 12 (toLe 2 ep)
    d.sendTransfer 0 srcNode 0 0 3 0 0 m

/-- R439, R441: the queued changes in the order written, then every waiting message judged again. -/
def Dev.rigApply (d : Dev) : Dev :=
  let t := d.rigQueue.foldl (fun t c => rigChange t c.1 c.2.1 c.2.2) d.rig
  let d : Dev := { d with rig := t, rigQueue := [] }
  let bad := d.inbox.filter (fun m => d.mailTarget m.msg != some m.target)
  let d : Dev := { d with inbox := d.inbox.filter (fun m => d.mailTarget m.msg == some m.target) }
  bad.foldl (fun d m => d.mailFails m.srcNode m.srcPart m.msg) d

/-- A unit's inbox has room for one of 16 messages (R442). -/
def Dev.inboxRoom (d : Dev) (u : Nat) : Bool := decide ((d.inbox.filter (fun m => m.target == u)).length < 16)

/-! ### Rings (R440, R443) -/

def Dev.mailCfg (d : Dev) (p : Nat) : Nat := d.active (pgPART p) 0x074
def Dev.mailOn (d : Dev) (p : Nat) : Bool := bit (d.mailCfg p) 8
def Dev.mailSize (d : Dev) (p : Nat) : Nat := 2 ^ bits (d.mailCfg p) 0 5

/-- A 48-bit address in a register pair. -/
def Dev.addrPair (d : Dev) (page off : Nat) : Nat := d.active page off + ((d.active page (off + 4) % 65536) <<< 32)

/-- The receive ring of a partition has room. -/
def Dev.mailRoom (d : Dev) (p : Nat) : Bool :=
  let x := d.part p
  d.mailOn p && (x.mailRqTail + 1) % d.mailSize p != x.mailRqHead

/-- The receive ring of a partition can be written: it has room, and its function may write host memory if it lies there. -/
def Dev.mailReady (d : Dev) (p : Nat) : Bool := d.mailRoom p && (!isHost (d.addrPair (pgPART p) 0x080) || d.mayRequest p)

/-- Write a message into a partition's receive ring, raise MAIL or MAIL_RETURN, and send MAIL_CFG's vector. -/
def Dev.mailWrite (d : Dev) (env : Env) (p : Nat) (msg : Bytes) : Dev × Bool :=
  let x := d.part p
  let m := putAt msg 6 (toLe 1 (setBits (fieldAt msg 6 1) 7 1 (b2n x.mailPhase)))
  let r := d.writeOut env p (d.addrPair (pgPART p) 0x080 + 64 * x.mailRqTail) m
  if !r.2 then (r.1, false)
  else
    let t := (x.mailRqTail + 1) % d.mailSize p
    let d := r.1.modPart p (fun x => { x with mailRqTail := t, mailPhase := if t = 0 then !x.mailPhase else x.mailPhase })
    ((d.raise (pgPART p) (if bit (fieldAt m 6 1) 1 then 11 else 10)).eventVector p (bits (d.mailCfg p) 16 5), true)

/-- The first waiting message that can be delivered: its unit's owner has room, and no older message from the same ring waits (R442). -/
def Dev.mailNext (d : Dev) : Option InboxMail :=
  (List.range d.inbox.length).findSome? (fun i =>
    let m := d.inbox.getD i ⟨0, 0, 0, []⟩
    let older := (d.inbox.take i).any (fun q => q.srcNode == m.srcNode && q.srcPart == m.srcPart)
    match (d.unit m.target).owner with
    | some p => if !older && d.mailReady p then some m else none
    | none => none)

/-- The command MAIL_DELIVER: a returned message, or else a message from an inbox, is written into its receive ring (R441). -/
def Dev.mailDeliver (d : Dev) (env : Env) : Dev :=
  match (List.range 64).find? (fun p => !(d.part p).mailReturns.isEmpty && d.mailReady p) with
  | some p =>
    match (d.part p).mailReturns with
    | m :: r =>
      let w := d.mailWrite env p m
      if w.2 then (w.1.modPart p (fun x => { x with mailReturns := r })).bump pgFAB 0x810 1 else w.1
    | [] => d
  | none =>
    match d.mailNext with
    | none => d
    | some m =>
      let rest := d.inbox.erase m
      match d.mailTarget m.msg with
      | none => { d with inbox := rest }.mailFails m.srcNode m.srcPart m.msg
      | some u =>
        let owner := ((d.unit u).owner).getD 0
        let w := d.mailWrite env owner (putAt (putAt m.msg 7 [0]) 12 (toLe 2 u))
        if w.2 then { w.1 with inbox := rest }.bump pgFAB 0x80C 1 else w.1

/-- A message taken by its destination module: into the unit's inbox, back, or not at all while the inbox is full. -/
def Dev.mailAccept (d : Dev) (srcNode srcPart : Nat) (msg : Bytes) : Option Dev :=
  match d.mailTarget msg with
  | none => some (d.mailFails srcNode srcPart msg)
  | some u => if d.inboxRoom u then some { d with inbox := d.inbox ++ [⟨u, srcNode, srcPart, msg⟩] } else none

/-- The command MAIL_SEND: the message at the head of the send ring leaves (R440-R442). -/
def Dev.mailSend (d : Dev) (env : Env) (p : Nat) : Dev :=
  let x := d.part p
  if !d.mailOn p || x.mailSqHead = x.mailSqTail then d
  else
    let a := d.addrPair (pgPART p) 0x078 + 64 * x.mailSqHead
    match d.readStruct env p a 64 with
    | .error .notIssued => d
    | .error e => d.logHost p a 0 e
    | .ok b =>
      let msg := putAt b 8 (toLe 2 d.node ++ toLe 1 p ++ toLe 1 0)
      let dst := bits (fieldAt msg 0 2) 0 14
      let step (d : Dev) : Dev :=
        (d.modPart p (fun x => { x with mailSqHead := (x.mailSqHead + 1) % d.mailSize p })).bump pgFAB 0x808 1
      if dst = d.node then
        match d.mailAccept d.node p msg with
        | some d => step d
        | none => d
      else step (d.sendTransfer p dst 0 0 2 0 0 msg)

/-- A received MAIL or MAIL_RETURN packet (R441, R442): a message that meets a full inbox is not acknowledged. -/
def Dev.mailReceive (d : Dev) (raw : Bytes) (ce : Bool) : Dev :=
  let src := bftSource raw
  let psn := fieldAt raw 12 4
  let msg := (raw.drop 32).take 64
  let r := d.rxFlow src 0 (bits (fieldAt raw 10 1) 0 2)
  let f := r.2
  if f.has psn then (r.1.bump pgFAB 0x818 1).countForAck f ce
  else if bits (fieldAt raw 0 1) 4 4 = 3 then
    (r.1.modPart (fieldAt msg 10 1 % 64) (fun x => { x with mailReturns := x.mailReturns ++ [msg] })).countForAck (f.take psn) ce
  else
    match r.1.mailAccept src (fieldAt msg 10 1) msg with
    | some d => d.countForAck (f.take psn) ce
    | none => r.1

end Sys2Proof.Machine
end

