-- ==== Sys2Proof/Machine/Collective.lean ====
section
/-! DEFINITION. COLLECTIVE: operands, checks, the order of its sums, thinning, the bytes it sends, and its commit (R426-R437). -/

namespace Sys2Proof.Machine

/-! ### Parameters (Table 15-5) -/

def Cmd.coOp (c : Cmd) : Nat := c.u8 64
def Cmd.coSrc (c : Cmd) : Nat := c.u8 65
def Cmd.coDst (c : Cmd) : Nat := c.u8 66
def Cmd.coHeld (c : Cmd) : Nat := c.u8 67
def Cmd.coJob (c : Cmd) : Nat := c.u16 68
def Cmd.coEpoch (c : Cmd) : Nat := c.u16 70
def Cmd.coRoot (c : Cmd) : Nat := c.u16 72
def Cmd.coPeer (c : Cmd) : Nat := c.u16 74
def Cmd.coThin (c : Cmd) : Nat := c.u16 76
def Cmd.coEpi (c : Cmd) : Bool := bit (c.u8 78) 0
def Cmd.coReduces (c : Cmd) : Bool := c.coOp == 0 || c.coOp == 2

/-- Coordinates of element L of a tensor (R370). -/
def TensorD.coordOf (t : TensorD) (l : Nat) : List Nat := coordsOf t.shape l

/-! ### Shards (R430) -/

/-- First index and count of shard s of E elements among P members. -/
def shard (e p s : Nat) : Nat × Nat := (e * s / max 1 p, e * (s + 1) / max 1 p - e * s / max 1 p)

/-- The shard that an element lies in. -/
def shardOf (e p l : Nat) : Nat := ((List.range p).find? (fun s => decide (l < e * (s + 1) / max 1 p))).getD 0

/-! ### The order of a sum (R431, R432) -/

/-- A chain of FP32 additions, gradual underflow. -/
def sumChain : List Word → Num Word
  | [] => return w0
  | x :: xs => xs.foldlM (fun r y => fadd false r y) x

/-- The ranks of a flat chain for an element of shard s. -/
def flatRanks (p s : Nat) : List Nat := (List.range p).map (fun j => (s + 1 + j) % max 1 p)

/-- The ranks of group g's partial for local rank t. -/
def groupRanks (gs g t : Nat) : List Nat := (List.range gs).map (fun j => g * gs + (t + 1 + j) % max 1 gs)

/-- An element's sum over the members' contributions. -/
def memberSum (j : Job) (s : Nat) (x : Nat → Word) : Num Word :=
  let p := j.members.length
  if !j.twoLevel then sumChain ((flatRanks p s).map x)
  else do
    let q := p / max 1 j.group
    let parts ← ((List.range q).map (fun k => (s / max 1 j.group + 1 + k) % max 1 q)).mapM (fun g =>
      sumChain ((groupRanks j.group g (s % max 1 j.group)).map x))
    sumChain parts

/-! ### This member's contribution (R431, R434, R435) -/

/-- The words a member contributes without thinning: SRC widened, or what the epilogue handed over. -/
def Dev.coOwn (d : Dev) (c : Cmd) : List Word :=
  let t := c.tensor c.coSrc
  (List.range t.count).map (fun l =>
    if c.coEpi then BitVec.ofNat 32 (((c.contrib.find? (fun x => x.1 == l)).map (·.2)).getD 0)
    else ((d.streamWord c c.coSrc (t.coordOf l)).run {}).1)

/-- R435: one value ranks before another for keeping: larger magnitude, NaN above all, ties to the lower index. -/
def thinBefore (a b : Nat × Word) : Bool :=
  let x := (val32 a.2).abs
  let y := (val32 b.2).abs
  if x.isNan then !y.isNan || decide (a.1 < b.1)
  else if y.isNan then false
  else if y.lt x then true
  else if x.lt y then false
  else decide (a.1 < b.1)

/-- The indices kept of a block: those that fewer than `k` others rank before. -/
def thinKept (k : Nat) (vs : List (Nat × Word)) : List Nat :=
  (vs.filter (fun v => decide ((vs.filter (fun w => thinBefore w v)).length < k))).map (·.1)

/-- Blocks of 4,096. -/
def blocks4096 {α : Type} : Nat → List α → List (List α)
  | 0, _ => []
  | n + 1, l => if l.isEmpty then [] else l.take 4096 :: blocks4096 n (l.drop 4096)

/-- The contribution of this member, and what it leaves in HELD. -/
def Dev.coContribution (d : Dev) (c : Cmd) : List Word × List Word :=
  let xs := d.coOwn c
  if c.coThin = 0 then (xs, [])
  else
    let h := c.tensor c.coHeld
    let vs := (List.range xs.length).map (fun l =>
      (l, (((fun (x y : Word) => fadd false x y) (xs.getD l w0) (BitVec.ofNat 32 (d.elemCode c.part h (h.coordOf l)))).run {}).1))
    let r := (blocks4096 (vs.length + 1) vs).flatMap (fun b =>
      let kept := thinKept c.coThin b
      b.map (fun v => if kept.contains v.1 then (v.2, w0) else (w0, v.2)))
    (r.map (·.1), r.map (·.2))

/-! ### What has arrived -/

/-- Record what has arrived of other members' parts: the longer of what was there and what is given. -/
def Cmd.arrive (c : Cmd) (ps : List Contribution) : Cmd :=
  ps.foldl (fun c p =>
    let old := ((c.arrived.find? (fun x => x.1 == p.rank)).map (·.2)).getD []
    if old.length < p.data.length then { c with arrived := (p.rank, p.data) :: c.arrived.filter (fun x => x.1 != p.rank) } else c) c

def Cmd.partOf (c : Cmd) (rank : Nat) : Bytes := ((c.arrived.find? (fun x => x.1 == rank)).map (·.2)).getD []

/-- Bytes of `n` packed elements of a tensor. -/
def TensorD.packedBytes (t : TensorD) (n : Nat) : Nat := ceilDiv (n * t.format.width) 8

/-- Codes packed at their width. -/
def packCodes (w : Nat) (l : List Nat) : Bytes := toLe (ceilDiv (l.length * w) 8) (l.foldr (fun x a => x % 2 ^ w + (a <<< w)) 0)

/-- Element i of packed codes. -/
def packedAt (w : Nat) (b : Bytes) (i : Nat) : Nat :=
  let lo := i * w / 8
  bits (fieldAt b lo ((i * w % 8 + w + 7) / 8)) (i * w % 8) w

/-- Whether every contribution an element's sum needs has arrived. -/
def Cmd.coReady (c : Cmd) (j : Job) (l : Nat) : Bool :=
  (List.range j.members.length).all (fun r => r == j.rank || decide (4 * (l + 1) ≤ (c.partOf r).length)) &&
    (!c.coEpi || c.contrib.any (fun x => x.1 == l)) && decide (l < (c.tensor c.coSrc).count)

/-- The elements that this member writes: its shard, or all (R429). -/
def Cmd.coRange (c : Cmd) (j : Job) : Nat × Nat :=
  let e := (c.tensor c.coSrc).count
  if c.coOp = 0 then shard e j.members.length j.rank else (0, e)

/-- The sum of one element. -/
def Cmd.coSum (c : Cmd) (j : Job) (own : List Word) (l : Nat) : Word :=
  let s := shardOf (c.tensor c.coSrc).count j.members.length l
  ((memberSum j s (fun r => if r = j.rank then own.getD l w0 else BitVec.ofNat 32 (fieldAt (c.partOf r) (4 * l) 4))).run {}).1

/-- R426: the reducer adds the next chunk of 64 elements, or what is left of it, once all of it has arrived; `n` chunks. -/
def Cmd.coChunks (j : Job) (own : List Word) : Nat → Cmd → Cmd
  | 0, c => c
  | n + 1, c =>
    let r := c.coRange j
    let todo := (List.range (min 64 (r.2 - c.sums.length))).map (fun i => r.1 + c.sums.length + i)
    if todo.isEmpty || !todo.all (c.coReady j) then c
    else Cmd.coChunks j own n { c with sums := c.sums ++ todo.map (c.coSum j own) }

/-! ### What is sent (R430, R431, R436) -/

/-- A partial of a shard as it travels: pairs while at most 2,730 entries of a block are nonzero and the command thins, dense otherwise. -/
def encodePartial (thin : Bool) (first : Nat) (ws : List Word) : Bytes :=
  if !thin then ws.flatMap (fun w => toLe 4 w.toNat)
  else
    let idx := (List.range ws.length).map (fun i => ((first + i) / 4096, (first + i) % 4096, ws.getD i w0))
    ((idx.map (·.1)).eraseDups).flatMap (fun b =>
      let l := (idx.filter (fun x => x.1 == b)).map (·.2)
      let nz := l.filter (fun x => x.2 != w0)
      if nz.length ≤ 2730 then nz.flatMap (fun x => toLe 2 x.1 ++ toLe 4 x.2.toNat)
      else (List.range 4096).flatMap (fun i => toLe 4 (((l.find? (fun x => x.1 == i)).map (·.2)).getD w0).toNat))

/-- The chain that this member adds to before passing it on, for shard s: the ranks up to its own, and the rank it passes to; none where it
ends the chain. -/
def passOn (j : Job) (s : Nat) : List (List Nat × Nat) :=
  let p := j.members.length
  let me := j.rank
  let upTo (l : List Nat) : Option (List Nat × Nat) :=
    let i := l.idxOf me
    if i + 1 < l.length then some (l.take (i + 1), l.getD (i + 1) 0) else none
  if !j.twoLevel then (upTo (flatRanks p s)).toList
  else
    let gs := max 1 j.group
    (upTo (groupRanks gs (me / gs) (s % gs))).toList

/-- R432: across groups, the member that ends its group's chain passes the running sum to the next group's. -/
def passAcross (j : Job) (s : Nat) : Option (List Nat × Nat) :=
  let gs := max 1 j.group
  let q := j.members.length / gs
  if !j.twoLevel || j.rank % gs ≠ s % gs then none
  else
    let order := (List.range q).map (fun k => (s / gs + 1 + k) % max 1 q)
    let i := order.idxOf (j.rank / gs)
    if i + 1 < order.length then some (order.take (i + 1), order.getD (i + 1) 0 * gs + s % gs) else none

/-- The transfers of a reduction: destination rank and bytes. -/
def Cmd.coPartials (c : Cmd) (j : Job) (own : List Word) : List (Nat × Bytes) :=
  let e := (c.tensor c.coSrc).count
  let p := j.members.length
  let x (l r : Nat) : Word := if r = j.rank then own.getD l w0 else BitVec.ofNat 32 (fieldAt (c.partOf r) (4 * l) 4)
  (List.range p).flatMap (fun s =>
    let sh := shard e p s
    let ls := (List.range sh.2).map (fun i => sh.1 + i)
    let enc (f : Nat → Num Word) : Bytes := encodePartial (decide (c.coThin > 0)) sh.1 (ls.map (fun l => ((f l).run {}).1))
    (passOn j s).map (fun q => (q.2, enc (fun l => sumChain (q.1.map (x l))))) ++
    (passAcross j s).toList.map (fun q => (q.2, enc (fun l => do
      let parts ← q.1.mapM (fun g => sumChain ((groupRanks j.group g (s % max 1 j.group)).map (x l)))
      sumChain parts))))

/-- The codes of elements `lo .. lo + n - 1` of a tensor, packed. -/
def Dev.packRange (d : Dev) (c : Cmd) (ti lo n : Nat) : Bytes :=
  let t := c.tensor ti
  packCodes t.format.width ((List.range n).map (fun i => d.elemCode c.part t (t.coordOf (lo + i))))

/-- Everything a COLLECTIVE sends: destination rank and bytes. -/
def Dev.coSends (d : Dev) (c : Cmd) (j : Job) (own : List Word) : List (Nat × Bytes) :=
  let p := j.members.length
  let others := (List.range p).filter (· != j.rank)
  match c.coOp with
  | 0 => c.coPartials j own
  | 1 => others.map (fun r => (r, d.packRange c c.coSrc 0 (c.tensor c.coSrc).count))
  | 2 =>
    let sh := shard (c.tensor c.coSrc).count p j.rank
    let mine := (c.sums.drop sh.1).take sh.2
    c.coPartials j own ++ others.map (fun r => (r, mine.flatMap (fun w => toLe 4 w.toNat)))
  | 3 => if c.coRoot = j.rank then others.map (fun r => (r, d.packRange c c.coSrc 0 (c.tensor c.coSrc).count)) else []
  | 4 =>
    let n := (c.tensor c.coSrc).count / max 1 p
    others.map (fun r => (r, d.packRange c c.coSrc (r * n) n))
  | 5 => [(c.coPeer, d.packRange c c.coSrc 0 (c.tensor c.coSrc).count)]
  | _ => []

/-! ### What is received and written -/

/-- The bytes each other member must have sent here: rank and length. -/
def Cmd.coNeeds (c : Cmd) (j : Job) : List (Nat × Nat) :=
  let p := j.members.length
  let others := (List.range p).filter (· != j.rank)
  let dst := c.tensor c.coDst
  match c.coOp with
  | 0 | 2 => others.map (fun r => (r, 4 * (c.tensor c.coSrc).count))
  | 1 => others.map (fun r => (r, dst.packedBytes (shard dst.count p r).2))
  | 3 => if c.coRoot = j.rank then [] else [(c.coRoot, dst.packedBytes dst.count)]
  | 4 => others.map (fun r => (r, dst.packedBytes (dst.count / max 1 p)))
  | 6 => [(c.coPeer, dst.packedBytes dst.count)]
  | _ => []

/-- Copied elements: those at `lo ..` of DST from packed bytes. -/
def Cmd.coPut (c : Cmd) (lo n : Nat) (b : Bytes) : List ElemWrite :=
  let t := c.tensor c.coDst
  (List.range n).flatMap (fun i => t.put (t.coordOf (lo + i)) (packedAt t.format.width b i))

/-- What a COLLECTIVE writes to DST and HELD, with its flags. -/
def Dev.coWrites (d : Dev) (c : Cmd) (j : Job) (held : List Word) : Num (List ElemWrite) := do
  let p := j.members.length
  let t := c.tensor c.coDst
  let h := c.tensor c.coHeld
  let own := d.packRange c c.coSrc
  let heldW := (List.range held.length).flatMap (fun l => h.put (h.coordOf l) (held.getD l w0).toNat)
  match c.coOp with
  | 0 | 2 => do
    let ws ← (List.range c.sums.length).mapM (fun i => do
      let code ← convertTo t.format c.num 0 (val32 (c.sums.getD i w0))
      return t.put (t.coordOf i) code)
    return ws.flatten ++ heldW
  | 1 =>
    return (List.range p).flatMap (fun r =>
      let sh := shard t.count p r
      c.coPut sh.1 sh.2 (if r = j.rank then own 0 (c.tensor c.coSrc).count else c.partOf r))
  | 3 => return if c.coDst = 0xFF then [] else c.coPut 0 t.count (if c.coRoot = j.rank then own 0 t.count else c.partOf c.coRoot)
  | 4 =>
    let n := t.count / max 1 p
    return (List.range p).flatMap (fun r => c.coPut (r * n) n (if r = j.rank then own (r * n) n else c.partOf r))
  | 6 => return c.coPut 0 t.count (c.partOf c.coPeer)
  | _ => return []

/-- The COLLECTIVE runs on: it records what has arrived, adds the chunks that are complete, and once everything it needs is there writes DST
and HELD and hands its bytes to its flows; it commits when every byte sent has been acknowledged (R437). A transfer longer than its
descriptors allow fails the job (R429). -/
def Dev.coRun (d : Dev) (c : Cmd) (peers : List Contribution) (chunks : Nat) : Dev :=
  match d.job? c.coJob with
  | none => d
  | some j =>
    if c.shipped then d.settleSent
    else
      let c := c.arrive peers
      let needs := c.coNeeds j
      if needs.any (fun n => decide ((c.partOf n.1).length > n.2)) then
        (d.setCmd c).failJob j.id (fabricEntry (j.members.getD j.rank 0) j.id 0 c.part)
      else
        let con := if c.coReduces then d.coContribution c else ([], [])
        let before := c.sums.length
        let c := if c.coReduces then Cmd.coChunks j con.1 chunks c else c
        let added := 4 * (c.sums.length - before)
        let r := d.reducers.getD j.reducer {}
        let d : Dev := { d with reducers := d.reducers.set j.reducer { r with reduced := r.reduced + added } }
        let done := needs.all (fun n => decide ((c.partOf n.1).length = n.2)) && (!c.coReduces || c.sums.length == (c.coRange j).2)
        if !done then d.setCmd c
        else
          let w := (d.coWrites c j con.2).run {}
          let d := if c.coThin > 0 then d.bump (pgRED j.reducer) 0x808 (ceilDiv (c.tensor c.coSrc).count 4096) else d
          let sends := d.coSends c j con.1
          let got := needs.foldl (fun a n => a + n.2) 0
          let d := d.modJob j.id (fun x => { x with received := x.received + got, lastId := c.id })
          let d := d.modPart c.part (fun x => { x with window := { x.window with fabRx := x.window.fabRx + got } })
          let c := { c with flags := c.flags.or w.2, shipped := true }
          let d := (d.setCmd c).applyWrites c.part w.1
          let d := sends.foldl (fun d s => d.sendTransfer c.part (j.members.getD s.1 0) j.id j.reducer 0 j.epoch c.uid s.2) d
          d.settleSent

/-! ### Checks (R428, R429) -/

def okReduceFmt (f : Fmt) : Bool := f == .fp32 || f == .bf16 || f == .fp16

/-- The admission checks of a COLLECTIVE; counts that depend on the job are checked where the job is known. -/
def Dev.coCheck (d : Dev) (c : Cmd) : OpCheck :=
  let j := (d.job? c.coJob).getD { id := 0, part := 0 }
  let known := (d.job? c.coJob).isSome
  let p := j.members.length
  let src := c.tensor c.coSrc
  let dst := c.tensor c.coDst
  let held := c.tensor c.coHeld
  let op := c.coOp
  let hasSrc := c.coSrc != 0xFF
  let hasDst := c.coDst != 0xFF
  let root := known && c.coRoot == j.rank
  let cnt (a b : Nat) : Bool := !known || a == b
  { formed := firstBad [
      need (decide (op ≤ 6)) (badAt 64 0xFF),
      need (if op = 6 then !hasSrc else if op = 3 then (if known then (c.idxOk c.coSrc && root) || (!hasSrc && !root) else !hasSrc || c.idxOk c.coSrc)
        else c.idxOk c.coSrc) (badAt 65 0xFF),
      need (if op = 5 then !hasDst else if op = 3 then c.idxOk c.coDst || (!hasDst && (root || !known)) else c.idxOk c.coDst) (badAt 66 0xFF),
      need (if c.coThin > 0 then c.idxOk c.coHeld else c.coHeld == 0xFF) (badAt 67 0xFF),
      need (decide (c.coJob ≥ 1)) (badAt 68 0xFF),
      need (if op = 3 then !known || decide (c.coRoot < p) else c.coRoot == 0) (badAt 72 0xFF),
      need (if op = 5 || op = 6 then !known || (decide (c.coPeer < p) && c.coPeer != j.rank) else c.coPeer == 0) (badAt 74 0xFF),
      need (decide (c.coThin ≤ 1024) && (c.coThin == 0 || c.coReduces)) (badAt 76 0xFF),
      need (decide (c.u8 78 ≤ 1) && (!c.coEpi || c.coReduces)) (badAt 78 0xFF),
      need (zeroAt c.raw 79 49) (badAt 79 0xFF), need (c.num.round != 2) (badAt 6 0xFF), need (c.foldMode == 0) (badAt 7 0xFF),
      need (c.coThin == 0 || (held.format == .fp32 && held.space == 0 && !isHost held.addr)) (badAt 6 c.coHeld),
      need (c.coThin == 0 || held.shape == src.shape) (badShape c.coHeld 0),
      need (!c.coEpi || src.format == .fp32) (badAt 6 c.coSrc),
      need (match op with
        | 0 => cnt dst.count (shard src.count p j.rank).2
        | 1 => cnt src.count (shard dst.count p j.rank).2
        | 2 => dst.count == src.count
        | 3 => !(hasSrc && hasDst) || dst.count == src.count
        | 4 => dst.count == src.count && (!known || src.count % max 1 p == 0)
        | _ => true) (badShape (if op = 1 then c.coSrc else c.coDst) 0)],
    format := firstBad [
      need (!c.coReduces || okReduceFmt src.format) (badFormat c c.coSrc), need (!c.coReduces || okReduceFmt dst.format) (badFormat c c.coDst),
      need (c.coReduces || !(hasSrc && hasDst) || src.fmt == dst.fmt) (badFormat c c.coDst)],
    shape :=
      let t := if hasSrc then c.coSrc else c.coDst
      overPlan c ((List.range 5).map (fun i => (i, (c.tensor t).dim i, t))),
    inputs := (if hasSrc && !c.coEpi then [c.coSrc] else []) ++ (if c.coThin > 0 then [c.coHeld] else []),
    outputs := (if hasDst then [c.coDst] else []) ++ (if c.coThin > 0 then [c.coHeld] else []),
    inPlace := if c.coThin > 0 then [c.coHeld] else [],
    empty := (if hasDst then dst.count == 0 else src.count == 0) && !c.coReduces,
    job := some c.coJob }

/-! ### The reducer (R426, R427) -/

/-- One chunk on die d's reducer: with an error it is added again, and three failures in succession take the reducer out of service. -/
def Dev.reducerChunk (d : Dev) (die : Nat) (error : Bool) : Dev :=
  let r := d.reducers.getD die {}
  let armed := bit (d.regN (pgRED die) 0xC04) 0
  if r.outOfService then d
  else if error || armed then
    let d := ((d.setReg (pgRED die) 0xC04 0).bump (pgRED die) 0x80C 1).raise (pgRED die) 0
    let run := r.failRun + 1
    let entry : LogEntry := { cls := 0x09, severity := if run ≥ 3 then 4 else 1, source := pgRED die, detail := [BitVec.ofNat 8 die, BitVec.ofNat 8 run] }
    if run ≥ 3 then
      let d : Dev := { d with reducers := d.reducers.set die { r with failRun := run, outOfService := true } }
      let ids := (d.jobs.filter (fun j => j.reducer == die)).map (·.id)
      let us := (d.cmds.filter (fun c => c.live && (match c.jobId with
        | some i => ids.contains i
        | none => false))).map (·.uid)
      (d.raise (pgRED die) 1).failAll us entry
    else
      let d : Dev := { d with reducers := d.reducers.set die { r with failRun := run } }
      (d.bump (pgRED die) 0x810 1).log entry
  else
    let d : Dev := { d with reducers := d.reducers.set die { r with failRun := 0 } }
    let mine (c : Cmd) : Bool := c.live && c.started && c.opcode == 0x0B && c.coReduces && !c.shipped &&
      (match d.job? c.coJob with
        | some j => j.reducer == die
        | none => false)
    match d.cmds.find? mine with
    | some c => d.coRun c [] 1
    | none => d

end Sys2Proof.Machine
end

