-- ==== Sys2Proof/Machine/Conv.lean ====
section
/-! DEFINITION. CONV: parameters, output extents, path selection, checks, and the results of its tiles on the arrays, on the frequency path and on the vector engines (R309-R337). -/

namespace Sys2Proof.Machine

/-! ### Parameters (Tables 11-1 and 11-2) -/

def Cmd.cvX (c : Cmd) : TensorD := c.tensor (c.u8 64)
def Cmd.cvOpt (c : Cmd) : Nat := c.u8 65
def Cmd.cvW (c : Cmd) : TensorD := c.tensor (c.u8 65)
def Cmd.cvOut (c : Cmd) : TensorD := c.tensor (c.u8 66)
def Cmd.cvAux1 (c : Cmd) : Nat := c.u8 67
def Cmd.cvKind (c : Cmd) : Nat := bits (c.u8 68) 0 3
def Cmd.cvPadMode (c : Cmd) : Nat := bits (c.u8 68) 3 2
def Cmd.cvMt (c : Cmd) : Nat := bits (c.u8 68) 5 2
def Cmd.cvSY (c : Cmd) : Nat := bits (c.u8 69) 0 4
def Cmd.cvSX (c : Cmd) : Nat := bits (c.u8 69) 4 4
def Cmd.cvAux2 (c : Cmd) : Nat := c.u8 70
def Cmd.cvAux3 (c : Cmd) : Nat := c.u8 71
def Cmd.cvPadT (c : Cmd) : Nat := c.u8 76
def Cmd.cvPadB (c : Cmd) : Nat := c.u8 77
def Cmd.cvPadL (c : Cmd) : Nat := c.u8 78
def Cmd.cvPadR (c : Cmd) : Nat := c.u8 79

def Cmd.cvC (c : Cmd) : Nat := c.cvX.dim 0
def Cmd.cvCg (c : Cmd) : Nat := c.cvW.dim 0
def Cmd.cvKW (c : Cmd) : Nat := c.cvW.dim 1
def Cmd.cvKH (c : Cmd) : Nat := c.cvW.dim 2
def Cmd.cvCout (c : Cmd) : Nat := c.cvOut.dim 0
/-- The group count (R310). -/
def Cmd.cvG (c : Cmd) : Nat := c.cvC / max 1 c.cvCg

/-- Table 11-3: an extent whose numerator is negative, or that comes out below 1, is 0. -/
def extentOf (num : Int) (stride : Nat) : Nat :=
  if num < 0 then 0 else num.toNat / max 1 stride + 1

/-- Table 11-3: the output extent on one axis. -/
def Cmd.cvExtent (c : Cmd) (inp kern stride dil lo hi win out : Nat) : Nat :=
  match c.cvKind with
  | 0 => extentOf ((inp : Int) + lo + hi - dil * ((kern : Int) - 1) - 1) stride
  | 1 => ((((inp : Int) - 1) * stride + dil * ((kern : Int) - 1) + 1 - lo - hi)).toNat
  | 2 => extentOf ((inp : Int) + lo + hi - win) stride
  | 3 => out
  | 4 => if c.cvAux1 = 0 then inp * c.cvOpt else inp / max 1 c.cvOpt
  | _ => inp

def Cmd.cvHout (c : Cmd) : Nat :=
  c.cvExtent (c.cvX.dim 2) c.cvKH c.cvSY c.cvAux2 c.cvPadT c.cvPadB c.cvAux2 (c.cvOut.dim 2)

def Cmd.cvWout (c : Cmd) : Nat :=
  c.cvExtent (c.cvX.dim 1) c.cvKW c.cvSX c.cvAux3 c.cvPadL c.cvPadR c.cvAux3 (c.cvOut.dim 1)

def Cmd.cvChain (c : Cmd) : Acc := chainKind c.cvX c.cvW

/-- R323: the frequency path. -/
def Cmd.cvFreq (c : Cmd) : Bool :=
  c.cvKind == 0 && c.freqOk && decide (9 ≤ c.cvKH) && decide (c.cvKH ≤ 33) && decide (9 ≤ c.cvKW) && decide (c.cvKW ≤ 33) &&
  c.cvAux2 == 1 && c.cvAux3 == 1 && c.cvSY == 1 && c.cvSX == 1 && c.cvG == 1 && c.cvX.format.isStream4 && c.cvW.format.isStream4 &&
  c.cvAux1 == 0xFF && c.statAt.isNone

/-- Table 11-4: the paths. -/
inductive ConvPath where
  | arrays | frequency | vector
deriving DecidableEq, Repr

def Cmd.cvPath (c : Cmd) : ConvPath :=
  if c.cvFreq then .frequency
  else if c.cvKind ≥ 2 then .vector
  else if !c.cvChain.isInt && decide (c.cvG ≥ 2) && decide (c.cvCg ≤ 8) then .vector
  else .arrays

/-! ### Tile space -/

/-- The tiles of a path that cuts output rows into pieces of at most 65,536 elements (R328, R331): pieces per row. -/
def Cmd.cvPieces (c : Cmd) : Nat :=
  let o := c.cvOut
  max 1 (ceilDiv (o.dim 1) (max 1 (65536 / max 1 (o.dim 0))))

/-- The tile space of a CONV. -/
def Cmd.cvSpace (c : Cmd) : TileSpace :=
  let o := c.cvOut
  match c.cvPath with
  | .arrays =>
    let pair := c.cvChain.isPair
    let wm := weightMode c.cvW.format pair
    let phases := if c.cvKind = 1 then c.cvSY * c.cvSX else 1
    let px := if c.cvKind = 1 then ceilDiv (o.dim 1) (max 1 c.cvSX) * ceilDiv (o.dim 2) (max 1 c.cvSY) else o.dim 1 * o.dim 2
    let staged := c.cvX.space == 0
    { grids := c.cvG * phases, rows := o.dim 3 * px, cols := c.cvCout / max 1 c.cvG,
      k := c.cvKH * c.cvKW * c.cvCg, mt := if c.cvMt = 0 then wm.2.2 else 128 * 2 ^ c.cvMt, nt := 256 * wm.2.1,
      r := streamInterval c.cvX.format c.cvW.format pair, passes := if pair then 3 else 1,
      finish := staged || c.finishOrder, second := if c.statAt.isSome then c.cvCout / max 1 c.cvG else 0,
      secondNt := 256 * wm.2.1, mode := wm.1, integer := c.cvChain.isInt, bypass := c.cvKH * c.cvKW * c.cvCg == 0 }
  | .frequency =>
    { rows := o.dim 3 * ceilDiv (o.dim 2) (65 - c.cvKH) * ceilDiv (o.dim 1) (65 - c.cvKW), mt := 1, nt := 1, bypass := true }
  | .vector => { rows := o.dim 2 * o.dim 3 * c.cvPieces, mt := 1, nt := 1, bypass := true }

/-! ### Input under padding (R314) -/

/-- A position on one axis under a padding mode: `none` is zero padding. -/
def padIndex (mode n : Nat) (i : Int) : Option Nat :=
  if 0 ≤ i ∧ i < n then some i.toNat
  else match mode with
    | 0 => none
    | 1 => some (max 0 (min i ((n : Int) - 1))).toNat
    | _ => some (if i < 0 then (-i).toNat else (2 * ((n : Int) - 1) - i).toNat)

/-- The streamed input value at channel, column and row (which may be in the padding) of batch item b, after the prologue. -/
def Dev.cvIn (d : Dev) (c : Cmd) (ch : Nat) (x y : Int) (b : Nat) : Num Val :=
  match padIndex c.cvPadMode (c.cvX.dim 1) x, padIndex c.cvPadMode (c.cvX.dim 2) y with
  | some xi, some yi => d.streamed c (c.u8 64) [ch, xi, yi, b, 0]
  | _, _ => return .zero

/-- Whether a tap of an output pixel reads the padding. -/
def Cmd.cvTapPadded (c : Cmd) (x y : Nat) (kx ky : Nat) : Bool :=
  let ix : Int := (x * c.cvSX : Nat) - (c.cvPadL : Int) + (kx * c.cvAux3 : Nat)
  let iy : Int := (y * c.cvSY : Nat) - (c.cvPadT : Int) + (ky * c.cvAux2 : Nat)
  !(decide (0 ≤ ix) && decide (ix < c.cvX.dim 1) && decide (0 ≤ iy) && decide (iy < c.cvX.dim 2))

/-- The tap and channel of a logical k (R146). -/
def Cmd.cvTap (c : Cmd) (k : Nat) : Nat × Nat × Nat :=
  let t := k / max 1 c.cvCg
  (t / max 1 c.cvKW, t % max 1 c.cvKW, k % max 1 c.cvCg)

/-- The product of KIND 0 at logical k of output (n, x, y, b) (R313). -/
def Dev.cvProduct (d : Dev) (c : Cmd) (n x y b k : Nat) : Num (Val × Val) := do
  let t := c.cvTap k
  let g := n / max 1 (c.cvCout / max 1 c.cvG)
  let v ← d.cvIn c (g * c.cvCg + t.2.2) ((x * c.cvSX : Nat) - (c.cvPadL : Int) + (t.2.1 * c.cvAux3 : Nat))
    ((y * c.cvSY : Nat) - (c.cvPadT : Int) + (t.1 * c.cvAux2 : Nat)) b
  let w ← d.elemOf c (c.u8 65) [t.2.2, t.2.1, t.1, n, 0]
  return (v, w)

/-- The position that a tap of CONV_T contributes from on one axis, if it does (R329). -/
def transposePos (out pad k dil stride n : Nat) : Option Nat :=
  let v : Int := (out + pad : Nat) - ((k * dil : Nat) : Int)
  if v < 0 then none
  else if v.toNat % max 1 stride ≠ 0 then none
  else if v.toNat / max 1 stride < n then some (v.toNat / max 1 stride) else none

/-- The products of CONV_T for an output element, in logical order over the taps that contribute (R329). -/
def Dev.cvTransposed (d : Dev) (c : Cmd) (n x y b lo hi : Nat) : Num (List (Val × Val)) := do
  let g := n / max 1 (c.cvCout / max 1 c.cvG)
  let l ← (List.range (hi - lo)).mapM (fun i => do
    let t := c.cvTap (lo + i)
    match transposePos y c.cvPadT t.1 c.cvAux2 c.cvSY (c.cvX.dim 2), transposePos x c.cvPadL t.2.1 c.cvAux3 c.cvSX (c.cvX.dim 1) with
    | some iy, some ix => do
      let v ← d.streamed c (c.u8 64) [g * c.cvCg + t.2.2, ix, iy, b, 0]
      let w ← d.elemOf c (c.u8 65) [t.2.2, t.2.1, t.1, n, 0]
      return some (v, w)
    | _, _ => return none)
  return l.filterMap id

/-- The products of an output element over logical k from lo to hi; `skipK` says which k are left out (R316). -/
def Dev.cvProducts (d : Dev) (c : Cmd) (co : List Nat) (lo hi : Nat) (skipK : Nat → Bool) : Num (List (Val × Val)) :=
  let n := co.getD 0 0
  let x := co.getD 1 0
  let y := co.getD 2 0
  let b := co.getD 3 0
  if c.cvKind = 1 then d.cvTransposed c n x y b lo hi
  else ((List.range (hi - lo)).filter (fun i => !skipK (lo + i))).mapM (fun i => d.cvProduct c n x y b (lo + i))

/-- The start of an element's chain. -/
def Dev.cvStart (d : Dev) (c : Cmd) (co : List Nat) : Num Acc :=
  if c.cvAux1 = 0xFF then return c.cvChain
  else do
    let t := c.tensor c.cvAux1
    let w ← d.readElem c.part t co
    carryAcc c.ftz c.cvChain t w

/-! ### Implicit GEMM -/

/-- OUT coordinates of row r and column j of grid g: `none` past the edge of a phase of CONV_T. -/
def Cmd.cvCoord (c : Cmd) (g r j : Nat) : List Nat :=
  let o := c.cvOut
  let nPer := c.cvCout / max 1 c.cvG
  if c.cvKind = 1 then
    let ph := g / max 1 c.cvG
    let w := ceilDiv (o.dim 1) (max 1 c.cvSX)
    let h := ceilDiv (o.dim 2) (max 1 c.cvSY)
    [(g % max 1 c.cvG) * nPer + j, (r % max 1 w) * c.cvSX + ph % max 1 c.cvSX, (r / max 1 w % max 1 h) * c.cvSY + ph / max 1 c.cvSX,
      r / max 1 (w * h), 0]
  else
    [g * nPer + j, r % max 1 (o.dim 1), r / max 1 (o.dim 1) % max 1 (o.dim 2), r / max 1 (o.dim 1 * o.dim 2), 0]

/-- Whether a row of a phase lies in the output. -/
def Cmd.cvRowIn (c : Cmd) (g r : Nat) : Bool :=
  let co := c.cvCoord g r 0
  decide (co.getD 1 0 < c.cvOut.dim 1) && decide (co.getD 2 0 < c.cvOut.dim 2)

/-- R316: the chunks a tile leaves out: every k of the chunk is padded for every row of the tile. -/
def Cmd.cvOmits (c : Cmd) (g r0 nr : Nat) (chunk : Nat) : Bool :=
  let hi := min (c.cvKH * c.cvKW * c.cvCg) ((chunk + 1) * 256)
  (List.range (hi - chunk * 256)).all (fun i =>
    let t := c.cvTap (chunk * 256 + i)
    (List.range nr).all (fun j => let co := c.cvCoord g (r0 + j) 0; c.cvTapPadded (co.getD 1 0) (co.getD 2 0) t.2.1 t.1))

/-- The result of one array tile. -/
def Dev.cvArrayTile (d : Dev) (c : Cmd) (fallback : Bool) (id : TileId) : Num TileResult := do
  let t := c.cvSpace
  if id.sub = secondSub then d.bandSecond c t (c.statAt.getD 0) c.cvCoord (c.u8 66) t.cols id
  else
    let cell := t.cell id.rank
    let g := cell.1
    let b := cell.2.1
    let n := cell.2.2
    let segs := t.segments b
    let last := decide (id.sub + 1 = segs)
    let pair := c.cvChain.isPair
    let range := if pair then (0, t.k) else t.segRange b id.sub
    let skip := c.skipPadTaps && c.cvPadMode == 0 && c.cvKind == 0
    let nr := t.bandRows b
    let gone := if skip then (List.range t.chunks).filter (fun q => c.cvOmits g (b * t.mt) nr q) else []
    let prev : TileId := ⟨id.rank, id.sub - 1⟩
    if pair && !last then return { held := [] }
    else
      let accs ← (List.range nr).mapM (fun i => (List.range (t.blockCols n)).mapM (fun j => do
        let co := c.cvCoord g (b * t.mt + i) (n * t.nt + j)
        if !c.cvRowIn g (b * t.mt + i) then return c.cvChain
        else
          let s ← if id.sub = 0 || pair then d.cvStart c co else pure (c.work.keptAt prev (t.blockCols n) i j)
          let ps ← d.cvProducts c co range.1 range.2 (fun k => gone.contains (k / 256))
          accRun c.ftz s ps))
      if last then
        let r ← d.gridFinish c t (c.u8 66) g b n fallback c.cvCoord accs
        if c.cvKind = 1 then
          -- rows of a phase that lie past the output write nothing: form the rows that do
          let rows := (List.range nr).filter (fun i => c.cvRowIn g (b * t.mt + i))
          if c.statAt.isSome then return r
          else
            let es ← rows.mapM (fun i => emitTile c (c.u8 66) (b * t.mt + i) 1 (n * t.nt) (t.blockCols n) (c.cvCoord g)
              (fun rr col => d.finishElem c (c.u8 66) (c.cvCoord g rr col) ((accs.getD i []).getD (col - n * t.nt) (.fp w0)) 0 c.epiCount))
            return { r with writes := es.flatMap (·.1), sends := es.flatMap (·.2) }
        else return r
      else return { held := accs.flatten }

/-! ### The frequency path (R324, R325) -/

/-- `COST(n/64)` or `SINT(n/64)`. -/
def twiddle (sine : Bool) (n : Nat) : Num Word := do
  let a ← rnd32 false (.fin false n (-6))
  if sine then sintW false a else costW false a

/-- A complex number of FP32 parts. -/
abbrev Cplx := Word × Word

/-- The real sum of products of R150, written as FP32 by fp32_add(s, e). -/
def pairDot (ftz : Bool) (ps : List (Val × Val)) : Num Word := do
  let a ← accRun ftz (.pair w0 w0) ps
  a.epi ftz

/-- One element of F·z (or conj(F)·z) for a column z: complex index t is real k = 2t, 2t + 1. -/
def dftDot (ftz conj : Bool) (f : List Cplx) (z : List Cplx) : Num Cplx := do
  let ng (w : Word) : Val := (val32 w).negate
  let fi (w : Word) : Val := if conj then val32 w else ng w
  let re := (f.zip z).flatMap (fun q => [(val32 q.1.1, val32 q.2.1), ((fi q.1.2).negate, val32 q.2.2)])
  let im := (f.zip z).flatMap (fun q => [(fi q.1.2, val32 q.2.1), (val32 q.1.1, val32 q.2.2)])
  let r ← pairDot ftz re
  let i ← pairDot ftz im
  return (r, i)

/-- Row u of the DFT matrix: cos and sin parts. -/
def dftRow (u : Nat) : Num (List Cplx) :=
  (List.range 64).mapM (fun t => do
    let a ← twiddle false (u * t % 64)
    let b ← twiddle true (u * t % 64)
    return (a, b))

/-- Transpose a list of rows of length n. -/
def transposeN {α : Type} [Inhabited α] (n : Nat) (m : List (List α)) : List (List α) :=
  (List.range n).map (fun j => m.map (fun r => r.getD j default))

/-- F·z·Fᵀ (or with conjugates): the left product, then the right one. -/
def dft2 (ftz conj : Bool) (z : List (List Cplx)) : Num (List (List Cplx)) := do
  let f ← (List.range 64).mapM dftRow
  let cols := transposeN 64 z
  let left ← cols.mapM (fun col => f.mapM (fun fr => dftDot ftz conj fr col))
  let rows := transposeN 64 left
  rows.mapM (fun row => f.mapM (fun fr => dftDot ftz conj fr row))

/-- CMUL of Table 10-2. -/
def cmul (ftz : Bool) (a b : Cplx) : Num Cplx := do
  let re ← rnd32 ftz (((val32 a.1).mul (val32 b.1)).sub ((val32 a.2).mul (val32 b.2)))
  let im ← rnd32 ftz (((val32 a.1).mul (val32 b.2)).add ((val32 a.2).mul (val32 b.1)))
  return (re, im)

/-- One block of the frequency path: all output channels of one block of one batch item. -/
def Dev.cvFreqTile (d : Dev) (c : Cmd) (id : TileId) : Num TileResult := do
  let o := c.cvOut
  let bh := 65 - c.cvKH
  let bw := 65 - c.cvKW
  let nx := ceilDiv (o.dim 1) bw
  let ny := ceilDiv (o.dim 2) bh
  let bi := id.rank / max 1 (nx * ny)
  let y0 := id.rank / max 1 nx % max 1 ny * bh
  let x0 := id.rank % max 1 nx * bw
  let f := c.ftz
  let tiles ← (List.range c.cvC).mapM (fun ch => (List.range 64).mapM (fun i => (List.range 64).mapM (fun j => do
    let x : Int := (x0 + j : Nat) - (c.cvPadL : Int)
    let y : Int := (y0 + i : Nat) - (c.cvPadT : Int)
    if x ≥ (c.cvX.dim 1 + c.cvPadR : Nat) || y ≥ (c.cvX.dim 2 + c.cvPadB : Nat) then return w0
    else
      let v ← d.cvIn c ch x y bi
      rnd32 false v)))
  let bad (t : List (List Word)) : Bool := t.any (fun r => r.any (fun w => !(val32 w).isFinite))
  let tileBad := tiles.any bad
  let xf ← tiles.mapM (fun t => dft2 f false (t.map (fun r => r.map (fun w => (w, w0)))))
  let outs ← (List.range c.cvCout).mapM (fun n => do
    let ws ← (List.range c.cvC).mapM (fun ch => (List.range 64).mapM (fun i => (List.range 64).mapM (fun j =>
      if i < c.cvKH && j < c.cvKW then do
        let v ← d.elemOf c (c.u8 65) [ch, j, i, n, 0]
        rnd32 false v
      else return w0)))
    let wf ← ws.mapM (fun t => dft2 f false (t.map (fun r => r.map (fun w => (w, w0)))))
    let yf ← (List.range 64).mapM (fun u => (List.range 64).mapM (fun v => do
      let rec go (acc : Cplx) : List (List (List Cplx) × List (List Cplx)) → Num Cplx
        | [] => return acc
        | q :: r => do
          let a := (q.1.getD u []).getD v (w0, w0)
          let b := (q.2.getD u []).getD v (w0, w0)
          let p ← cmul f a (b.1, BitVec.ofNat 32 (b.2.toNat ^^^ 0x80000000))
          let re ← fadd f acc.1 p.1
          let im ← fadd f acc.2 p.2
          go (re, im) r
      go (w0, w0) (xf.zip wf)))
    let y ← dft2 f true yf
    let nanAll := tileBad || ws.any bad
    (List.range (min bh (o.dim 2 - y0))).mapM (fun i => (List.range (min bw (o.dim 1 - x0))).mapM (fun j => do
      let w ← rnd32 f ((val32 ((y.getD i []).getD j (w0, w0)).1).scale2 (-12))
      let co := [n, x0 + j, y0 + i, bi, 0]
      let r ← d.finishElem c (c.u8 66) co (.fp (if nanAll then wNan else w)) 0 c.epiCount
      return (co, r))))
  let flat := outs.flatten.flatten
  -- each pixel's channels form one line of OUT
  let ws ← (List.range (min bh (o.dim 2 - y0))).mapM (fun i => (List.range (min bw (o.dim 1 - x0))).mapM (fun j => do
    let line := flat.filter (fun q => q.1.getD 1 0 == x0 + j && q.1.getD 2 0 == y0 + i)
    c.emitOutputs (c.u8 66) 0 [x0 + j, y0 + i, bi, 0] (line.map (fun q => q.2.1)) (line.map (fun q => q.2.2))))
  return { writes := ws.flatten.flatMap (·.1), sends := ws.flatten.flatMap (·.2) }

/-! ### Vector-engine kinds -/

/-- The FP32 word of an input element. -/
def Dev.cvWord (d : Dev) (c : Cmd) (co : List Nat) : Num Word := do
  let v ← d.elemOf c (c.u8 64) co
  rnd32 false v

/-- POOL (R332). -/
def Dev.poolElem (d : Dev) (c : Cmd) (ch x y b : Nat) : Num Word := do
  let pos := (List.range c.cvAux2).flatMap (fun ky => (List.range c.cvAux3).map (fun kx =>
    (((x * c.cvSX + kx : Nat) : Int) - (c.cvPadL : Int), ((y * c.cvSY + ky : Nat) : Int) - (c.cvPadT : Int))))
  let ins (q : Int × Int) : Bool := decide (0 ≤ q.1) && decide (q.1 < c.cvX.dim 1) && decide (0 ≤ q.2) && decide (q.2 < c.cvX.dim 2)
  let vals ← pos.mapM (fun q =>
    if ins q then do
      let w ← d.cvWord c [ch, q.1.toNat, q.2.toNat, b, 0]
      return some w
    else return none)
  if c.cvOpt = 0 then rmax vals
  else
    let s ← vals.foldlM (fun acc v =>
      match v with
      | some w => fadd c.ftz acc w
      | none => if c.cvOpt = 1 then fadd c.ftz acc w0 else return acc) w0
    let n := if c.cvOpt = 1 then c.cvAux2 * c.cvAux3 else (pos.filter ins).length
    let nW ← rnd32 false (.ofInt n)
    fdiv c.ftz s nW

/-- The exact quotient of integers as a sticky value (for one rounding). -/
def ratio (n d : Int) : Val := (Val.ofInt n).div (Val.ofInt d)

/-- R333: the taps and rounded weights of an output coordinate on one axis. Weights are exact rationals over powers of `2·out`. -/
def resizeTaps (method d inp out : Nat) : Num (List (Nat × Word)) := do
  let clampI (i : Int) : Nat := (max 0 (min i ((inp : Int) - 1))).toNat
  let den : Int := 2 * out
  let num : Int := ((2 * d + 1) * inp : Nat) - (out : Int)
  let i0 := num.fdiv den
  let t := num - i0 * den
  match method with
  | 0 => return [(min ((2 * d + 1) * inp / max 1 (2 * out)) (inp - 1), w1)]
  | 1 => do
    let a ← rnd32 false (ratio (den - t) den)
    let b ← rnd32 false (ratio t den)
    return [(clampI i0, a), (clampI (i0 + 1), b)]
  | _ => do
    -- W(x) with x = u/den, as a rational over 2·den³
    let near (u : Int) : Int := 3 * u ^ 3 - 5 * u ^ 2 * den + 2 * den ^ 3
    let far (u : Int) : Int := -(u ^ 3) + 5 * u ^ 2 * den - 8 * u * den ^ 2 + 4 * den ^ 3
    let dd := 2 * den ^ 3
    let a ← rnd32 false (ratio (if t = 0 then 0 else far (den + t)) dd)
    let b ← rnd32 false (ratio (near t) dd)
    let e ← rnd32 false (ratio (near (den - t)) dd)
    let f ← rnd32 false (ratio (if t = 0 then 0 else far (2 * den - t)) dd)
    return [(clampI (i0 - 1), a), (clampI i0, b), (clampI (i0 + 1), e), (clampI (i0 + 2), f)]

/-- A weighted sum from +0.0: each product exact, each addition rounded once. -/
def weighted (ftz : Bool) (l : List (Word × Word)) : Num Word :=
  l.foldlM (fun acc q => ffma ftz q.1 q.2 acc) w0

/-- RESIZE (R333): across x first, then across y. -/
def Dev.resizeElem (d : Dev) (c : Cmd) (ch x y b : Nat) : Num Word := do
  let tx ← resizeTaps c.cvOpt x (c.cvX.dim 1) (c.cvOut.dim 1)
  let ty ← resizeTaps c.cvOpt y (c.cvX.dim 2) (c.cvOut.dim 2)
  if c.cvOpt = 0 then d.cvWord c [ch, (tx.headD (0, w0)).1, (ty.headD (0, w0)).1, b, 0]
  else
    let rows ← ty.mapM (fun q => do
      let l ← tx.mapM (fun p => do
        let v ← d.cvWord c [ch, p.1, q.1, b, 0]
        return (p.2, v))
      let s ← weighted c.ftz l
      return (q.2, s))
    weighted c.ftz rows

/-- SHUFFLE (R334): the source coordinates of an output element. -/
def Cmd.shuffleSrc (c : Cmd) (ch x y b : Nat) : List Nat :=
  let r := max 1 c.cvOpt
  if c.cvAux1 = 0 then [ch * r * r + (y % r) * r + x % r, x / r, y / r, b, 0]
  else [ch / (r * r), x * r + ch % r, y * r + ch / r % r, b, 0]

/-- The element sequence of a group of GROUP_NORM (R335). -/
def Cmd.gnSeq (c : Cmd) (g b : Nat) : List (List Nat) :=
  let per := c.cvC / max 1 c.cvOpt
  (List.range (c.cvX.dim 2)).flatMap (fun y => (List.range (c.cvX.dim 1)).flatMap (fun x =>
    (List.range per).map (fun i => [g * per + i, x, y, b, 0])))

/-- The mean and r of a group (R335, R306). -/
def Dev.gnStats (d : Dev) (c : Cmd) (g b : Nat) : Num (Word × Word) := do
  let xs ← (c.gnSeq g b).mapM (fun co => d.cvWord c co)
  let f := c.ftz
  let nW ← rnd32 false (.ofInt xs.length)
  let s ← rsum f (xs.map some)
  let mean ← fdiv f s nW
  let sq ← xs.mapM (fun x => do
    let q ← fsub f x mean
    fmul f q q)
  let v ← rsum f (sq.map some)
  let q ← fdiv f v nW
  let q ← fadd f q c.sc1
  let r ← rsqrtW f q
  return (mean, r)

/-- GROUP_NORM of one element from its group's mean and r. -/
def Dev.gnElem (d : Dev) (c : Cmd) (mr : Word × Word) (co : List Nat) : Num Word := do
  let x ← d.cvWord c co
  let f := c.ftz
  let q ← fsub f x mr.1
  let y ← fmul f q mr.2
  let y ← if c.cvAux1 = 0xFF then pure y else do
    let g ← d.streamWord c c.cvAux1 [co.getD 0 0, 0, 0, 0, 0]
    fmul f y g
  if c.cvAux2 = 0xFF then return y
  else
    let g ← d.streamWord c c.cvAux2 [co.getD 0 0, 0, 0, 0, 0]
    fadd f y g

/-- One tile on the vector engines: a piece of an output row. -/
def Dev.cvVectorTile (d : Dev) (c : Cmd) (id : TileId) : Num TileResult := do
  let o := c.cvOut
  let pieces := c.cvPieces
  let per := ceilDiv (o.dim 1) pieces
  let row := id.rank / pieces
  let x0 := id.rank % pieces * per
  let y := row % max 1 (o.dim 2)
  let b := row / max 1 (o.dim 2)
  let out := c.u8 66
  if c.cvKind = 4 then
    let ws ← (List.range (min per (o.dim 1 - x0))).mapM (fun i => (List.range (o.dim 0)).mapM (fun ch => do
      let w ← d.readElem c.part c.cvX (c.shuffleSrc ch (x0 + i) y b)
      return o.put [ch, x0 + i, y, b, 0] w))
    return { writes := ws.flatten.flatten }
  else
    let stats ← if c.cvKind = 5 then (List.range c.cvOpt).mapM (fun g => d.gnStats c g b) else pure []
    let skip := c.skipPadTaps && c.cvPadMode == 0 && c.cvKind == 0
    let rows ← (List.range (min per (o.dim 1 - x0))).mapM (fun i => do
      let x := x0 + i
      let vs ← (List.range (o.dim 0)).mapM (fun ch => do
        let co := [ch, x, y, b, 0]
        let acc : Acc ← match c.cvKind with
          | 2 => do
            let w ← d.poolElem c ch x y b
            pure (Acc.fp w)
          | 3 => do
            let w ← d.resizeElem c ch x y b
            pure (Acc.fp w)
          | 5 => do
            let w ← d.gnElem c (stats.getD (ch / max 1 (c.cvC / max 1 c.cvOpt)) (w0, w0)) co
            pure (Acc.fp w)
          | _ => do
            let s ← d.cvStart c co
            let ps ← d.cvProducts c co 0 (c.cvKH * c.cvKW * c.cvCg)
              (fun k => let t := c.cvTap k; skip && c.cvTapPadded x y t.2.1 t.1)
            accRun c.ftz s ps
        d.finishElem c out co acc 0 c.epiCount)
      c.emitOutputs out 0 [x, y, b, 0] (vs.map (·.1)) (vs.map (·.2)))
    return { writes := rows.flatMap (·.1), sends := rows.flatMap (·.2) }

/-- The result of one CONV tile. -/
def Dev.cvTile (d : Dev) (c : Cmd) (fallback : Bool) (id : TileId) : Num TileResult :=
  match c.cvPath with
  | .arrays => d.cvArrayTile c fallback id
  | .frequency => d.cvFreqTile c id
  | .vector => d.cvVectorTile c id

/-! ### Checks -/

/-- R321: the line buffer of a staged CONV in 64 KiB units. -/
def Cmd.cvLineUnits (c : Cmd) (mt : Nat) : Nat :=
  let w := max 1 (c.cvOut.dim 1)
  let ro := if mt % w = 0 then mt / w else (mt - 2) / w + 2
  let l := (3 * ro - 1) * c.cvSY + c.cvAux2 * (c.cvKH - 1) + 1
  ceilDiv (l * ceilDiv (c.cvX.dim 1 * c.cvC * c.cvX.format.width) 8) 65536

/-- Table 11-2: the first byte outside its range. -/
def Cmd.cvFieldBad (c : Cmd) : Option Nat :=
  let k := c.cvKind
  let conv := decide (k ≤ 1)
  if !c.idxOk (c.u8 64) then some 64
  else if (match k with
    | 0 | 1 => !c.idxOk c.cvOpt
    | 2 => decide (c.cvOpt > 2)
    | 3 => decide (c.cvOpt > 2)
    | 4 => decide (c.cvOpt < 2) || decide (c.cvOpt > 8)
    | 5 => c.cvOpt == 0
    | _ => false) then some 65
  else if !c.idxOk (c.u8 66) then some 66
  else if (match k with
    | 0 | 1 | 5 => c.cvAux1 != 0xFF && !c.idxOk c.cvAux1
    | 2 | 3 => c.cvAux1 != 0xFF
    | 4 => decide (c.cvAux1 > 1)
    | _ => false) then some 67
  else if k > 5 || bit (c.u8 68) 7 || c.cvPadMode = 3 || (k != 0 && c.cvPadMode != 0) || (!conv && c.cvMt != 0) then some 68
  else if (if k ≤ 2 then c.cvSY == 0 || c.cvSX == 0 else c.u8 69 != 0) then some 69
  else if (if k ≤ 2 then c.cvAux2 == 0 else if k = 5 then c.cvAux2 != 0xFF && !c.idxOk c.cvAux2 else c.cvAux2 != 0) then some 70
  else if (if k ≤ 2 then c.cvAux3 == 0 else c.cvAux3 != 0) then some 71
  else if !workOk (c.u16 72) (c.u16 74) then some 74
  else if k = 2 && (decide (c.cvPadT ≥ c.cvAux2) || decide (c.cvPadB ≥ c.cvAux2)) then some 76
  else if k = 2 && (decide (c.cvPadL ≥ c.cvAux3) || decide (c.cvPadR ≥ c.cvAux3)) then some 78
  else if k ≥ 3 && !zeroAt c.raw 76 4 then some 76
  else none

/-- R336: FUSE content that KIND 2, 3 and 5 may carry. -/
def Cmd.cvFuseLimited (c : Cmd) : Bool :=
  c.tap == 0 && c.proCount == 0 && !c.out2En && c.sendMode == 0 && !c.chainEn &&
  (List.range c.epiCount).all (fun i => c.epiOp i == 0x05 || c.epiOp i == 0x06 || c.epiOp i == 0x07)

/-- R315: the first side whose reflect padding is too large. -/
def Cmd.cvPadSide (c : Cmd) : Option Nat :=
  if c.cvKind = 0 && c.cvPadMode = 2 then
    if c.cvPadT + 1 > c.cvX.dim 2 && c.cvPadT > 0 then some 0
    else if c.cvPadB + 1 > c.cvX.dim 2 && c.cvPadB > 0 then some 1
    else if c.cvPadL + 1 > c.cvX.dim 1 && c.cvPadL > 0 then some 2
    else if c.cvPadR + 1 > c.cvX.dim 1 && c.cvPadR > 0 then some 3
    else none
  else none

/-- The admission checks of a CONV. -/
def Cmd.cvCheck (c : Cmd) (cores : Nat) : OpCheck :=
  let x := c.cvX
  let o := c.cvOut
  let conv := decide (c.cvKind ≤ 1)
  let xi := c.u8 64
  let wi := c.u8 65
  let oi := c.u8 66
  let t := c.cvSpace
  let kind := if conv then c.cvChain else .fp w0
  let cout := if conv then c.cvW.dim 3 else if c.cvKind = 4 then
    (if c.cvAux1 = 0 then c.cvC / (c.cvOpt * c.cvOpt) else c.cvC * c.cvOpt * c.cvOpt) else c.cvC
  let path := c.cvPath
  let seg := path == .arrays && (List.range t.bands).any (fun b => decide (t.segments b > 1))
  let slots := if seg then 2 * t.slotUnits else 0
  let held := if c.statAt.isSome then t.bandUnits (2 * cores) - slots else 0
  let line := if path == .arrays && x.space == 0 then c.cvLineUnits t.mt else 0
  let m := o.dim 1 * o.dim 2 * o.dim 3
  { formed := firstBad [
      c.cvFieldBad.elim none (fun off => badAt off 0xFF),
      need (c.foldMode == 0) (badAt 7 0xFF),
      c.fuseBad.elim none (fun off => badAt off 0xFF),
      need (!c.chainEn) (badAt 83 0xFF),
      need (x.rank == 4) (badAt 7 xi), need (o.rank == 4) (badAt 7 oi),
      (if conv then firstBad [need (decide (c.cvCg > 0) && c.cvC % max 1 c.cvCg == 0 && c.cvW.dim 3 % max 1 c.cvG == 0) (badShape wi 0)] else none),
      (if c.cvKind = 4 then firstBad [
        need (if c.cvAux1 = 0 then c.cvC % (c.cvOpt * c.cvOpt) == 0 else x.dim 1 % c.cvOpt == 0 && x.dim 2 % c.cvOpt == 0) (badShape xi 0),
        need (o.fmt == x.fmt) (badAt 6 oi), need (zeroAt c.raw 80 48) (badAt 80 0xFF)] else none),
      need (o.dim 0 == cout) (badShape oi 0), need (o.dim 1 == c.cvWout) (badShape oi 1), need (o.dim 2 == c.cvHout) (badShape oi 2),
      need (o.dim 3 == x.dim 3) (badShape oi 3),
      (if c.cvKind = 5 then firstBad [need (c.cvC % max 1 c.cvOpt == 0) (badAt 65 0xFF),
        (if c.cvAux1 = 0xFF then none else need ((c.tensor c.cvAux1).dim 0 == c.cvC) (badShape c.cvAux1 0)),
        (if c.cvAux2 = 0xFF then none else need ((c.tensor c.cvAux2).dim 0 == c.cvC) (badShape c.cvAux2 0))] else none),
      (if !conv && c.cvKind != 4 then need c.cvFuseLimited (badAt 80 0xFF) else none),
      (if conv && c.cvAux1 != 0xFF then shapeIs c c.cvAux1 o.shape else none),
      (if conv then need (decide (c.cvMt = 0) || decide (128 * 2 ^ c.cvMt ≤ (weightMode c.cvW.format kind.isPair).2.2)) (badAt 68 0xFF) else none),
      (if conv && path == .vector then need c.statAt.isNone (badAt 100 0xFF) else none),
      (if c.out2En then shapeIs c c.out2 o.shape else none),
      (if c.fbufEn then shapeIs c c.fbuf o.shape else none),
      c.fuseShapes (if path == .arrays then cout else cout) m 1 0,
      (if conv then firstBad [c.companionOk xi false, c.companionOk wi true] else none), c.companionOk oi false,
      need (!(kind.isPair && o.format == .fp32x2 && decide (c.epiCount > 0))) (badAt 80 0xFF),
      need (decide (slots + line + (if c.statAt.isSome && !(c.fallbackOk && c.fbufEn) then held else 0) ≤ c.u16 74) || (c.statAt.isSome && !seg && line == 0))
        (badAt 74 0xFF)],
    format := firstBad [
      (if conv then firstBad [need x.format.okActivation (badFormat c xi), need c.cvW.format.okWeight (badFormat c wi),
        need ((x.format == .fp32) == (c.cvW.format == .fp32)) (badFormat c (if x.format == .fp32 then wi else xi)),
        (if c.cvAux1 != 0xFF then need (if kind.isInt then (c.tensor c.cvAux1).format == .int32
          else [Fmt.fp32, .bf16, .fp16, .fp32x2].contains (c.tensor c.cvAux1).format) (badFormat c c.cvAux1) else none)]
       else if c.cvKind = 4 then none
       else firstBad [need x.format.isStream5 (badFormat c xi),
        (if c.cvKind = 5 && c.cvAux1 != 0xFF then need (c.tensor c.cvAux1).format.isStream5 (badFormat c c.cvAux1) else none),
        (if c.cvKind = 5 && c.cvAux2 != 0xFF then need (c.tensor c.cvAux2).format.isStream5 (badFormat c c.cvAux2) else none)]),
      (if c.cvKind = 4 then none else need (o.format.okOutput kind.isInt) (badFormat c oi)),
      (if c.cvKind = 4 then none else c.fuseFormats kind.isInt xi)],
    shape := overPlan c [(0, c.cvC, xi), (1, x.dim 1, xi), (2, x.dim 2, xi), (3, x.dim 3, xi), (4, max (o.dim 0) (max (o.dim 1) (o.dim 2)), oi)],
    pad := c.cvPadSide.map (fun s => (stPAD, s)),
    streams := if c.cvKind = 4 then none else c.streamsExceeded.map (fun v => (stSTREAMS, v)),
    band := if c.statAt.isSome && decide (t.bandUnits (2 * cores) > c.u16 74) && !(c.fallbackOk && c.fbufEn) then some (stBAND, 0) else none,
    inputs := ([xi] ++ (if conv then [wi] ++ (if c.cvAux1 = 0xFF then [] else [c.cvAux1]) else []) ++
      (if c.cvKind = 5 then (if c.cvAux1 = 0xFF then [] else [c.cvAux1]) ++ (if c.cvAux2 = 0xFF then [] else [c.cvAux2]) else []) ++
      c.epiStreams ++ c.epiVectors ++ c.proStreams ++ c.proVectors ++
      (if conv then [xi, wi].filterMap (fun i => if (c.tensor i).aux = 0xFF then none else some (c.tensor i).aux) else [])).eraseDups,
    outputs := ([oi] ++ (if c.out2En then [c.out2] else []) ++ (if c.fbufEn then [c.fbuf] else []) ++ (if o.format.isMx then [o.aux] else []) ++
      (match c.statAt with
        | some i => if c.epiOp i = 0x12 then [c.epiArg i] else []
        | none => [])).eraseDups,
    inPlace := c.epiStreams,
    work := if c.u16 74 = 0 then none else some (c.u16 72, c.u16 74),
    empty := o.dim 3 == 0 || o.dim 1 * o.dim 2 == 0 || o.dim 0 == 0,
    job := if c.sendMode = 0 then none else some c.sendJob }

end Sys2Proof.Machine
end

