-- ==== Sys2Proof/Machine/Picture.lean ====
section
/-! DEFINITION. Pictures: from decoded planes to output pictures, header checks, and resizing of planes (R333, R444-R447, R465). -/

namespace Sys2Proof.Machine

open Sys2Proof.Config (Picture CodecHeader)

/-! ### Resizing a plane (R333) -/

/-- A resized sample of a plane: across x first, then across y. -/
def resizePlane (method : Nat) (src : Nat → Nat → Num Word) (inW inH outW outH x y : Nat) : Num Word := do
  let tx ← resizeTaps method x inW outW
  let ty ← resizeTaps method y inH outH
  if method = 0 then src (tx.headD (0, w0)).1 (ty.headD (0, w0)).1
  else
    let rows ← ty.mapM (fun q => do
      let l ← tx.mapM (fun p => do
        let v ← src p.1 q.1
        return (p.2, v))
      let s ← weighted false l
      return (q.2, s))
    weighted false rows

/-! ### From planes to RGB (R446) -/

/-- Kr, Kg and Kb of a matrix, in 1/10,000. -/
def matrixK (m : Nat) : Int × Int × Int :=
  match m with
  | 0 => (2990, 5870, 1140)
  | 1 => (2126, 7152, 722)
  | _ => (2627, 6780, 593)

/-- k_Cb and k_Cr of a channel, as FP32. -/
def matrixRow (m chan : Nat) : Num (Word × Word) := do
  let k := matrixK m
  let kr := k.1
  let kg := k.2.1
  let kb := k.2.2
  match chan with
  | 0 => do
    let r ← rnd32 false (ratio (2 * (10000 - kr)) 10000)
    return (w0, r)
  | 1 => do
    let b ← rnd32 false (ratio (-2 * kb * (10000 - kb)) (10000 * kg))
    let r ← rnd32 false (ratio (-2 * kr * (10000 - kr)) (10000 * kg))
    return (b, r)
  | _ => do
    let b ← rnd32 false (ratio (2 * (10000 - kb)) 10000)
    return (b, w0)

/-- The FP32 word of an integer. -/
def wordOfInt (x : Int) : Num Word := rnd32 false (.ofInt x)

/-- A coded value normalised by its range: luma, or chroma about its middle. -/
def normCoded (full chroma : Bool) (depth : Nat) (v : Word) : Num Word := do
  let u : Int := (2 ^ (depth - 8) : Nat)
  let off : Int := if chroma then (2 ^ (depth - 1) : Nat) else if full then 0 else 16 * u
  let span : Int := if full then (2 ^ depth - 1 : Nat) else if chroma then 224 * u else 219 * u
  let o ← wordOfInt off
  let s ← wordOfInt span
  let x ← fsub false v o
  fdiv false x s

/-- Clamp to 0..1; a NaN becomes +0.0 as fmax and fmin give. -/
def clamp01 (x : Word) : Word := fmin (fmax x w0) w1

/-- A channel of a pixel at luma resolution. -/
def rgbAt (p : Picture) (chan x y : Nat) : Num Word := do
  let yv ← wordOfInt (p.y.getD (y * p.width + x) 0 : Nat)
  let yn ← normCoded p.full false p.depth yv
  let plane (l : List Nat) : Num Word :=
    if p.cw = 0 then return w0
    else do
      let v ← resizePlane 1 (fun i j => wordOfInt (l.getD (j * p.cw + i) 0 : Nat)) p.cw p.ch p.width p.height x y
      normCoded p.full true p.depth v
  let cb ← plane p.cb
  let cr ← plane p.cr
  let k ← matrixRow p.matrix chan
  let a ← fmul false w1 yn
  let b ← fmul false k.1 cb
  let s ← fadd false a b
  let c ← fmul false k.2 cr
  let v ← fadd false s c
  return clamp01 v

/-- RANGE and the store of one output value (R446). -/
def pictureCode (f : Fmt) (range : Bool) (v : Word) : Num Nat := do
  if f = .uint8 then convertTo .uint8 {} 0 ((val32 v).mul (.ofInt 255))
  else if range then do
    let t ← fmul false 0x40000000#32 v
    let r ← fsub false t w1
    convertTo f {} 0 (val32 r)
  else convertTo f {} 0 (val32 v)

/-- The writes of one output picture: index b of the output tensor. -/
def Cmd.pictureWrites (c : Cmd) (ti method : Nat) (range : Bool) (b : Nat) (w h : Nat) (src : Nat → Nat → Nat → Num Word) : Num (List ElemWrite) := do
  let t := c.tensor ti
  let l ← (List.range (t.dim 2)).mapM (fun y => (List.range (t.dim 1)).mapM (fun x => (List.range 3).mapM (fun ch => do
    let v ← resizePlane method (src ch) w h (t.dim 1) (t.dim 2) x y
    let code ← pictureCode t.format range v
    return t.put [ch, x, y, b, 0] code)))
  return l.flatten.flatten.flatten

/-- The writes of a picture of zeros. -/
def Cmd.zeroPicture (c : Cmd) (ti b : Nat) : List ElemWrite :=
  let t := c.tensor ti
  (List.range (t.dim 2)).flatMap (fun y => (List.range (t.dim 1)).flatMap (fun x => (List.range 3).flatMap (fun ch => t.put [ch, x, y, b, 0] 0)))

/-- Formats of R446. -/
def okPictureFmt (f : Fmt) : Bool := [Fmt.fp32, .bf16, .fp16, .e4m3, .uint8].contains f

/-! ### Header checks (R444, R465) -/

/-- Table 16-1: the decoder takes a bitstream of these headers. -/
def codecSupported (codec : Nat) (h : CodecHeader) : Bool :=
  h.profileOk && (match codec with
    | 1 => decide (h.width ≤ 4096) && decide (h.height ≤ 2304) && h.depth == 8 && decide (h.chroma ≤ 1)
    | 2 => decide (h.width ≤ 8192) && decide (h.height ≤ 4320) && (h.depth == 8 || h.depth == 10) && h.chroma == 1
    | 3 => decide (h.width ≤ 16384) && decide (h.height ≤ 8704) && decide (h.width * h.height ≤ 35651584) && (h.depth == 8 || h.depth == 10) && decide (h.chroma ≤ 1)
    | _ => decide (h.width ≤ 16384) && decide (h.height ≤ 16384) && h.depth == 8)

/-- Checks 2 to 4 of Table 16-6: the reason code of the first that fails. -/
def headerReason (codec maxDim ppb : Nat) (b : Bytes) : Option Nat :=
  let h := Config.codecHeader codec b
  if !h.parses then some 0x03
  else if !codecSupported codec h then some 0x04
  else if decide (h.width > maxDim) || decide (h.height > maxDim) then some 0x05
  else if h.width * h.height > ppb * b.length then some 0x06
  else none

/-- R447: the charge of an engine for a picture. -/
def mediaCharge (send : Bool) (w h : Nat) : Nat := 8192 + ceilDiv (3 * w * h) (if send then 5 else 10)

/-- Add to a media unit's 64-bit pixel counter and to its partition's window. -/
def Dev.countPixels (d : Dev) (p unit off n : Nat) : Dev :=
  (d.bumpWide (pgMED unit) off n).modPart p (fun x => { x with window := { x.window with mediaPixels := x.window.mediaPixels + n } })

/-- A work buffer's contents become undefined, channel block by channel block. -/
def Dev.undefineBuffer (d : Dev) (p : Nat) (t : TensorD) : Dev :=
  (List.range (t.dim 0)).foldl (fun d i => match d.cellOf p (t.addr + i) with
    | some k => { d with hbm := d.hbm.undefine k 1 d.fresh }
    | none => d) { d with fresh := d.fresh + 1 }

end Sys2Proof.Machine
end

