-- ==== Sys2Proof/Machine/Media.lean ====
section
/-! DEFINITION. Media streams: opening, closing and rekeying; RTP and RTCP reception; MEDIA_DECODE and MEDIA_ENCODE (R448-R466). -/

namespace Sys2Proof.Machine

/-! ### The PTP clock -/

/-- PTP time of a cycle, in ns: a cycle is 5/6 ns (R4). -/
def Dev.ptpAt (d : Dev) (cycle : Nat) : Int := d.tick.ptpBase + (cycle * 5 / 6 : Nat)

/-- PTP time of tick edge n, from the last edge and the nominal period (R28). -/
def Dev.ptpEdge (d : Dev) (n : Nat) : Int :=
  d.ptpAt d.tick.lastEdge + ((n : Int) - d.tick.count) * d.tickN * 1000000000 / 2400

/-! ### Descriptors (Table 16-2) -/

def Stream.f (s : Stream) (off n : Nat) : Nat := fieldAt s.raw off n
def Stream.isSend (s : Stream) : Bool := bit (s.f 2 1) 0
def Stream.mux (s : Stream) : Bool := bit (s.f 2 1) 1
def Stream.codec (s : Stream) : Nat := bits (s.f 2 1) 4 4
def Stream.unit (s : Stream) : Nat := s.f 3 1
def Stream.session (s : Stream) : Option Nat := if bit (s.f 4 2) 15 then some (bits (s.f 4 2) 0 12) else none
def Stream.port (s : Stream) : Nat := s.f 6 1
def Stream.pt (s : Stream) : Nat := s.f 7 1
def Stream.localUdp (s : Stream) : Nat := s.f 8 2
def Stream.remoteUdp (s : Stream) : Nat := s.f 10 2
def Stream.ssrc (s : Stream) : Nat := s.f 12 4
def Stream.remote (s : Stream) : Nat := beNat ((s.raw.drop 16).take 16)
def Stream.maxW (s : Stream) : Nat := s.f 32 2
def Stream.maxH (s : Stream) : Nat := s.f 34 2
def Stream.maxBytes (s : Stream) : Nat := s.f 36 4
def Stream.perCommand (s : Stream) : Nat := s.f 40 1
def Stream.srtp (s : Stream) : Nat := s.f 41 1
def Stream.mtu (s : Stream) : Nat := s.f 42 2
def Stream.maxAge (s : Stream) : Nat := s.f 44 4
def Stream.buf (s : Stream) : Nat := s.f 48 6
def Stream.units (s : Stream) : Nat := s.f 54 2
def Stream.keyAddr (s : Stream) : Nat := s.f 56 6
def Stream.repeatLimit (s : Stream) : Nat := s.f 62 2
def Stream.clockOffset (s : Stream) : Int := toSigned 64 (s.f 64 8)
def Stream.keyInterval (s : Stream) : Nat := s.f 78 2
def Stream.tsOffset (s : Stream) : Nat := s.f 80 4
def Stream.seqBase (s : Stream) : Nat := s.f 84 2
def Stream.stage (s : Stream) : Nat := s.f 86 1

def Dev.stream? (d : Dev) (id : Nat) : Option Stream := d.streams.find? (fun s => s.id == id)

def Dev.setStream (d : Dev) (s : Stream) : Dev := { d with streams := d.streams.map (fun x => if x.id = s.id then s else x) }

/-- The largest picture of a codec, by side. -/
def codecMax (send : Bool) (codec : Nat) : Nat × Nat :=
  if send then (4096, 2304) else match codec with
  | 1 => (4096, 2304)
  | 2 => (8192, 4320)
  | _ => (16384, 8704)

/-- Fields of a descriptor in range, and reserved fields 0. -/
def Dev.streamFieldsOk (d : Dev) (s : Stream) : Bool :=
  let snd := s.isSend
  let mx := codecMax snd s.codec
  let within (x lo hi : Nat) : Bool := decide (lo ≤ x) && decide (x ≤ hi)
  let v4 := isIpv4 ((s.raw.drop 16).take 16)
  let anySrc := d.portSource s.port true || d.portSource s.port false
  let region := match d.regionOf s.part s.buf with
    | some r => decide (s.buf + 65536 * s.units ≤ r.base + r.size)
    | none => false
  s.f 0 2 / 1024 == 0 && bits (s.f 2 1) 2 2 == 0 && within s.codec 1 3 && (!snd || s.codec != 1) && decide (s.unit ≤ 3) &&
  bits (s.f 4 2) 12 3 == 0 && (match s.session with
    | some id => (match d.session? s.part id with
      | some x => decide (s.stage < (d.planAt s.part x.planAddr).stages.length)
      | none => false)
    | none => true) &&
  decide (s.port < 16) && d.portExists s.port && within s.pt 96 127 && within s.localUdp 1024 65534 &&
  (if s.remote = 0 then !snd && anySrc else d.portSource s.port v4) &&
  within s.maxW 16 mx.1 && within s.maxH 16 mx.2 && within s.maxBytes 1024 67108864 &&
  (if snd then s.perCommand == 1 else within s.perCommand 1 8) && decide (s.srtp ≤ 2) &&
  (if snd then within s.mtu 256 8192 else s.mtu == 0) && (if snd then s.maxAge == 0 else within s.maxAge 1000 1000000) &&
  s.buf % 65536 == 0 && !isHost s.buf && region && decide (65536 * s.units ≥ 27 * s.maxW * s.maxH + 8 * s.maxBytes) &&
  (if s.srtp = 0 then s.keyAddr == 0 else rangeValid s.keyAddr 64) &&
  (snd || within s.repeatLimit 1 65535) &&
  (!snd || (within (s.f 72 4) 64 1000000 && decide (bits (s.f 76 1) 0 2 ≤ 2) && (s.f 77 1 == 8 || s.f 77 1 == 10) && within s.keyInterval 1 65535)) &&
  zeroAt s.raw 87 1 && zeroAt s.raw 113 1 && zeroAt s.raw 120 8

/-! ### Engine calendars (R449) -/

/-- The cost of a stream in a slot of its engine's calendar. -/
def Dev.streamCost (d : Dev) (s : Stream) (slot : Nat) : Nat :=
  match s.session with
  | none => 0
  | some id => match d.session? s.part id with
    | none => 0
    | some x =>
      let o := ((d.planAt s.part x.planAddr).stages.getD s.stage ⟨0, 0, []⟩).offset
      if x.lands o slot then (if s.isSend then 1 else s.perCommand) * mediaCharge s.isSend s.maxW s.maxH else 0

/-- What streams reserve of an engine in a slot. -/
def Dev.engineReserved (d : Dev) (ss : List Stream) (unit : Nat) (send : Bool) (slot : Nat) : Nat :=
  (ss.filter (fun s => s.unit == unit && s.isSend == send)).foldl (fun a s => a + d.streamCost s slot) 0

/-- Cycles an engine offers to reservations in a slot. -/
def Dev.engineLimit (d : Dev) : Nat := admissible d.tickN - 32768

/-- The largest reservation of an engine over the calendar. -/
def Dev.enginePeak (d : Dev) (unit : Nat) (send : Bool) : Nat :=
  if d.streams.isEmpty then 0 else (List.range 4800).foldl (fun a k => max a (d.engineReserved d.streams unit send k)) 0

/-- The first slot whose demand exceeds an engine, and by how much. -/
def Dev.streamOver (d : Dev) (s : Stream) : Option (Nat × Nat) :=
  (List.range 4800).findSome? (fun k =>
    let x := d.engineReserved (d.streams ++ [s]) s.unit s.isSend k
    if s.session.isSome && decide (x > d.engineLimit) then some (k, x - d.engineLimit) else none)

/-- Table 16-3. -/
def Dev.streamCode (d : Dev) (s : Stream) : Nat :=
  if d.streams.any (fun x => x.id == s.id) then 0xB0
  else if d.streams.length ≥ 1024 || (d.streams.filter (fun x => x.unit == s.unit)).length ≥ 256 then 0xB1
  else if !d.streamFieldsOk s then 0xB2
  else if d.streams.any (fun x => x.port == s.port && x.localUdp == s.localUdp && x.isSend == s.isSend && (s.isSend || x.ssrc == s.ssrc)) ||
      s.localUdp == d.active pgFAB 0x048 % 65536 then 0xB3
  else 0

/-- Read a stream's key block. -/
def Dev.readKeys (d : Dev) (env : Env) (s : Stream) : Dev × Option Bytes :=
  if s.srtp = 0 then (d, some [])
  else match d.readStruct env s.part s.keyAddr 64 with
    | .ok b => (d, some b)
    | .error .invalid => (d, none)
    | .error e => (d.logHost s.part s.keyAddr 0 e, none)

/-- One stream open at a tick edge (R448, R558). -/
def Dev.openStream (d : Dev) (env : Env) (p addr : Nat) : Dev :=
  match d.doorbellRead env p addr 64 128 with
  | (d, none) => d
  | (d, some b) =>
    let s : Stream := { id := bits (fieldAt b 0 2) 0 10, part := p, raw := b, rtcpAt := d.now }
    let answer (d : Dev) (code slot excess : Nat) : Dev :=
      (d.writeOut env p (addr + 104) (toLe 8 d.tick.count ++ toLe 1 code ++ [0] ++ toLe 2 slot ++ toLe 4 (min excess (2 ^ 32 - 1)))).1.raise (pgPART p) 12
    let code := d.streamCode s
    if code ≠ 0 then answer d code 0 0
    else match d.streamOver s with
      | some (k, x) => answer d stBUDGET k x
      | none =>
        match d.readKeys env s with
        | (d, none) => answer d 0xB2 0 0
        | (d, some keys) => answer { d with streams := d.streams ++ [{ s with keys := keys }] } 0 0 0

/-- R450: a stream starts closing. -/
def Dev.closeStream (d : Dev) (p id : Nat) : Dev :=
  match d.stream? id with
  | some s => if s.part = p then d.setStream { s with closing := true } else d
  | none => d

/-- The stream a media command names, if it is a live one. -/
def Cmd.streamId (c : Cmd) : Option Nat :=
  if c.opcode = 0x0C then (if c.u8 64 = 0 then some (c.u16 68) else none)
  else if c.opcode = 0x0D then some (c.u16 65) else none

/-- R450: closing streams without an uncommitted command close. -/
def Dev.endStreams (d : Dev) : Dev :=
  { d with streams := d.streams.filter (fun s => !(s.closing && !d.cmds.any (fun c => c.live && c.part == s.part && c.streamId == some s.id))) }

/-- R451: the keys of a stream are read again at the edge. -/
def Dev.rekey (d : Dev) (env : Env) (p id : Nat) : Dev :=
  match d.stream? id with
  | none => d
  | some s =>
    if s.part ≠ p || s.srtp = 0 then d
    else match d.readKeys env s with
      | (d, some k) => d.setStream { s with keys := k, oldKeys := some (s.keys, d.now + 307200000) }
      | (d, none) => d

/-! ### Receiving RTP (R452-R455) -/

/-- RTP header length: fixed part, contributing sources and extension. -/
def rtpHeaderLen (b : Bytes) : Nat :=
  let n := 12 + 4 * bits (fieldAt b 0 1) 0 4
  if bit (fieldAt b 0 1) 4 then n + 4 + 4 * beNat ((b.drop (n + 2)).take 2) else n

/-- The payload of an RTP packet without padding. -/
def rtpPayload (b : Bytes) : Bytes :=
  let p := b.drop (rtpHeaderLen b)
  if bit (fieldAt b 0 1) 5 then p.take (p.length - fieldAt p (p.length - 1) 1) else p

/-- RFC 3711's estimate of an extended sequence number from the highest one so far. -/
def extendSeq (highest : Option Nat) (seq : Nat) : Nat :=
  match highest with
  | none => 65536 + seq
  | some h =>
    let roc := h / 65536
    let s := h % 65536
    if s < 32768 then (if seq > s + 32768 then (roc - 1) * 65536 + seq else roc * 65536 + seq)
    else if seq + 32768 < s then (roc + 1) * 65536 + seq else roc * 65536 + seq

/-- One timestamp comes before another (32-bit, signed difference). -/
def tsBefore (a b : Nat) : Bool := let x := (b + 2 ^ 32 - a % 2 ^ 32) % 2 ^ 32; decide (0 < x) && decide (x < 2 ^ 31)

/-- The receive stream that an RTP packet belongs to. -/
def Dev.rtpStream (d : Dev) (k : UdpPacket) : Option Stream :=
  d.streams.find? (fun s => !s.isSend && !s.closing && s.port == k.port && s.localUdp == k.dstPort &&
    (s.remote == 0 || (s.remote == k.src && s.remoteUdp == k.srcPort)) && s.ssrc == beNat ((k.data.drop 8).take 4) &&
    s.pt == bits (fieldAt k.data 1 1) 0 7)

/-- R453: a packet opened under the stream's keys, or for 256 ms after a rekey under the old ones. -/
def Stream.unseal (s : Stream) (now idx : Nat) (b : Bytes) : Option Bytes :=
  if s.srtp = 0 then some b
  else match Config.srtpOpen s.srtp s.keys idx b with
    | some x => some x
    | none => match s.oldKeys with
      | some (k, t) => if now ≤ t then Config.srtpOpen s.srtp k idx b else none
      | none => none

/-- R453: the replay check over 1,024 packets. -/
def Stream.fresh (s : Stream) (idx : Nat) : Bool :=
  s.srtp == 0 || (!s.seen.contains idx && (match s.highest with
    | some h => decide (idx + 1024 > h)
    | none => true))

/-- The packets of the frame that ends at a marker packet, newest first, if it is complete (R454). -/
def Stream.frameBack (s : Stream) : Nat → RtpPacket → List RtpPacket → Option (List RtpPacket)
  | 0, _, _ => none
  | n + 1, p, acc =>
    let acc := p :: acc
    let ends := s.lastEnd.any (fun e => e.1 + 1 == p.seq) || (s.lastEnd.isNone && s.packets.all (fun q => decide (p.seq ≤ q.seq)))
    if ends then some acc
    else match s.packets.find? (fun q => q.seq + 1 == p.seq) with
      | some q => if q.ts = p.ts then s.frameBack n q acc else if q.marker then some acc else none
      | none => none

/-- R455: the capture time of a frame. -/
def Stream.capture (s : Stream) (ts : Nat) (arrival : Int) : Int :=
  match s.report with
  | some (t, ts0) => t + toSigned 32 ((ts + 2 ^ 32 - ts0) % 2 ^ 32) * 1000000000 / 90000 + s.clockOffset
  | none => arrival + s.clockOffset

/-- A frame put among the ready ones in timestamp order. -/
def readyInsert (x : RxFrame) : List RxFrame → List RxFrame
  | [] => [x]
  | y :: r => if tsBefore x.ts y.ts then x :: y :: r else y :: readyInsert x r

/-- Frames that complete with the packets now held: each becomes ready, and earlier incomplete frames are lost. -/
def Dev.completeFrames : Nat → Dev → Stream → Dev
  | 0, d, s => d.setStream s
  | n + 1, d, s =>
    match s.packets.findSome? (fun p => if p.marker then s.frameBack (s.packets.length + 1) p [] else none) with
    | none => d.setStream s
    | some ps =>
      let last := ps.getLastD ⟨0, 0, false, [], 0⟩
      let data := Config.rtpJoin s.codec (ps.map (·.payload))
      let gone := ((s.packets.filter (fun q => tsBefore q.ts last.ts)).map (·.ts)).eraseDups.length
      let rest := s.packets.filter (fun q => q.ts != last.ts && !tsBefore q.ts last.ts)
      let tooBig := decide (data.length > s.maxBytes)
      let lost := gone + b2n tooBig
      let ready := if tooBig then s.ready else readyInsert ⟨last.ts, data, s.capture last.ts last.arrival⟩ s.ready
      let d := if lost > 0 then (d.bump (pgMED s.unit) 0x824 lost).raise (pgMED s.unit) 0 else d
      Dev.completeFrames n d { s with packets := rest, ready := ready, lastEnd := some (last.seq, last.ts), lost := s.lost + lost }

/-- The command RTP_RECEIVE. -/
def Dev.rtpReceive (d : Dev) (k : UdpPacket) : Dev :=
  match d.rtpStream k with
  | none => d.bump (pgMED (k.port / 4 % 4)) 0x81C 1
  | some s =>
    let d := d.modPart s.part (fun x => { x with window := { x.window with fabRx := x.window.fabRx + k.data.length } })
    let idx := extendSeq s.highest (beNat ((k.data.drop 2).take 2))
    let fail (d : Dev) : Dev := (d.bump (pgMED s.unit) 0x820 1).raise (pgMED s.unit) 1
    if !s.fresh idx then fail d
    else match s.unseal d.now idx k.data with
      | none => fail d
      | some b =>
        let hi := match s.highest with
          | some h => max h idx
          | none => idx
        let s := { s with highest := some hi, seen := (idx :: s.seen).filter (fun i => decide (i + 1024 > hi)) }
        let pay := rtpPayload b
        let ts := beNat ((b.drop 4).take 4)
        let stale := s.lastEnd.any (fun e => !tsBefore e.2 ts)
        if !Config.rtpModeOk s.codec pay || stale || s.packets.any (fun q => q.seq == idx) then d.setStream s
        else
          let p : RtpPacket := ⟨idx, ts, bit (fieldAt b 1 1) 7, pay, d.ptpAt d.now⟩
          Dev.completeFrames (s.packets.length + 2) d { s with packets := s.packets ++ [p] }

/-! ### RTCP (R455, R461, R462, R464) -/

/-- MED.UTC_OFFSET of a unit, in ns. -/
def Dev.utcNs (d : Dev) (unit : Nat) : Int := ((d.active (pgMED unit) 0x040 % 256 : Nat) : Int) * 1000000000

/-- An NTP timestamp as PTP ns: seconds since 1900 moved to 1970, UTC moved to TAI. -/
def Dev.ntpToPtp (d : Dev) (unit sec frac : Nat) : Int :=
  ((sec : Int) - 2208988800) * 1000000000 + ((frac * 1000000000) >>> 32 : Nat) + d.utcNs unit

/-- One packet of a compound RTCP packet, acting on a stream. -/
def Dev.rtcpOne (d : Dev) (s : Stream) (b : Bytes) : Stream :=
  let pt := fieldAt b 1 1
  let be (off n : Nat) : Nat := beNat ((b.drop off).take n)
  if pt = 200 && !s.isSend && be 4 4 == s.ssrc then { s with report := some (d.ntpToPtp s.unit (be 8 4) (be 12 4), be 16 4) }
  else if pt = 206 && bits (fieldAt b 0 1) 0 5 == 1 && s.isSend && be 8 4 == s.ssrc then { s with pli := true }
  else s

/-- The packets of a compound packet, one by one. -/
def Dev.rtcpAll (d : Dev) : Nat → Stream → Bytes → Stream
  | 0, s, _ => s
  | n + 1, s, b =>
    if b.length < 4 then s
    else Dev.rtcpAll d n (d.rtcpOne s b) (b.drop (4 + 4 * beNat ((b.drop 2).take 2)))

/-- The stream that an RTCP packet belongs to: by port, local RTCP port and source. -/
def Dev.rtcpStream (d : Dev) (k : UdpPacket) : Option Stream :=
  d.streams.find? (fun s => !s.closing && s.port == k.port && k.dstPort == (if s.mux then s.localUdp else s.localUdp + 1) &&
    (s.remote == 0 || s.remote == k.src))

/-- The command RTCP_RECEIVE. -/
def Dev.rtcpReceive (d : Dev) (k : UdpPacket) : Dev :=
  match d.rtcpStream k with
  | none => d.bump (pgMED (k.port / 4 % 4)) 0x81C 1
  | some s =>
    let d := d.modPart s.part (fun x => { x with window := { x.window with fabRx := x.window.fabRx + k.data.length } })
    match s.unseal d.now 0 k.data with
    | none => (d.bump (pgMED s.unit) 0x820 1).raise (pgMED s.unit) 1
    | some b => d.setStream (d.rtcpAll (b.length + 1) s b)

/-- How a stream's RTP or RTCP packets go out (R416, R463): RTCP uses the ports above RTP's unless RTCP_MUX is set. -/
def Dev.streamEnvelope (d : Dev) (s : Stream) (rtcp : Bool) : Envelope :=
  let remote := (s.raw.drop 16).take 16
  let up := b2n (rtcp && !s.mux)
  { src := d.portAddr s.port (isIpv4 remote), dst := remote, srcPort := s.localUdp + up, dstPort := s.remoteUdp + up,
    dscp := if rtcp then none else some (bits (d.active (pgETH s.port) 0x060) 8 6) }

/-- Send an RTCP packet for a stream: kind 0 SR, 1 RR, 2 PLI. -/
def Dev.sendRtcp (d : Dev) (s : Stream) (kind : Nat) : Dev :=
  let t := (d.ptpAt d.now - d.utcNs s.unit).toNat
  let b := Config.rtcpBytes kind s.raw t
  let b := if s.srtp = 0 then b else Config.srtpSeal s.srtp s.keys s.sent b
  { d with sent := .packet 2 s.port (d.streamEnvelope s true) b :: d.sent }

/-- R461: the PLI of a stream that needs a key picture. -/
def Dev.sendPli (d : Dev) (s : Stream) : Dev :=
  ((d.sendRtcp s 2).bump (pgMED s.unit) 0x830 1).setStream { s with pliAt := d.now }

/-- The command PLI_TIMER. -/
def Dev.pliTimer (d : Dev) (id : Nat) : Dev :=
  match d.stream? id with
  | some s => if s.needKey && !s.closing then { d with now := max d.now (s.pliAt + 120000000) }.sendPli s else d
  | none => d

/-- The command RTCP_REPORT_TIMER (R464). -/
def Dev.rtcpReport (d : Dev) (id : Nat) : Dev :=
  match d.stream? id with
  | none => d
  | some s =>
    if s.closing && s.isSend then d
    else
      let d := { d with now := max d.now (s.rtcpAt + d.active (pgMED s.unit) 0x044 % 65536 * 1200000) }
      (d.sendRtcp s (if s.isSend then 0 else 1)).setStream { s with rtcpAt := d.now }

/-! ### MEDIA_DECODE (R456-R461, R465, R466) -/

def Cmd.mdLive (c : Cmd) : Bool := c.u8 64 == 0
def Cmd.mdSrc (c : Cmd) : Nat := c.u8 65
def Cmd.mdOut (c : Cmd) : Nat := c.u8 66
def Cmd.mdWork (c : Cmd) : Nat := c.u8 67
def Cmd.mdStream (c : Cmd) : Nat := c.u16 68
def Cmd.mdCodec (c : Cmd) : Nat := c.u8 70
def Cmd.mdMethod (c : Cmd) : Nat := bits (c.u8 71) 0 2
def Cmd.mdRange (c : Cmd) : Bool := bit (c.u8 71) 2
def Cmd.mdUnit (c : Cmd) : Nat := bits (c.u8 71) 4 2

/-- ING.MAX_PIXELS_PER_BYTE of a die. -/
def Dev.ppb (d : Dev) (die : Nat) : Nat := bits (d.active (pgING die) 0x040) 0 21

/-- R458: the frame set of a live decode, fixed at its start. -/
def Dev.mediaStart (d : Dev) (c : Cmd) : Cmd :=
  if c.opcode ≠ 0x0C || !c.mdLive then c
  else match d.stream? c.mdStream with
    | none => c
    | some s =>
      let e := d.ptpAt d.tick.lastEdge
      let cand := s.ready.filter (fun f => decide (f.capture ≤ e))
      let set := lastN s.perCommand cand
      let discarded := cand.take (cand.length - s.perCommand)
      let refGone := discarded.any (fun f => (Config.codecHeader s.codec f.data).reference)
      { c with media := { frames := set, needKey := s.needKey || refGone || decide (s.lost > 0), edge := e, taken := cand.map (·.ts), lost := s.lost } }

/-- Frames decoded one after another from a decoder state: the state, the newest picture with its capture time, whether a key picture was
decoded, and whether a frame was corrupt or broke a header check, with its reason. -/
def Dev.decodeFrames (d : Dev) (s : Stream) (maxDim ppb : Nat) : List RxFrame → Bytes × Option (Config.Picture × Int) × Bool × Option Nat →
    Bytes × Option (Config.Picture × Int) × Bool × Option Nat
  | [], r => r
  | f :: fs, (st, pic, key, bad) =>
    match headerReason s.codec maxDim ppb f.data with
    | some why => (st, pic, key, some why)
    | none =>
      match Config.codecFrame s.codec st f.data with
      | (true, _) => (st, pic, key, some 0x07)
      | (false, none) => (st, pic, key, some 0x03)
      | (false, some (st', p)) =>
        Dev.decodeFrames d s maxDim ppb fs (st', some (p, f.capture), key || (Config.codecHeader s.codec f.data).key, bad)

/-- The writes of a decoded picture at index b of OUT. -/
def Cmd.decodedWrites (c : Cmd) (b : Nat) (p : Config.Picture) : List ElemWrite :=
  ((c.pictureWrites c.mdOut c.mdMethod c.mdRange b p.width p.height (fun ch x y => rgbAt p ch x y)).run {}).1

/-- A live decode and its commit (R458-R460). -/
def Dev.liveDecode (d : Dev) (c : Cmd) (s : Stream) : Dev :=
  let m := c.media
  let unit := s.unit
  let isKey (f : RxFrame) : Bool := (Config.codecHeader s.codec f.data).key
  let frames := if m.needKey then m.frames.dropWhile (fun f => !isKey f) else m.frames
  let noKey := m.needKey && !m.frames.any isKey
  let r := if noKey then (s.decoder, none, false, none) else d.decodeFrames s (c.entry.maxes.getD 4 0) (d.ppb unit) frames (s.decoder, none, false, none)
  let bad := r.2.2.2
  let good := match r.2.1 with
    | some (p, t) => if bad.isNone && !noKey && decide (t > m.edge - (s.maxAge : Int) * 1000) then some p else none
    | none => none
  let need := bad.isSome || (m.needKey && !r.2.2.1)
  let pixels := (match r.2.1 with
    | some (p, _) => p.width * p.height
    | none => 0) * frames.length
  let repeats := if good.isSome then 0 else s.repeats + 1
  let s' := { s with decoder := r.1, ready := s.ready.filter (fun f => !m.taken.contains f.ts), lost := s.lost - m.lost, needKey := need,
                     repeats := repeats, picture := if good.isSome then good else s.picture }
  let ws := match s'.picture with
    | some p => c.decodedWrites 0 p
    | none => c.zeroPicture c.mdOut 0
  let stale := good.isNone && (s'.picture.isNone || decide (s.repeats ≥ s.repeatLimit))
  let d := (d.applyWrites c.part ws).setStream s'
  let d := d.countPixels c.part unit 0x80C pixels
  let d := if bad.isSome then (d.bump (pgMED unit) 0x82C 1).raise (pgMED unit) 2 else d
  let d := if good.isNone then d.bump (pgMED unit) 0x828 1 else d
  let d := if need && !s.needKey then d.sendPli s' else d
  d.complete { c with frameRepeated := good.isNone } (if stale then stSTALE else stOK) 0

/-- A tensor decode and its commit (R457, R465, R466). -/
def Dev.tensorDecode (d : Dev) (c : Cmd) : Dev :=
  let src := c.tensor c.mdSrc
  let unit := c.mdUnit
  let b := d.bytesIn c.part src.space src.addr (src.dim 0)
  let t := (c.tensor c.mdOut).dim 3
  let d := d.undefineBuffer c.part (c.tensor c.mdWork)
  let fail (why : Nat) : Dev :=
    ((d.bump (pgMED unit) 0x82C 1).raise (pgMED unit) 2).complete c (if why = 0x05 then stDIMS else stCORRUPT) why
  match headerReason c.mdCodec (c.entry.maxes.getD 4 0) (d.ppb unit) b with
  | some why => fail why
  | none =>
    match Config.codecPictures c.mdCodec b with
    | none => fail 0x03
    | some ps =>
      if ps.length < t then fail 0x07
      else
        let ws := (List.range t).flatMap (fun i => c.decodedWrites i (ps.getD i default))
        let px := (ps.take t).foldl (fun a p => a + p.width * p.height) 0
        ((d.applyWrites c.part ws).countPixels c.part unit 0x80C px).complete c stOK 0

def Dev.mediaDecode (d : Dev) (c : Cmd) : Dev :=
  if c.mdLive then
    match d.stream? c.mdStream with
    | some s => d.liveDecode c s
    | none => d
  else d.tensorDecode c

/-- The admission checks of a MEDIA_DECODE (R446, R450, R456). -/
def Dev.mdCheck (d : Dev) (c : Cmd) : OpCheck :=
  let o := c.tensor c.mdOut
  let src := c.tensor c.mdSrc
  let wk := c.tensor c.mdWork
  let live := c.mdLive
  let m4 := c.entry.maxes.getD 4 0
  let streamOk := match d.stream? c.mdStream with
    | some s => s.part == c.part && !s.isSend && !s.closing && (!c.sessionValid || s.session == some c.session)
    | none => false
  { formed := firstBad [
      need (decide (c.u8 64 ≤ 1) && (live || !c.sessionValid)) (badAt 64 0xFF),
      need (if live then c.mdSrc == 0xFF else c.idxOk c.mdSrc && src.format == .uint8 && src.rank == 1) (badAt 65 0xFF),
      need (c.idxOk c.mdOut) (badAt 66 0xFF),
      need (if live then c.mdWork == 0xFF else c.idxOk c.mdWork && wk.format == .uint8 && wk.rank == 1 && wk.space == 0 && !isHost wk.addr &&
        decide (wk.dim 0 ≥ 27 * m4 * m4)) (badAt 67 0xFF),
      need (if live then streamOk else c.mdStream == 0) (badAt 68 0xFF),
      need (if live then c.mdCodec == 0 else decide (1 ≤ c.mdCodec) && decide (c.mdCodec ≤ 4)) (badAt 70 0xFF),
      need (decide (c.mdMethod ≤ 2) && bits (c.u8 71) 6 2 == 0 && !bit (c.u8 71) 3 && (!live || c.mdUnit == 0) && !(c.mdRange && o.format == .uint8)) (badAt 71 0xFF),
      need (zeroAt c.raw 72 56) (badAt 72 0xFF), need (c.foldMode == 0) (badAt 7 0xFF),
      need (o.dim 0 == 3) (badShape c.mdOut 0), need (o.dim 4 == 1) (badShape c.mdOut 4), need (!live || o.dim 3 == 1) (badShape c.mdOut 3)],
    format := need (okPictureFmt o.format) (badFormat c c.mdOut),
    shape := overPlan c ((List.range 4).map (fun i => (i, o.dim i, c.mdOut))),
    inputs := if live then [] else [c.mdSrc],
    outputs := c.mdOut :: (if live then [] else [c.mdWork]),
    empty := o.count == 0 }

/-! ### MEDIA_ENCODE (R462, R463) -/

def Cmd.meSrc (c : Cmd) : Nat := c.u8 64
def Cmd.meStream (c : Cmd) : Nat := c.u16 65
def Cmd.meRange (c : Cmd) : Bool := bit (c.u8 67) 2

/-- SRC with RANGE undone and clamped to 0-1: R, G, B of each pixel, row by row. -/
def Dev.meRgb (d : Dev) (c : Cmd) : Num (List Word) := do
  let t := c.tensor c.meSrc
  (List.range (t.dim 0 * t.dim 1 * t.dim 2)).mapM (fun i => do
    let co := [i % 3, i / 3 % max 1 (t.dim 1), i / 3 / max 1 (t.dim 1), 0, 0]
    let v ← d.streamWord c c.meSrc co
    if t.format = .uint8 then do
      let q ← fdiv false v 0x437F0000#32
      return clamp01 q
    else if c.meRange then do
      let a ← fadd false v w1
      let h ← fmul false a 0x3F000000#32
      return clamp01 h
    else return clamp01 v)

/-- An RTP packet. -/
def rtpPacket (marker : Bool) (pt seq ts ssrc : Nat) (payload : Bytes) : Bytes :=
  [0x80#8] ++ toLe 1 (128 * b2n marker + pt) ++ toBe 2 seq ++ toBe 4 ts ++ toBe 4 ssrc ++ payload

/-- T_in: the PTP time of the frame's input edge, or for a command without a session that of the window's edge. -/
def Dev.inputTime (d : Dev) (c : Cmd) : Int :=
  match d.sessionOf c with
  | some s => d.ptpEdge (s.windowOf c.frame 0)
  | none => d.ptpEdge d.tick.count

/-- The encode and its commit: encoder state, sequence numbers and packets (R462, R463). -/
def Dev.mediaEncode (d : Dev) (c : Cmd) : Dev :=
  match d.stream? c.meStream with
  | none => d
  | some s =>
    let t := c.tensor c.meSrc
    let key := s.pli || s.frames % max 1 s.keyInterval == 0
    let rgb := ((d.meRgb c).run {}).1
    let e := Config.encodeFrame s.codec s.raw s.encoder key (t.dim 1, t.dim 2) rgb
    let pays := Config.rtpPayloads s.codec s.mtu e.data
    let ts := ((d.inputTime c * 90000 / 1000000000 + s.tsOffset) % (2 ^ 32 : Nat)).toNat
    let pk := (List.range pays.length).map (fun i =>
      let b := rtpPacket (i + 1 == pays.length) s.pt ((s.seqBase + s.sent + i) % 65536) ts s.ssrc (pays.getD i [])
      if s.srtp = 0 then b else Config.srtpSeal s.srtp s.keys (s.seqBase + s.sent + i) b)
    let bytes := pk.foldl (fun a b => a + b.length) 0
    let d := d.setStream { s with encoder := e.state, sent := s.sent + pays.length, frames := s.frames + 1, pli := false }
    let d := if s.closing then d
      else { d with sent := (pk.map (fun b => Sent.packet 1 s.port (d.streamEnvelope s false) b)).reverse ++ d.sent }.bump (pgMED s.unit) 0x834 pays.length
    let d := d.modPart c.part (fun x => { x with window := { x.window with fabTx := x.window.fabTx + bytes } })
    (d.countPixels c.part s.unit 0x814 (t.dim 1 * t.dim 2)).complete c stOK 0

/-- The admission checks of a MEDIA_ENCODE. -/
def Dev.meCheck (d : Dev) (c : Cmd) : OpCheck :=
  let t := c.tensor c.meSrc
  let st := d.stream? c.meStream
  let streamOk := match st with
    | some s => s.part == c.part && s.isSend && !s.closing && (!c.sessionValid || s.session == some c.session)
    | none => false
  let mw := (st.map (·.maxW)).getD 0
  let mh := (st.map (·.maxH)).getD 0
  { formed := firstBad [
      need (c.idxOk c.meSrc) (badAt 64 0xFF), need streamOk (badAt 65 0xFF),
      need (c.u8 67 == 0 || c.u8 67 == 4) (badAt 67 0xFF), need (!(c.meRange && t.format == .uint8)) (badAt 67 0xFF),
      need (zeroAt c.raw 68 60) (badAt 68 0xFF), need (c.foldMode == 0) (badAt 7 0xFF),
      need (t.dim 0 == 3) (badShape c.meSrc 0), need (t.dim 1 % 2 == 0 && decide (t.dim 1 ≤ mw)) (badShape c.meSrc 1),
      need (t.dim 2 % 2 == 0 && decide (t.dim 2 ≤ mh)) (badShape c.meSrc 2), need (t.dim 3 == 1 && t.dim 4 == 1) (badShape c.meSrc 3)],
    format := need ([Fmt.fp32, .bf16, .fp16, .uint8].contains t.format) (badFormat c c.meSrc),
    shape := overPlan c ((List.range 4).map (fun i => (i, t.dim i, c.meSrc))),
    inputs := [c.meSrc],
    empty := t.count == 0 }

end Sys2Proof.Machine
end

