-- ==== Sys2Proof/Machine/Ingest.lean ====
section
/-! DEFINITION. INGEST: sample packs, manifests, the checks of a sample, augmentation, batch slots, and the split published at an edge (R467-R474). -/

namespace Sys2Proof.Machine

/-! ### Parameters (Table 16-8) -/

def Cmd.igMan (c : Cmd) : Nat := c.u8 64
def Cmd.igPack (c : Cmd) : Nat := c.u8 65
def Cmd.igOut (c : Cmd) : Nat := c.u8 66
def Cmd.igValid (c : Cmd) : Nat := c.u8 67
def Cmd.igBman (c : Cmd) : Nat := c.u8 68
def Cmd.igRej (c : Cmd) : Nat := c.u8 69
def Cmd.igHole (c : Cmd) : Bool := bit (c.u8 70) 0
def Cmd.igAugEn (c : Cmd) : Bool := bit (c.u8 70) 1
def Cmd.igMethod (c : Cmd) : Nat := bits (c.u8 70) 2 2
def Cmd.igRange (c : Cmd) : Bool := bit (c.u8 70) 4
def Cmd.igAdv (c : Cmd) : Bool := bit (c.u8 70) 5
def Cmd.igAug (c : Cmd) : Nat := c.u8 71
def Cmd.igWork (c : Cmd) : Nat := c.u8 72
def Cmd.igFirst (c : Cmd) : Nat := c.u32 76
/-- B. -/
def Cmd.igB (c : Cmd) : Nat := (c.tensor c.igOut).dim 3
/-- Entries of the manifest. -/
def Cmd.igEntries (c : Cmd) : Nat := (c.tensor c.igMan).dim 0 / 16
/-- R473: the augmentation epoch recorded at admission. -/
def Cmd.igEpoch (c : Cmd) : Nat := c.bases.headD 0 % 2 ^ 24

/-! ### Samples (R465, R467, R468) -/

/-- A sample that passes: its record's format, payload, width and height as coded, and its picture (the planes of a compressed one). -/
abbrev InSample := Bool × Bytes × Nat × Nat × Config.Picture

/-- Bytes of a rank-1 UINT8 tensor. -/
def Dev.tensorBytes (d : Dev) (c : Cmd) (ti off n : Nat) : Bytes :=
  let t := c.tensor ti
  d.bytesIn c.part t.space (t.addr + off) n

/-- The codec of a record's FORMAT. -/
def recordCodec (f : Nat) : Nat :=
  match f with
  | 0 => 4
  | 1 => 1
  | 2 => 2
  | _ => 3

/-- The checks of one manifest entry on the media unit of a die, in the order of Table 16-6: a reason code, or the sample. -/
def Dev.sampleCheck (d : Dev) (c : Cmd) (die : Nat) (m : Bytes) : Except Nat InSample :=
  let form := fieldAt m 4 1
  let off := fieldAt m 8 6
  let packLen := (c.tensor c.igPack).dim 0
  if form = 0 && c.sessionValid then .error 0x08
  else if decide (form > 1) || !zeroAt m 5 3 || !zeroAt m 14 2 || off % 64 != 0 || decide (off + 32 > packLen) then .error 0x02
  else
    let h := d.tensorBytes c c.igPack off 32
    let n := fieldAt h 4 4
    let f := fieldAt h 8 1
    let w := fieldAt h 12 2
    let ht := fieldAt h 14 2
    if n = 0 || decide (n > 2 ^ 30) || decide (off + 32 + n > packLen) then .error 0x02
    else
      let pay := d.tensorBytes c c.igPack (off + 32) n
      if crc32c pay ≠ fieldAt h 16 4 then .error 0x01
      else if fieldAt h 0 4 ≠ fieldAt m 0 4 || !zeroAt h 9 3 || !zeroAt h 20 12 || !(f == 0x10 || decide (f ≤ 3)) || (f == 0x10) != (form == 1) ||
          (if f = 0x10 then w == 0 || ht == 0 || n != 3 * w * ht else w != 0 || ht != 0) then .error 0x02
      else if f = 0x10 then .ok (false, pay, w, ht, default)
      else
        let codec := recordCodec f
        match headerReason codec (c.entry.maxes.getD 4 0) (d.ppb die) pay with
        | some why => .error why
        | none =>
          let hd := Config.codecHeader codec pay
          match Config.codecPictures codec pay with
          | none => .error 0x03
          | some [] => .error 0x07
          | some (p :: _) => .ok (true, pay, hd.width, hd.height, p)

/-- The width and height of a sample's picture. -/
def InSample.size (s : InSample) : Nat × Nat := if s.1 then (s.2.2.2.2.width, s.2.2.2.2.height) else (s.2.2.1, s.2.2.2.1)

/-- A channel of a sample's pixel in 0-1: a decoded payload's byte over 255. -/
def InSample.rgb (s : InSample) (ch x y : Nat) : Num Word :=
  if s.1 then rgbAt s.2.2.2.2 ch x y
  else do
    let v ← wordOfInt (fieldAt s.2.1 ((y * s.2.2.1 + x) * 3 + ch) 1 : Nat)
    fdiv false v 0x437F0000#32

/-! ### Augmentation (R472) -/

/-- Crop (x0, y0, cw, ch), flip, and the brightness, contrast and saturation factors. -/
abbrev Augment := (Nat × Nat × Nat × Nat) × Bool × Option (Word × Word × Word)

/-- The nearest integer of a word, ties to even, not below 0. -/
def wordToNat (w : Word) : Nat := ((toIntRange 0 2147483647 0 0 (val32 w)).run {}).1.toNat

/-- The floor of a word, not below 0. -/
def wordFloor (w : Word) : Nat := (val32 w).floor.toInt.toNat

/-- Parameter i of the AUG tensor. -/
def Dev.augParam (d : Dev) (c : Cmd) (i : Nat) : Word :=
  BitVec.ofNat 32 (d.elemCode c.part (c.tensor c.igAug) [i, 0, 0, 0, 0])

/-- Draw j of a sample. -/
def Cmd.augDraw (c : Cmd) (index j : Nat) : Nat :=
  fullDraw c.seed c.streamBase ((c.igEpoch * 2 ^ 32 + index) * 256 + j) 32

/-- The pseudocode of R472 up to the per-pixel steps. -/
def Dev.augment (d : Dev) (c : Cmd) (index w h : Nat) : Num Augment := do
  if !c.igAugEn then return ((0, 0, w, h), false, none)
  else
    let p := d.augParam c
    let u (j : Nat) : Word := uniform32 (c.augDraw index j)
    let ww ← wordOfInt (w : Nat)
    let wh ← wordOfInt (h : Nat)
    let lerp (a b x : Word) : Num Word := do
      let e ← fsub false b a
      let m ← fmul false e x
      fadd false a m
    let area ← lerp (p 1) (p 2) (u 1)
    let rat ← lerp (p 3) (p 4) (u 2)
    let aw ← fmul false area ww
    let awh ← fmul false aw wh
    let qw ← fmul false awh rat
    let qh ← fdiv false awh rat
    let sw ← fsqrt false qw
    let sh ← fsqrt false qh
    let cw := min w (max 1 (wordToNat sw))
    let ch := min h (max 1 (wordToNat sh))
    let nx ← wordOfInt (w - cw + 1 : Nat)
    let ny ← wordOfInt (h - ch + 1 : Nat)
    let fx ← fmul false (u 3) nx
    let fy ← fmul false (u 4) ny
    let factor (i : Nat) : Num Word := do
      let a ← fsub false w1 (p i)
      let t ← fmul false 0x40000000#32 (p i)
      let m ← fmul false t (u i)
      fadd false a m
    let b ← factor 5
    let k ← factor 6
    let s ← factor 7
    return ((wordFloor fx, wordFloor fy, cw, ch), bernoulli (c.augDraw index 0) (val32 (p 0)), some (b, k, s))

/-- The three channels of an output pixel after the per-pixel steps. -/
def jitter (f : Option (Word × Word × Word)) (px : List Word) : Num (List Word) :=
  match f with
  | none => return px
  | some (b, k, s) => do
    let half : Word := 0x3F000000#32
    let xs ← px.mapM (fun x => do
      let y ← fmul false x b
      let z ← fsub false y half
      let q ← fmul false z k
      fadd false q half)
    let rr ← fmul false 0x3E991687#32 (xs.getD 0 w0)
    let gg ← fmul false 0x3F1645A2#32 (xs.getD 1 w0)
    let bb ← fmul false 0x3DE978D5#32 (xs.getD 2 w0)
    let rg ← fadd false rr gg
    let g ← fadd false rg bb
    xs.mapM (fun x => do
      let e ← fsub false x g
      let m ← fmul false e s
      let v ← fadd false g m
      return clamp01 v)

/-- The writes of a sample's picture at slot b of OUT. -/
def Dev.sampleWrites (d : Dev) (c : Cmd) (slot index : Nat) (s : InSample) : List ElemWrite :=
  let t := c.tensor c.igOut
  let sz := s.size
  ((do
    let a ← d.augment c index sz.1 sz.2
    let src (ch i j : Nat) : Num Word := s.rgb ch (a.1.1 + (if a.2.1 then a.1.2.2.1 - 1 - i else i)) (a.1.2.1 + j)
    let l ← (List.range (t.dim 2)).mapM (fun y => (List.range (t.dim 1)).mapM (fun x => do
      let px ← (List.range 3).mapM (fun ch => resizePlane c.igMethod (src ch) a.1.2.2.1 a.1.2.2.2 (t.dim 1) (t.dim 2) x y)
      let px ← jitter a.2.2 px
      let codes ← px.mapM (pictureCode t.format c.igRange)
      return (List.range 3).flatMap (fun ch => t.put [ch, x, y, slot, 0] (codes.getD ch 0))))
    return l.flatten.flatten : Num (List ElemWrite)).run {}).1

/-! ### The batch (R470, R471) -/

/-- R471: the die whose media unit handles the i-th entry consumed: in proportion to the partition's cores (log entry 61). -/
def Dev.entryDie (d : Dev) (p i : Nat) : Nat :=
  let cs := d.coresOf p
  cs.getD (i % max 1 cs.length) 0 / 16

/-- What a run has gathered: entries consumed, for each filled slot its sample index and manifest position with its sample, rejections with
their dies, and accepted samples by die. -/
structure InBatch where
  consumed : Nat := 0
  slots : List (Option (Nat × Nat × InSample)) := []
  rejected : List (Nat × Nat × Nat) := []
  taken : List (Nat × InSample) := []

/-- The batch from manifest position `pos` on; `n` bounds the entries left. -/
def Dev.gather (d : Dev) (c : Cmd) : Nat → Nat → InBatch → InBatch
  | 0, _, g => g
  | n + 1, pos, g =>
    if g.slots.length ≥ c.igB then g
    else
      let m := d.tensorBytes c c.igMan (16 * pos) 16
      let index := fieldAt m 0 4
      let die := d.entryDie c.part (pos - c.igFirst)
      let g := { g with consumed := g.consumed + 1 }
      match d.sampleCheck c die m with
      | .ok s => Dev.gather d c n (pos + 1) { g with slots := g.slots ++ [some (index, pos, s)], taken := g.taken ++ [(die, s)] }
      | .error why =>
        let g := { g with rejected := g.rejected ++ [(index, why, die)] }
        Dev.gather d c n (pos + 1) (if c.igHole then { g with slots := g.slots ++ [none] } else g)

/-- The writes of slot i. -/
def Dev.slotWrites (d : Dev) (c : Cmd) (g : InBatch) (i : Nat) : List ElemWrite :=
  let bm := c.tensor c.igBman
  let valid (v : Nat) : List ElemWrite := if c.igValid = 0xFF then [] else (c.tensor c.igValid).put [i, 0, 0, 0, 0] v
  match g.slots.getD i none with
  | some (index, pos, s) =>
    d.sampleWrites c i index s ++ bm.put [0, i, 0, 0, 0] index ++ bm.put [1, i, 0, 0, 0] pos ++ valid 1
  | none =>
    c.zeroPicture c.igOut i ++ bm.put [0, i, 0, 0, 0] 0xFFFFFFFF ++ bm.put [1, i, 0, 0, 0] 0xFFFFFFFF ++ valid 0

/-- The writes of the reject list. -/
def Cmd.rejectWrites (c : Cmd) (g : InBatch) : List ElemWrite :=
  if c.igRej = 0xFF then []
  else
    let t := c.tensor c.igRej
    (List.range (t.dim 1)).flatMap (fun i => match g.rejected[i]? with
      | some (index, why, _) => t.put [0, i, 0, 0, 0] index ++ t.put [1, i, 0, 0, 0] why
      | none => t.put [0, i, 0, 0, 0] 0xFFFFFFFF ++ t.put [1, i, 0, 0, 0] 0xFFFFFFFF)

/-- Count a rejected sample. -/
def Dev.countReject (d : Dev) (r : Nat × Nat × Nat) : Dev :=
  let pg := pgING r.2.2
  let d := ((d.bump pg 0x80C 1).setReg pg 0x810 (BitVec.ofNat 32 r.2.1)).setReg pg 0x814 (BitVec.ofNat 32 r.1)
  let d := d.raise pg 0
  if r.2.1 = 0x08 then d else (d.bump (pgMED r.2.2) 0x82C 1).raise (pgMED r.2.2) 2

/-- Count an accepted sample, and hand its decode cycles to its unit (R474). -/
def Dev.countTaken (d : Dev) (p : Nat) (t : Nat × InSample) : Dev :=
  let s := t.2
  if s.1 then
    let charge := mediaCharge false s.2.2.1 s.2.2.2.1
    let d := (d.bump (pgING t.1) 0x804 1).countPixels p t.1 0x80C (s.2.2.1 * s.2.2.2.1)
    { d with ingest := d.ingest.modify t.1 (fun i => { i with handed := i.handed + charge }) }
  else d.bump (pgING t.1) 0x808 1

/-- INGEST and its commit (R469-R473). -/
def Dev.ingestRun (d : Dev) (c : Cmd) : Dev :=
  let g := d.gather c (c.igEntries - c.igFirst) c.igFirst {}
  let ws := (List.range c.igB).flatMap (d.slotWrites c g) ++ c.rejectWrites g
  let d := d.undefineBuffer c.part (c.tensor c.igWork)
  let d := d.applyWrites c.part ws
  let d := g.rejected.foldl (fun d r => d.countReject r) d
  let d := g.taken.foldl (fun d t => d.countTaken c.part t) d
  let d := if c.igAdv then d.modPart c.part (fun x => { x with augEpoch := (x.augEpoch + 1) % 2 ^ 64 }) else d
  d.complete c stOK g.consumed

/-- Table 16-9: the parameters' ranges. -/
def Dev.augOk (d : Dev) (c : Cmd) : Bool :=
  let p (i : Nat) : Val := val32 (d.augParam c i)
  let le (a b : Val) : Bool := a.isFinite && b.isFinite && !b.lt a
  let pos (a : Val) : Bool := Val.zero.lt a
  le .zero (p 0) && le (p 0) .one && pos (p 1) && le (p 1) (p 2) && le (p 2) .one && pos (p 3) && le (p 3) (p 4) &&
  ([5, 6, 7].all (fun i => le .zero (p i) && le (p i) .one))

/-- The admission checks of an INGEST. -/
def Dev.igCheck (d : Dev) (c : Cmd) : OpCheck :=
  let o := c.tensor c.igOut
  let m4 := c.entry.maxes.getD 4 0
  let units := ((d.coresOf c.part).map (· / 16)).eraseDups.length
  let bytes (ti : Nat) : Bool := c.idxOk ti && (c.tensor ti).format == .uint8 && (c.tensor ti).rank == 1
  let wk := c.tensor c.igWork
  let pk := c.tensor c.igPack
  { formed := firstBad [
      need (bytes c.igMan) (badAt 64 0xFF),
      need (bytes c.igPack && pk.space == 0 && !isHost pk.addr) (badAt 65 0xFF),
      need (c.idxOk c.igOut) (badAt 66 0xFF),
      need (c.igValid == 0xFF || (c.idxOk c.igValid && (c.tensor c.igValid).format == .uint8)) (badAt 67 0xFF),
      need (c.idxOk c.igBman && (c.tensor c.igBman).format == .int32) (badAt 68 0xFF),
      need (c.igRej == 0xFF || (c.idxOk c.igRej && (c.tensor c.igRej).format == .int32)) (badAt 69 0xFF),
      need (decide (c.igMethod ≤ 2) && bits (c.u8 70) 6 2 == 0 && !(c.igRange && o.format == .uint8)) (badAt 70 0xFF),
      need (if c.igAug = 0xFF then !c.igAugEn else c.idxOk c.igAug && (c.tensor c.igAug).format == .fp32) (badAt 71 0xFF),
      need (bytes c.igWork && wk.space == 0 && !isHost wk.addr && decide (wk.dim 0 ≥ 27 * m4 * m4 * units)) (badAt 72 0xFF),
      need (zeroAt c.raw 73 3) (badAt 73 0xFF), need (zeroAt c.raw 80 48) (badAt 80 0xFF), need (c.foldMode == 0) (badAt 7 0xFF),
      need (o.dim 0 == 3) (badShape c.igOut 0), need (o.dim 4 == 1) (badShape c.igOut 4),
      if c.igValid = 0xFF then none else shapeIs c c.igValid [c.igB, 1, 1, 1, 1],
      shapeIs c c.igBman [2, c.igB, 1, 1, 1],
      if c.igRej = 0xFF then none else shapeIs c c.igRej [2, (c.tensor c.igRej).dim 1, 1, 1, 1],
      if c.igAug = 0xFF then none else shapeIs c c.igAug [8, 1, 1, 1, 1],
      need (!c.igAugEn || d.augOk c) (badAt 71 0xFF)],
    format := need (okPictureFmt o.format) (badFormat c c.igOut),
    shape := overPlan c ((List.range 4).map (fun i => (i, o.dim i, c.igOut))),
    inputs := [c.igMan, c.igPack] ++ (if c.igAug = 0xFF then [] else [c.igAug]),
    outputs := [c.igOut, c.igBman, c.igWork] ++ (if c.igValid = 0xFF then [] else [c.igValid]) ++ (if c.igRej = 0xFF then [] else [c.igRej]),
    empty := o.count == 0 }

/-! ### The split (R474) -/

/-- SPLIT of D decode cycles against F that the engine has. -/
def splitOf (dem free : Nat) : Nat :=
  if dem ≤ free then 0 else min 65535 (roundRatio ((dem - free) * 65536) dem)
where
  /-- The quotient to the nearest integer, ties to even. -/
  roundRatio (n m : Nat) : Nat :=
    let q := n / m
    let r := n % m
    if 2 * r > m || (2 * r = m && q % 2 = 1) then q + 1 else q

/-- Each ingest unit publishes SPLIT and BACKLOG at an edge, for the coming slot. -/
def Dev.publishSplit (d : Dev) (slot : Nat) : Dev :=
  (List.range 4).foldl (fun d die =>
    let u := d.ingest.getD die {}
    let dem := u.handed + u.backlog
    let free := d.engineLimit - d.engineReserved d.streams die false slot
    let d := (d.setReg (pgING die) 0x800 (BitVec.ofNat 32 (splitOf dem free))).setReg (pgING die) 0x818 (BitVec.ofNat 32 (dem - free))
    { d with ingest := d.ingest.set die { handed := 0, backlog := dem - free } }) d

/-- PART.ING_SPLIT: the mean of the dies' SPLIT weighted by the partition's cores on each. -/
def Dev.partSplit (d : Dev) (p : Nat) : Nat :=
  let cs := d.coresOf p
  if cs.isEmpty then 0 else cs.foldl (fun a n => a + d.regN (pgING (n / 16)) 0x800) 0 / cs.length

end Sys2Proof.Machine
end

