-- ==== Sys2Proof/Machine/Random.lean ====
section
/-! DEFINITION. FILL_RANDOM and SAMPLE: parameters, checks and tile results (R377-R384). -/

namespace Sys2Proof.Machine

/-! ### FILL_RANDOM (Tables 13-4 and 13-5) -/

def Cmd.frDst (c : Cmd) : Nat := c.u8 64
def Cmd.frDist (c : Cmd) : Nat := c.u8 65
def Cmd.frAuto (c : Cmd) : Bool := bit (c.u8 66) 0
def Cmd.frCounter (c : Cmd) : Nat := bits (c.u8 66) 4 4
def Cmd.frP0 (c : Cmd) : Word := c.w32 68
def Cmd.frP1 (c : Cmd) : Word := c.w32 72
def Cmd.frPos (c : Cmd) : Nat := c.u64 80

/-- The base of a command's element indices: the recorded counter value, or POS_BASE (R379). -/
def Cmd.frBase (c : Cmd) : Nat := if c.frAuto then c.bases.headD 0 else c.frPos

/-- The draw width (Table 13-5). -/
def Cmd.frWidth (c : Cmd) : Nat :=
  match c.frDist with
  | 0 => (c.tensor c.frDst).format.width
  | 2 => 64
  | _ => 32

/-- The largest FP32 value below a finite word. -/
def pred32 (w : Word) : Word :=
  if w.toNat % 2 ^ 31 = 0 then 0x80000001#32
  else if w.toNat < 2 ^ 31 then w - 1 else w + 1

/-- R378. -/
def uniformIn (ftz : Bool) (p0 p1 : Word) (a : Nat) : Num Word := do
  let sp ← fsub ftz p1 p0
  let y ← rnd32 ftz ((val32 p0).add ((val32 sp).mul (val32 (uniform32 a))))
  return if (val32 y).lt (val32 p1) then y else pred32 p1

/-- The element at coordinates: its exact value, or its code for BITS. -/
def Cmd.frValue (c : Cmd) (l : Nat) : Num (Val × Option Nat) := do
  let t := c.tensor c.frDst
  let a := fullDraw c.seed (c.streamBase + c.frDst) (c.frBase + l) c.frWidth
  match c.frDist with
  | 0 => return (.zero, some (bits a 0 t.format.width))
  | 1 => do
    let w ← uniformIn c.ftz c.frP0 c.frP1 a
    return (val32 w, none)
  | 2 => do
    let w ← normal64 c.ftz a c.frP0 c.frP1
    return (val32 w, none)
  | _ => return (if bernoulli a (val32 c.frP0) then .one else .zero, none)

/-- The result of one tile of 65,536 consecutive element indices (R380). -/
def Cmd.frTile (c : Cmd) (id : TileId) : Num TileResult := do
  let t := c.tensor c.frDst
  let lo := id.rank * convertTileElems
  let ws ← (List.range (min convertTileElems (t.count - lo))).mapM (fun i => do
    let co := coordsOf t.shape (lo + i)
    let v ← c.frValue (lo + i)
    match v.2 with
    | some code => return t.put co code
    | none => do
      let code ← convertTo t.format c.num 0 v.1
      return t.put co code)
  return { writes := ws.flatten }

def Cmd.frSpace (c : Cmd) : TileSpace :=
  let t := c.tensor c.frDst
  let per := match c.frDist with
    | 0 => 3
    | 1 => 6
    | 2 => 28
    | _ => 4
  { rows := ceilDiv t.count convertTileElems, mt := 1, nt := 1, bypass := true,
    cost := 256 + ceilDiv (min t.count convertTileElems) 512 * per }

/-- Table 13-5: the formats of a distribution. -/
def frFormatOk (dist : Nat) (f : Fmt) : Bool :=
  match dist with
  | 0 => f == .int8 || f == .uint8 || f == .int32
  | 3 => f.isStream5 || f == .int32 || f == .int8 || f == .uint8
  | _ => f.isStream5

/-- The admission checks of a FILL_RANDOM, given the value of its counter. -/
def Cmd.frCheck (c : Cmd) (counter : Nat) : OpCheck :=
  let t := c.tensor c.frDst
  let p0 := val32 c.frP0
  let p1 := val32 c.frP1
  { formed := firstBad [
      need (c.num.round != 2) (badAt 6 0xFF), need (c.foldMode == 0) (badAt 7 0xFF),
      need (c.idxOk c.frDst) (badAt 64 0xFF), need (decide (c.frDist ≤ 3)) (badAt 65 0xFF),
      need (bits (c.u8 66) 1 3 == 0) (badAt 66 0xFF),
      need (!c.frAuto || decide (counter + t.count < 2 ^ 64)) (badAt 66 0xFF),
      need (c.u8 67 == 0) (badAt 67 0xFF),
      need (p0.isFinite && (c.frDist != 1 || p0.lt p1) && (c.frDist != 3 || (!p0.lt .zero && !Val.one.lt p0))) (badAt 68 0xFF),
      need (p1.isFinite && (c.frDist != 2 || !p1.lt .zero) && ((c.frDist != 0 && c.frDist != 3) || c.u32 72 == 0)) (badAt 72 0xFF),
      need (workOk (c.u16 76) (c.u16 78) && decide (c.u16 78 ≥ 8)) (badAt 78 0xFF),
      need (!c.frAuto || c.frPos == 0) (badAt 80 0xFF), need (zeroAt c.raw 88 40) (badAt 88 0xFF)],
    format := need (frFormatOk c.frDist t.format) (badFormat c c.frDst),
    shape := overPlan c ((List.range 5).map (fun i => (i, t.dim i, c.frDst))),
    outputs := [c.frDst],
    work := some (c.u16 76, c.u16 78),
    empty := t.count == 0 }

/-! ### SAMPLE (R381-R384) -/

def Cmd.saScores (c : Cmd) : Nat := c.u8 64
def Cmd.saOut (c : Cmd) : Nat := c.u8 65
def Cmd.saTopk (c : Cmd) : Nat := c.u16 66
def Cmd.saInv (c : Cmd) : Word := c.w32 68

/-- R382: the eligible categories of a row of scores. A NaN ranks after every number. -/
def saEligible (topk : Nat) (xs : List Word) : List Nat :=
  let idx := (List.range xs.length).map (fun j => (j, xs.getD j wNan))
  let ok (j : Nat) : Bool := !(val32 (xs.getD j wNan)).isNan
  if topk = 0 || topk ≥ xs.length then (List.range xs.length).filter ok
  else
    let first := rankFirst topk idx
    (List.range xs.length).filter (fun j => ok j && first.contains j)
where
  /-- The first `n` of a row ranked by descending score, ties to the lower index. -/
  rankFirst (n : Nat) (l : List (Nat × Word)) : List Nat :=
    let before (a b : Nat × Word) : Bool :=
      let x := val32 a.2
      let y := val32 b.2
      if x.isNan then y.isNan && decide (a.1 ≤ b.1) else if y.isNan then true
      else if y.lt x then true else if x.lt y then false else decide (a.1 ≤ b.1)
    ((l.mergeSort before).take n).map (·.1)

/-- R383: the key of an eligible category. -/
def Cmd.saKey (c : Cmd) (l : Nat) (score : Word) : Num Word := do
  let a := fullDraw c.seed (c.streamBase + c.saScores) l 32
  let u := frac24 (2 * (a / 512) + 1)
  let t ← log2W c.ftz u
  let t ← fmul c.ftz t 0xBF317218#32
  let g ← log2W c.ftz t
  let g ← fmul c.ftz g 0xBF317218#32
  let s ← fmul c.ftz score c.saInv
  fadd c.ftz s g

/-- The category a row draws; none where nothing can be counted. -/
def Cmd.saPick (keys : List (Nat × Word)) : Option Nat :=
  (keys.foldl (fun best q =>
    if (val32 q.2).isNan then best
    else match best with
      | none => some q
      | some b => if (val32 b.2).lt (val32 q.2) then some q else some b) none).map (·.1)

/-- Rows of a SAMPLE. -/
def Cmd.saRows (c : Cmd) : Nat := ((c.tensor c.saScores).shape.drop 1).foldl (· * ·) 1

/-- The result of one tile of up to 64 rows, and how many of them wrote -1. -/
def Dev.saTile (d : Dev) (c : Cmd) (id : TileId) : Num TileResult := do
  let s := c.tensor c.saScores
  let lo := id.rank * 64
  let rows ← (List.range (min 64 (c.saRows - lo))).mapM (fun i => do
    let outer := coordsOf (s.shape.drop 1) (lo + i)
    let xs ← (List.range (s.dim 0)).mapM (fun j => d.streamWord c c.saScores (j :: outer))
    let keys ← (saEligible c.saTopk xs).mapM (fun j => do
      let k ← c.saKey (s.logical (j :: outer)) (xs.getD j wNan)
      return (j, k))
    let v := match Cmd.saPick keys with
      | some j => j
      | none => 2 ^ 32 - 1
    return ((c.tensor c.saOut).put (0 :: outer) v, if v = 2 ^ 32 - 1 then 1 else 0))
  return { writes := rows.flatMap (·.1), detail := (rows.map (·.2)).foldl (· + ·) 0 }

def Cmd.saSpace (c : Cmd) : TileSpace :=
  let v := (c.tensor c.saScores).dim 0
  let strips := ceilDiv v 512
  { rows := ceilDiv c.saRows 64, mt := 1, nt := 1, bypass := true,
    cost := min 64 c.saRows * (256 + strips * 18 + (if c.saTopk ≠ 0 && c.saTopk < v then strips * 8 + 2048 else 0)) }

def Cmd.saCheck (c : Cmd) : OpCheck :=
  let s := c.tensor c.saScores
  let o := c.tensor c.saOut
  { formed := firstBad [
      need (c.foldMode == 0) (badAt 7 0xFF),
      need (c.idxOk c.saScores) (badAt 64 0xFF), need (c.idxOk c.saOut) (badAt 65 0xFF), need (decide (c.saTopk ≤ 256)) (badAt 66 0xFF),
      need (val32 c.saInv).isFinite (badAt 68 0xFF), need (workOk (c.u16 72) (c.u16 74) && decide (c.u16 74 ≥ 1)) (badAt 74 0xFF),
      need (zeroAt c.raw 76 52) (badAt 76 0xFF), shapeIs c c.saOut (1 :: s.shape.drop 1)],
    format := firstBad [need (s.format == .fp32 || s.format == .bf16 || s.format == .fp16) (badFormat c c.saScores),
      need (o.format == .int32) (badFormat c c.saOut)],
    shape := overPlan c ((List.range 5).map (fun i => (i, s.dim i, c.saScores))),
    inputs := [c.saScores],
    outputs := [c.saOut],
    work := some (c.u16 72, c.u16 74),
    empty := o.count == 0 }

end Sys2Proof.Machine
end

