-- ==== Sys2Proof/Machine/Vprog.lean ====
section
/-! DEFINITION. VPROG: program images, instructions, passes, row groups and checks (R280-R288). -/

namespace Sys2Proof.Machine

/-! ### Parameters (Table 10-1) and the image (R283, R284) -/

def Cmd.vpAddr (c : Cmd) : Nat := c.u48 64
def Cmd.vpIter (c : Cmd) : Nat := c.u8 70
def Cmd.vpWorkBase (c : Cmd) : Nat := c.u16 72
def Cmd.vpWorkSize (c : Cmd) : Nat := c.u16 74
def Cmd.vpRows (c : Cmd) : Nat := c.u16 76

/-- Fields of an instruction word. -/
def vOp (w : Nat) : Nat := bits w 0 8
def vD (w : Nat) : Nat := bits w 8 4
def vA (w : Nat) : Nat := bits w 12 4
def vB (w : Nat) : Nat := bits w 16 4
def vC (w : Nat) : Nat := bits w 20 4
def vW (w : Nat) : Nat := bits w 24 2
def vRm (w : Nat) : Bool := bit w 26
def vImm (w : Nat) : Nat := bits w 32 32
def vTensor (w : Nat) : Nat := bits w 32 6

/-- The instruction words of an image. -/
def vpWords (img : Bytes) : List Nat := (List.range (fieldAt img 2 2)).map (fun i => fieldAt img (64 + 8 * i) 8)

/-- The passes: instructions between PASS words, END left off (R286). -/
def vpSplit : List Nat → List (List Nat)
  | [] => [[]]
  | w :: r =>
    if vOp w = 0x40 then [] :: vpSplit r
    else if vOp w = 0x41 then vpSplit r
    else match vpSplit r with
      | [] => [[w]]
      | p :: t => (w :: p) :: t

/-- Cycles per strip at W = 0 (Table 10-3); none for an undefined OP. -/
def vpCycles (op : Nat) : Option Nat :=
  if (decide (1 ≤ op) && decide (op ≤ 2)) || op == 4 || op == 6 || op == 7 || (decide (0x10 ≤ op) && decide (op ≤ 0x1C)) ||
    (decide (0x30 ≤ op) && decide (op ≤ 0x32)) then some 1
  else if op = 0x38 || op = 0x3C then some 2
  else if decide (0x28 ≤ op) && decide (op ≤ 0x2B) then some 4
  else if (decide (0x2C ≤ op) && decide (op ≤ 0x2E)) || op = 0x20 || op = 0x21 then some 8
  else if op = 3 || op = 5 || op = 0x40 || op = 0x41 then some 0
  else none

/-- R285: the widths an OP may have. -/
def vpWidthOk (op w : Nat) : Bool :=
  w == 0 ||
  (w == 1 && (op == 0x01 || op == 0x04 || (decide (0x10 ≤ op) && decide (op ≤ 0x1A)))) ||
  (w == 2 && (op == 0x01 || op == 0x04 || (decide (0x14 ≤ op) && decide (op ≤ 0x1A))))

/-- The formats CVT rounds to. -/
def cvtFmt (code : Nat) : Option Fmt :=
  match Fmt.ofCode code with
  | some f => if f.isMx || f == .lut4 || f == .lut2 || f == .cf32 then none else some f
  | none => none

/-- A word that R283-R285 allow. -/
def vpWordOk (w : Nat) : Bool :=
  (vpCycles (vOp w)).isSome && vpWidthOk (vOp w) (vW w) && bits w 27 5 == 0 &&
  (vOp w != 0x1C || (cvtFmt (bits w 32 8)).isSome) &&
  (vOp w != 0x38 || (decide (vD w < 15) && decide (vA w < 15) && decide (vB w < 15)))

/-- R283, R286: an image that validates. -/
def vpImageOk (img : Bytes) : Bool :=
  let n := fieldAt img 2 2
  let ws := vpWords img
  fieldAt img 0 2 == 1 && decide (1 ≤ n) && decide (n ≤ 1024) && zeroAt img 8 56 && decide (img.length ≥ 64 + 8 * n) &&
  crc32c ((putAt img 4 [0, 0, 0, 0]).take (64 + 8 * n)) == fieldAt img 4 4 &&
  ws.all vpWordOk && (ws.getLastD 0) % 256 == 0x41 && (ws.dropLast).all (fun w => vOp w != 0x41) &&
  decide ((ws.filter (fun w => vOp w == 0x40)).length ≤ 3)

/-! ### Execution (R280, R285, R286) -/

/-- The registers within a row: vectors (none: undefined at the start of the pass), scalars, and the reductions gathered so far in this
pass: destination, OP and the values of the row. -/
abbrev VpRegs := List (Option (List Word)) × List Word × List (Nat × Nat × List Word)

/-- A vector register's lanes; an undefined one holds free values (log entry 22). -/
def vpVec (key : Nat) (s : VpRegs) (r n : Nat) : List Word :=
  match s.1.getD r none with
  | some v => (v ++ List.replicate n w0).take n
  | none => (List.range n).map (fun i => Config.freeWord (key + r * 512 + i))

/-- A scalar register; one whose reduction is still gathering in this pass holds a free value (log entry 22). -/
def vpScalar (key : Nat) (s : VpRegs) (r : Nat) : Word :=
  if s.2.2.any (fun q => q.1 == r) then Config.freeWord (key + 16384 + r) else s.2.1.getD r w0

/-- R285: a result rounded under W. -/
def vpRound (ftz : Bool) (w : Nat) (v : Val) : Num Word := do
  match w with
  | 1 => do
    let code ← toFloat bf16Spec { ftz := ftz } 0 v
    rnd32 false (fpDecode bf16Spec code)
  | 2 => do
    let code ← toFloat e4m3Spec { ftz := ftz, fp8Sat := true } 0 v
    rnd32 false (fpDecode e4m3Spec code)
  | _ => rnd32 ftz v

/-- CVT: a value rounded to a format and held as FP32. `u` is its draw under stochastic rounding. -/
def vpCvt (c : Cmd) (f : Fmt) (rm : Bool) (u : Nat) (x : Word) : Num Word := do
  let md := if rm then c.num else { c.num with round := 0 }
  let code ← convertTo f md u (val32 x)
  let v : Val := match f with
    | .fp32x2 => valPair code
    | _ => match f.spec with
      | some sp => fpDecode sp code
      | none => .ofInt (f.intOfCode code)
  rnd32 false v

/-- The exact result of a one-lane operation of Table 10-2 on its sources. -/
def vpExact (op : Nat) (a b e : Word) : Val :=
  let x := val32 a
  let y := val32 b
  match op with
  | 0x10 => x.add y
  | 0x11 => x.sub y
  | 0x12 => x.mul y
  | 0x13 => (x.mul y).add (val32 e)
  | 0x14 => val32 (fmin a b)
  | 0x15 => val32 (fmax a b)
  | 0x16 => x.abs
  | 0x17 => x.negate
  | 0x18 => if x.lt y then .one else .zero
  | 0x19 => if x.eqv y then .one else .zero
  | 0x1A => if (val32 e).isZero then y else x
  | 0x1B => x.floor
  | 0x20 => x.div y
  | _ => x.sqrt

/-- Transcendental instructions. -/
def vpTransc (ftz : Bool) (op : Nat) (a : Word) : Num Word :=
  match op with
  | 0x28 => exp2W ftz a
  | 0x29 => log2W ftz a
  | 0x2A => rcpW ftz a
  | 0x2B => rsqrtW ftz a
  | 0x2C => sintW ftz a
  | 0x2D => costW ftz a
  | _ => erfW ftz a

/-- A store of a strip (ST) or of a row scalar (STR): element writes under RM. -/
def Dev.vpStore (c : Cmd) (ti : Nat) (rm : Bool) (start : Nat) (outer : List Nat) (vs : List Word) : Num (List ElemWrite) :=
  let md := if rm then c.num else { c.num with round := 0 }
  Dev.emitRow md c.tensors (c.tensor ti) start outer
    ((List.range vs.length).map (fun i => (val32 (vs.getD i w0), if rm then c.roundDraw ti ((start + i) :: outer) else 0)))

/-- A CF32 store: both parts as FP32 codes. -/
def vpStorePair (c : Cmd) (ti start : Nat) (outer : List Nat) (re im : List Word) : Num (List ElemWrite) := do
  let md : NumMode := { c.num with round := 0 }
  let ws ← (List.range re.length).mapM (fun i => do
    let a ← convertTo .fp32 md 0 (val32 (re.getD i w0))
    let b ← convertTo .fp32 md 0 (val32 (im.getD i w0))
    return (c.tensor ti).put ((start + i) :: outer) (a + (b <<< 32)))
  return ws.flatten

/-- One instruction on strip elements `lo .. lo + n - 1` of a row. -/
def Dev.vpStep (d : Dev) (c : Cmd) (key lo n : Nat) (outer : List Nat) (s : VpRegs) (w : Nat) : Num (VpRegs × List ElemWrite) := do
  let f := c.ftz
  let op := vOp w
  let va := vpVec key s (vA w) n
  let vb := vpVec key s (vB w) n
  let vc := vpVec key s (vC w) n
  let ti := vTensor w
  let setV (v : List Word) : VpRegs := (s.1.set (vD w) (some v), s.2.1, s.2.2)
  match op with
  | 0x01 =>
    if (c.tensor ti).format = .cf32 then do
      let cs ← (List.range n).mapM (fun i => d.readElem c.part (c.tensor ti) ((lo + i) :: outer))
      let re ← cs.mapM (fun x => do
        let v ← readCode f .fp32 (bits x 0 32)
        rnd32 false v)
      let im ← cs.mapM (fun x => do
        let v ← readCode f .fp32 (bits x 32 32)
        rnd32 false v)
      return (((s.1.set (vD w) (some re)).set (vD w + 1) (some im), s.2.1, s.2.2), [])
    else do
      let v ← (List.range n).mapM (fun i => do
        let x ← d.elemOf c ti ((lo + i) :: outer)
        vpRound false (vW w) x)
      return (setV v, [])
  | 0x02 => do
    let v ← (List.range n).mapM (fun i => d.streamWord c ti [lo + i, 0, 0, 0, 0])
    return (setV v, [])
  | 0x03 => do
    let x ← d.streamWord c ti (0 :: outer)
    return ((s.1, s.2.1.set (vD w) x, s.2.2.filter (fun q => q.1 != vD w)), [])
  | 0x04 =>
    if (c.tensor ti).format = .cf32 then do
      let ws ← vpStorePair c ti lo outer va (vpVec key s (vA w + 1) n)
      return (s, ws)
    else do
      let ws ← Dev.vpStore c ti (vRm w) lo outer va
      return (s, ws)
  | 0x05 => do
    let ws ← Dev.vpStore c ti (vRm w) 0 outer [vpScalar key s (vA w)]
    return (s, ws)
  | 0x06 => return (setV (List.replicate n (vpScalar key s (vA w))), [])
  | 0x07 => return (setV (List.replicate n (BitVec.ofNat 32 (vImm w))), [])
  | 0x1C => do
    let fm := (cvtFmt (bits w 32 8)).getD .fp32
    let v ← (List.range n).mapM (fun i =>
      vpCvt c fm (vRm w) ((Config.freeWord (key + 20480 + lo + i)).toNat % 65536) (va.getD i w0))
    return (setV v, [])
  | 0x30 | 0x31 | 0x32 =>
    let old := (s.2.2.find? (fun q => q.1 == vD w && q.2.1 == op)).map (fun q => q.2.2)
    return ((s.1, s.2.1, s.2.2.filter (fun q => q.1 != vD w) ++ [(vD w, op, old.getD [] ++ va)]), [])
  | 0x38 => do
    let wa := vpVec key s (vA w + 1) n
    let wb := vpVec key s (vB w + 1) n
    let r ← (List.range n).mapM (fun i => cmul f (va.getD i w0, wa.getD i w0) (vb.getD i w0, wb.getD i w0))
    return (((s.1.set (vD w) (some (r.map (·.1)))).set (vD w + 1) (some (r.map (·.2))), s.2.1, s.2.2), [])
  | 0x3C =>
    let it := c.tensor c.vpIter
    return (setV ((List.range n).map (fun i =>
      uniform32 (fullDraw c.seed (c.streamBase + ti) (it.logical ((lo + i) :: outer)) 32))), [])
  | _ =>
    if decide (0x28 ≤ op) && decide (op ≤ 0x2E) then do
      let v ← va.mapM (fun x => vpTransc f op x)
      return (setV v, [])
    else do
      let v ← (List.range n).mapM (fun i => vpRound f (vW w) (vpExact op (va.getD i w0) (vb.getD i w0) (vc.getD i w0)))
      return (setV v, [])

/-- The instructions of a pass on one strip. -/
def Dev.vpStrip (d : Dev) (c : Cmd) (key lo n : Nat) (outer : List Nat) (s : VpRegs) : List Nat → Num (VpRegs × List ElemWrite)
  | [] => return (s, [])
  | w :: r => do
    let x ← d.vpStep c key lo n outer s w
    let y ← d.vpStrip c key lo n outer x.1 r
    return (y.1, x.2 ++ y.2)

/-- R288, R289: the reductions take their values at the end of the pass. -/
def vpReduce (ftz : Bool) (s : VpRegs) : Num (List Word) :=
  s.2.2.foldlM (fun sc q => do
    let xs := q.2.2.map some
    let v ← match q.2.1 with
      | 0x30 => rsum ftz xs
      | 0x31 => rmax xs
      | _ => rmin xs
    return sc.set q.1 v) s.2.1

/-- One pass over a row. -/
def Dev.vpPass (d : Dev) (c : Cmd) (key : Nat) (outer : List Nat) (len : Nat) (sc : List Word) (ins : List Nat) : Num (List Word × List ElemWrite) := do
  let strips := ceilDiv len 512
  let rec go (s : VpRegs) : List Nat → Num (VpRegs × List ElemWrite)
    | [] => return (s, [])
    | j :: r => do
      let x ← d.vpStrip c key (512 * j) (min 512 (len - 512 * j)) outer s ins
      let y ← go x.1 r
      return (y.1, x.2 ++ y.2)
  let z ← go (List.replicate 16 none, sc, []) (List.range strips)
  let sc ← vpReduce c.ftz z.1
  return (sc, z.2)

/-- All passes over a row; scalars are undefined until written (log entry 22). -/
def Dev.vpRow (d : Dev) (c : Cmd) (key : Nat) (outer : List Nat) (len : Nat) (passes : List (List Nat)) : Num (List ElemWrite) := do
  let sc0 := (List.range 16).map (fun r => Config.freeWord (key + 18432 + r))
  let rec go (k : Nat) (sc : List Word) : List (List Nat) → Num (List ElemWrite)
    | [] => return []
    | p :: r => do
      let x ← d.vpPass c (key + k * 2 ^ 40) outer len sc p
      let y ← go (k + 1) x.1 r
      return x.2 ++ y
  go 0 sc0 passes

/-! ### Tiles (R287, R288) -/

/-- Cycles of one strip of a pass, in quarter cycles rounded up (R281), and the bytes it reads and writes in the scratchpad. -/
def Cmd.vpPassCost (c : Cmd) (ins : List Nat) : Nat :=
  let q := ins.foldl (fun a w => a + (vpCycles (vOp w)).getD 0 * (if vW w = 1 then 2 else if vW w = 2 then 1 else 4)) 0
  let by' (ops : List Nat) : Nat := ins.foldl (fun a w =>
    if ops.contains (vOp w) then a + 64 * (c.tensor (vTensor w)).format.width else a) 0
  max (ceilDiv q 4) (max (ceilDiv (by' [0x01, 0x02]) 128) (ceilDiv (by' [0x04]) 256))

def Cmd.vpRowCount (c : Cmd) : Nat := ((c.tensor c.vpIter).shape.drop 1).foldl (· * ·) 1

def Cmd.vpSpace (c : Cmd) : TileSpace :=
  let strips := ceilDiv ((c.tensor c.vpIter).dim 0) 512
  let per := ((vpSplit (vpWords c.image)).map c.vpPassCost).foldl (· + ·) 0
  { rows := ceilDiv c.vpRowCount (max 1 c.vpRows), mt := 1, nt := 1, bypass := true,
    cost := 256 + min c.vpRows c.vpRowCount * strips * per }

/-- The result of one row group. -/
def Dev.vpTile (d : Dev) (c : Cmd) (id : TileId) : Num TileResult := do
  let it := c.tensor c.vpIter
  let lo := id.rank * c.vpRows
  let n := min c.vpRows (c.vpRowCount - lo)
  let passes := vpSplit (vpWords c.image)
  let ws ← (List.range n).mapM (fun i =>
    d.vpRow c (d.fresh * 2 ^ 64 + i * 2 ^ 44) (coordsOf (it.shape.drop 1) (lo + i)) (it.dim 0) passes)
  return { writes := ws.flatten }

/-! ### Checks -/

/-- The instructions of an image that name a tensor. -/
def vpMem (img : Bytes) : List Nat := (vpWords img).filter (fun w => decide (1 ≤ vOp w) && decide (vOp w ≤ 5))

/-- The admission checks of a VPROG whose image has been read. -/
def Cmd.vpCheck (c : Cmd) : OpCheck :=
  let it := c.tensor c.vpIter
  let mem := vpMem c.image
  let named (ops : List Nat) : List Nat := ((mem.filter (fun w => ops.contains (vOp w))).map vTensor).eraseDups
  let outB := ((named [0x04]).map (fun i => ceilDiv (it.dim 0 * (c.tensor i).format.width) 8)).foldl (· + ·) 0 +
    ((named [0x05]).map (fun i => ceilDiv (c.tensor i).format.width 8)).foldl (· + ·) 0
  let cf (w : Nat) : Bool := (c.tensor (vTensor w)).format == .cf32
  let ins := named [0x01, 0x02, 0x03]
  let outs := named [0x04, 0x05]
  { formed := firstBad ([
      need (c.vpAddr % 64 == 0 && addrValid c.vpAddr) (badAt 64 0xFF),
      need (c.idxOk c.vpIter) (badAt 70 0xFF), need (c.u8 71 == 0) (badAt 71 0xFF),
      need (workOk c.vpWorkBase c.vpWorkSize) (badAt 74 0xFF), need (decide (1 ≤ c.vpRows)) (badAt 76 0xFF),
      need (zeroAt c.raw 78 50) (badAt 78 0xFF), need (c.foldMode == 0) (badAt 7 0xFF),
      need (vpImageOk c.image) (badAt 64 0xFF), need (mem.all (fun w => c.idxOk (vTensor w))) (badAt 64 0xFF),
      need (mem.all (fun w => !cf w || vOp w != 0x01 || decide (vD w < 15))) (badAt 64 0xFF),
      need (mem.all (fun w => !cf w || vOp w != 0x04 || decide (vA w < 15))) (badAt 64 0xFF)] ++
      (named [0x01, 0x04]).map (fun i => shapeIs c i it.shape) ++
      (named [0x02]).map (fun i => firstBad [need ((c.tensor i).rank == 1) (badAt 7 i), shapeIs c i [it.dim 0, 1, 1, 1, 1]]) ++
      (named [0x03, 0x05]).map (fun i => shapeIs c i (1 :: it.shape.drop 1)) ++
      (ins.map (fun i => c.companionOk i true)) ++ (outs.map (fun i => c.companionOk i false)) ++
      [need (decide (2 * (min c.vpRows c.vpRowCount * outB) ≤ c.vpWorkSize * 65536)) (badAt 76 0xFF)]),
    format := firstBad (mem.map (fun w =>
      let f := (c.tensor (vTensor w)).format
      let bad := (f == .cf32 && vOp w != 0x01 && vOp w != 0x04) || ((f == .lut4 || f == .lut2) && (vOp w == 0x04 || vOp w == 0x05))
      need (!bad) (badFormat c (vTensor w)))),
    shape := overPlan c ((List.range 5).map (fun i => (i, it.dim i, c.vpIter))),
    inputs := (ins ++ ins.filterMap (fun i => if (c.tensor i).aux = 0xFF then none else some (c.tensor i).aux)).eraseDups,
    outputs := (outs ++ outs.filterMap (fun i => if (c.tensor i).format.isMx then some (c.tensor i).aux else none)).eraseDups,
    inPlace := named [0x01],
    work := if c.vpWorkSize = 0 then none else some (c.vpWorkBase, c.vpWorkSize),
    empty := it.count == 0 }

end Sys2Proof.Machine
end

