-- ==== Sys2Proof/Machine/Run.lean ====
section
/-! DEFINITION. What the opcodes share: which have tiles and on which units, their tile spaces, their tile results, and their admission checks. -/

namespace Sys2Proof.Machine

/-- Opcodes whose commands have tiles (R248, R287, R309, R338, R160, R380, R384). -/
def tiledOp (op : Nat) : Bool :=
  op == 0x01 || op == 0x02 || op == 0x03 || op == 0x04 || op == 0x05 || op == 0x07 || op == 0x08

/-- Whether a command's tiles run on the vector engines (R287, R328, R331, R380, R384); a block of the frequency path, whose transforms are
products in pair mode, counts as a tile of the arrays (log entry 45). -/
def Cmd.onVector (c : Cmd) : Bool :=
  c.opcode == 0x04 || c.opcode == 0x07 || c.opcode == 0x08 || (c.opcode == 0x02 && (match c.cvPath with
    | .vector => true
    | _ => false))

/-! ### One copy of each page from start to commit (R116) -/

/-- The keys of the active copies that a command takes at its start: those of the command class, and of the media and ingest units. -/
def copyKey (k : Nat) : Bool :=
  decide (0x440 ≤ k % 4096) && decide (k % 4096 < 0x800) && (blockOf (k / 4096)).any (fun b => !b.1.tickClass || b.1 == .med || b.1 == .ing)

/-- The active copies in force, as far as they differ from their reset values. -/
def Dev.copyNow (d : Dev) : List (Nat × Word) := d.regs.filter (fun x => copyKey x.1)

/-- The device with other active copies. -/
def Dev.withCopy (d : Dev) (l : List (Nat × Word)) : Dev :=
  { d with regs := l.foldl (fun r x => assocPut x.1 x.2 r) (d.regs.filter (fun x => !copyKey x.1)) }

/-- The device as a command sees it: with the copies that it started with. -/
def Dev.viewOf (d : Dev) (c : Cmd) : Dev := if !c.started || c.copy == d.copyNow then d else d.withCopy c.copy

/-- Something done for command u, under the copies that it started with. -/
def Dev.asStarted (d : Dev) (u : Nat) (f : Dev → Dev) : Dev :=
  match d.cmd? u with
  | none => f d
  | some c => if !c.started || c.copy == d.copyNow then f d else (f (d.withCopy c.copy)).withCopy d.copyNow

/-- The tile space of a command. -/
def Dev.opSpace (d : Dev) (c : Cmd) : TileSpace :=
  match c.opcode with
  | 0x01 => c.mSpace
  | 0x02 => c.cvSpace
  | 0x03 => (d.viewOf c).atSpace c
  | 0x04 => c.vpSpace
  | 0x05 => c.ctSpace
  | 0x07 => c.frSpace
  | _ => c.saSpace

/-- Whether a command runs in its fallback form (R304, R307). -/
def Dev.fallback (d : Dev) (c : Cmd) : Bool :=
  match c.opcode with
  | 0x01 => c.mFallback (d.coresOf c.part).length
  | 0x02 => c.statAt.isSome && c.fbufEn && decide (c.cvSpace.bandUnits (2 * (d.coresOf c.part).length) > c.u16 74)
  | _ => false

/-- The result of one tile of a command. -/
def Dev.opTile (d : Dev) (c : Cmd) (id : TileId) : TileResult :=
  let d := d.viewOf c
  runTile (match c.opcode with
    | 0x01 => d.mTileM c (d.fallback c) id
    | 0x02 => d.cvTile c (d.fallback c) id
    | 0x03 => d.atTile c id
    | 0x04 => d.vpTile c id
    | 0x05 => d.ctTile c id
    | 0x07 => c.frTile id
    | _ => d.saTile c id)

/-- Table 13-5's counter of a FILL_RANDOM. -/
def Dev.counterOf (d : Dev) (c : Cmd) : Nat := (d.part c.part).counters.getD c.frCounter 0

/-! ### Control commands (R79, R399-R405, R557) -/

/-- Field checks of the control commands. -/
def Cmd.controlCheck (c : Cmd) : OpCheck :=
  let z (off n : Nat) := need (zeroAt c.raw off n) (badAt off 0xFF)
  { formed := firstBad (match c.opcode with
      | 0x10 => [z 66 62]
      | 0x11 => [need (decide (c.u8 72 ≤ 1)) (badAt 72 0xFF), z 73 55]
      | 0x12 => [need (c.u48 64 % 4096 == 0 && addrValid (c.u48 64)) (badAt 64 0xFF), need (decide (c.u8 74 ≤ 3)) (badAt 74 0xFF),
          z 75 1, z 78 50]
      | _ => [need (addrValid (c.u48 64)) (badAt 64 0xFF), need (decide (c.u8 74 < 16)) (badAt 74 0xFF), z 75 1,
          need (c.u48 78 % 64 == 0 && addrValid (c.u48 78)) (badAt 78 0xFF), z 84 44]) }

/-- The admission checks of a command's opcode; `seq` holds the bytes of the sequence descriptor it names. -/
def Dev.opCheck (d : Dev) (c : Cmd) (seq : Bytes) : OpCheck :=
  let n := (d.coresOf c.part).length
  match c.opcode with
  | 0x01 => c.mCheck n
  | 0x02 => c.cvCheck n
  | 0x03 => d.atCheck c seq
  | 0x04 => c.vpCheck
  | 0x05 => c.ctCheck
  | 0x06 => c.cpCheck
  | 0x07 => c.frCheck (d.counterOf c)
  | 0x08 => c.saCheck
  | 0x09 => d.akCheck c seq
  | 0x0A => d.prCheck c seq
  | 0x0B => d.coCheck c
  | 0x0C => d.mdCheck c
  | 0x0D => d.meCheck c
  | 0x0E => d.igCheck c
  | _ => c.controlCheck

/-- The tensor that names a command's sequence descriptor, if it names one. -/
def Cmd.seqTensor (c : Cmd) : Option Nat :=
  let of (ti : Nat) : Option Nat := if decide (ti < c.tensors.length) && (c.tensor ti).isSeq then some ti else none
  match c.opcode with
  | 0x03 => if c.atPaged then of c.atSeq else none
  | 0x09 => of c.akSeq
  | 0x0A => if c.prSeq = 0xFF then none else of c.prSeq
  | _ => none

/-- Whether a command names or allocates KV pages. -/
def Cmd.usesKv (c : Cmd) : Bool := (c.opcode == 0x03 && c.atPaged) || c.opcode == 0x09 || c.opcode == 0x0A

end Sys2Proof.Machine
end

