-- ==== Sys2Proof/Machine/Admit.lean ====
section
/-! DEFINITION. Admission: slots, fetching a submission entry, the checks of Table 3-8 in order, and what admission records (R61-R62, R68-R75, R555-R557). -/

namespace Sys2Proof.Machine

/-! ### Slots (R74) -/

/-- The partitions that own a core. -/
def Dev.owners (d : Dev) : List Nat := (List.range 64).filter (fun p => !(d.coresOf p).isEmpty)

/-- In-flight slots that partition p holds. -/
def Dev.slotsUsed (d : Dev) (p : Nat) : Nat := (d.cmds.filter (fun c => c.part == p)).length

/-- Slots a partition has reserved to it. -/
def Dev.slotsReserved (d : Dev) (p : Nat) : Nat := if (d.coresOf p).isEmpty then 0 else 64

/-- Shared slots in use. -/
def Dev.sharedUsed (d : Dev) : Nat := (List.range 64).foldl (fun a p => a + (d.slotsUsed p - d.slotsReserved p)) 0

/-- R74: partition p has a slot for one more command. -/
def Dev.slotFree (d : Dev) (p : Nat) : Bool :=
  decide (d.slotsUsed p < d.slotsReserved p) || decide (d.sharedUsed + 64 * d.owners.length < 8192)

/-! ### The rings (R61, R62) -/

def Dev.qCfg (d : Dev) (p q : Nat) : Nat := d.active (pgPART p) (0x100 + 0x20 * q)
/-- Entries of a queue's rings. -/
def Dev.ringSize (d : Dev) (p q : Nat) : Nat := 2 ^ bits (d.qCfg p q) 0 5
def Dev.sqBase (d : Dev) (p q : Nat) : Nat := d.active (pgPART p) (0x104 + 0x20 * q) + d.active (pgPART p) (0x108 + 0x20 * q) % 65536 * 2 ^ 32
def Dev.cqBase (d : Dev) (p q : Nat) : Nat := d.active (pgPART p) (0x10C + 0x20 * q) + d.active (pgPART p) (0x110 + 0x20 * q) % 65536 * 2 ^ 32

/-- R556: a failed request on a ring puts the queue into STOPPED. -/
def Dev.ringFailed (d : Dev) (p q a : Nat) (e : ReadFail) : Dev :=
  let d := (d.hostRefused p e).log (hostEntry p e.cause a 0 p 0 q)
  (d.modQueue p q (fun x => { x with state := 2, hostFail := true })).raise (pgPART p) 7

/-! ### The descriptor (R68, R557) -/

/-- The command of a ring entry, before any check. -/
def Dev.parseCmd (d : Dev) (p q : Nat) (b : Bytes) : Cmd :=
  let c : Cmd := { uid := d.nextUid, part := p, queue := q, raw := b, planAddr := fieldAt b 24 6, admitTick := d.tick.count }
  { c with throughput := !c.sessionValid }

/-- The first bad byte of Table 3-3 as far as the descriptor alone shows. -/
def Dev.descriptorBad (d : Dev) (c : Cmd) : Option Nat :=
  let ctl := isControlOp c.opcode
  let dup := d.cmds.any (fun x => x.live && x.part == c.part && x.queue == c.queue && x.id == c.id)
  let noPlan := ctl && !c.sessionValid
  [ (0, !dup), (4, opcodeDefined c.opcode), (5, c.depMode != 3 && bits (c.u8 5) 5 3 == 0),
    (6, bits (c.u8 6) 0 2 != 3 && bits (c.u8 6) 5 3 == 0), (7, c.order != 3 && !bit (c.u8 7) 7),
    (8, bits (c.u16 8) 12 3 == 0), (10, c.sessionValid || c.stage == 0), (11, zeroAt c.raw 11 1),
    (20, bits (c.u8 20) 4 4 == 0), (21, zeroAt c.raw 21 3),
    (24, if noPlan then c.planAddr == 0 else addrValid c.planAddr && c.planAddr % 64 == 0), (30, zeroAt c.raw 30 2),
    (32, if ctl then c.u48 32 == 0 else addrValid (c.u48 32) && c.u48 32 % 64 == 0), (38, zeroAt c.raw 38 2),
    (40, !noPlan || c.u16 40 == 0), (42, if ctl then c.u8 42 == 0 else decide (1 ≤ c.u8 42) && decide (c.u8 42 ≤ 64)),
    (43, zeroAt c.raw 43 5)].findSome? (fun x => if x.2 then none else some x.1)

/-- R165: NUM_MODE sets a mode that the policy denies. -/
def Dev.modeDenied (d : Dev) (c : Cmd) : Bool :=
  let pol := d.active (pgNUM c.part) 0x040
  (bit pol 0 && c.num.arrivalOk) || (bit pol 1 && c.ftz) || (bit pol 2 && c.num.round == 2)

/-- R45: the session, its state and its plan, in the order of their fields; `entryStage` is the plan entry's STAGE. -/
def Dev.sessionBad (d : Dev) (c : Cmd) (entryStage : Option Nat) : Option Nat :=
  if !c.sessionValid then none
  else match d.session? c.part c.session with
    | none => some 8
    | some s =>
      if s.closing then some 8
      else if decide (c.stage ≥ (d.planAt c.part s.planAddr).stages.length) || entryStage.any (fun e => e != c.stage) then some 10
      else if c.planAddr ≠ s.planAddr then some 24
      else none

/-! ### Tensors (R69, R126, R131, R191, R201, R226, R352, R394) -/

/-- The first bad byte of tensor i of a table of n as far as its descriptor alone shows. -/
def tensorBad (n : Nat) (t : TensorD) : Option Nat :=
  let f := t.fmt
  let fm := t.format
  let st (i : Nat) : Int := t.stride.getD i 0
  let rows : List (Nat × Bool) := [ (6, (Fmt.ofCode f).isSome), (7, decide (1 ≤ t.rank) && decide (t.rank ≤ 5)),
     (8, decide (t.space ≤ 1) && fieldAt t.raw 8 1 / 8 == 0 && (!t.tagged || t.space == 1)),
     (9, t.aux == 0xFF || (fm.takesCompanion && decide (t.aux < n))), (10, t.group == 0 || fm.takesCompanion)] ++
    (List.range 5).map (fun i => (12 + 4 * i, decide (i < t.rank) || t.dim i == 1)) ++
    (List.range 4).map (fun i => (32 + 8 * i, (decide (i + 1 < t.rank) || st (i + 1) == 0) && st (i + 1) % (fm.group.1 : Int) == 0))
  rows.findSome? (fun x => if x.2 then none else some x.1)

/-- Whether bytes `lo` to `hi` of device address space lie where a tensor may: host memory, or one region of the partition, writable if it is an
output (R59, R226). -/
def Dev.spanOk (d : Dev) (p lo hi : Nat) (out : Bool) : Bool :=
  if isHost lo then isHost hi
  else match d.regionOf p lo with
    | some r => r.holds hi && !(out && r.readOnly)
    | none => false

/-- A tensor's place is one it may have. A tensor without elements touches nothing. -/
def Dev.placeOk (d : Dev) (p : Nat) (t : TensorD) (out : Bool) : Bool :=
  if t.count = 0 then t.space == 1 || addrValid t.addr
  else if t.space = 1 then t.spdOk (d.coresOf p).length && (t.footprint).isSome
  else match t.footprint with
    | some (lo, hi) => rangeValid lo (hi + 1 - lo) && d.spanOk p lo hi out
    | none => false

/-- R352: an HBM footprint meets the pool's pages, table or summaries. -/
def Dev.hitsPool (d : Dev) (p : Nat) (t : TensorD) : Bool :=
  let k := d.kvPool p
  d.kvReady p && t.space == 0 && (match t.footprint with
    | some (lo, hi) =>
      [(k.base, k.pages * k.pageBytes), (k.table, 32 * k.pages), (k.sum, 256 * k.pages)].any (fun a =>
        decide (lo < a.1 + a.2) && decide (a.1 ≤ hi))
    | none => false)

/-- R394: the local slots of a scratchpad footprint lie in the claim set. -/
def Dev.inClaims (d : Dev) (p : Nat) (t : TensorD) : Bool :=
  let cl := d.claims p
  (d.slotsOf p t).all (fun s => claimed cl s.2)

/-- R394: the work area lies in the claim set. -/
def Dev.workClaimed (d : Dev) (p base size : Nat) : Bool :=
  let cl := d.claims p
  (List.range (256 * size)).all (fun i => claimed cl (256 * base + i))

/-- The tensors that a command uses: those its opcode names, and their companions. -/
def Cmd.used (c : Cmd) (k : OpCheck) : List Nat :=
  let l := k.outputs ++ k.inputs
  let all := l ++ l.map (fun i => (c.tensor i).aux)
  (List.range c.tensors.length).filter all.contains

/-- Checks on the tensors a command uses that need the partition: place, read-only regions, tagged regions, the KV pool and the claim set. A tensor
of its table that it does not use touches nothing (DEDUCED, log entry 46). -/
def Dev.tensorPlaces (d : Dev) (c : Cmd) (k : OpCheck) : Option (Nat × Nat) :=
  (c.used k).findSome? (fun i =>
    let t := c.tensor i
    let out := k.outputs.contains i
    if !d.placeOk c.part t out then badAt 0 i
    else if t.tagged && !(d.slotsOf c.part t).all (fun s => d.inTagRegion s.1 s.2) then badAt 8 i
    else if out && d.hitsPool c.part t then badAt 0 i
    else if out && c.sessionValid && t.space == 1 && !d.inClaims c.part t then badAt 0 i
    else none)

/-- The byte offset of WORK_BASE in an opcode's descriptor. -/
def Cmd.workField (c : Cmd) : Nat := if c.opcode = 0x03 then 102 else if c.opcode = 0x07 then 76 else 72

/-! ### Aliasing (R85, R553) -/

/-- A tensor's footprint includes a byte of the work area on some core. -/
def TensorD.meetsWork (t : TensorD) (base size : Nat) : Bool :=
  t.space == 1 && (match t.footprint with
    | some (lo, hi) =>
      let a := base * 65536
      let b := (base + size) * 65536
      -- the range [a, b) of any 32 MiB window
      decide (hi - lo ≥ 0x2000000) || (List.range (hi / 0x2000000 + 1 - lo / 0x2000000)).any (fun k =>
        let w := (lo / 0x2000000 + k) * 0x2000000
        decide (lo < w + b) && decide (w + a ≤ hi))
    | none => false)

/-- The first aliasing fault: DETAIL of ALIAS_FORBIDDEN. -/
def Cmd.aliasBad (c : Cmd) (k : OpCheck) : Option Nat :=
  let outs := k.outputs.mergeSort (fun a b => decide (a ≤ b))
  let clash (o x : Nat) : Bool :=
    o != x && overlaps (c.tensor o) (c.tensor x) &&
      (k.outputs.contains x || !(k.inPlace.contains x && (c.tensor o).raw == (c.tensor x).raw))
  let hits := outs.findSome? (fun o => (List.range c.tensors.length).findSome? (fun x =>
    if (k.outputs.contains x || k.inputs.contains x) && clash o x then some (o + (x <<< 8))
    else if o = x && k.inputs.contains x && !k.inPlace.contains x then some (o + (x <<< 8))
    else none))
  match hits with
  | some v => some v
  | none => match k.work with
    | none => none
    | some (base, size) => (List.range c.tensors.length).findSome? (fun x =>
        if (k.outputs.contains x || k.inputs.contains x) && (c.tensor x).meetsWork base size then some ((x <<< 8) + 0x8000) else none)

/-! ### Jobs (R425, R434) -/

/-- A COLLECTIVE of a job that waits for its producer: uid. -/
def Dev.waitingReduce (d : Dev) (p job : Nat) : Option Nat :=
  (d.cmds.find? (fun x => x.live && x.part == p && x.opcode == 0x0B && x.coJob == job && x.coEpi)).map (·.uid)

/-- Step 8 of Table 3-8: the status of a command whose job it may not use. -/
def Dev.jobBad (d : Dev) (c : Cmd) (k : OpCheck) : Option Nat :=
  match k.job with
  | none => none
  | some id =>
    match d.job? id with
    | none => some stJOB
    | some j =>
      if j.part ≠ c.part || j.closing then some stJOB
      else if c.opcode = 0x0B then (if c.coEpoch ≠ j.epoch then some stROLE else none)
      else if c.sendMode = 1 then
        let taken := d.cmds.any (fun x => x.live && x.part == c.part && x.jobId == some id && x.opcode != 0x0B && x.sendMode == 1)
        if (d.waitingReduce c.part id).isNone || taken then some stJOB else none
      else none

/-! ### The checks (Table 3-8, R555) -/

/-- Why a command is refused: a status and DETAIL, or a structure whose read failed at an address. -/
abbrev Refused := (Nat × Nat) ⊕ (Nat × ReadFail)

/-- A structure's bytes for admission. -/
def Dev.admitRead (d : Dev) (env : Env) (p a n : Nat) (bad : Nat × Nat) : Except Refused Bytes :=
  match d.readStruct env p a n with
  | .ok b => .ok b
  | .error .invalid => .error (.inl bad)
  | .error e => .error (.inr (a, e))

/-- The command with its plan entry, and the device with the record in its cache. -/
def Dev.admitPlan (d : Dev) (env : Env) (c : Cmd) : Except Refused (Dev × Cmd) :=
  if isControlOp c.opcode && !c.sessionValid then .ok (d, c)
  else match d.loadPlan env c.part c.planAddr with
    | .error (.inr .invalid) => .error (.inl (stINVALID, 24 + 0xFF00))
    | .error (.inr e) => .error (.inr (c.planAddr, e))
    | .error (.inl (entry, off)) => .error (.inl (stINVALID,
        if entry == some (c.u16 40) then off + 0xFE00 else (if entry.isSome then 8 else off) + 0xFD00))
    | .ok (d, r) =>
      match r.entries[c.u16 40]? with
      | none => .error (.inl (stINVALID, 40 + 0xFF00))
      | some e =>
        if e.opcode ≠ c.opcode then .error (.inl (stINVALID, 0xFE00))
        else match d.sessionBad c (some e.stage) with
          | some off => .error (.inl (stINVALID, off + 0xFF00))
          | none => .ok (d, { c with entry := e })

/-- The tensors of a command. -/
def Dev.admitTensors (d : Dev) (env : Env) (c : Cmd) : Except Refused Cmd :=
  if isControlOp c.opcode then .ok c
  else
    let n := c.u8 42
    match d.admitRead env c.part (c.u48 32) (64 * n) (stINVALID, 32 + 0xFF00) with
    | .error r => .error r
    | .ok b =>
      let ts := (List.range n).map (fun i => parseTensor ((b.drop (64 * i)).take 64))
      match (List.range n).findSome? (fun i => (tensorBad n (ts.getD i {})).map (fun off => off + (i <<< 8))) with
      | some det => .error (.inl (stINVALID, det))
      | none => .ok { c with tensors := ts }

/-- The program image of a VPROG (R283), loaded when its header is readable. -/
def Dev.admitImage (d : Dev) (env : Env) (c : Cmd) : Except Refused Cmd :=
  if c.opcode ≠ 0x04 then .ok c
  else
    let bad := (stINVALID, 64 + 0xFF00)
    match d.admitRead env c.part c.vpAddr 64 bad with
    | .error r => .error r
    | .ok h =>
      match d.admitRead env c.part c.vpAddr (64 + 8 * fieldAt h 2 2) bad with
      | .error r => .error r
      | .ok b => .ok { c with image := b }

/-- The sequence descriptor's bytes and the snapshot of its pages (R356). -/
def Dev.admitSeq (d : Dev) (env : Env) (c : Cmd) : Except Refused (Cmd × Bytes) :=
  match c.seqTensor with
  | none => .ok (c, [])
  | some ti =>
    match d.admitRead env c.part (c.tensor ti).addr seqLen (stINVALID, ti <<< 8) with
    | .error r => .error r
    | .ok b => .ok ({ c with image := b, kvPages := if seqBad b = none then d.kvSnapshot c.part (parseSeq b) else [] }, b)

/-- The page list of a command (R356). -/
def Dev.pageListOf (d : Dev) (c : Cmd) (seq : Bytes) : List Nat :=
  if !c.usesKv then []
  else if c.opcode = 0x0A then d.prPages c seq
  else (parseSeq seq).pageList

/-- Steps 1 to 11, in order, for an opcode's findings. -/
def Dev.firstFailure (d : Dev) (c : Cmd) (k : OpCheck) (pages : List Nat) : Option (Nat × Nat) :=
  let workOut := match k.work with
    | some (b, n) => c.sessionValid && !d.workClaimed c.part b n
    | none => false
  firstBad [
    k.formed, d.tensorPlaces c k,
    (if workOut then badAt c.workField 0xFF else none),
    (if c.liveBad ((d.planAt c.part c.planAddr).liveOf c.entry) then some (stINVALID, 16 + 0xFD00) else none),
    k.format, k.shape.map (fun x => x), k.pad,
    (c.aliasBad k).map (fun v => (stALIAS, v)), k.streams, k.band,
    (d.jobBad c k).map (fun s => (s, 0)),
    (if c.usesKv then (d.kvUnmapped c.part pages).map (fun i => (stKV, i)) else none),
    (d.budgetFails c).map (fun r => (stBUDGET, r))]

/-! ### What admission records (step 12) -/

/-- What becomes of the command at the head of a queue. -/
inductive Verdict where
  /-- Its queue waits at it; the flag says that it waits for a free KV page (R353). -/
  | waits (pool : Bool)
  | refused (d : Dev) (c : Cmd) (why : Refused)
  | admitted (d : Dev) (c : Cmd)

/-- Tiles whose commit bits are in use (R91). -/
def Dev.bitsUsed (d : Dev) : Nat := d.cmds.foldl (fun a c => if c.live then a + c.work.total else a) 0

/-- The KV part of step 12: pages to wait for, and the pages taken. -/
def Dev.admitKv (d : Dev) (c : Cmd) (seq : Bytes) (pages : List Nat) : Option (Dev × Cmd) :=
  if !c.usesKv then some (d, c)
  else if c.opcode = 0x09 && c.akT > 0 then
    let s := parseSeq seq
    match d.kvPlan c s with
    | none => none
    | some (d, s', ts) =>
      let pins := pages ++ (ts.filter (fun t => !t.held)).map (·.page)
      let d := ts.foldl (fun d t => if t.held then d.modKvEntry c.part t.page (fun e => { e with held := true }) else d) d
      some (d.kvPin c.part pins, { c with kvNext := s', kvTargets := ts, pins := pins, pages := ts.map (·.page) })
  else some (d.kvPin c.part pages, { c with pins := pages, pages := pages })

/-- R372, R379, R473: the counter base or epoch taken at admission. -/
def Dev.admitBase (d : Dev) (c : Cmd) (empty : Bool) : Dev × Cmd :=
  if c.opcode = 0x07 && c.frAuto && !empty then
    let v := d.counterOf c
    (d.modPart c.part (fun x => { x with counters := x.counters.set c.frCounter ((v + (c.tensor c.frDst).count) % 2 ^ 64) }), { c with bases := [v] })
  else if c.opcode = 0x0E then (d, { c with bases := [(d.part c.part).augEpoch] })
  else (d, c)

/-- R76: the uncommitted command that a WAIT names. -/
def Dev.waitPred (d : Dev) (c : Cmd) : Pred :=
  if !c.waitEn then .none
  else match d.cmds.find? (fun x => x.live && x.part == c.part && x.queue == bits (c.u8 20) 0 4 && x.id == c.u32 16) with
    | some x => .live x.uid
    | none => .none

/-- R45: the deadline edge of the command's frame is not after the edge that opened this window. -/
def Dev.frameLate (d : Dev) (c : Cmd) : Bool :=
  match d.sessionOf c with
  | some s => decide (s.deadlineOf c.frame ≤ d.tick.count)
  | none => false

/-- Table 3-8 for a fetched entry; `ctx` are the checks of R400 and R405 on the images of CTX_SAVE and CTX_RESTORE (see Ctx.lean). -/
def Dev.verdict (d : Dev) (env : Env) (p q : Nat) (b : Bytes) (ctx : Dev → Cmd → Option Refused) : Verdict :=
  let c := d.parseCmd p q b
  match d.descriptorBad c with
  | some off => .refused d c (.inl (stINVALID, off + 0xFF00))
  | none =>
    if d.modeDenied c then .refused (d.bump (pgNUM p) 0x814 1) c (.inl (stINVALID, 0xFF06))
    else match d.sessionBad c none with
      | some off => .refused d c (.inl (stINVALID, off + 0xFF00))
      | none =>
        match d.admitPlan env c with
        | .error r => .refused d c r
        | .ok (d1, c) =>
          match d1.admitTensors env c with
          | .error r => .refused d c r
          | .ok c =>
            match d1.admitImage env c with
            | .error r => .refused d c r
            | .ok c =>
              if c.usesKv && d1.kvBusy p then .waits false
              else match d1.admitSeq env c with
                | .error r => .refused d c r
                | .ok (c, seq) =>
                  let k := d1.opCheck c seq
                  let pages := d1.pageListOf c seq
                  match (if k.formed.isNone && isControlOp c.opcode then ctx d1 c else none) with
                  | some r => .refused d c r
                  | none =>
                  match d1.firstFailure c k pages with
                  | some r => .refused d c (.inl r)
                  | none =>
                    let tiles := if tiledOp c.opcode && !k.empty then (d1.opSpace c).count else 0
                    if tiles > 4194304 then .refused d c (.inl (stINVALID, 0xFF40))
                    else if d1.bitsUsed + tiles > 2 ^ 30 || (c.usesKv && d1.kvHeld p pages) then .waits false
                    else match d1.admitKv c seq pages with
                      | none => .waits true
                      | some (d2, c) =>
                        let r := d2.admitBase c k.empty
                        .admitted r.1 { r.2 with work := { total := tiles } }

/-! ### COMMAND_ADMIT -/

/-- The entry is copied, so SQ_HEAD passes it. -/
def Dev.passEntry (d : Dev) (p q : Nat) (last : Pred) : Dev :=
  d.modQueue p q (fun x => { x with sqHead := (x.sqHead + 1) % d.ringSize p q, last := last, poolWaited := false })

/-- R75: a refused command: its slot is held until its record is written, and it counts as committed and failed for what follows. -/
def Dev.refuse (d : Dev) (c : Cmd) (why : Refused) : Dev :=
  let d : Dev := { d with nextUid := d.nextUid + 1, cmds := d.cmds ++ [c] }
  let d := d.passEntry c.part c.queue (.live c.uid)
  match why with
  | .inl (st, det) => d.finish c st det
  | .inr (a, e) => (d.hostRefused c.part e).finishLost c (hostEntry c.part e.cause a 3 c.part c.id c.queue)

/-! ### Missed frames (R54) -/

/-- A frame of a session misses: interrupt, counters, the window's record and a log entry, once for each frame. -/
def Dev.missFrame (d : Dev) (s : Session) (f : Nat) : Dev :=
  if s.missed.contains f then d
  else
    let d := d.modSession s.id (fun x => { x with missed := f :: x.missed, misses := x.misses + 1 })
    let d := (d.bump (pgPART s.part) 0x828 1).raise (pgPART s.part) 1
    let d := d.modPart s.part (fun x => { x with window := { x.window with missFlag := true, misses := x.window.misses + 1 } })
    d.log { cls := 0x07, severity := 0, source := pgPART s.part, part := s.part, detail := toLe 2 s.id ++ [0, 0] ++ toLe 4 f }

/-- An admitted command joins the journal, is charged, and takes its conditions (R44, R70, R76). -/
def Dev.enter (d : Dev) (c : Cmd) : Dev :=
  let late := d.frameLate c
  let c := { c with dep := (d.queue c.part c.queue).last, wait := d.waitPred c, missed := late,
                    throughput := c.throughput || late, arrival := c.num.arrivalOk && c.opcode == 0x01 && c.mSplit != 0 }
  let next (x : Cmd) : Cmd := if x.part = c.part && x.queue = c.queue && x.succ.isNone then { x with succ := some c.uid } else x
  let d := d.modPart c.part (fun x => { x with keeps := x.keeps.map next })
  let d : Dev := { d with nextUid := d.nextUid + 1, cmds := d.cmds.map next ++ [c] }
  let d := d.passEntry c.part c.queue (.live c.uid)
  match d.sessionOf c with
  | none => d
  | some s =>
    let d := d.modSession s.id (fun s => s.charge c.frame c.stage c.entry.costs)
    if !late then d
    else
      let d := d.missFrame s c.frame
      if s.missDrop then d.complete c stMISS 0 else d

end Sys2Proof.Machine
end

