-- ==== Sys2Proof/Machine/Hbm.lean ====
section
/-! DEFINITION. Errors of the HBM stacks: where a channel block lies among the device addresses, counting and logging an error, and errors armed by ECC_INJECT (R225, R229, R239, R240, Tables 8-9 and 8-11). -/

namespace Sys2Proof.Machine

/-- R229 read backwards: the address of a channel block in a region. -/
def Region.addrOf (r : Region) (channel block : Nat) : Option Nat :=
  let c := r.channels
  let q := block - r.rowBase
  if c = 0 || block < r.rowBase || ceilDiv (r.size / 256) c ≤ q then none
  else
    ((List.range c).find? (fun k => r.place (r.base + (q * c + k) * 256) == (channel, block))).bind (fun k =>
      if (q * c + k) * 256 < r.size then some (r.base + (q * c + k) * 256) else none)

/-- The partition and the address of a channel block: a region of a partition, lowest partition first, or a reserved area. -/
def Dev.blockAddr (d : Dev) (channel block : Nat) : Option Nat × Nat :=
  match (List.range 64).findSome? (fun p => ((d.part p).regions.findSome? (fun r => r.addrOf channel block)).map (fun a => (p, a))) with
  | some (p, a) => (some p, a)
  | none => (none, (reservedRegions.findSome? (fun r => r.addrOf channel block)).getD 0)

/-- The bits of an HBM page's error: kind, by patrol, injected, and the place (Table 8-11; the pseudo-channel by R225). -/
def hbmLast (kind : Nat) (patrol injected : Bool) (channel block symbol codeword : Nat) : Nat :=
  kind + 4 * b2n patrol + 8 * b2n injected + channel % 32 * 16 + block % 2 * 512 + symbol % 32 * 1024 + codeword % 4 * 32768

/-- The log entry of an error of a stack (Table 18-6): severity 1 if the data was had, 3 if not. -/
def Dev.hbmEntry (d : Dev) (s kind last channel block : Nat) : LogEntry :=
  let w := d.blockAddr (32 * s + channel % 32) block
  { cls := 5, severity := if kind = 3 then 3 else 1, source := pgHBM s, part := w.1.getD 0xFF, space := 1, addr := w.2,
    detail := toLe 4 last ++ toLe 4 (block % 2 ^ 23) ++ toLe 1 s }

/-- The registers and interrupts of an error of a stack: kind 1 corrected, 2 uncorrectable with a good retry, 3 uncorrectable (Tables 8-9, 8-11).
An uncorrectable error that the patrol finds loses no read (R238). -/
def Dev.hbmNote (d : Dev) (s kind last block : Nat) (patrol : Bool) : Dev :=
  let g := pgHBM s
  let d := (d.setReg g 0x82C (BitVec.ofNat 32 last)).setReg g 0x830 (BitVec.ofNat 32 (block % 2 ^ 23))
  if kind = 1 then (d.bump g 0x814 1).raise g 0
  else
    let d := (d.bump g 0x818 1).raise g 1
    if kind = 2 then d.bump g 0x81C 1
    else if patrol then d
    else (d.bump g 0x820 1).raise g 2

/-- An error of a stack, in a read made for command u if any, is counted and logged. -/
def Dev.hbmError (d : Dev) (s kind channel block symbol codeword : Nat) (patrol injected : Bool) (u : Option Nat) : Dev :=
  let last := hbmLast kind patrol injected channel block symbol codeword
  (d.hbmNote s kind last block patrol).log (d.naming u (d.hbmEntry s kind last channel block))

/-- An error armed by HBM.ECC_INJECT happens in the next read of the stack: one symbol is corrected, and two symbols are read well on the
retry, the error being in one read. The manual names no symbol and codeword (log entry 3). -/
def Dev.hbmInject (d : Dev) (s channel block : Nat) (patrol : Bool) (u : Option Nat) : Dev :=
  let k := d.regN (pgHBM s) 0xC04
  if k = 0 then d
  else
    let w := Config.freeWord d.fresh
    let d : Dev := { d with fresh := d.fresh + 1 }
    (d.setReg (pgHBM s) 0xC04 0).hbmError s (min k 2) channel block (bits w.toNat 0 5) (bits w.toNat 5 2) patrol true u

end Sys2Proof.Machine
end

