-- ==== Sys2Proof/Machine/Regions.lean ====
section
/-! DEFINITION. Region tables: reading, checking and applying a partition's region configuration (R226-R232). -/

namespace Sys2Proof.Machine

/-- Table 8-1: an entry. -/
def parseRegion (b : Bytes) : Region :=
  { base := fieldAt b 0 6, size := fieldAt b 12 4 * 65536, mode := fieldAt b 6 1, die := bits (fieldAt b 7 1) 0 2,
    readOnly := bit (fieldAt b 7 1) 4, rowBase := fieldAt b 8 4, mask := fieldAt b 16 48, raw := b }

/-- The number of 256-byte blocks of a region, and of rows they take on each listed channel. -/
def Region.blocks (r : Region) : Nat := r.size / 256
def Region.rows (r : Region) : Nat := ceilDiv r.blocks r.channels

/-- R230: what makes an entry bad by itself. -/
def Region.bad (r : Region) : Bool :=
  decide (r.mode > 2) || fieldAt r.raw 0 2 != 0 || bits (fieldAt r.raw 7 1) 2 2 != 0 || bits (fieldAt r.raw 7 1) 5 3 != 0 ||
  (r.mode != 2 && r.mask != 0) || (r.mode == 2 && r.mask == 0) || r.size == 0 || decide (r.base + r.size > regionEnd) ||
  decide (r.rowBase + r.rows > 8323072)

/-- Whether a region uses a cell: channel and channel block. -/
def Region.uses (r : Region) (channel row : Nat) : Bool :=
  let c := r.channels
  let q := row - r.rowBase
  let w := if c ≥ 32 then c / 32 else 1
  decide (r.rowBase ≤ row) && (List.range c).any (fun k =>
    decide (q * c + k < r.blocks) && r.channel ((k + fold5 q * w) % c) == channel)

/-- Two different regions use a common cell. Every row but a region's last is used on every listed channel. -/
def Region.sharesCell (r s : Region) : Bool :=
  let lo := max r.rowBase s.rowBase
  let hi := min (r.rowBase + r.rows) (s.rowBase + s.rows)
  let chans (x : Region) : List Nat := (List.range x.channels).map x.channel
  let common := (chans r).filter (fun c => (chans s).contains c)
  decide (lo < hi) && (if lo + 1 < hi then !common.isEmpty else common.any (fun c => r.uses c lo && s.uses c lo))

/-- Two address ranges overlap. -/
def Region.meets (r s : Region) : Bool := decide (r.base < s.base + s.size) && decide (s.base < r.base + r.size)

/-- R230: the conflict of an entry with another region that is not the same region. -/
def Region.conflicts (r s : Region) : Bool := r.meets s || r.sharesCell s

/-- The region configuration that a set of register values names: COUNT, DEFAULT and the address of its table. -/
def regionCfg (cfg lo hi : Nat) : Nat × Bool × Nat := (bits cfg 0 6, bit cfg 8, lo + hi % 65536 * 2 ^ 32)

/-- The regions of a configuration, or the reason for which it is rejected (R227, R230, R231). A table that cannot be read is rejected
as a bad table (log entry 23). -/
def Dev.readRegions (d : Dev) (env : Env) (p : Nat) (k : Nat × Bool × Nat) : Except Nat (List Region) :=
  if k.1 > 32 || (k.2.1 && k.1 != 0) then .error 0x37
  else if k.2.1 then .ok [defaultRegion]
  else if k.1 = 0 then .ok []
  else match d.readStruct env p k.2.2 (64 * k.1) with
    | .error _ => .error 0x37
    | .ok b =>
      let rs := (List.range k.1).map (fun i => parseRegion ((b.drop (64 * i)).take 64))
      if rs.any Region.bad then .error 0x37 else .ok rs

/-- R230: PART_REGION_CONFLICT of a partition's new regions. -/
def Dev.regionConflict (d : Dev) (p : Nat) (rs : List Region) : Bool :=
  let pairs := (List.range rs.length).any (fun i => (List.range i).any (fun j => (rs.getD i default).conflicts (rs.getD j default)))
  pairs || (List.range 64).any (fun q => q != p && (d.part q).regions.any (fun s => rs.any (fun r => r != s && r.conflicts s)))

/-- Some active table holds a region. -/
def Dev.regionExists (d : Dev) (r : Region) : Bool := d.parts.any (fun x => x.regions.contains r)

/-- The cells of a region become undefined: it is created over cells that another region may have held (R232, log entry 24). -/
def Dev.undefineRegion (d : Dev) (r : Region) : Dev :=
  let h := (List.range r.channels).foldl (fun m j => m.undefine (cellKey (r.channel j) r.rowBase 0) (r.rows * 256) d.fresh) d.hbm
  { d with hbm := h, fresh := d.fresh + 1 }

/-- R231, R232: a partition's table is replaced. Lines of regions that no table holds any longer leave the caches without being written back. -/
def Dev.setRegions (d : Dev) (p : Nat) (rs : List Region) : Dev :=
  let made := rs.filter (fun r => !d.regionExists r)
  let had := (d.part p).regions
  let d := d.modPart p (fun x => { x with regions := rs })
  let gone := had.filter (fun r => !d.regionExists r)
  let d : Dev := { d with lines := d.lines.filter (fun l => !gone.any (fun r => r.holds (l.line * 256))) }
  made.foldl (fun d r => d.undefineRegion r) d

/-- A tensor's footprint meets a region. -/
def TensorD.meetsRegion (t : TensorD) (r : Region) : Bool :=
  t.space == 0 && (match t.footprint with
    | some (lo, hi) => decide (lo < r.base + r.size) && decide (r.base ≤ hi)
    | none => false)

/-- The command touches one of some regions: by a tensor, or by a KV page of its pool. -/
def Dev.touchesRegions (d : Dev) (c : Cmd) (rs : List Region) : Bool :=
  c.tensors.any (fun t => rs.any t.meetsRegion) ||
  (!c.pages.isEmpty && rs.any (fun r => r.holds (d.active (pgKVP c.part) 0x040 + d.active (pgKVP c.part) 0x044 % 65536 * 2 ^ 32)))

/-- The regions that a pending change of a partition's region configuration removes or alters. -/
def Dev.regionsLeaving (d : Dev) (env : Env) (p : Nat) : List Region :=
  let r (off : Nat) : Nat := d.regN (pgPART p) off
  let a (off : Nat) : Nat := d.active (pgPART p) off
  let new := regionCfg (r 0x060) (r 0x064) (r 0x068)
  if new = regionCfg (a 0x060) (a 0x064) (a 0x068) then []
  else match d.readRegions env p new with
    | .error _ => []
    | .ok rs => (d.part p).regions.filter (fun x => !rs.contains x)

end Sys2Proof.Machine
end

