-- ==== Sys2Proof/Machine/Start.lean ====
section
/-! DEFINITION. Order and starting: conditions, eligibility, the order inside a window, folding, COMMAND_START, FENCE, TICK_WAIT and OVERRUN (R48-R52, R55, R73, R76-R79, R81, R113-R116, R391, R554, R557). -/

namespace Sys2Proof.Machine

/-! ### Conditions (R76-R78) -/

/-- An output footprint of the first command overlaps a footprint of the second. -/
def Dev.outMeets (d : Dev) (a b : Cmd) : Bool :=
  let ka := d.opCheck a a.image
  let kb := d.opCheck b b.image
  let bt := (kb.inputs ++ kb.outputs).map b.tensor
  (ka.outputs.map a.tensor).any (fun t => bt.any (overlaps t) || (match kb.work with
    | some (w, n) => t.meetsWork w n
    | none => false)) ||
  (match ka.work with
    | some (w, n) => bt.any (fun t => t.meetsWork w n) || (match kb.work with
      | some (v, m) => decide (w < v + m) && decide (v < w + n)
      | none => false)
    | none => false)

/-- R77: the footprints forbid AFTER_ISSUE. -/
def Dev.footprintsClash (d : Dev) (a b : Cmd) : Bool := d.outMeets a b || d.outMeets b a

/-- R76: the DEP condition holds. -/
def Dev.depHolds (d : Dev) (c : Cmd) : Bool :=
  match c.dep with
  | .live u =>
    match d.cmd? u with
    | none => true
    | some x =>
      match c.depMode with
      | 2 => true
      | 1 => x.started && (!isArrayOp x.opcode || x.dealtLast) && !d.footprintsClash c x
      | _ => false
  | _ => true

/-- R76: the WAIT condition holds. -/
def Cmd.waitHolds (c : Cmd) : Bool :=
  match c.wait with
  | .live _ => false
  | _ => true

/-- R78: the COMMAND_ID of the failed command that DEP or WAIT names. -/
def Cmd.skipsFor (c : Cmd) : Option Nat :=
  if !c.skipOnFail then none
  else match c.dep, c.wait with
    | .ended true id, _ => some id
    | _, .ended true id => some id
    | _, _ => none

/-- An admitted command that has not started and whose conditions hold. -/
def Dev.ready (d : Dev) (c : Cmd) : Bool := c.state == .waiting && !c.started && d.depHolds c && c.waitHolds

/-! ### Commits that commands wait for (R114, R115, R554, R232) -/

/-- R114: the command is a user of a page's block. Users of a core's pages are the partition's commands with tiles (log entry 25). -/
def Dev.usesPage (d : Dev) (c : Cmd) (page : Nat) : Bool :=
  match blockOf page with
  | some (.core, n) | some (.vec, n) | some (.spd, n) => tiledOp c.opcode && d.ownerOf n == some c.part
  | some (.arr, a) => tiledOp c.opcode && d.ownerOf (a / 2) == some c.part
  | some (.hal, v) => isArrayOp c.opcode && (d.coresOf c.part).any (fun n => n / 16 == v)
  | some (.num, p) | some (.rng, p) | some (.kvp, p) => c.part == p
  | some (.stk, s) => c.opcode == 0x06 && d.usesStacks c &&
      (d.tensorBlocks c.part (c.tensor (if c.cpMode = 4 then c.cpSrc else c.cpDst))).any (fun b => stackOf b == s)
  | _ => false

/-- A page of the command class. -/
def commandClass (page : Nat) : Bool := (blockOf page).any (fun b => !b.1.tickClass)

/-- The command waits on a pending commit of the command class. -/
def Dev.waitsOnCommit (d : Dev) (c : Cmd) : Bool :=
  d.commits.any (fun k => commandClass k.page && d.usesPage c k.page) && !(!c.throughput && (d.part c.part).commitOpen)

/-- A register of a page differs between shadow and active copy. -/
def Dev.differs (d : Dev) (page off : Nat) : Bool := d.regN page off != d.active page off

/-- A commit of the partition's CORE_MASK is pending. -/
def Dev.maskPending (d : Dev) (p : Nat) : Bool :=
  d.commits.any (fun k => k.page == pgPART p) && (d.differs (pgPART p) 0x040 || d.differs (pgPART p) 0x044)

/-- R232: the command was admitted during a pending change of regions that takes one it touches. -/
def Dev.waitsOnRegion (d : Dev) (c : Cmd) : Bool :=
  d.commits.any (fun k => k.page == pgPART c.part && !k.waits.contains c.uid) && d.touchesRegions c (d.regionsLeaving [] c.part)

/-- R193, Table 17-2: a core of the partition is being zeroed and the command would use it, or the zeroing follows a function-level reset. -/
def Dev.waitsOnZeroing (d : Dev) (c : Cmd) : Bool :=
  ((d.part c.part).flrZeroing || tiledOp c.opcode || c.tensors.any (fun t => t.space == 1)) && (d.coresOf c.part).any (fun n => (d.core n).zeroing)

/-- Whether nothing but the order keeps a ready command from starting. -/
def Dev.held (d : Dev) (c : Cmd) : Bool :=
  d.waitsOnCommit c || (isArrayOp c.opcode && d.maskPending c.part) || d.waitsOnRegion c || d.waitsOnZeroing c

/-! ### Eligibility and order (R48, R49, R557) -/

/-- R48: the window of a session command's stage has begun. -/
def Dev.windowOpen (d : Dev) (c : Cmd) : Bool :=
  c.throughput || (match d.sessionOf c with
    | some s => decide (s.windowOf c.frame (d.stageOf c).offset ≤ d.tick.count)
    | none => false)

def Dev.eligible (d : Dev) (c : Cmd) : Bool := d.ready c && d.windowOpen c && !d.held c

/-- R49: what the session order compares: deadline edge, session number, submission. -/
def Dev.orderKey (d : Dev) (c : Cmd) : Nat × Nat × Nat :=
  (((d.sessionOf c).map (fun s => s.deadlineOf c.frame)).getD 0, c.session, c.uid)

def keyBefore (a b : Nat × Nat × Nat) : Bool :=
  decide (a.1 < b.1) || (a.1 == b.1 && (decide (a.2.1 < b.2.1) || (a.2.1 == b.2.1 && decide (a.2.2 < b.2.2))))

/-- The first of some commands in the order of R49. -/
def Dev.earliest (d : Dev) (l : List Cmd) : Option Cmd :=
  l.foldl (fun a c => match a with
    | none => some c
    | some b => if keyBefore (d.orderKey c) (d.orderKey b) then some c else some b) none

/-- The units a command's order is kept on: the arrays, the vector engines, or those of its opcode. -/
def Cmd.unitClass (c : Cmd) : Nat :=
  if isArrayOp c.opcode then 0 else if c.onVector then 1 else 0x10 + c.opcode

/-- Eligible session or throughput commands of a partition and class. -/
def Dev.eligibleOf (d : Dev) (p cls : Nat) (throughput : Bool) : List Cmd :=
  d.cmds.filter (fun c => c.part == p && c.unitClass == cls && c.throughput == throughput && d.eligible c)

/-- R557: the throughput command served next: queues in turn from the one after the last, the earliest submission of a queue. -/
def Dev.nextThroughput (d : Dev) (p cls : Nat) : Option Cmd :=
  let l := d.eligibleOf p cls true
  let last := (d.part p).lastServed
  (List.range 16).findSome? (fun i => (l.filter (fun c => c.queue == (last + 1 + i) % 16)).head?)

/-- Array commands of a partition that are running. -/
def Dev.runningArrays (d : Dev) (p : Nat) : List Cmd :=
  d.cmds.filter (fun c => c.part == p && isArrayOp c.opcode && c.started && (c.state == .running || c.state == .replaying))

/-- Pre-empted commands of a partition, oldest first. -/
def Dev.preempted (d : Dev) (p : Nat) : List Cmd := d.cmds.filter (fun c => c.part == p && c.state == .preempted)

/-- R22: a further array command may start or resume: no command, or one that has dealt its last tile, is running. -/
def Dev.grainFree (d : Dev) (p : Nat) : Bool :=
  match d.runningArrays p with
  | [] => true
  | [c] => c.dealtLast
  | _ => false

/-- R50, R389: throughput array commands still hold units of the partition, or a Tack's save is not done. -/
def Dev.throughputHolds (d : Dev) (p : Nat) : Bool :=
  d.cmds.any (fun c => c.part == p && c.throughput && isArrayOp c.opcode && c.live && !c.work.copies.isEmpty) ||
  !(d.part p).saveCores.isEmpty

/-- R49, R50, R391, R557: the command that Halyard starts next in a class. -/
def Dev.startsNext (d : Dev) (p cls : Nat) : Option Cmd :=
  let s := d.earliest (d.eligibleOf p cls false)
  if cls = 0 then
    if !d.grainFree p then none
    else match s with
      | some c => if d.throughputHolds p || (d.runningArrays p).any (fun x => x.throughput && !x.dealtLast) then none else some c
      | none => if !(d.preempted p).isEmpty then none else d.nextThroughput p cls
  else match s with
    | some c => some c
    | none => d.nextThroughput p cls

/-! ### Folding (R51, R52, R73) -/

/-- R73: two commands are fold partners. -/
def Dev.foldPartners (d : Dev) (a b : Cmd) : Bool :=
  let noFold (c : Cmd) : Bool := (d.sessionOf c).any (·.noFold)
  a.planAddr == b.planAddr && a.u16 40 == b.u16 40 && a.entry.foldId == b.entry.foldId &&
  (List.range 64).all (fun i => !bit a.entry.shared i || (a.tensor i).raw == (b.tensor i).raw) &&
  (!(noFold a || noFold b) || (a.part == b.part && a.session == b.session))

/-- R51: the eligible partners of a session command in its partition, in the order of R49, with itself first. -/
def Dev.foldMembers (d : Dev) (c : Cmd) : List Cmd :=
  let l := d.cmds.filter (fun x => x.uid != c.uid && x.part == c.part && !x.throughput && d.eligible x && d.foldPartners c x)
  (c :: l.mergeSort (fun a b => !keyBefore (d.orderKey b) (d.orderKey a))).take 64

/-- R52: the commands that other partitions of the same fold group would start next and that fold with this one. -/
def Dev.foldAcross (d : Dev) (c : Cmd) : List Cmd :=
  let g := d.active (pgPART c.part) 0x04C
  if g = 0 || !isArrayOp c.opcode then []
  else (List.range 64).filterMap (fun q =>
    if q = c.part || d.active (pgPART q) 0x04C ≠ g then none
    else match d.startsNext q 0 with
      | some x => if !x.throughput && d.foldPartners c x then some x else none
      | none => none)

/-! ### Starting -/

/-- R553: the work area of a command is its own; what it holds when the command starts and ends is not stated. -/
def Dev.openWork (d : Dev) (c : Cmd) : Dev :=
  match (d.opCheck c c.image).work with
  | none => d
  | some (base, n) =>
    if n = 0 then d
    else
      let m := (d.coresOf c.part).foldl (fun m k => m.undefine (spdKey k (base * 65536)) (n * 65536) d.fresh) d.spd
      { d with spd := m, fresh := d.fresh + 1 }

/-- The bytes of some tensors of a command in HBM, or in host memory. -/
def Cmd.bytesOf (c : Cmd) (l : List Nat) (host : Bool) : Nat :=
  l.foldl (fun a i =>
    let t := c.tensor i
    if t.space = 0 && isHost t.addr == host then a + (t.count * t.format.width + 7) / 8 else a) 0

/-- The channel blocks that some tensors of a command lie in are counted as read or written on their stacks. -/
def Dev.countBlocks (d : Dev) (c : Cmd) (l : List Nat) (off : Nat) : Dev :=
  let ts := (l.map c.tensor).filter (fun t => t.space == 0 && !isHost t.addr)
  (ts.flatMap (fun t => d.tensorBlocks c.part t)).foldl (fun d b =>
    let d := d.bumpWide (pgHBM (stackOf b)) off 1
    if off = 0x804 then d.hbmInject (stackOf b) (b / 8388608 % 32) (b % 8388608) false (some c.uid) else d) d

/-- The scratchpad bytes that a data mover reads and writes for a COPY, by core. -/
def Dev.countMover (d : Dev) (c : Cmd) (l : List Nat) (write : Bool) : Dev :=
  ((l.map c.tensor).filter (fun t => t.space == 1)).foldl (fun d t =>
    (List.range t.count).foldl (fun d i =>
      match d.spdPlace c.part (t.bitAddr (coordsOf t.shape i) / 8) with
      | some q => d.modCore q.1 (fun x => if write then { x with moverWrite := x.moverWrite + t.format.width / 8 }
                                          else { x with moverRead := x.moverRead + t.format.width / 8 })
      | none => d) d) d

/-- A command's traffic is charged to it and to its window: each input read once and each output written once (log entry 26). -/
def Dev.chargeTraffic (d : Dev) (c : Cmd) : Dev × Cmd :=
  let k := d.opCheck c c.image
  let d := (d.countBlocks c k.inputs 0x804).countBlocks c k.outputs 0x80C
  let d := (((k.inputs ++ k.outputs).map c.tensor).filter (fun t => t.space == 0 && isHost t.addr)).foldl (fun d t => match t.footprint with
    | some (lo, hi) => d.atcFill c.part lo (hi + 1 - lo)
    | none => d) d
  let d := if c.opcode = 0x06 && !d.usesStacks c then (d.countMover c k.inputs false).countMover c k.outputs true else d
  let rd := c.bytesOf k.inputs false
  let wr := c.bytesOf k.outputs false
  let pc := c.bytesOf (k.inputs ++ k.outputs) true
  (d.modPart c.part (fun x => { x with window := { x.window with hbmRead := x.window.hbmRead + rd, hbmWrite := x.window.hbmWrite + wr,
                                                                 pcie := x.window.pcie + pc } }),
   { c with hbmBytes := c.hbmBytes + rd + wr })

/-- One command starts, in a fold set of the given members (R51, R81, R270). -/
def Dev.startOne (d : Dev) (fold : List Nat) (c : Cmd) : Dev :=
  let k := d.opCheck c c.image
  let c := { c with started := true, state := .running, startAt := d.now, copy := d.copyNow,
                    folded := decide (fold.length > 1), foldSet := if fold.length > 1 then fold else [] }
  let d := d.modPart c.part (fun x => if c.throughput then { x with lastServed := c.queue } else x)
  let past (k : PendingCommit) : PendingCommit := if commandClass k.page && d.usesPage c k.page then { k with passed := true } else k
  let d : Dev := { d with commits := d.commits.map past }
  if k.empty && !isControlOp c.opcode then
    let c : Cmd := if isArrayOp c.opcode then { c with occArray := 1024 } else { c with occVector := 1024 }
    (d.setCmd c).complete c stOK 0
  else
    let c : Cmd := if tiledOp c.opcode then { c with work := (d.opSpace c).startWork (d.coresOf c.part) } else c
    let c : Cmd := if c.opcode = 0x0C then d.mediaStart c else c
    let m := d.chargeTraffic c
    let c := m.2
    let d := (m.1.setCmd c).openWork c
    if c.opcode = 0x03 then d.atRetrieveNow c else d

/-- The command and those folded with it start. -/
def Dev.startFold (d : Dev) (c : Cmd) : Dev :=
  let across := if c.throughput || !tiledOp c.opcode then [] else d.foldAcross c
  let own := if c.throughput || !tiledOp c.opcode then [c] else d.foldMembers c
  let all := (own ++ across).take 64
  let d := if all.any (fun x => x.part != c.part) then
      (all.map (·.part)).eraseDups.foldl (fun d p => d.modPart p (fun x => { x with window := { x.window with foldAcross := true } })) d
    else d
  all.foldl (fun d x => d.startOne (all.map (·.uid)) x) d

/-- COMMAND_START: the command starts if it is the one the order gives, or completes as DEPENDENCY_FAILED (R76, R78). -/
def Dev.start (d : Dev) (u : Nat) : Dev :=
  match d.cmd? u with
  | none => d
  | some c =>
    if !d.ready c then d
    else match c.skipsFor with
      | some id => d.complete c stDEP id
      | none =>
        if !d.eligible c then d
        else if isControlOp c.opcode then d.startOne [u] c
        else match d.startsNext c.part c.unitClass with
          | some x => if x.uid = u then d.startFold c else d
          | none => d

/-! ### FENCE and TICK_WAIT (R79) -/

/-- R79: every command admitted before the fence into a named queue has committed. -/
def Dev.fenceOpen (d : Dev) (c : Cmd) : Bool :=
  !d.cmds.any (fun x => x.live && x.part == c.part && decide (x.uid < c.uid) && bit (c.u16 64) x.queue)

/-- The command FENCE. -/
def Dev.fenceRun (d : Dev) (u : Nat) : Dev :=
  match d.cmd? u with
  | some c => if c.opcode == 0x10 && c.started && c.live && d.fenceOpen c then d.complete c stOK 0 else d
  | none => d

/-- R79: the tick at which a TICK_WAIT commits. -/
def Cmd.waitTick (c : Cmd) : Nat := c.u64 64 + (if bit (c.u8 72) 0 then c.admitTick else 0)

/-- The command TICK_WAIT. -/
def Dev.tickWaitRun (d : Dev) (u : Nat) : Dev :=
  match d.cmd? u with
  | some c => if c.opcode == 0x11 && c.started && c.live && decide (c.waitTick ≤ d.tick.count) then d.complete c stOK 0 else d
  | none => d

/-- Every started TICK_WAIT whose tick has come commits. -/
def Dev.tickWaits (d : Dev) : Dev :=
  d.cmds.foldl (fun d c => d.tickWaitRun c.uid) d

end Sys2Proof.Machine
end

