-- ==== Sys2Proof/Machine/Tiles.lean ====
section
/-! DEFINITION. Tiles: dealing, hoisting, results on chip, cleat records, commit phases, command commit, leases and replay (R86-R89, R92, R175-R181, R202-R211, R255, R264-R278, R287, R302-R307). -/

namespace Sys2Proof

/-- A unit's core, its die, and whether it is an array. -/
def Engine.core : Engine → Nat
  | .arr a => a / 2
  | .vec n => n
def Engine.die (e : Engine) : Nat := e.core / 16
def Engine.isArr : Engine → Bool
  | .arr _ => true
  | .vec _ => false

end Sys2Proof

namespace Sys2Proof.Machine

/-! ### Records of a tile space -/

/-- The cleat record of a tile; none is OPEN (R273). -/
def Work.cleatOf (w : Work) (id : TileId) : Option Cleat := (w.cleat.find? (fun x => x.1 == id)).map (·.2)

def Work.setCleat (w : Work) (id : TileId) (v : Cleat) : Work :=
  { w with cleat := (id, v) :: w.cleat.filter (fun x => x.1 != id) }

def Work.done (w : Work) (id : TileId) : Bool := w.cleatOf id == some .committed

/-- The partition a unit serves. -/
def Dev.unitPart (d : Dev) (e : Engine) : Option Nat := d.ownerOf e.core

/-- R180, R188, R193, R272: a unit may take work. -/
def Dev.mayWork (d : Dev) (e : Engine) : Bool :=
  !(d.core e.core).zeroing && (match e with
    | .arr a => d.inService a && (d.array a).permit
    | .vec n => !(d.engines.getD n {}).outOfService)

/-- The units of a partition that serve a command. -/
def Dev.serving (d : Dev) (c : Cmd) : List Engine :=
  ((d.coresOf c.part).flatMap (fun n => if c.onVector then [Engine.vec n] else [Engine.arr (2 * n), Engine.arr (2 * n + 1)])).filter d.mayWork

/-- The last part of an output tile that is not a second-stage tile. -/
def TileSpace.lastPart (t : TileSpace) (rank : Nat) : Nat := t.parts rank - 1

/-- Grid and band of a tile. -/
def TileSpace.bandOf (t : TileSpace) (id : TileId) : Nat × Nat :=
  if id.sub = secondSub then
    let gb := id.rank / max 1 t.secondBlocks
    (gb / max 1 t.bands, gb % max 1 t.bands)
  else let c := t.cell id.rank; (c.1, c.2.1)

/-- The ranks of a band of a grid, in FINISH order (R257). -/
def TileSpace.bandRanks (t : TileSpace) (gb : Nat × Nat) : List Nat :=
  (List.range t.blocks).map (fun n => gb.1 * t.perGrid + gb.2 * t.blocks + n)

/-- Every first-stage tile of a band has committed. -/
def Work.bandDone (w : Work) (t : TileSpace) (gb : Nat × Nat) : Bool :=
  (t.bandRanks gb).all (fun k => w.done ⟨k, t.lastPart k⟩)

/-- Every second-stage tile of a band has committed. -/
def Work.secondDone (w : Work) (t : TileSpace) (gb : Nat × Nat) : Bool := (t.bandSecond gb.1 gb.2).all w.done

/-- R303: the home core of a band. -/
def Dev.homeCore (d : Dev) (p band : Nat) : Nat :=
  let cores := d.coresOf p
  cores.getD (band % max 1 cores.length) 0

/-- R266: the core that holds the combine slots of an output tile. -/
def Dev.slotCore (d : Dev) (c : Cmd) (t : TileSpace) (rank : Nat) : Nat :=
  let cell := t.cell rank
  let off := (c.tensor c.mCombine).bitAddr (c.mCoord cell.1 (cell.2.1 * t.mt) (cell.2.2 * t.nt)) / 8
  ((d.spdPlace c.part off).map (·.1)).getD 0

/-! ### Combines (R207-R211) -/

/-- One lane of a combine. -/
def combineLane (ftz integer : Bool) (first : Bool) (old s : Word) : Num Word :=
  if first then return s else combineWord ftz integer old s

/-- An op-write on `k` banks of core n is counted (Tables 2-9 and 7-6). -/
def Dev.countBalu (d : Dev) (n k : Nat) : Dev :=
  let d := (d.bump (pgSPD n) 0x81C 1).bumpWide (pgSPD n) 0x820 k
  match d.ownerOf n with
  | some p => d.modPart p (fun x => { x with window := { x.window with bankAluCycles := x.window.bankAluCycles + k } })
  | none => d

/-- A combine on a slot of core n: accepted, with its flags, or not (R209, R210). -/
def Dev.combineSlot (d : Dev) (ftz : Bool) (n l : Nat) (o : CombineOp) : Option (Dev × NumFlags) :=
  let slot := l / 256
  let t := d.tag n slot
  if t.full || (!o.arrival && t.seq != o.group) then none
  else
    let old (i : Nat) : Word := BitVec.ofNat 32 (leNat (d.spd.readBytes (spdKey n (slot * 256 + 4 * i)) 4))
    let first := t.seq == 0
    let r := ((List.range o.words.length).mapM (fun i => combineLane ftz o.integer first (old i) (o.words.getD i 0))).run {}
    let bytes := r.1.flatMap (fun w => toLe 4 w.toNat)
    let seq := t.seq + 1
    let d : Dev := { d with spd := d.spd.writeBytes (spdKey n (slot * 256)) bytes }
    let d := d.setTag n slot (if seq = o.groups then ⟨true, 0⟩ else ⟨false, seq⟩)
    some (d.countBalu n 4, r.2)

/-- The combines of a tile that are accepted now, the rest of them, and the flags. -/
def Dev.combineAll (d : Dev) (p : Nat) (ftz : Bool) : List CombineOp → Dev × List CombineOp × NumFlags
  | [] => (d, [], {})
  | o :: r =>
    match (d.spdPlace p o.off).bind (fun q => d.combineSlot ftz q.1 q.2 o) with
    | none => let x := d.combineAll p ftz r; (x.1, o :: x.2.1, x.2.2)
    | some (d, f) => let x := d.combineAll p ftz r; (x.1, x.2.1, f.or x.2.2)

/-! ### Tagged tensors (R202-R204) -/

/-- The slots (core, slot) of the tagged tensors of a list, the combine tensor apart. -/
def Dev.taggedSlots (d : Dev) (c : Cmd) (l : List Nat) : List (Nat × Nat) :=
  (l.filter (fun i => (c.tensor i).tagged && !(c.opcode == 0x01 && c.mSplit != 0 && i == c.mCombine))).flatMap
    (fun i => d.slotsOf c.part (c.tensor i))

/-- R202: every slot of the tagged inputs is FULL, and those of a finish tile's combine tensor too. -/
def Dev.inputsFull (d : Dev) (c : Cmd) : Bool :=
  (d.taggedSlots c (d.opCheck c c.image).inputs).all (fun s => (d.tag s.1 s.2).full)

/-- The tagged output slots that some writes touch, and whether they cover all of each slot's 256 bytes. -/
def Dev.tagWrites (d : Dev) (c : Cmd) (ws : List ElemWrite) : List ((Nat × Nat) × Bool) :=
  let outs := d.taggedSlots c (d.opCheck c c.image).outputs
  if outs.isEmpty then []
  else
    let bytes := ((ws.filter (fun w => w.space == 1)).flatMap (fun w =>
      (List.range ((w.bitAddr % 8 + w.width + 7) / 8)).map (fun k => w.bitAddr / 8 + k))).eraseDups
    let places := bytes.filterMap (fun b => (d.spdPlace c.part b).map (fun q => (q.1, q.2 / 256)))
    outs.eraseDups.filterMap (fun s => let n := places.count s; if n = 0 then none else some (s, n == 256))

/-- R203: some tagged writes are accepted: every slot is EMPTY with SEQ 0. -/
def Dev.writesOpen (d : Dev) (l : List ((Nat × Nat) × Bool)) : Bool := l.all (fun s => d.tag s.1.1 s.1.2 == {})

/-- The slots a tile covers become FULL. -/
def Dev.fillSlots (d : Dev) (l : List ((Nat × Nat) × Bool)) : Dev :=
  l.foldl (fun d s => if s.2 then d.setTag s.1.1 s.1.2 ⟨true, 0⟩ else d) d

/-- At the commit of a command: slots that its tagged outputs touched and its tiles did not each cover become FULL, and the slots it read
through tagged inputs become EMPTY with SEQ 0 (R203, R204). -/
def Dev.settleTags (d : Dev) (c : Cmd) : Dev :=
  let k := d.opCheck c c.image
  let d := (d.taggedSlots c k.outputs).foldl (fun d s => d.setTag s.1 s.2 ⟨true, 0⟩) d
  (d.taggedSlots c k.inputs).foldl (fun d s => d.setTag s.1 s.2 {}) d

/-! ### Host memory of a command -/

/-- A read of a host operand that is not issued or fails: its address (R92, R478). The test takes whole footprints. -/
def Dev.inputFails (d : Dev) (env : Env) (c : Cmd) : Option (Nat × ReadFail) :=
  (d.opCheck c c.image).inputs.findSome? (fun i =>
    let t := c.tensor i
    if t.space = 1 then none
    else match t.footprint with
      | some (lo, hi) =>
        if !isHost lo then none
        else match d.hostRequest env c.part lo (hi + 1 - lo) false with
          | .error e => some (lo, e)
          | .ok _ => none
      | none => none)

/-- A write to host memory that is not issued or fails. -/
def Dev.writeFails (d : Dev) (env : Env) (c : Cmd) (ws : List ElemWrite) : Option (Nat × ReadFail) :=
  ws.findSome? (fun w =>
    let a := w.bitAddr / 8
    if w.space = 1 || !isHost a then none
    else match d.hostRequest env c.part a ((w.bitAddr % 8 + w.width + 7) / 8) true with
      | .error e => some (a, e)
      | .ok _ => none)

/-! ### Command commit (R88) -/

/-- Counters of a committed command's random numbers (Table 13-9). -/
def Dev.countRandom (d : Dev) (c : Cmd) : Dev :=
  if c.opcode = 0x07 then d.bump (pgRNG c.part) 0x888 1
  else if c.opcode = 0x08 then
    let d := (d.bump (pgRNG c.part) 0x88C c.saRows).bump (pgRNG c.part) 0x890 c.detail
    if c.detail = 0 then d else d.raise (pgRNG c.part) 0
  else d

/-- All tiles have committed: the command commits. -/
def Dev.commitCmd (d : Dev) (c : Cmd) : Dev :=
  let d := (d.settleTags c).countRandom c
  let d := if c.arrival then d.sticky c.part 3 true else d
  d.complete c stOK 0

/-! ### A tile's commit phase (R86, R87, R265, R301) -/

/-- What a tile hands to a reduction of its job, or to the other member of a send/receive (R301). -/
def Dev.handSends (d : Dev) (c : Cmd) (r : TileResult) : Dev :=
  if r.sends.isEmpty then d
  else if c.sendMode = 1 then
    match (d.waitingReduce c.part c.sendJob).bind d.cmd? with
    | some x => d.setCmd { x with contrib := x.contrib ++ r.sends }
    | none => d
  else { d with sent := .elements c.sendJob c.uid r.sends :: d.sent }

/-- What becomes due when a tile has committed: the next segment, the finish tile, or the second stage of its band (R255, R266, R303, R306). -/
def Dev.makeDue (d : Dev) (c : Cmd) (t : TileSpace) (id : TileId) (core : Nat) : Dev × Work :=
  let w := c.work
  if id.sub = secondSub then (d, w)
  else if t.splits > 0 then
    if id.sub < t.splits && (List.range t.splits).all (fun g => w.done ⟨id.rank, g⟩) then
      (d, { w with due := w.due ++ [(⟨id.rank, t.splits⟩, d.slotCore c t id.rank)] })
    else (d, w)
  else if id.sub < t.lastPart id.rank then
    (d, { w with due := w.due ++ [(⟨id.rank, id.sub + 1⟩, core)] })
  else
    let gb := t.bandOf id
    if t.second > 0 && w.bandDone t gb then
      let home := d.homeCore c.part gb.2
      let put (x : DieWork) : DieWork := if x.die = home / 16 then { x with reissue := x.reissue ++ t.bandSecond gb.1 gb.2 } else x
      (if c.statAt.isSome then d.bump (pgVEC home) 0x808 1 else d, { w with dies := w.dies.map put })
    else (d, w)

/-- Counters of a committed tile on its unit and die. -/
def Dev.countCommit (d : Dev) (t : TileSpace) (id : TileId) (e : Engine) : Dev :=
  match e with
  | .vec n => d.bump (pgVEC n) 0x804 1
  | .arr a =>
    let d := (d.modArray a (fun x => { x with failRun := 0 })).bump (pgARR a) 0x804 1
    let d := d.bump (pgHAL (e.die)) 0x808 1
    let d := if id.sub != secondSub && t.splits == 0 && decide (id.sub < t.lastPart id.rank) then d.bump (pgHAL e.die) 0x824 1 else d
    if t.splits > 0 && id.sub == t.splits then d.bump (pgHAL e.die) 0x828 1 else d

/-- A span of cycles joined to a list of spans that do not touch. -/
def joinSpan (l : List (Nat × Nat)) (x : Nat × Nat) : List (Nat × Nat) :=
  let meets (y : Nat × Nat) : Bool := decide (y.1 ≤ x.2) && decide (x.1 ≤ y.2)
  (l.filter meets).foldl (fun a y => (min a.1 y.1, max a.2 y.2)) x :: l.filter (fun y => !meets y)

/-- The cycles of some spans. -/
def spanTotal (l : List (Nat × Nat)) : Nat := l.foldl (fun a x => a + (x.2 - x.1)) 0

/-- Occupancy: the cycles in which units hold tiles of the command; of a folded operation, its share by rows (Table 3-11, log entry 26). -/
def Dev.occupied (d : Dev) (c : Cmd) (spans : List (Nat × Nat)) : Cmd :=
  let rows (x : Cmd) : Nat := (d.opSpace x).grids * (d.opSpace x).rows
  let others := d.cmds.filter (fun x => x.uid != c.uid && c.foldSet.contains x.uid)
  let all := others.foldl (fun a x => x.spans.foldl joinSpan a) spans
  let o := if others.isEmpty then spanTotal spans else spanTotal all * rows c / max 1 ((c :: others).foldl (fun a x => a + rows x) 0)
  if c.onVector then { c with spans := spans, occVector := o } else { c with spans := spans, occArray := o }

/-- The spans with a committed tile's: from the cycle its copy was dealt. -/
def Dev.spansWith (d : Dev) (c : Cmd) (id : TileId) (e : Engine) : List (Nat × Nat) :=
  match c.work.copies.find? (fun x => x.tile == id && x.unit == e) with
  | some x => joinSpan c.spans (x.dealt, d.now)
  | none => c.spans

/-! ### OVERRUN (R55) -/

/-- The command's measured occupancy has passed its declared worst case. -/
def Cmd.overruns (c : Cmd) : Bool := decide (c.occArray > c.entry.wcArray) || decide (c.occVector > c.entry.wcVector)

/-- The command as measured with the tiles its units hold: a tile in hand takes all its cycles (log entry 26). -/
def Dev.measured (d : Dev) (c : Cmd) : Cmd :=
  let t := d.opSpace c
  if tiledOp c.opcode then d.occupied c (c.work.copies.foldl (fun l x => joinSpan l (x.dealt, x.dealt + t.cycles x.tile)) c.spans) else c

/-- A session command whose measured occupancy passes its worst case moves to the throughput class. -/
def Dev.overrunIf (d : Dev) (u : Nat) (measure : Cmd → Cmd) : Dev :=
  match d.cmd? u with
  | some c =>
    if c.live && c.started && c.sessionValid && !c.throughput && (measure c).overruns then
      ((d.setCmd { c with throughput := true }).bump (pgPART c.part) 0x82C 1).raise (pgPART c.part) 4
    else d
  | none => d

/-- The command OVERRUN: while tiles in hand carry it past the worst case. Otherwise the move comes with the tile that carries it past. -/
def Dev.overrun (d : Dev) (u : Nat) : Dev := d.overrunIf u d.measured

/-- A tile's writes are done: its record becomes COMMITTED, and the command commits with its last tile. -/
def Dev.tileDone (d : Dev) (u : Nat) (id : TileId) (e : Engine) (r : TileResult) (flags : NumFlags) : Dev :=
  match d.cmd? u with
  | none => d
  | some c =>
    let t := d.opSpace c
    let w := c.work.setCleat id .committed
    let w := { w with committed := w.committed + 1, copies := w.copies.filter (fun x => !(x.tile == id)),
                      held := if r.held.isEmpty then w.held else (id, r.held) :: w.held,
                      dies := w.dies.map (fun x => { x with reissue := x.reissue.filter (· != id) }),
                      due := w.due.filter (fun x => x.1 != id),
                      slots := if decide (id.sub = t.lastPart id.rank) then w.slots.filter (fun x => x.2.2 != id.rank) else w.slots }
    let c := d.occupied { c with work := w, flags := (c.flags.or r.flags).or flags, detail := c.detail + r.detail } (d.spansWith c id e)
    let d := d.modPart c.part (fun x => { x with window := if e.isArr then { x.window with arrayCycles := x.window.arrayCycles + t.cycles id }
                                                           else { x.window with vectorCycles := x.window.vectorCycles + t.cycles id } })
    let m := (d.countCommit t id e).makeDue c t id e.core
    let c := { c with work := m.2 }
    let d := ((m.1.setCmd c).handSends c r).overrunIf u (fun x => x)
    if w.committed = w.total then (d.cmd? u).elim d d.commitCmd else d

/-- The combine slots of an output tile. -/
def Dev.combineSlots (d : Dev) (c : Cmd) (t : TileSpace) (rank : Nat) : List (Nat × Nat) :=
  let cell := t.cell rank
  ((List.range (t.bandRows cell.2.1)).flatMap (fun i => (List.range (ceilDiv (t.blockCols cell.2.2) 64)).filterMap (fun s =>
    (d.spdPlace c.part ((c.tensor c.mCombine).bitAddr (c.mCoord cell.1 (cell.2.1 * t.mt + i) (cell.2.2 * t.nt + 64 * s)) / 8)).map
      (fun q => (q.1, q.2 / 256))))).eraseDups

/-- The commit phase of a result: its writes and op-writes, then its record. It goes on later if a slot is not ready. -/
def Dev.commitResult (d : Dev) (u : Nat) (id : TileId) (e : Engine) (r : TileResult) : Dev × Bool :=
  match d.cmd? u with
  | none => (d, false)
  | some c =>
    let tags := d.tagWrites c r.writes
    if !d.writesOpen tags then (d, false)
    else
      let x := d.combineAll c.part c.ftz r.combines
      if !x.2.1.isEmpty then
        let keep (y : Copy) : Copy := if y.tile == id && y.claimed then
          { y with result := { y.result with combines := x.2.1, flags := y.result.flags.or x.2.2 } } else y
        (x.1.setCmd { c with work := { c.work with copies := c.work.copies.map keep } }, false)
      else
        let d := (x.1.applyWrites c.part r.writes).fillSlots tags
        -- a finish tile returns its slots to EMPTY with SEQ 0 (R266)
        let t := d.opSpace c
        let d := if c.opcode = 0x01 && t.splits > 0 && id.sub = t.splits then
            (d.combineSlots c t id.rank).foldl (fun d s => d.setTag s.1 s.2 {}) d else d
        (d.tileDone u id e r x.2.2, true)
end Sys2Proof.Machine
end

