-- ==== Sys2Proof/Machine/Deal.lean ====
section
/-! DEFINITION. Dealing and events of tiles: kills, ends of commands, TAKE_WORK, the hoist, results on chip, TILE_COMMIT, leases, abandoned groups and array checks (R86, R92, R174-R189, R255, R268-R278). -/

namespace Sys2Proof.Machine

/-! ### Kills and ends (R86, R92, R174, R276) -/

/-- The die whose range holds a tile: that of its rank, or of its band's home core (R269, R303). -/
def Dev.tileDie (d : Dev) (c : Cmd) (t : TileSpace) (id : TileId) : Nat :=
  if id.sub = secondSub then d.homeCore c.part (t.bandOf id).2 / 16
  else
    let n (x : DieWork) : Nat := if t.splits > 0 then x.units / t.splits else x.units
    ((c.work.dies.find? (fun x => decide (x.first ≤ id.rank) && decide (id.rank < x.first + n x))).map (·.die)).getD 0

/-- A tile whose copies are gone and whose record is OPEN goes back: a continuation or finish tile becomes due on the core that holds its
slot, any other tile goes on its die's reissue list (R276). -/
def Dev.reopen (d : Dev) (c : Cmd) (id : TileId) : Cmd :=
  let w := c.work
  let t := d.opSpace c
  if (w.cleatOf id).isSome || w.copies.any (fun x => x.tile == id) || w.due.any (fun x => x.1 == id) then c
  else if t.splits > 0 && id.sub == t.splits then { c with work := { w with due := w.due ++ [(id, d.slotCore c t id.rank)] } }
  else if t.splits == 0 && id.sub != secondSub && id.sub != 0 then
    let core := ((w.slots.find? (fun s => s.2.2 == id.rank)).map (·.1)).getD 0
    { c with work := { w with due := w.due ++ [(id, core)] } }
  else
    let die := d.tileDie c t id
    let put (x : DieWork) : DieWork := if x.die = die && !x.reissue.contains id then { x with reissue := x.reissue ++ [id] } else x
    { c with work := { w with dies := w.dies.map put } }

/-- Count a killed tile on its unit. -/
def Dev.countKill (d : Dev) (e : Engine) (byError : Bool) : Dev :=
  match e with
  | .arr a => d.bump (pgARR a) (if byError then 0x808 else 0x80C) 1
  | .vec _ => d

/-- A save slot reserved by a copy of a first segment is given back (R254). -/
def Work.unreserve (w : Work) (x : Copy) : Work :=
  if x.tile.sub = 0 then
    match w.slots.find? (fun s => s.1 == x.unit.core && s.2.2 == x.tile.rank) with
    | some s => { w with slots := w.slots.erase s }
    | none => w
  else w

/-- A copy that has not claimed is killed, and its tile goes back. -/
def Dev.killCopy (d : Dev) (u : Nat) (x : Copy) (byError : Bool) : Dev :=
  match d.cmd? u with
  | none => d
  | some c =>
    let w := { c.work with copies := c.work.copies.filter (· != x) }
    let c := { c with work := w.unreserve x }
    let c := d.reopen c x.tile
    (d.setCmd c).countKill x.unit byError

/-- A copy is killed to be run again: REPLAYED, and the window's count (R92). -/
def Dev.replayCopy (d : Dev) (u : Nat) (x : Copy) (byError : Bool) : Dev :=
  let d := d.killCopy u x byError
  match d.cmd? u with
  | none => d
  | some c =>
    let d := d.setCmd { c with replayed := true }
    d.modPart c.part (fun y => { y with window := { y.window with replays := y.window.replays + 1 } })

/-- The commit phases of a command's claimed tiles finish (R86). -/
def Dev.finishClaims (d : Dev) (u : Nat) : Dev :=
  match d.cmd? u with
  | none => d
  | some c => (c.work.copies.filter (·.claimed)).foldl (fun d x =>
      match d.cmd? u with
      | none => d
      | some c => if !c.live then d
        else match c.work.copies.find? (fun y => y.claimed && y.tile == x.tile) with
          | some y => (d.commitResult u y.tile y.unit y.result).1
          | none => d) d

/-- A command is stopped with a status: tiles in their commit phase finish, the others are killed (R66, R86, R89). -/
def Dev.endCmd (d : Dev) (u st detail : Nat) : Dev :=
  let d := d.finishClaims u
  match d.cmd? u with
  | none => d
  | some c =>
    if !c.live then d
    else
      let d := c.work.copies.foldl (fun d x => d.countKill x.unit false) d
      let c := { c with work := { c.work with copies := [], runs := [] } }
      (d.setCmd c).complete c st detail

/-- A command's data is lost: an error-log entry, and the command fails (R92, R240, R478). -/
def Dev.loseCmd (d : Dev) (u : Nat) (e : LogEntry) : Dev :=
  match d.cmd? u with
  | none => d
  | some c =>
    let e := { e with cmdId := c.id, queue := c.queue, part := c.part }
    let seq := d.logSeq e
    (d.log e).endCmd u stLOST seq

/-- The command loses a host request. -/
def Dev.loseHost (d : Dev) (u : Nat) (a : Nat) (e : ReadFail) : Dev :=
  match d.cmd? u with
  | none => d
  | some c => (d.hostRefused c.part e).loseCmd u (hostEntry c.part e.cause a 3 c.part c.id c.queue)

/-! ### Dealing (R269-R278) -/

/-- The unclaimed copies a unit holds, of any command, oldest first. -/
def Dev.holding (d : Dev) (e : Engine) : List (Nat × Copy) :=
  let l := d.cmds.flatMap (fun c => (c.work.copies.filter (fun x => x.unit == e && !x.claimed)).map (fun x => (c.uid, x)))
  l.mergeSort (fun a b => decide (a.2.dealt ≤ b.2.dealt))

/-- The claimed copies of a unit. -/
def Dev.claimedOn (d : Dev) (e : Engine) : List (Nat × Copy) :=
  d.cmds.flatMap (fun c => (c.work.copies.filter (fun x => x.unit == e && x.claimed)).map (fun x => (c.uid, x)))

/-- The bands (grid, band) of a command that hold a buffer of a home core: dealt from, and not all of their second stage committed (R303). -/
def Work.openBands (w : Work) (t : TileSpace) : List (Nat × Nat) :=
  let ids := (w.copies.map (·.tile) ++ w.cleat.map (·.1)).filter (fun id => id.sub != secondSub)
  ((ids.map t.bandOf).eraseDups).filter (fun gb => !w.secondDone t gb)

/-- Whether a tile may be dealt to a unit now: a free save slot (R255), a free band buffer (R303), the limits of row-band order (R278), and
at most two copies (R275). -/
def Dev.canDeal (d : Dev) (c : Cmd) (t : TileSpace) (e : Engine) (id : TileId) : Bool :=
  let w := c.work
  let gb := t.bandOf id
  let first := id.sub != secondSub
  let slotOk := !(first && id.sub == 0 && t.splits == 0 && decide (t.lastPart id.rank > 0)) ||
    decide ((w.slots.filter (fun s => s.1 == e.core)).length < 2)
  let bandOk := if !first || t.second = 0 || d.fallback c then true
    else if c.chainEn then
      let home := d.homeCore c.part gb.2
      let others := (w.openBands t).filter (fun x => d.homeCore c.part x.2 == home)
      others.contains gb || decide (others.length < 2)
    else
      let i := gb.1 * t.bands + gb.2
      let prev := i - 2
      (decide (i < 2) || w.secondDone t (prev / max 1 t.bands, prev % max 1 t.bands)) &&
      decide ((w.given.filter (fun g => g.1 == e && g.2 == gb)).length < ceilDiv t.blocks (max 1 (d.arraysOf c.part).length))
  slotOk && bandOk && decide ((w.copies.filter (fun x => x.tile == id)).length < 2) && (w.cleatOf id).isNone

/-- Arrays of a partition on a die. -/
def Dev.arraysOnDie (d : Dev) (p die : Nat) : Nat := ((d.arraysOf p).filter (fun a => a / 32 == die)).length

/-- R271: the run length for a take from a die by a unit of another or the same die. -/
def Dev.runLength (d : Dev) (c : Cmd) (t : TileSpace) (asking : Nat) (x : DieWork) : Nat :=
  if t.finish || !(c.opcode == 0x01 || c.opcode == 0x02) || c.onVector then 1
  else min (bits ((d.viewOf c).active (pgHAL asking) 0x044) 0 5) (max 1 (x.units / max 1 (d.arraysOnDie c.part x.die)))

/-- The tile of a die-local unit. -/
def TileSpace.ofUnit (t : TileSpace) (x : DieWork) (i : Nat) : TileId :=
  t.unitTile x.first (if t.splits > 0 then x.units / t.splits else x.units) i

/-- Replace a die's counters. -/
def Work.setDie (w : Work) (x : DieWork) : Work := { w with dies := w.dies.map (fun y => if y.die = x.die then x else y) }

/-- A run from the front of a die (R270). -/
def TileSpace.takeFront (t : TileSpace) (x : DieWork) (run : Nat) : DieWork × List TileId :=
  if x.front < x.back then
    let hi := min (x.front + run) x.back
    ({ x with front := x.front + run }, (List.range (hi - x.front)).map (fun k => t.ofUnit x (x.front + k)))
  else (x, [])

/-- A run from the back of a die (R270). -/
def TileSpace.takeBack (t : TileSpace) (x : DieWork) (run : Nat) : DieWork × List TileId :=
  if x.front < x.back then
    let nb := max (x.back - run) x.front
    ({ x with back := nb }, (List.range (x.back - nb)).map (fun k => t.ofUnit x (nb + k)))
  else (x, [])

/-- What a unit takes of a command: the tile, the work that remains, and the die it took units from. -/
abbrev Taken := TileId × Work × Option (Nat × Nat)

/-- R272: steps 1 to 5 for one command; `counters` says whether it still deals from its counters (R22). -/
def Dev.takeFrom (d : Dev) (c : Cmd) (e : Engine) (counters : Bool) : Option Taken :=
  let t := d.opSpace c
  let w := c.work
  let die := e.die
  let ok := d.canDeal c t e
  let takeEn := bit ((d.viewOf c).active (pgHAL die) 0x048) 0
  let coreOut (n : Nat) : Bool := !d.inService (2 * n) && !d.inService (2 * n + 1)
  let due := w.due.find? (fun x => (x.2 == e.core || (x.1.sub == t.splits && decide (t.splits > 0) && coreOut x.2)) && ok x.1)
  let reissueOf (v : Nat) : Option Taken :=
    (w.dies.find? (fun x => x.die == v)).bind (fun x => (x.reissue.find? ok).map (fun id =>
      (id, w.setDie { x with reissue := x.reissue.erase id }, none)))
  let fromRun (l : DieWork × List TileId) (given : Option (Nat × Nat)) : Option Taken :=
    match l.2 with
    | [] => none
    | id :: rest => if ok id then
        some (id, { w.setDie l.1 with runs := if rest.isEmpty then w.runs else (e, rest) :: w.runs }, given) else none
  match due with
  | some x => some (x.1, { w with due := w.due.erase x }, none)
  | none =>
    match w.runs.find? (fun r => r.1 == e) with
    | some (_, id :: rest) =>
      let others := w.runs.filter (fun r => r.1 != e)
      if ok id then some (id, { w with runs := if rest.isEmpty then others else (e, rest) :: others }, none) else none
    | _ =>
      match reissueOf die with
      | some x => some x
      | none =>
        let own := (w.dies.find? (fun x => x.die == die)).bind (fun x =>
          if counters then fromRun (t.takeFront x (d.runLength c t die x)) none else none)
        match own with
        | some x => some x
        | none =>
          if !takeEn then none
          else match ((List.range 4).filter (· != die)).findSome? reissueOf with
            | some x => some x
            | none =>
              if !counters then none
              else
                let left (x : DieWork) : Nat := x.back - x.front
                let best := (w.dies.filter (fun x => x.die != die && decide (left x > 0))).foldl (fun a x =>
                  match a with
                  | none => some x
                  | some b => if left x > left b then some x else some b) (none : Option DieWork)
                best.bind (fun x =>
                  let l := t.takeBack x (d.runLength c t die x)
                  fromRun l (some (x.die, l.2.length)))

/-- Nothing is left in the counters or in runs. -/
def Work.allDealt (w : Work) : Bool := w.dies.all (fun x => decide (x.back ≤ x.front)) && w.runs.isEmpty

/-- R283: an engine loads the program image of a tile unless it holds it. -/
def Dev.loadProgram (d : Dev) (c : Cmd) (e : Engine) : Dev :=
  match e with
  | .arr _ => d
  | .vec n =>
    if c.opcode ≠ 0x04 then d
    else
      let key := (c.vpAddr, fieldAt c.image 4 4)
      let x := d.engines.getD n {}
      if bit ((d.viewOf c).active (pgVEC n) 0x040) 0 && x.prog == some key then d
      else ({ d with engines := d.engines.set n { x with prog := some key } } : Dev).bump (pgVEC n) 0x814 1

/-- R175, R177, R179: a tile dealt to an array that is not hoisted waits for raising. -/
def ArrayState.dealt (x : ArrayState) (now : Nat) : ArrayState :=
  match x.hoist with
  | .lowered => { x with hoist := .waiting, since := now }
  | _ => x

/-- A copy of a tile is dealt to a unit (R254, R275, Table 9-4). -/
def Dev.deal (d : Dev) (c : Cmd) (e : Engine) (k : Taken) : Dev :=
  let id := k.1
  let t := d.opSpace c
  let tc := if c.entry.tileCycles = 0 then 32768 else c.entry.tileCycles
  let lease := d.now + bits ((d.viewOf c).active (pgHAL e.die) 0x040) 0 4 * tc
  let w := k.2.1
  let seg := id.sub == 0 && t.splits == 0 && decide (t.lastPart id.rank > 0)
  let taken := (w.slots.filter (fun s => s.1 == e.core)).map (·.2.1)
  let w := { w with copies := w.copies ++ [{ tile := id, unit := e, dealt := d.now, lease := lease }],
                    slots := if seg then w.slots ++ [(e.core, if taken.contains 0 then 1 else 0, id.rank)] else w.slots,
                    given := if c.statAt.isSome && id.sub != secondSub then (e, t.bandOf id) :: w.given else w.given }
  let d := (d.setCmd { c with work := w, dealtLast := w.allDealt }).bump (pgCORE e.core) 0x804 1
  let d := d.loadProgram c e
  match e with
  | .vec _ => d
  | .arr a =>
    let d := (d.modArray a (fun x => x.dealt d.now)).bump (pgHAL e.die) 0x804 1
    match k.2.2 with
    | none => d
    | some (v, n) => (d.bump (pgHAL e.die) 0x80C n).bump (pgHAL v) 0x810 n

/-- The running commands whose tiles a unit of a partition takes, older first. -/
def Dev.dealingTo (d : Dev) (p : Nat) (e : Engine) : List Cmd :=
  d.cmds.filter (fun c => c.part == p && c.started && (c.state == .running || c.state == .replaying) && tiledOp c.opcode &&
    c.onVector == !e.isArr)

/-- A command has begun dealing. -/
def Cmd.begun (c : Cmd) : Bool := !c.work.copies.isEmpty || !c.work.cleat.isEmpty

/-- The command TAKE_WORK (R22, R272). An array holds at most two tiles, an engine one. -/
def Dev.takeWork (d : Dev) (e : Engine) : Dev :=
  match d.unitPart e with
  | none => d
  | some p =>
    if !d.mayWork e || decide ((d.holding e).length ≥ (if e.isArr then 2 else 1)) then d
    else
      let l := d.dealingTo p e
      let newerBegun (c : Cmd) : Bool := e.isArr && l.any (fun x => decide (x.uid > c.uid) && x.begun)
      match l.findSome? (fun c => (d.takeFrom c e (!newerBegun c)).map (fun k => (c, k))) with
      | some (c, k) => d.deal c e k
      | none => d

/-! ### The hoist (R175-R180) -/

/-- `ARR.HOIST.CYCLES` of an array. -/
def Dev.hoistCycles (d : Dev) (a : Nat) : Nat := bits (d.active (pgARR a) 0x040) 0 8

/-- The command HOIST_RAISE (R178): at most eight arrays of a die begin in a span, the lower number first. -/
def Dev.hoistRaise (d : Dev) (a : Nat) : Dev :=
  let x := d.array a
  let die := (List.range 32).map (fun i => 32 * (a / 32) + i)
  let raising := (die.filter (fun b => (d.array b).hoist == .raising)).length
  let first := die.find? (fun b => (d.array b).hoist == .waiting && (d.array b).permit)
  if x.hoist == .waiting && x.permit && !x.outOfService && decide (raising < 8) && first == some a then
    let d := (d.bump (pgARR a) 0x830 1).bump (pgARR a) 0x834 (d.now - x.since)
    d.modArray a (fun y => { y with hoist := .raising, since := d.now })
  else d

/-- The command HOIST_RAISE_END. A raised array is cold: it has no previous weight tile (R170). -/
def Dev.hoistRaiseEnd (d : Dev) (a : Nat) : Dev :=
  let x := d.array a
  if x.hoist == .raising then
    let t := max d.now (x.since + d.hoistCycles a)
    ({ d with now := t } : Dev).modArray a (fun y => { y with hoist := .hoisted, since := t, warm := false, lastWrite := t })
  else d

/-- The command HOIST_LOWER (R177, R180): an array without a tile lowers 256 cycles after its last accumulator write, or at once without a
permit; the cycles since then were idle fill. -/
def Dev.hoistLower (d : Dev) (a : Nat) : Dev :=
  let x := d.array a
  if x.hoist == .hoisted && (d.holding (.arr a)).isEmpty then
    let t := if x.permit then max d.now (x.lastWrite + 256) else d.now
    let idle := if x.permit then t - x.lastWrite else 0
    (({ d with now := t } : Dev).bumpWide (pgARR a) 0x828 idle).modArray a (fun y => { y with hoist := .lowering, since := t })
  else d

/-- The command HOIST_LOWER_END (R179). -/
def Dev.hoistLowerEnd (d : Dev) (a : Nat) : Dev :=
  let x := d.array a
  if x.hoist == .lowering then
    let t := max d.now (x.since + d.hoistCycles a)
    let next := if (d.holding (.arr a)).isEmpty then Hoist.lowered else .waiting
    ({ d with now := t } : Dev).modArray a (fun y => { y with hoist := next, since := t })
  else d

/-! ### Results on chip (R170-R173, R274, R560) -/

/-- When the result of an array's tile is on chip, and the array's state with it: Table 6-2 with the schedule of R170, or R560. -/
def ArrayState.stream (x : ArrayState) (t : TileSpace) (id : TileId) (dealt : Nat) : Nat × ArrayState :=
  let start := max dealt x.since
  let n := t.cycles id
  let bypass := t.bypass || (t.splits > 0 && id.sub == t.splits) || (id.sub == secondSub && t.chainR == 0)
  if bypass then
    let first := max start x.lastEmit + 1
    let due := first + (n - 1) + 33
    (due, { x with lastEmit := due, lastWrite := due })
  else
    let rows := t.bandRows (t.bandOf id).2
    let r := if id.sub = secondSub then t.chainR else t.r
    let span := max (rows * r) 256
    let w := if x.warm then max (max (x.wPrev + 256) (x.tPrev + 1)) start else start
    let t0 := if x.warm then max (x.tPrev + x.span) (w + 1) else w + 1
    let last := t0 + (n - span)
    let lastRow := last + (rows - 1) * r
    (lastRow + 544, { x with warm := true, wPrev := if n ≤ span then w else last - span + 1, tPrev := last, span := rows * r,
                             lastWrite := lastRow + 511, lastEmit := lastRow + 544, mode := t.mode, integer := t.integer })

/-- When a unit's copy has its result on chip; none while its array is not hoisted. -/
def Dev.dueAt (d : Dev) (c : Cmd) (x : Copy) : Option Nat :=
  let t := d.opSpace c
  match x.unit with
  | .vec n => some (max x.dealt (d.engines.getD n {}).busyUntil + t.cycles x.tile)
  | .arr a =>
    let y := d.array a
    if y.hoist == .hoisted then some (y.stream t x.tile x.dealt).1 else none

/-- The unit has streamed a tile: its clock, busy cycles and mode. -/
def Dev.streamed' (d : Dev) (c : Cmd) (x : Copy) (due : Nat) : Dev :=
  let t := d.opSpace c
  let d : Dev := { d with now := max d.now due }
  match x.unit with
  | .vec n => ({ d with engines := d.engines.set n { d.engines.getD n {} with busyUntil := due } } : Dev).bumpWide (pgVEC n) 0x818 (t.cycles x.tile)
  | .arr a =>
    let y := d.array a
    (d.modArray a (fun _ => (y.stream t x.tile x.dealt).2)).bumpWide (pgARR a) 0x820 (due - max (max x.dealt y.since) y.lastEmit)

/-- A copy's result is discarded, or the copy killed, because another copy has claimed the tile (R274). -/
def Dev.dropDup (d : Dev) (u : Nat) (x : Copy) : Dev :=
  match d.cmd? u with
  | none => d
  | some c =>
    let w := { c.work with copies := c.work.copies.filter (· != x) }
    ((d.setCmd { c with work := w.unreserve x }).bump (pgHAL x.unit.die) 0x81C 1).raise (pgHAL x.unit.die) 1

/-- R274: a result that is on chip claims the tile, or is discarded. -/
def Dev.claim (d : Dev) (u : Nat) (x : Copy) (r : TileResult) : Dev :=
  match d.cmd? u with
  | none => d
  | some c =>
    if (c.work.cleatOf x.tile).isSome then d.dropDup u x
    else
      let mark (y : Copy) : Copy := if y == x then { y with claimed := true, result := r, onChipAt := d.now } else y
      let w := (c.work.setCleat x.tile .claimed)
      let d := d.setCmd { c with work := { w with copies := w.copies.map mark } }
      (c.work.copies.filter (fun y => y.tile == x.tile && y != x)).foldl (fun d y => (d.dropDup u y).countKill y.unit false) d

/-! ### Array and engine checks (R182-R189, R291) -/

/-- KIND of Table 6-8. -/
def arrayErrorCode : ArrayError → Nat
  | .residue => 1 | .parity => 2 | .accCorrected => 3 | .accUncorrectable => 4

/-- R188: an array is taken out of service until reset; its runs go back to their dies. -/
def Dev.retire (d : Dev) (a : Nat) : Dev :=
  let d := d.modArray a (fun x => { x with outOfService := true, permit := false, hoist := .lowered })
  let d := d.raise (pgARR a) 4
  let d := d.log { cls := 2, severity := 4, source := pgARR a, part := (d.ownerOf (a / 2)).getD 0xFF, detail := toLe 4 (d.regN (pgARR a) 0x838) ++ toLe 1 a }
  let back (d : Dev) (c : Cmd) : Dev :=
    let mine := (c.work.runs.filter (fun r => r.1 == .arr a)).flatMap (·.2)
    let c := { c with work := { c.work with runs := c.work.runs.filter (fun r => r.1 != .arr a) } }
    let c := mine.foldl (fun c id => d.reopen c id) c
    -- segments of a core with no array left start again (R255)
    let lost := if d.inService (2 * (a / 2)) || d.inService (2 * (a / 2) + 1) then [] else
      (c.work.slots.filter (fun s => s.1 == a / 2)).map (·.2.2)
    let t := d.opSpace c
    let again (c : Cmd) (k : Nat) : Cmd :=
      let w := c.work
      let gone (id : TileId) : Bool := id.rank == k && id.sub != secondSub
      d.reopen { c with work := { w with cleat := w.cleat.filter (fun x => !gone x.1), due := w.due.filter (fun x => !gone x.1),
                                         committed := w.committed - (w.cleat.filter (fun x => gone x.1 && x.2 == .committed)).length,
                                         slots := w.slots.filter (fun s => s.2.2 != k) } } ⟨k, 0⟩
    d.setCmd (if t.splits > 0 then c else lost.foldl again c)
  let d := d.cmds.foldl (fun d c => if c.live && c.started && tiledOp c.opcode && !c.onVector then back d c else d) d
  -- capacity is re-evaluated (R47)
  match d.ownerOf (a / 2) with
  | some p => d.raise (pgPART p) 5
  | none => d

/-- The command whose tile a unit runs. -/
def Dev.heldFor (d : Dev) (e : Engine) : Option Nat := (d.holding e).head?.map (·.1)

/-- A detected error of an array: counters, LAST_ERROR and the log; the tiles it kills are replayed; the third failure in a row retires the array. -/
def Dev.arrayError (d : Dev) (a : Nat) (kind : ArrayError) (row column : Nat) (both injected : Bool) : Dev :=
  let held := d.holding (.arr a)
  let idle := held.isEmpty
  let code := arrayErrorCode kind
  let last := code + 8 * b2n idle + row % 1024 * 16 + column % 1024 * 16384 + b2n both * 2 ^ 24 + b2n injected * 2 ^ 25
  let d := (d.bump (pgARR a) (0x80C + 4 * code) 1).setReg (pgARR a) 0x838 (BitVec.ofNat 32 last)
  let d := d.raise (pgARR a) (code - 1)
  let owner := d.ownerOf (a / 2)
  let d := d.log (d.naming (d.heldFor (.arr a))
    { cls := 2, severity := if code = 3 then 1 else 2, source := pgARR a, part := owner.getD 0xFF,
      detail := toLe 4 last ++ toLe 1 a })
  if code = 3 then d
  else
    let hit := if both then held else held.take 1
    let d := hit.foldl (fun d x => d.replayCopy x.1 x.2 true) d
    if injected then d
    else
      let n := (d.array a).failRun + 1
      let d := d.modArray a (fun x => { x with failRun := n })
      if n ≥ 3 then (d.modArray a (fun x => { x with failRun := 0 })).retire a else d

/-- The command ARRAY_CHECK_FAIL. An array out of service streams nothing. -/
def Dev.arrayCheckFail (d : Dev) (a : Nat) (kind : ArrayError) (row column : Nat) (both : Bool) : Dev :=
  if !d.inService a || (d.array a).hoist != .hoisted then d else d.arrayError a kind row column both false

/-- A residue or parity check of a vector engine fails (R291): LAST_ERROR, counters, and the tile it holds replayed. -/
def Dev.vectorError (d : Dev) (n : Nat) (parity : Bool) (lane reg : Nat) (injected : Bool) : Dev :=
  let k := if parity then 2 else 1
  let last := k + 4 * b2n injected + lane % 512 * 16 + reg % 32 * 8192
  let d := (d.bump (pgVEC n) (0x808 + 4 * k) 1).setReg (pgVEC n) 0x820 (BitVec.ofNat 32 last)
  let d := (d.raise (pgVEC n) (k - 1)).log (d.naming (d.heldFor (.vec n))
    { cls := 3, severity := 2, source := pgVEC n, part := (d.ownerOf n).getD 0xFF, detail := toLe 4 last })
  ((d.holding (.vec n)).take 1).foldl (fun d x => d.replayCopy x.1 x.2 true) d

end Sys2Proof.Machine
end

