-- ==== Sys2Proof/Machine/TileRun.lean ====
section
/-! DEFINITION. Results on chip, commits of tiles, leases, abandoned groups, scratchpad errors and tag timeouts, and the run of a whole command (R86-R92, R205, R212, R268, R274, R275, R291). -/

namespace Sys2Proof.Machine

/-! ### Scratchpad errors (R92, R212, Table 7-8) -/

/-- Record an error of a core's scratchpad, in a read made for command u if any: counter, LAST_ECC_ERROR, interrupt and log. -/
def Dev.noteSpdError (d : Dev) (n bank row word : Nat) (unc scrub injected : Bool) (u : Option Nat) : Dev :=
  let k := if unc then 2 else 1
  let last := k + 4 * b2n scrub + 8 * b2n injected + bank % 32 * 16 + row % 16384 * 512 + word % 8 * 2 ^ 23
  let d := (d.bump (pgSPD n) (0x800 + 4 * k) 1).setReg (pgSPD n) 0x828 (BitVec.ofNat 32 last)
  (d.raise (pgSPD n) (k - 1)).log (d.naming u
    { cls := 1, severity := if !unc then 1 else 2, source := pgSPD n, part := (d.ownerOf n).getD 0xFF,
      space := 2, addr := (row * 32 + bank) * 64 + word * 8, detail := toLe 4 last })

/-- The reader of a word with an error: its tile is replayed, and a command whose lost data cannot be produced again fails with DATA_LOST.
Whether an input on that path has been overwritten is not tracked, so a free value decides (log entry 27). -/
def Dev.spdReader (d : Dev) (unc : Bool) (reader : Option Engine) : Dev :=
  match reader with
  | none => d
  | some e =>
    match (d.holding e).head? with
    | none => d
    | some (u, x) =>
      let lost := unc && (Config.freeWord d.fresh).getLsbD 0
      let d : Dev := { d with fresh := d.fresh + 1 }
      if lost then d.loseCmd u { cls := 1, severity := 3, source := pgSPD e.core, space := 2, detail := toLe 4 (d.regN (pgSPD e.core) 0x828) }
      else d.replayCopy u x true

/-- The command SCRATCHPAD_ECC_ERROR. -/
def Dev.spdEccError (d : Dev) (n bank row word : Nat) (unc : Bool) (reader : Option Engine) : Dev :=
  let mine := reader.any (fun e => e.core == n)
  let r := if mine then reader else none
  (d.noteSpdError n bank row word unc false false (r.bind d.heldFor)).spdReader unc r

/-! ### Armed errors -/

/-- The error armed on a unit for the next tile it runs: a kind, or 0. -/
def Dev.armed (d : Dev) (e : Engine) : Nat :=
  match e with
  | .arr a => d.regN (pgARR a) 0xC00
  | .vec n => d.regN (pgVEC n) 0xC04

/-- A place that an injected error reports; the manual names none (log entry 3). -/
def Dev.freePlace (d : Dev) (n : Nat) : Nat := (Config.freeWord d.fresh).toNat % n

/-- An error armed by INJECT happens in the tile a unit runs (R189, R291). -/
def Dev.injectUnit (d : Dev) (e : Engine) : Dev :=
  let k := d.armed e
  let x := d.freePlace 256
  let d : Dev := { d with fresh := d.fresh + 1 }
  match e with
  | .arr a =>
    let kind : ArrayError := if k = 1 then .residue else if k = 2 then .parity else if k = 3 then .accCorrected else .accUncorrectable
    (d.setReg (pgARR a) 0xC00 0).arrayError a kind x x false true
  | .vec n => (d.setReg (pgVEC n) 0xC04 0).vectorError n (k == 2) x (x % 32) true

/-- An error armed by SPD.ECC_INJECT happens in a word that a tile reads (R212). -/
def Dev.injectSpd (d : Dev) (e : Engine) : Dev :=
  let n := e.core
  let unc := d.regN (pgSPD n) 0xC04 == 2
  let x := d.freePlace 32
  let d : Dev := { d with fresh := d.fresh + 1 }
  let d := (d.setReg (pgSPD n) 0xC04 0).noteSpdError n x x (x % 8) unc false true (d.heldFor e)
  match (d.holding e).head? with
  | some (u, y) => d.replayCopy u y true
  | none => d

/-- Whether a command reads the scratchpad. -/
def Dev.readsSpd (d : Dev) (c : Cmd) : Bool := (d.opCheck c c.image).inputs.any (fun i => (c.tensor i).space == 1)

/-! ### TILE_RESULT_ON_CHIP -/

/-- Something done for the first of some tiles in hand, under the copies that its command started with (R116). -/
def Dev.asHolder (d : Dev) (l : List (Nat × Copy)) (f : Dev → Dev) : Dev :=
  match l.head? with
  | none => f d
  | some x => d.asStarted x.1 f

/-- The command TILE_RESULT_ON_CHIP: the oldest tile of a unit has its result on chip, and claims its record (R274). A tile that waits on
a tag, or whose array is not hoisted, has no result yet. -/
def Dev.resultOnChip (d : Dev) (e : Engine) (env : Env) : Dev :=
  match (d.holding e).head? with
  | none => d
  | some (u, x) =>
    match d.cmd? u with
    | none => d
    | some c =>
      match d.dueAt c x with
      | none => d
      | some due =>
        let r := d.opTile c x.tile
        if r.flags.waits then d
        else if d.armed e = 3 && e.isArr then
          -- a corrected accumulator error lets the tile go on
          finish ((d.injectUnit e).streamed' c x due) u x r env
        else if d.armed e ≠ 0 then d.injectUnit e
        else if d.regN (pgSPD e.core) 0xC04 ≠ 0 && d.readsSpd c then d.injectSpd e
        else finish (d.streamed' c x due) u x r env
where
  finish (d : Dev) (u : Nat) (x : Copy) (r : TileResult) (env : Env) : Dev :=
    match d.cmd? u with
    | none => d
    | some c =>
      match d.inputFails env c with
      | some (a, er) => d.loseHost u a er
      | none => ({ d with fresh := d.fresh + 1 } : Dev).claim u x r

/-! ### TILE_COMMIT -/

/-- A claimed tile finishes its commit phase, unless a host write fails. -/
def Dev.commitCopy (d : Dev) (env : Env) (u : Nat) (x : Copy) : Dev :=
  match d.cmd? u with
  | none => d
  | some c =>
    match d.writeFails env c x.result.writes with
    | some (a, e) =>
      let c := { c with work := { c.work with copies := c.work.copies.filter (· != x) } }
      (d.setCmd c).loseHost u a e
    | none => (d.commitResult u x.tile x.unit x.result).1

/-- The command TILE_COMMIT. -/
def Dev.tileCommit (d : Dev) (e : Engine) (env : Env) : Dev :=
  match (d.claimedOn e).head? with
  | none => d
  | some (u, x) => d.commitCopy env u x

/-! ### LEASE_SCAN (R275) -/

/-- A copy whose lease has run out with its record OPEN, and which is its tile's only copy. -/
def Cmd.expired (c : Cmd) (now die : Nat) : List Copy :=
  c.work.copies.filter (fun x => x.unit.die == die && !x.claimed && decide (x.lease ≤ now) && (c.work.cleatOf x.tile).isNone &&
    (c.work.copies.filter (fun y => y.tile == x.tile)).length == 1)

/-- One expired lease: the tile goes on its die's reissue list, or becomes due again (R275, R276). -/
def Dev.expire (d : Dev) (u : Nat) (x : Copy) : Dev :=
  match d.cmd? u with
  | none => d
  | some c =>
    let t := d.opSpace c
    let w := c.work
    let queued := w.due.any (fun y => y.1 == x.tile) || w.dies.any (fun y => y.reissue.contains x.tile)
    let d := (d.bump (pgHAL x.unit.die) 0x814 1).raise (pgHAL x.unit.die) 0
    if queued then d
    else
      -- the tile is put where a killed tile would be, with the copy still running
      let c' := d.reopen { c with work := { w with copies := w.copies.filter (fun y => !(y.tile == x.tile)) } } x.tile
      let onList := !((t.splits > 0 && x.tile.sub == t.splits) || (t.splits == 0 && x.tile.sub != secondSub && x.tile.sub != 0))
      let d := if onList then d.bump (pgHAL x.unit.die) 0x818 1 else d
      d.setCmd { c' with work := { c'.work with copies := w.copies } }

/-- The command LEASE_SCAN, at the next cycle that is a multiple of 1,024. -/
def Dev.leaseScan (d : Dev) (die : Nat) : Dev :=
  let d : Dev := { d with now := roundUp d.now 1024 }
  d.cmds.foldl (fun d c => (c.expired d.now die).foldl (fun d x => d.expire c.uid x) d) d

/-! ### GROUP_TILE_ABANDON (R268) -/

/-- The claimed group tile on an array that waits on an earlier group which is reopened. -/
def Dev.stuckGroup (d : Dev) (e : Engine) : Option (Nat × Copy) :=
  (d.claimedOn e).find? (fun q => (d.cmd? q.1).any (fun c =>
    let t := d.opSpace c
    let w := c.work
    decide (t.splits > 0) && decide (q.2.tile.sub < t.splits) && (List.range q.2.tile.sub).any (fun g =>
      let id : TileId := ⟨q.2.tile.rank, g⟩
      (w.cleatOf id).isNone && w.dies.any (fun x => x.reissue.contains id))))

/-- The command GROUP_TILE_ABANDON: when every array that may take work holds such a tile, the one of highest index is abandoned, and the
waiting tile is dealt to its array. -/
def Dev.groupAbandon (d : Dev) (p : Nat) : Dev :=
  let arrays := ((d.arraysOf p).map Engine.arr).filter d.mayWork
  let stuck := arrays.map d.stuckGroup
  let waiting := d.cmds.any (fun c => c.part == p && c.live && c.work.dies.any (fun x => !x.reissue.isEmpty))
  if arrays.isEmpty || !waiting || stuck.any (·.isNone) then d
  else
    let l := stuck.filterMap id
    let worst := l.foldl (fun a q => match a with
      | none => some q
      | some b => if decide (q.2.tile.sub > b.2.tile.sub) || (q.2.tile.sub == b.2.tile.sub && decide (q.2.tile.rank > b.2.tile.rank)) then some q else some b)
      (none : Option (Nat × Copy))
    match worst with
    | none => d
    | some (u, x) =>
      match d.cmd? u with
      | none => d
      | some c =>
        let w := c.work
        let c := { c with work := { w with copies := w.copies.filter (· != x), cleat := w.cleat.filter (fun y => y.1 != x.tile) } }
        let d := (d.setCmd c).takeWork x.unit
        match d.cmd? u with
        | none => d
        | some c => ((d.setCmd (d.reopen c x.tile)).bump (pgHAL x.unit.die) 0x820 1).raise (pgHAL x.unit.die) 2

/-! ### TAG_WAIT_TIMEOUT (R205) -/

/-- A slot keeps a command waiting: a tagged input that is not FULL, a tagged output that is not EMPTY with SEQ 0, or a combine not accepted. -/
def Dev.slotBlocks (d : Dev) (c : Cmd) (n slot : Nat) : Bool :=
  let k := d.opCheck c c.image
  ((d.taggedSlots c k.inputs).contains (n, slot) && !(d.tag n slot).full) ||
  ((d.taggedSlots c k.outputs).contains (n, slot) && d.tag n slot != {}) ||
  c.work.copies.any (fun x => x.result.combines.any (fun o => d.spdPlace c.part o.off == some (n, slot * 256)))

/-- The command TAG_WAIT_TIMEOUT: command u has waited too long on a slot of core n: the clock shows the limit, and the command fails. -/
def Dev.tagTimeout (d : Dev) (u n slot : Nat) : Dev :=
  match d.cmd? u with
  | none => d
  | some c =>
    if !c.live || !c.started || (tiledOp c.opcode && c.work.copies.isEmpty) || !d.slotBlocks c n slot then d
    else
      let limit := d.active (pgSPD n) 0x040
      let since := if c.work.copies.isEmpty then c.startAt else (c.work.copies.map (·.dealt)).foldl min d.now
      let d : Dev := { d with now := max d.now (since + limit) }
      let d := ((d.bump (pgSPD n) 0x814 1).raise (pgSPD n) 2).setReg (pgSPD n) 0x818 (BitVec.ofNat 32 (max (d.regN (pgSPD n) 0x818) limit))
      let rank := ((d.coresOf c.part).findIdx? (· == n)).getD 0
      d.endCmd u stTAG (rank * 0x2000000 + slot * 256)

/-! ### The run of a whole command -/

/-- The unit that a tile of a command is run on when its command runs as a whole: the tiles go to its units in turn. -/
def Dev.turnUnit (d : Dev) (c : Cmd) (i : Nat) : Engine :=
  let l := d.serving c
  l.getD (i % max 1 l.length) (.vec 0)

/-- A tile may run once what it goes on from has committed: its band's first stage, its groups, or the segment before it. -/
def Work.mayRun (w : Work) (t : TileSpace) (id : TileId) : Bool :=
  if id.sub = secondSub then w.bandDone t (t.bandOf id)
  else if t.splits > 0 then decide (id.sub < t.splits) || (List.range t.splits).all (fun g => w.done ⟨id.rank, g⟩)
  else id.sub == 0 || w.done ⟨id.rank, id.sub - 1⟩

/-- One tile of a whole run: computed, and its writes done, unless it waits on a tag. -/
def Dev.runTileNow (d : Dev) (u : Nat) (env : Env) (i : Nat) (id : TileId) : Dev :=
  match d.cmd? u with
  | none => d
  | some c =>
    let r := d.opTile c id
    if !c.live || (c.work.cleatOf id).isSome || !c.work.mayRun (d.opSpace c) id || r.flags.waits then d
    else
      let e := d.turnUnit c i
      let d : Dev := { d with fresh := d.fresh + 1 }
      let d := d.loadProgram c e
      let d := d.bump (pgCORE e.core) 0x804 1
      let d := match e with
        | .arr a => (d.bump (pgHAL e.die) 0x804 1).bumpWide (pgARR a) 0x820 ((d.opSpace c).cycles id)
        | .vec n => d.bumpWide (pgVEC n) 0x818 ((d.opSpace c).cycles id)
      match d.writeFails env c r.writes with
      | some (a, er) => d.loseHost u a er
      | none => (d.commitResult u id e r).1

/-- The tiles still to run of a command, and the busy cycles they add. -/
def Dev.tilesLeft (d : Dev) (c : Cmd) : List TileId := (d.opSpace c).tiles.filter (fun id => !c.work.done id)

/-- When a whole run ends: its units share the cycles of the tiles that are left. -/
def Dev.wholeEnd (d : Dev) (c : Cmd) : Nat :=
  let cycles := (d.tilesLeft c).map (d.opSpace c).cycles
  d.now + max (cycles.foldl max 0) (ceilDiv cycles.sum (d.serving c).length)

/-- A command as its whole run begins: every copy that has not claimed is dropped, and its units hold tiles until the end. -/
def Dev.wholeCmd (d : Dev) (c : Cmd) : Cmd :=
  let w := c.work
  { c with dealtLast := true, spans := joinSpan c.spans (d.now, d.wholeEnd c),
           work := { w with copies := w.copies.filter (·.claimed), runs := [], slots := [],
                            dies := w.dies.map (fun x => { x with front := x.back }) } }

/-- The device in which the tiles of a whole run are computed. -/
def Dev.beginWhole (d : Dev) (c : Cmd) : Dev := { d.setCmd (d.wholeCmd c) with now := d.wholeEnd c }

/-- A started command with tiles runs to its end: claimed tiles finish, every other copy is dropped, and the remaining tiles run in order
on the units that serve it. Without a unit that may take work it waits. -/
def Dev.runWhole (d : Dev) (u : Nat) (env : Env) : Dev :=
  let d : Dev := match d.cmd? u with
    | some c => if c.live && c.started && c.state != .preempted then d.finishClaims u else d
    | none => d
  match d.cmd? u with
  | none => d
  | some c =>
    if !c.live || !c.started || c.state == .preempted || (d.serving c).isEmpty then d
    else match d.inputFails env c with
      | some (a, e) => d.loseHost u a e
      | none =>
        let left := d.tilesLeft c
        let d := d.beginWhole c
        let d := (List.range left.length).foldl (fun d i => d.runTileNow u env i (left.getD i {})) d
        -- tiles that wait on a tag are dealt again
        match d.cmd? u with
        | none => d
        | some c => if !c.live then d else
          d.setCmd ((left.filter (c.work.mayRun (d.opSpace c))).foldl (fun c id => d.reopen c id) c)

/-- A started command of an opcode runs as a whole. -/
def Dev.runTiled (d : Dev) (op u : Nat) (env : Env) : Dev :=
  match d.cmd? u with
  | some c => if c.opcode = op then d.runWhole u env else d
  | none => d

end Sys2Proof.Machine
end

