-- ==== Sys2Proof/Machine/Ctx.lean ====
section
/-! DEFINITION. Tack and contexts: stopping, saving and resuming throughput work, CTX_SAVE and CTX_RESTORE, and COMMAND_ADMIT with their checks (R75, R387-R409). -/

namespace Sys2Proof.Machine

/-! ### Boxes of committed output (R403, R407) -/

/-- The coordinates of the elements of output tensors that a tile writes: by tensor. -/
def Dev.tileElems (d : Dev) (c : Cmd) (id : TileId) : List (Nat × List Nat) :=
  let ws := (d.opTile c id).writes
  (d.opCheck c c.image).outputs.flatMap (fun i =>
    let t := c.tensor i
    ((List.range t.count).map (coordsOf t.shape)).filter (fun co => ws.any (fun w => w.space == t.space && w.bitAddr == t.bitAddr co)) |>.map (fun co => (i, co)))

/-- The smallest box around some coordinates. -/
def boundBox (l : List (List Nat)) : List Nat × List Nat :=
  let at' (f : Nat → Nat → Nat) (i : Nat) : Nat := (l.map (fun co => co.getD i 0)).foldl f ((l.headD []).getD i 0)
  ((List.range 5).map (at' min), (List.range 5).map (at' max))

def boxSize (b : List Nat × List Nat) : Nat := (List.range 5).foldl (fun a i => a * (b.2.getD i 0 + 1 - b.1.getD i 0)) 1

/-- The boxes of a tile's elements: one for each problem, or one for each line where a problem's elements form no box (log entry 28). -/
def Dev.tileBoxes (d : Dev) (c : Cmd) (id : TileId) : List (Nat × List Nat × List Nat) :=
  let es := d.tileElems c id
  let keys := (es.map (fun e => (e.1, e.2.drop 2))).eraseDups
  keys.flatMap (fun k =>
    let l := (es.filter (fun e => e.1 == k.1 && e.2.drop 2 == k.2)).map (·.2)
    let b := boundBox l
    if boxSize b = l.length then [(k.1, b.1, b.2)]
    else ((l.map (fun co => co.drop 1)).eraseDups).map (fun r =>
      let x := boundBox (l.filter (fun co => co.drop 1 == r))
      (k.1, x.1, x.2)))

/-- A coordinate lies in a box. -/
def inBox (b : Nat × List Nat × List Nat) (e : Nat × List Nat) : Bool :=
  b.1 == e.1 && (List.range 5).all (fun i => decide (b.2.1.getD i 0 ≤ e.2.getD i 0) && decide (e.2.getD i 0 ≤ b.2.2.getD i 0))

/-- The boxes of a command's committed tiles, with those it was restored with. -/
def Dev.committedBoxes (d : Dev) (c : Cmd) : List (Nat × List Nat × List Nat) :=
  c.boxes ++ (c.work.cleat.filter (fun x => x.2 == .committed)).reverse.flatMap (fun x => d.tileBoxes c x.1)

/-- R407: a command that continues from boxes: its tile space anew, with every output tile inside the committed region COMMITTED without
running, and what follows from those tiles. A tile of a two-stage band is skipped only with the whole of its band. -/
def Dev.retile (d : Dev) (c : Cmd) : Cmd :=
  let t := d.opSpace c
  let c0 := { c with work := t.startWork (d.coresOf c.part), restart := false }
  let inside (id : TileId) : Bool := (d.tileElems c0 id).all (fun e => c.boxes.any (fun b => inBox b e))
  let secondIn (gb : Nat × Nat) : Bool := (t.bandSecond gb.1 gb.2).all inside
  let skip (id : TileId) : Bool :=
    if id.sub = secondSub then inside id
    else inside ⟨id.rank, t.lastPart id.rank⟩ && (t.second == 0 || secondIn (t.bandOf id))
  let done := t.tiles.filter skip
  let w := c0.work
  let w := { w with cleat := done.map (fun id => (id, Cleat.committed)), committed := done.length }
  { c0 with work := w, dealtLast := false }

/-- A command whose tiles have all committed commits. -/
def Dev.commitIfDone (d : Dev) (u : Nat) : Dev :=
  match d.cmd? u with
  | some c => if c.live && c.started && tiledOp c.opcode && c.work.committed == c.work.total then d.commitCmd c else d
  | none => d

/-- R407: a restored command that has just started skips the tiles inside its boxes. -/
def Dev.skipBoxes (d : Dev) (u : Nat) : Dev :=
  match d.cmd? u with
  | some c => if c.live && c.started && tiledOp c.opcode && !c.boxes.isEmpty then (d.setCmd (d.retile c)).commitIfDone u else d
  | none => d

/-- The command COMMAND_START. -/
def Dev.startRow (d : Dev) (u : Nat) : Dev :=
  let d' := d.start u
  let news := d'.cmds.filter (fun c => c.started && !(d.cmd? c.uid).any (·.started))
  news.foldl (fun d c => d.skipBoxes c.uid) d'

/-! ### Live sets (R393) -/

/-- The tiles of a rank have all committed. -/
def Work.rankDone (w : Work) (t : TileSpace) (k : Nat) : Bool := w.done ⟨k, t.lastPart k⟩

/-- R393: an entry of a command is live; `ended` for a command that has committed, whose KEEP entries are still live. -/
def Dev.entryLive (d : Dev) (c : Cmd) (ended : Bool) (e : LiveEntry) : Bool :=
  let t := d.opSpace c
  let ranks := (List.range (e.tileLast + 1)).drop e.tileFirst
  match e.kind with
  | 0 | 2 => !ended && ranks.any (fun k => !c.work.rankDone t k)
  | 1 => if ended then e.keep else ranks.any (fun k => c.work.rankDone t k)
  | _ => false

/-- The live entries of a command. -/
def Dev.liveEntries (d : Dev) (c : Cmd) (ended : Bool) : List LiveEntry :=
  ((d.planAt c.part c.planAddr).liveOf c.entry).filter (d.entryLive c ended)

/-- The slots (core, slot) of a live entry's bytes. -/
def Dev.entrySlots (d : Dev) (c : Cmd) (e : LiveEntry) : List (Nat × Nat) :=
  if e.kind = 2 then
    match (d.opCheck c c.image).work with
    | none => []
    | some (base, n) => (d.coresOf c.part).flatMap (fun k => (List.range (256 * n)).map (fun i => (k, 256 * base + i)))
  else
    let t := c.tensor e.tensor
    ((List.range e.lCount).flatMap (fun i =>
      let a := t.bitAddr (coordsOf t.shape (e.lFirst + i))
      (List.range ((a % 8 + t.format.width + 7) / 8)).filterMap (fun k =>
        (d.spdPlace c.part (a / 8 + k)).map (fun q => (q.1, q.2 / 256))))).eraseDups

/-- The live set of a pre-empted command: its live entries and the live KEEP entries of its queue. -/
def Dev.liveSlots (d : Dev) (c : Cmd) : List (Nat × Nat) :=
  let own := (d.liveEntries c false).flatMap (d.entrySlots c)
  let kept := ((d.part c.part).keeps.filter (fun k => k.queue == c.queue)).flatMap (fun k => (d.liveEntries k true).flatMap (d.entrySlots k))
  (own ++ kept).eraseDups

/-! ### Stopping (R387-R390) -/

/-- A stopped command: tiles in their commit phase or on chip within the horizon run on, the others are killed; it is pre-empted. -/
def Dev.stopCmd (d : Dev) (u : Nat) : Dev :=
  match d.cmd? u with
  | none => d
  | some c =>
    let horizon := d.now + bits (d.active (pgPART c.part) 0x070) 0 17
    let runs (x : Copy) : Bool := x.claimed || (match d.dueAt c x with
      | some t => decide (t ≤ horizon)
      | none => false)
    let d := (c.work.copies.filter (fun x => !runs x)).foldl (fun d x => d.killCopy u x false) d
    match d.cmd? u with
    | none => d
    | some c => d.setCmd { c with state := .preempted }

/-- R387: throughput array commands of a partition that hold tiles or still deal. -/
def Dev.stoppable (d : Dev) (p : Nat) : List Cmd :=
  (d.runningArrays p).filter (fun c => c.throughput && (!c.work.copies.isEmpty || !c.dealtLast))

/-- A Tack of some commands of a partition (R387, R398). -/
def Dev.tackNow (d : Dev) (p : Nat) (l : List Cmd) : Dev :=
  let d := l.foldl (fun d c => d.stopCmd c.uid) d
  let d := (d.bump (pgPART p) 0x844 1).raise (pgPART p) 8
  let cores := d.coresOf p
  d.modPart p (fun x => { x with window := { x.window with tacks := x.window.tacks + 1 }, tackAt := some d.now, saveCores := cores })

/-- The command TACK: a session command is eligible while throughput array commands hold the partition's units. -/
def Dev.tack (d : Dev) (p : Nat) : Dev :=
  let session := d.cmds.any (fun c => c.part == p && !c.throughput && d.eligible c)
  let l := d.stoppable p
  if session && !l.isEmpty then d.tackNow p l else d

/-- The units of a core hold no tile of a stopped command. -/
def Dev.coreFree (d : Dev) (p n : Nat) : Bool :=
  !d.cmds.any (fun c => c.part == p && c.state == .preempted && c.work.copies.any (fun x => x.unit.core == n))

/-- The command TACK_SAVE (R389, R396): once its units are free, a core saves its live claimed slots with their tags. -/
def Dev.tackSave (d : Dev) (n : Nat) : Dev :=
  match d.ownerOf n with
  | none => d
  | some p =>
    if !(d.part p).saveCores.contains n || !d.coreFree p n then d
    else
      let cl := d.claims p
      let slots := ((d.preempted p).flatMap d.liveSlots).eraseDups.filter (fun s => s.1 == n && claimed cl s.2)
      let save (s : Nat × Nat) : SavedSlot :=
        let t := d.tag n s.2
        ⟨p, n, s.2, (t.full, t.seq), d.spd.readBytes (spdKey n (256 * s.2)) 256⟩
      let bytes := 256 * slots.length
      let took := d.now - ((d.part p).tackAt.getD d.now)
      let d : Dev := { d with saved := d.saved.filter (fun s => !(s.part == p && s.core == n && slots.contains (n, s.slot))) ++ slots.map save }
      let d := d.bump (pgPART p) 0x848 (ceilDiv bytes 4096)
      let d := d.setReg (pgPART p) 0x84C (BitVec.ofNat 32 (max (d.regN (pgPART p) 0x84C) took))
      d.modPart p (fun x =>
        let left := x.saveCores.filter (· != n)
        { x with saveCores := left, tackAt := if left.isEmpty then none else x.tackAt, window := { x.window with hbmWrite := x.window.hbmWrite + bytes } })

/-- R398: the saved slots of a partition are written back with their tags. -/
def Dev.reload (d : Dev) (p : Nat) : Dev :=
  let l := d.saved.filter (fun s => s.part == p)
  let d := l.foldl (fun d s =>
    ({ d with spd := d.spd.writeBytes (spdKey s.core (256 * s.slot)) s.data } : Dev).setTag s.core s.slot ⟨s.tag.1, s.tag.2⟩) d
  let d : Dev := { d with saved := d.saved.filter (fun s => s.part != p) }
  d.modPart p (fun x => { x with window := { x.window with hbmRead := x.window.hbmRead + 256 * l.length } })

/-- The commands that a CTX_SAVE saves: opcodes of R399, PAGED ATTEND apart. -/
def Cmd.savable (c : Cmd) : Bool :=
  c.opcode == 0x01 || c.opcode == 0x02 || (c.opcode == 0x03 && !c.atPaged) || c.opcode == 0x04 || c.opcode == 0x05 || c.opcode == 0x07 || c.opcode == 0x08

/-- The uncommitted throughput commands admitted before a CTX_SAVE from the queues of its mask. -/
def Dev.ctxEarlier (d : Dev) (c : Cmd) : List Cmd :=
  d.cmds.filter (fun x => x.live && x.part == c.part && x.throughput && decide (x.uid < c.uid) && bit (c.u16 76) x.queue)

/-- A started CTX_SAVE keeps a command stopped until its image is written. -/
def Dev.heldBySave (d : Dev) (c : Cmd) : Bool :=
  d.cmds.any (fun x => x.opcode == 0x12 && x.live && x.started && x.part == c.part && decide (c.uid < x.uid) && bit (x.u16 76) c.queue)

/-- The command COMMAND_RESUME (R391, R398, R409, R554): the oldest pre-empted command of a partition resumes. -/
def Dev.resume (d : Dev) (p : Nat) : Dev :=
  match (d.preempted p).head? with
  | none => d
  | some c =>
    -- the reload waits for the session commands that may still write claimed slots (log entry 63)
    let writing := d.saved.any (fun x => x.part == p) && d.cmds.any (fun x => x.part == p && x.live && x.started && !x.throughput)
    let busy := !(d.eligibleOf p 0 false).isEmpty || !d.grainFree p || writing || !(d.part p).saveCores.isEmpty || d.maskPending p ||
      d.waitsOnZeroing c || d.heldBySave c
    if busy then d
    else
      let c : Cmd := if c.restart then d.retile c else c
      let d := d.reload p
      (d.setCmd { c with state := .running, resumed := true }).commitIfDone c.uid

/-! ### Context images (R399-R403) -/

/-- The physical cell of an address a context image may use: a region of the partition, or its slice of the context area. -/
def Dev.ctxCell (d : Dev) (p a : Nat) : Option Nat :=
  match d.cellOf p a with
  | some c => some c
  | none => reservedCell a

/-- Bytes of a context image's place. -/
def Dev.ctxBytes (d : Dev) (p a n : Nat) : Bytes :=
  if isHost a then d.bytesIn p 0 a n
  else (List.range n).map (fun i => ((d.ctxCell p (a + i)).map d.hbm.read).getD 0)

def Dev.putCtx (d : Dev) (p a : Nat) (bs : Bytes) : Dev :=
  if isHost a then d.putBytesIn p 0 a bs
  else { d with hbm := (List.range bs.length).foldl (fun m i => match d.ctxCell p (a + i) with
      | some c => m.write c (bs.getD i 0)
      | none => m) d.hbm }

/-- R400: an image buffer lies in host memory, in one region, or in the partition's context area beyond its Tack save space. -/
def Dev.ctxPlaceOk (d : Dev) (p a n : Nat) (out : Bool) : Bool :=
  let k := d.ctxCfg p
  let unit := 0x2000000
  let lo := 0x00BF00000000 + (k.1 + k.2.2) * unit
  let hi := 0x00BF00000000 + (k.1 + k.2.1) * unit
  rangeValid a n && (isHost a || d.spanOk p a (a + n - 1) out || (decide (lo ≤ a) && decide (a + n ≤ hi)))

/-- Pad with zeros to a multiple of 64 bytes. -/
def pad64 (b : Bytes) : Bytes := b ++ List.replicate (roundUp b.length 64 - b.length) 0

/-- A box of 48 bytes. -/
def boxBytes (b : Nat × List Nat × List Nat) : Bytes :=
  toLe 1 b.1 ++ List.replicate 7 0 ++ (List.range 5).flatMap (fun i => toLe 4 (b.2.1.getD i 0)) ++ (List.range 5).flatMap (fun i => toLe 4 (b.2.2.getD i 0))

/-- Table 14-5. -/
def ctxCommand (c : Cmd) (i : Nat) (boxes : List (Nat × List Nat × List Nat)) : Bytes :=
  let body := c.raw ++ c.tensors.flatMap (·.raw) ++ boxes.flatMap boxBytes
  let fl := b2n c.flags.flushed + 2 * b2n c.flags.saturated + 4 * b2n c.replayed + 8 * b2n c.folded + 16 * b2n c.resumed + 64 * b2n c.flags.nanProduced
  let len := roundUp (32 + body.length) 64
  pad64 (toLe 4 len ++ toLe 2 i ++ toLe 1 c.queue ++ toLe 1 fl ++ toLe 8 (c.bases.headD 0) ++ toLe 4 boxes.length ++ List.replicate 12 0 ++ body)

/-- Table 14-6. -/
def Dev.ctxLive (d : Dev) (c : Cmd) (i : Nat) (e : LiveEntry) : Bytes :=
  let t := c.tensor e.tensor
  let data := packCodes t.format.width ((List.range e.lCount).map (fun k => d.elemCode c.part t (coordsOf t.shape (e.lFirst + k))))
  pad64 (toLe 8 data.length ++ toLe 2 i ++ toLe 1 e.tensor ++ toLe 1 t.fmt ++ List.replicate 4 0 ++ toLe 8 e.lFirst ++ toLe 8 e.lCount ++ data)

/-- The context image of some commands, oldest first (R403). KEEP entries of commands that have committed belong to no record and are not
in it (log entry 29). -/
def Dev.ctxImage (d : Dev) (p : Nat) (l : List Cmd) : Bytes :=
  let cmds := (List.range l.length).map (fun i => let c := l.getD i {}; ctxCommand c i (d.committedBoxes c))
  let lives := (List.range l.length).flatMap (fun i =>
    let c := l.getD i {}
    ((d.liveEntries c false).filter (fun e => decide (e.kind ≤ 1))).map (d.ctxLive c i))
  let x := d.part p
  let cmdLen := (cmds.map List.length).foldl (· + ·) 0
  let len := 256 + cmdLen + (lives.map List.length).foldl (· + ·) 0
  let head := toLe 2 1 ++ [3] ++ toLe 1 (d.coresOf p).length ++ toLe 2 p ++ toLe 2 l.length ++ toLe 4 lives.length ++ toLe 8 len ++ toLe 4 0 ++
    toLe 8 d.tick.count ++ x.counters.flatMap (toLe 8) ++ toLe 8 x.augEpoch ++ toLe 4 256 ++ toLe 4 (256 + cmdLen) ++ List.replicate 80 0
  let img := head ++ cmds.flatten ++ lives.flatten
  putAt img 20 (toLe 4 (crc32c img))

/-- R400: the largest image that the commands a CTX_SAVE would save can need. -/
def Dev.ctxMost (d : Dev) (l : List Cmd) : Nat :=
  l.foldl (fun a c =>
    let t := d.opSpace c
    let boxes := c.boxes.length + t.tiles.foldl (fun n id => n + (d.tileBoxes c id).length) 0
    let live := ((d.planAt c.part c.planAddr).liveOf c.entry).filter (fun e => decide (e.kind ≤ 1))
    a + roundUp (160 + 64 * c.tensors.length + 48 * boxes) 64 +
      live.foldl (fun n e => n + roundUp (32 + (e.lCount * (c.tensor e.tensor).format.width + 7) / 8) 64) 0) 256

/-- R401: AT_CHEAP lets the stop point come: tiles 0 to a cheap point have all committed, or all have. -/
def Dev.atCheap (d : Dev) (c : Cmd) : Bool :=
  let t := d.opSpace c
  c.started && ((d.planAt c.part c.planAddr).liveOf c.entry).any (fun e =>
    e.kind == 4 && (List.range (e.tileFirst + 1)).all (fun k => c.work.rankDone t k))

/-- The command CTX_SAVE: it waits for the commands it awaits, stops those it saves, and once their tiles have left the units writes the
image (R399-R402). -/
def Dev.ctxSave (d : Dev) (u : Nat) (env : Env) : Dev :=
  match d.cmd? u with
  | none => d
  | some c =>
    if c.opcode ≠ 0x12 || !c.live || !c.started then d
    else
      let early := d.ctxEarlier c
      let l := early.filter Cmd.savable
      let cheap := !bit (c.u8 74) 1 || l.all d.atCheap
      if early.any (fun x => !x.savable) || !cheap then d
      else
        let going := l.filter (fun x => x.started && x.state != .preempted)
        let d := if going.isEmpty then d else d.tackNow c.part going
        let l := l.filterMap (fun x => d.cmd? x.uid)
        if l.any (fun x => !x.work.copies.isEmpty) then d
        else
          let img := d.ctxImage c.part l
          let a := c.u48 64
          match if isHost a then d.hostRequest env c.part a img.length true else .ok () with
          | .error e => d.loseHost u a e
          | .ok _ =>
            let d := d.putCtx c.part a img
            let d := if bit (c.u8 74) 0 then l.foldl (fun d x => d.endCmd x.uid stABORT 1) d else d
            d.complete c stOK (ceilDiv img.length 4096)

/-! ### Restoring (R404-R408) -/

def parseMap (b : Bytes) : CtxMap :=
  { ordinal := fieldAt b 0 2, plan := fieldAt b 2 1 == 1, tensor := fieldAt b 3 1, planAddr := fieldAt b 4 6, planEntry := fieldAt b 10 2,
    raw := (b.drop 16).take 64 }

/-- Bytes of a map entry that must be 0. -/
def mapZeros (b : Bytes) : Bool :=
  match fieldAt b 2 1 with
  | 0 => zeroAt b 4 12
  | 1 => fieldAt b 3 1 == 0 && zeroAt b 12 68
  | _ => false

/-- The command records of an image: offset and length of each. -/
def ctxRecords (img : Bytes) : Nat → Nat → List (Nat × Nat)
  | 0, _ => []
  | n + 1, off => let len := fieldAt img off 4; (off, len) :: ctxRecords img n (off + len)

/-- The live-range records of an image. -/
def ctxLives (img : Bytes) : Nat → Nat → List Nat
  | 0, _ => []
  | n + 1, off => off :: ctxLives img n (off + roundUp (32 + fieldAt img off 8) 64)

/-- The 48 bytes of a box. -/
def parseBox (b : Bytes) : Nat × List Nat × List Nat :=
  (fieldAt b 0 1, (List.range 5).map (fun i => fieldAt b (8 + 4 * i) 4), (List.range 5).map (fun i => fieldAt b (28 + 4 * i) 4))

/-- A restored command as its record, its queue and the map give it, before its plan is loaded. -/
def Dev.restoredCmd (d : Dev) (c : Cmd) (maps : List CtxMap) (i : Nat) (r : Bytes) : Cmd :=
  let raw := (r.drop 32).take 128
  let n := fieldAt raw 42 1
  let orig := (List.range n).map (fun k => parseTensor ((r.drop (160 + 64 * k)).take 64))
  let mine := maps.filter (fun m => m.ordinal == i)
  let ts := (List.range n).map (fun k => match mine.find? (fun m => !m.plan && m.tensor == k) with
    | some m => parseTensor m.raw
    | none => orig.getD k {})
  let raw := match mine.find? (·.plan) with
    | some m => putAt (putAt raw 24 (toLe 6 m.planAddr)) 40 (toLe 2 m.planEntry)
    | none => raw
  let fl := fieldAt r 7 1
  { uid := 0, part := c.part, queue := bits (c.u8 74) 0 4, raw := raw, tensors := ts, planAddr := fieldAt raw 24 6,
    throughput := true, resumed := true, admitTick := d.tick.count, bases := [fieldAt r 8 8],
    flags := { flushed := bit fl 0, saturated := bit fl 1, nanProduced := bit fl 6 }, replayed := bit fl 2, folded := bit fl 3,
    boxes := (List.range (fieldAt r 16 4)).map (fun k => parseBox ((r.drop (160 + 64 * n + 48 * k)).take 48)) }

/-- R405: a replacement descriptor differs from the original in format or element count. -/
def badReplacement (maps : List CtxMap) (i : Nat) (r : Bytes) : Bool :=
  let n := fieldAt r (32 + 42) 1
  maps.any (fun m => m.ordinal == i && !m.plan &&
    (decide (m.tensor ≥ n) ||
      (let o := parseTensor ((r.drop (160 + 64 * m.tensor)).take 64)
       let t := parseTensor m.raw
       o.fmt != t.fmt || o.count != t.count)))

/-- The plan of a restored command and its image, or why it is refused. -/
def Dev.restorePlan (d : Dev) (env : Env) (c : Cmd) : Except Refused (Dev × Cmd) :=
  match d.loadPlan env c.part c.planAddr with
  | .error (.inr .invalid) => .error (.inl (stINVALID, 78 + 0xFF00))
  | .error (.inr e) => .error (.inr (c.planAddr, e))
  | .error (.inl _) => .error (.inl (stINVALID, 78 + 0xFF00))
  | .ok (d, r) =>
    match r.entries[c.u16 40]? with
    | none => .error (.inl (stINVALID, 78 + 0xFF00))
    | some e =>
      if e.opcode ≠ c.opcode then .error (.inl (stINVALID, 78 + 0xFF00))
      else match d.admitImage env { c with entry := e } with
        | .error x => .error x
        | .ok c => .ok (d, c)

/-- R405: RESTORE_CAPACITY of a restored command: the DETAIL. -/
def Dev.restoreUnfit (d : Dev) (c : Cmd) (i : Nat) : Option Nat :=
  let cores := (d.coresOf c.part).length
  match (List.range c.tensors.length).find? (fun k => (Fmt.ofCode (c.tensor k).fmt).isNone) with
  | some k => some (i + k * 65536 + 2 ^ 31)
  | none =>
    match (List.range c.tensors.length).find? (fun k => (c.tensor k).space == 1 && !(c.tensor k).spdOk cores) with
    | some k => some (i + k * 65536)
    | none => match (d.opCheck c c.image).work with
      | some (b, n) => if workOk b n then none else some (i + 0xFF * 65536)
      | none => none

/-- The restored commands of an image with their checks: R68, R69 and R72, then capacity. -/
def Dev.restoreAll (d : Dev) (env : Env) (c : Cmd) (maps : List CtxMap) (img : Bytes) :
    List ((Nat × Nat) × Nat) → Except Refused (Dev × List Cmd)
  | [] => .ok (d, [])
  | ((off, len), i) :: rest =>
    let r := (img.drop off).take len
    let x := d.restoredCmd c maps i r
    let bad : Refused := .inl (stINVALID, 64 + 0xFF00)
    if badReplacement maps i r then .error (.inl (stINVALID, 78 + 0xFF00))
    else if (d.descriptorBad x).isSome then .error bad
    else if (List.range x.tensors.length).any (fun k =>
        match tensorBad x.tensors.length (x.tensor k) with
        | some o => o != 6
        | none => false) then .error bad
    else match d.restorePlan env x with
      | .error e => .error e
      | .ok (d, x) =>
        match d.restoreUnfit x i with
        | some v => .error (.inl (stRESTORE, v))
        | none =>
          match d.restoreAll env c maps img rest with
          | .error e => .error e
          | .ok (d, l) => .ok (d, x :: l)

/-- The bytes of an image or a map: as an admission read (R555). -/
def Dev.ctxRead (d : Dev) (env : Env) (p a n off : Nat) : Except Refused Bytes :=
  if !rangeValid a n then .error (.inl (stINVALID, off + 0xFF00))
  else if isHost a then
    match d.hostRequest env p a n false with
    | .error e => .error (.inr (a, e))
    | .ok _ => .ok (d.ctxBytes p a n)
  else .ok (d.ctxBytes p a n)

/-- What a CTX_RESTORE restores: the image and the commands, or why it is refused (R404, R405). -/
def Dev.restoreCheck (d : Dev) (env : Env) (c : Cmd) : Except Refused (Dev × Bytes × List Cmd) :=
  let bad : Refused := .inl (stINVALID, 64 + 0xFF00)
  let size := c.u32 70 * 4096
  match d.ctxRead env c.part (c.u48 64) size 64 with
  | .error e => .error e
  | .ok b =>
    let len := fieldAt b 12 8
    if fieldAt b 0 2 ≠ 1 || decide (len < 256) || decide (len > size) then .error bad
    else
      let img := b.take len
      if crcWithout img 20 ≠ fieldAt img 20 4 then .error bad
      else match d.ctxRead env c.part (c.u48 78) (80 * c.u16 76) 78 with
        | .error e => .error e
        | .ok mb =>
          let raws := tableOf mb 0 80 (c.u16 76)
          if raws.any (fun r => !mapZeros r) then .error (.inl (stINVALID, 78 + 0xFF00))
          else
            let recs := ctxRecords img (fieldAt img 6 2) (fieldAt img 168 4)
            match d.restoreAll env c (raws.map parseMap) img (recs.zip (List.range recs.length)) with
            | .error e => .error e
            | .ok (d, l) => .ok (d, img, l)

/-- R406: a live-range record is written into its command's mapped tensor. -/
def Dev.restoreLive (d : Dev) (l : List Cmd) (img : Bytes) (off : Nat) : Dev :=
  let c := l.getD (fieldAt img (off + 8) 2) {}
  let t := c.tensor (fieldAt img (off + 10) 1)
  let w := t.format.width
  let data := leNat ((img.drop (off + 32)).take (fieldAt img off 8))
  (List.range (fieldAt img (off + 24) 8)).foldl (fun d i =>
    d.applyWrites c.part (t.put (coordsOf t.shape (fieldAt img (off + 16) 8 + i)) (bits data (i * w) w))) d

/-- R406: step 12 of a CTX_RESTORE: live data, combine tags, counters and epoch, and the restored commands in their queue behind it. -/
def Dev.restoreNow (d : Dev) (c : Cmd) (img : Bytes) (l : List Cmd) : Dev :=
  let d := (ctxLives img (fieldAt img 8 4) (fieldAt img 172 4)).foldl (fun d off => d.restoreLive l img off) d
  let d := (l.filter (fun x => x.opcode == 0x01 && x.mSplit != 0)).foldl (fun d x =>
    (d.slotsOf x.part (x.tensor x.mCombine)).foldl (fun d s => d.setTag s.1 s.2 {}) d) d
  let d := d.modPart c.part (fun x => { x with counters := (List.range 16).map (fun k => fieldAt img (32 + 8 * k) 8), augEpoch := fieldAt img 160 8 })
  l.foldl (fun d x =>
    let x := { x with uid := d.nextUid, dep := (d.queue x.part x.queue).last, wait := d.waitPred x, work := { total := (d.opSpace x).count } }
    let next (y : Cmd) : Cmd := if y.part = x.part && y.queue = x.queue && y.succ.isNone then { y with succ := some x.uid } else y
    let d : Dev := { d with nextUid := d.nextUid + 1, cmds := d.cmds.map next ++ [x] }
    d.modQueue x.part x.queue (fun q => { q with last := .live x.uid })) d

/-- The command CTX_RESTORE commits once the restored commands have been admitted. -/
def Dev.ctxRestore (d : Dev) (u : Nat) : Dev :=
  match d.cmd? u with
  | some c => if c.opcode == 0x13 && c.live && c.started then d.complete c stOK 0 else d
  | none => d

/-! ### COMMAND_ADMIT (R75) -/

/-- R400: what makes a CTX_SAVE ill formed at its admission: byte offset. -/
def Dev.ctxSaveBad (d : Dev) (c : Cmd) : Option Nat :=
  let l := (d.ctxEarlier { c with uid := d.nextUid }).filter Cmd.savable
  let n := c.u32 70 * 4096
  if n = 0 || !d.ctxPlaceOk c.part (c.u48 64) n true then some 64
  else if d.ctxMost l > n then some 70
  else if l.any (fun x => (List.range x.tensors.length).any (fun i =>
      (x.tensor i).tagged && !(x.opcode == 0x01 && x.mSplit != 0 && i == x.mCombine))) then some 76
  else none

/-- The checks of CTX_SAVE and CTX_RESTORE that need their images. -/
def Dev.ctxChecks (env : Env) (d : Dev) (c : Cmd) : Option Refused :=
  if c.opcode = 0x12 then (d.ctxSaveBad c).map (fun off => .inl (stINVALID, off + 0xFF00))
  else if c.opcode = 0x13 then
    match d.restoreCheck env c with
    | .error why => some why
    | .ok _ => none
  else none

/-- Admission of a fetched entry. A restore's commands each take an in-flight slot; it waits until there are enough. -/
def Dev.admitCtx (d : Dev) (env : Env) (p q : Nat) (b : Bytes) : Dev :=
  match d.verdict env p q b (Dev.ctxChecks env) with
  | .waits pool =>
    if pool && !(d.queue p q).poolWaited then
      ((d.modQueue p q (fun y => { y with poolWaited := true })).bump (pgKVP p) 0x82C 1).raise (pgKVP p) 1
    else d
  | .refused d c why => d.refuse c why
  | .admitted d1 c =>
    if c.opcode = 0x13 then
      match d1.restoreCheck env c with
      | .error _ => d
      | .ok (d2, img, l) =>
        let room := (d.slotsReserved p - d.slotsUsed p) + (8192 - d.sharedUsed - 64 * d.owners.length)
        if l.length + 1 > room then d else (d2.enter c).restoreNow c img l
    else d1.enter c

/-- The command COMMAND_ADMIT. -/
def Dev.admitEntry (d : Dev) (p q : Nat) (env : Env) : Dev :=
  let x := d.queue p q
  if x.state ≠ 1 || x.sqHead = x.sqTail || !d.slotFree p then d
  else
    let a := d.sqBase p q + 128 * x.sqHead
    match d.readStruct env p a 128 with
    | .error .notIssued => d
    | .error .invalid => d
    | .error e => d.ringFailed p q a e
    | .ok b => d.admitCtx env p q b

end Sys2Proof.Machine
end

