-- ==== Sys2Proof/Machine/Queue.lean ====
section
/-! DEFINITION. Rings: doorbells, completion records, QUEUE_ABORT and QUEUE_RESUME (R61-R67, R164, R556). -/

namespace Sys2Proof.Machine

/-! ### Doorbells (R62, R63) -/

/-- The command SQ_TAIL_DOORBELL: bits [31:16] of the doorbell have no effect; a value beyond the ring sets DOORBELL_ERR. -/
def Dev.sqTail (d : Dev) (p q v : Nat) : Dev :=
  let t := v % 65536
  if t ≥ d.ringSize p q then d.modQueue p q (fun x => { x with doorbellErr := true })
  else d.modQueue p q (fun x => { x with sqTail := t })

/-- The command CQ_HEAD_DOORBELL. -/
def Dev.cqHead (d : Dev) (p q v : Nat) : Dev :=
  let t := v % 65536
  if t ≥ d.ringSize p q then d.modQueue p q (fun x => { x with doorbellErr := true })
  else d.modQueue p q (fun x => { x with cqHead := t })

/-! ### Completion records (R63, R64) -/

/-- The ring has room for a record. -/
def Dev.cqRoom (d : Dev) (p q : Nat) : Bool :=
  let x := d.queue p q
  (x.cqTail + 1) % d.ringSize p q != x.cqHead

/-- A record with PHASE in bit 7 of FLAGS (Table 3-11). -/
def PendingRecord.image (r : PendingRecord) (phase : Bool) : Bytes :=
  putAt r.bytes 5 (toLe 1 (fieldAt r.bytes 5 1 % 128 + 128 * b2n phase))

/-- The numeric flags of a record reach the partition's sticky register, counters and interrupts (R163, R164). -/
def Dev.stickyRecord (d : Dev) (p : Nat) (r : PendingRecord) : Dev :=
  let f := fieldAt r.bytes 5 1
  ((d.sticky p 0 (bit f 0)).sticky p 1 (bit f 1)).sticky p 2 (bit f 6)

/-- A record has been written: CQ_TAIL advances, the command's slot is free, and its MSI-X follows. -/
def Dev.recordDone (d : Dev) (p q : Nat) (r : PendingRecord) : Dev :=
  let n := d.ringSize p q
  let next (x : Queue) : Queue :=
    let t := (x.cqTail + 1) % n
    { x with cqTail := t, phase := if t = 0 then !x.phase else x.phase, lastId := fieldAt r.bytes 0 4 }
  let d := (d.modQueue p q next).stickyRecord p r
  let d : Dev := { d with records := d.records.erase r, cmds := d.cmds.filter (fun c => c.uid != r.uid) }
  if r.irq then d.eventVector p (bits (d.qCfg p q) 16 5) else d

/-- The command COMPLETION_WRITE: the oldest record of a queue is written when the ring has room. A queue stopped by a failed request on a
ring writes none (R556), and a record that a function may not write waits (R478). -/
def Dev.completionWrite (d : Dev) (p q : Nat) (env : Env) : Dev :=
  match d.records.find? (fun r => r.part == p && r.queue == q) with
  | none => d
  | some r =>
    let x := d.queue p q
    if (x.state == 2 && x.hostFail) || !d.cqRoom p q then d
    else
      let a := d.cqBase p q + 32 * x.cqTail
      let b := r.image x.phase
      if isHost a then
        match d.hostRequest env p a 32 true with
        | .ok _ => ((d.atcFill p a 32).putBytesIn p 0 a b).recordDone p q r
        | .error .notIssued => d
        | .error e => d.ringFailed p q a e
      else (d.putBytesIn p 0 a b).recordDone p q r

/-! ### QUEUE_ABORT and QUEUE_RESUME (R66) -/

/-- Every admitted, uncommitted command of some queues completes with a status. -/
def Dev.abortAll (d : Dev) (p mask : Nat) : Dev :=
  (d.cmds.filter (fun c => c.live && c.part == p && bit mask c.queue)).foldl (fun d c => d.endCmd c.uid stABORT 0) d

/-- The command QUEUE_ABORT. -/
def Dev.queueAbort (d : Dev) (p mask : Nat) : Dev :=
  let stop (d : Dev) (q : Nat) : Dev := d.modQueue p q (fun x => if x.state = 1 then { x with state := 2 } else x)
  ((setBitsOf mask 16).foldl stop d).abortAll p mask

/-- The command QUEUE_RESUME. -/
def Dev.queueResume (d : Dev) (p mask : Nat) : Dev :=
  let go (d : Dev) (q : Nat) : Dev := d.modQueue p q (fun x => if x.state = 2 then { x with state := 1, hostFail := false } else x)
  (setBitsOf mask 16).foldl go d

end Sys2Proof.Machine
end

