-- ==== Sys2Proof/Machine/Link.lean ====
section
/-! DEFINITION. Die-to-die links (R15, R92, R518). -/

namespace Sys2Proof.Machine

/-- Table 1-2: the two dies of a link. -/
def linkDies (i : Nat) : Nat × Nat := [(0, 1), (0, 2), (0, 3), (1, 2), (1, 3), (2, 3)].getD i (0, 1)

/-- R92: the tiles with traffic on a link are killed and replayed. Which tiles of its two dies have traffic on it is not stated: a free
value decides for each (log entry 30). -/
def Dev.linkReplay (d : Dev) (i : Nat) : Dev :=
  let ends := linkDies i
  let l := d.cmds.flatMap (fun c => (c.work.copies.filter (fun x => !x.claimed && (x.unit.die == ends.1 || x.unit.die == ends.2))).map (fun x => (c.uid, x)))
  l.foldl (fun d x =>
    let hit := (Config.freeWord d.fresh).getLsbD 0
    let d : Dev := { d with fresh := d.fresh + 1 }
    if hit then d.replayCopy x.1 x.2 false else d) d

/-- A link retrains for a cause of Table 18-6: within 8,192 cycles it is up again. -/
def Dev.linkRetrain (d : Dev) (i crcErrors cause : Nat) : Dev :=
  let d := (d.bump (pgD2D i) 0x804 1).bump (pgD2D i) 0x808 crcErrors
  let d := (d.bump (pgD2D i) 0x80C crcErrors).linkReplay i
  (d.raise (pgD2D i) 0).log { cls := 6, severity := 2, source := pgD2D i, detail := toLe 1 i ++ toLe 1 cause }

/-- The command D2D_RETRAIN: the window's CRC errors exceed the threshold, or lock is lost. Errors at or below the threshold are counted. -/
def Dev.linkErrors (d : Dev) (i crcErrors : Nat) (lostLock : Bool) : Dev :=
  if lostLock then d.linkRetrain i crcErrors 1
  else if crcErrors > d.active (pgD2D i) 0x040 % 65536 then d.linkRetrain i crcErrors 0
  else (d.bump (pgD2D i) 0x808 crcErrors).bump (pgD2D i) 0x80C crcErrors

end Sys2Proof.Machine
end

