-- ==== Sys2Proof/Machine/Pages.lean ====
section
/-! DEFINITION. Access to register pages: what each source sees, reads with their computed registers, writes to the header, to shadowed, live and W1C registers, COMMIT, DISCARD and LOCK (R100-R112, R117, R121-R125). -/

namespace Sys2Proof.Machine

/-! ### Visibility (R122, R123, R125) -/

/-- A source is a virtual function. -/
def isVf : Src → Bool
  | .fn 0 => false
  | .fn _ => true
  | .masthead => false

/-- R123: the page is present in a source's view. -/
def Dev.pagePresent (d : Dev) (src : Src) (page : Nat) : Bool :=
  match src with
  | .masthead => true
  | .fn f =>
    f == 0 || page == pgPART f || page == pgNUM f || page == pgRNG f || page == pgKVP f || page == pgWIN f ||
    (match blockOf page with
      | some (.core, n) | some (.vec, n) | some (.spd, n) => (d.coresOf f).contains n
      | some (.arr, a) => (d.coresOf f).contains (a / 2)
      | _ => false)

/-- The interrupt bits that a block defines, with those of Table 4-7. -/
def Block.intBits : Block → Nat
  | .part => 15 | .arr | .hbm | .mgt => 5 | .num | .pci => 4
  | .tick | .kvp | .spd | .shc | .hal | .fab | .med | .mon => 3
  | .vec | .eth | .red => 2
  | .core | .rng | .stk | .ing | .sec | .d2d => 1

def Block.intMask (b : Block) : Nat := 2 ^ b.intBits - 1 + 3 * 2 ^ 30

/-! ### PAGE_STAT (Table 4-6) -/

def Dev.setStat (d : Dev) (page i : Nat) : Dev := d.setReg page oStat (d.reg page oStat ||| BitVec.ofNat 32 (1 <<< i))
def Dev.clearStat (d : Dev) (page i : Nat) : Dev := d.setReg page oStat (d.reg page oStat &&& ~~~ BitVec.ofNat 32 (1 <<< i))

/-- IGNORED_WRITE of a page that has a header. -/
def Dev.ignored (d : Dev) (page : Nat) : Dev := if (blockOf page).isSome then d.setStat page 2 else d

/-- A commit of the page is pending. -/
def Dev.commitPending (d : Dev) (page : Nat) : Bool := d.commits.any (fun k => k.page == page)

def Dev.isLocked (d : Dev) (page : Nat) : Bool := bit (d.regN page oCtl) 8

/-- LOCK_OWNER as a source would hold it: 1 the physical function, 2 Masthead. -/
def ownerCode : Src → Nat
  | .fn _ => 1
  | .masthead => 2

/-- R121: the page is locked against a source. -/
def Dev.lockedTo (d : Dev) (src : Src) (page : Nat) : Bool :=
  d.isLocked page && (isVf src || bits (d.regN page oStat) 4 2 != ownerCode src)

/-! ### Reads (R103, R104, R107) -/

/-- Low words of 64-bit counters: reading one latches the word above it. -/
def Block.isWide (b : Block) (off : Nat) : Bool :=
  match b with
  | .arr => off == 0x820 || off == 0x828
  | .vec => off == 0x818
  | .spd => off == 0x820
  | .shc => off == 0x800 || off == 0x808
  | .hbm => off == 0x804 || off == 0x80C
  | .med => off == 0x80C || off == 0x814
  | _ => false

/-- RANK, OWNED and PARTITION of a core. -/
def Dev.corePlace (d : Dev) (n : Nat) : Nat :=
  match d.ownerOf n with
  | none => 0
  | some p => (((d.coresOf p).findIdx? (· == n)).getD 0) + 2 ^ 8 + p * 2 ^ 16

/-- Table 6-7. -/
def Dev.arrState (d : Dev) (a : Nat) : Nat :=
  let x := d.array a
  let h := if x.outOfService then 7 else match x.hoist with
    | .lowered => 0 | .waiting => 1 | .raising => 2 | .lowering => 5
    | .hoisted => if (d.holding (.arr a)).isEmpty then 4 else 3
  let own := match d.ownerOf (a / 2) with
    | some p => p * 2 ^ 16 + 2 ^ 22
    | none => 0
  h + 8 * b2n x.permit + 16 * (x.failRun % 4) + x.mode % 8 * 256 + b2n x.integer * 2048 + own

/-- CORE.STATE (Table 6-10). -/
def Dev.coreStateWord (d : Dev) (n : Nat) : Nat :=
  d.corePlace n + b2n (d.core n).zeroing * 2 ^ 9 + b2n (d.inService (2 * n)) * 2 ^ 10 + b2n (d.inService (2 * n + 1)) * 2 ^ 11 +
    b2n (!(d.holding (.vec n)).isEmpty) * 2 ^ 12

/-- FUNC_STATE (Table 17-4). -/
def Dev.funcState (d : Dev) (f : Nat) : Nat :=
  if d.pci.hasFn f then
    let c := d.pci.fns.getD f {}
    1 + 2 * b2n c.busMaster + 4 * b2n c.d3hot + 8 * b2n c.flrBusy + 16 * b2n (d.pci.ide.any (fun s => s.secure && s.covers.contains f)) + 32 * b2n c.ats
  else 0

/-- IRQ_SRC (Table 17-4). -/
def Dev.irqSrc (d : Dev) (p : Nat) : Nat :=
  let unit (n : Nat) : Bool := d.signals (pgCORE n) || d.signals (pgVEC n) || d.signals (pgSPD n) || d.signals (pgARR (2 * n)) || d.signals (pgARR (2 * n + 1))
  b2n (d.signals (pgPART p)) + 2 * b2n (d.signals (pgNUM p)) + 4 * b2n (d.signals (pgRNG p)) + 8 * b2n (d.signals (pgKVP p)) +
    16 * b2n ((d.coresOf p).any unit)

/-- IRQ_SUMMARY[j] and IRQ_SUMMARY_CORES (Table 17-5). -/
def Dev.irqSummary (d : Dev) (j : Nat) : Nat := bitMask ((List.range 32).filter (fun i => (blockOf (32 * j + i)).isSome && d.signals (32 * j + i)))

def Dev.irqCores (d : Dev) : Nat :=
  b2n ((List.range 64).any (fun n => (d.ownerOf n).isNone &&
    (d.signals (pgCORE n) || d.signals (pgVEC n) || d.signals (pgSPD n) || d.signals (pgARR (2 * n)) || d.signals (pgARR (2 * n + 1)))))

/-- Registers of a PART page that are computed. -/
def Dev.partWord (d : Dev) (p off : Nat) : Option Nat :=
  let x := d.part p
  let units (r v : Nat) : Nat := if r ≤ 1 then v else v / 4096
  let up (r v : Nat) : Nat := if r ≤ 1 then v else ceilDiv v 4096
  let cfg := d.active (pgPART p) 0x060
  if 0x880 ≤ off ∧ off < 0x980 then
    let y := x.queue ((off - 0x880) / 16)
    match off % 16 with
    | 0 => some y.sqHead
    | 4 => some (y.cqTail + b2n y.phase * 65536)
    | 8 => some y.lastId
    | 12 => some (y.state + 256 * b2n y.doorbellErr)
    | _ => none
  else match off with
    | 0x800 | 0x804 | 0x808 | 0x80C => some (units ((off - 0x800) / 4) (d.capacity p ((off - 0x800) / 4)))
    | 0x810 | 0x814 | 0x818 | 0x81C => some (up ((off - 0x810) / 4) (d.peak p ((off - 0x810) / 4)))
    | 0x820 => some (d.sessionsOf p).length
    | 0x83C => some (bits cfg 0 6 + 256 * b2n (bit cfg 8))
    | 0x840 => some (min 2 (d.preempted p).length + 256 * b2n (!x.saveCores.isEmpty))
    | 0x850 => some (claimSlots (d.claims p))
    | 0x854 => some (d.jobs.filter (fun j => j.part == p)).length
    | 0x858 => some x.mailSqHead
    | 0x85C => some (x.mailRqTail + b2n x.mailPhase * 65536)
    | 0x860 => some (d.partSplit p)
    | 0x864 => some (d.streams.filter (fun s => s.part == p)).length
    | 0x868 => some (d.funcState p)
    | 0x86C => some (d.irqSrc p)
    | 0xC10 => some (b2n x.resyncPending + d.regN (pgPART p) 0xC10 / 256 * 256)
    | _ => none

/-- Registers of other pages that are computed. -/
def Dev.otherWord (d : Dev) (b : Block) (i off : Nat) : Option Nat :=
  match b with
  | .tick => match off with
    | 0x800 => some (b2n d.tick.locked + 2 * b2n d.tick.holdover + 4 * (d.tick.source % 4))
    | 0x808 => some (d.tick.count % 2 ^ 32)
    | 0x810 => some (ofSigned 32 d.tick.offsetNs)
    | _ => none
  | .kvp => match off with
    | 0x804 => some (d.kvPool i).pageBytes
    | 0x808 => some (d.kvFree i)
    | 0x80C => some (d.kvCount i (fun e => decide (e.pins > 0)))
    | 0x810 => some (d.kvCount i (fun e => decide (e.ref > 1)))
    | 0x814 => some (d.kvCount i (·.isSealed))
    | 0x818 => some (d.kvCount i (·.held))
    | _ => none
  | .rng =>
    if 0x800 ≤ off ∧ off < 0x880 then
      let v := (d.part i).counters.getD ((off - 0x800) / 8) 0
      some (if off % 8 = 0 then v % 2 ^ 32 else v >>> 32)
    else if off = 0x880 then some ((d.part i).augEpoch % 2 ^ 32)
    else if off = 0x884 then some ((d.part i).augEpoch >>> 32)
    else none
  | .core => match off with
    | 0x800 => some (d.coreStateWord i)
    | 0x808 => some (min (2 ^ 32 - 1) ((d.core i).moverRead / 4096))
    | 0x80C => some (min (2 ^ 32 - 1) ((d.core i).moverWrite / 4096))
    | 0x814 =>
      let save := d.cmds.foldl (fun a c => a + (c.work.slots.filter (fun s => s.1 == i)).length) 0
      let chain := d.cmds.foldl (fun a c => if c.live && tiledOp c.opcode && c.chainEn then
        a + ((c.work.openBands (d.opSpace c)).filter (fun gb => d.homeCore c.part gb.2 == i)).length else a) 0
      some (min 3 save + 4 * min 3 chain)
    | _ => none
  | .arr => if off = 0x800 then some (d.arrState i) else none
  | .vec => if off = 0x800 then some (d.corePlace i / 256 * 256 + b2n (!(d.holding (.vec i)).isEmpty)) else none
  | .spd => if off = 0x800 then some (d.corePlace i + b2n (d.core i).zeroing * 2 ^ 9) else none
  | .shc => match off with
    | 0x820 => some (d.lines.filter (fun l => l.die == i && l.dirty)).length
    | 0xC04 => some (b2n (d.flushing.contains i))
    | _ => none
  | .hal => if off = 0x800 then
      let on (c : Cmd) : Bool := isArrayOp c.opcode && c.work.copies.any (fun x => x.unit.die == i)
      let q := d.cmds.foldl (fun a c => a + ((c.work.dies.filter (fun x => x.die == i)).map (fun x => x.reissue.length)).foldl (· + ·) 0) 0
      some (min 2 (d.cmds.filter on).length + 256 * min 255 q)
    else none
  | .stk => let s := d.stackUnits.getD i {}
    match off with
    | 0x808 => some (min (2 ^ 32 - 1) (s.moved / 4096))
    | 0x810 => some (min (2 ^ 32 - 1) (s.checked / 4096))
    | _ => none
  | .fab =>
    if off = 0x800 then some (d.txRate + min 255 d.rigQueue.length * 65536)
    else if 0x900 ≤ off ∧ off < 0xA90 then let x := d.unit ((off - 0x900) / 4); some (x.role + x.epoch * 65536)
    else if 0xA90 ≤ off ∧ off < 0xAF4 then
      some ((List.range 4).foldl (fun a k => a + (match (d.unit (off - 0xA90 + k)).owner with
        | some o => (o + 128) * 256 ^ k
        | none => 0)) 0)
    else none
  | .eth => let x := d.ports.getD i {}
    if off < 0x40 then none
    else if !d.portExists i then some 0
    else match off with
      | 0x800 => let g := d.active pgFAB 0x044 >>> (8 * (i / 4))
        some (b2n x.up * 3 + bits g 0 2 * 16 + bits g 2 2 * 64)
      | 0x80C => some (min (2 ^ 32 - 1) (x.txBytes / 4096))
      | 0x810 => some (min (2 ^ 32 - 1) (x.rxBytes / 4096))
      | _ => none
  | .red => let r := d.reducers.getD i {}
    match off with
    | 0x800 => some ((d.jobs.filter (fun j => j.reducer == i)).length + 256 * b2n r.outOfService)
    | 0x804 => some (min (2 ^ 32 - 1) (r.reduced / 4096))
    | _ => none
  | .med => match off with
    | 0x800 => let n (send : Bool) : Nat := (d.streams.filter (fun s => s.unit == i && s.isSend == send)).length
      some (n false + n true * 65536)
    | 0x804 => some (d.enginePeak i false)
    | 0x808 => some (d.enginePeak i true)
    | _ => none
  | .pci => match off with
    | 0x804 => some (d.pci.numVfs % 64 + 256 * b2n d.pci.vfEnable)
    | 0x830 | 0x834 | 0x838 => some (d.irqSummary ((off - 0x830) / 4))
    | 0x83C => some d.irqCores
    | _ => none
  | _ => none

/-- The word a page shows at an offset; registers of Masthead, bring-up and the security block stand elsewhere. -/
def Dev.wordAt (d : Dev) (page off : Nat) : Word :=
  match blockOf page with
  | none =>
    if pgWIN 0 ≤ page ∧ page < pgWIN 64 then BitVec.ofNat 32 (fieldAt (d.part (page - pgWIN 0)).resyncWindow off 4) else 0
  | some (b, i) =>
    match off with
    | 0x000 => BitVec.ofNat 32 (b.code * 65536 + i)
    | 0x004 => 0x00010000
    | 0x00C => d.reg page oStat ||| BitVec.ofNat 32 (b2n (d.commitPending page))
    | 0x008 | 0x010 | 0x014 | 0x018 => d.reg page off
    | _ =>
      if off < 0x40 then 0
      else match (match b with
        | .part => d.partWord i off
        | _ => d.otherWord b i off) with
      | some v => BitVec.ofNat 32 v
      | none =>
        let o := if 0x440 ≤ off ∧ off < 0x800 then off - 0x400 else off
        match regSpec b o with
        | some r => if r.access = .rws || off ≥ 0x800 then d.reg page off else 0
        | none => 0

/-- A read of a word: reading the low word of a 64-bit counter latches its high word. -/
def Dev.readWord (d : Dev) (page off : Nat) : Dev × Word :=
  let v := d.wordAt page off
  match blockOf page with
  | some (.tick, _) => if off = 0x808 then (d.setReg page 0x80C (BitVec.ofNat 32 (d.tick.count >>> 32)), v) else (d, v)
  | some (b, _) => if b.isWide off then (d.setReg page (off + 4) (BitVec.ofNat 32 (d.regN page (wideKey off))), v) else (d, v)
  | none => (d, v)

/-! ### COMMIT, DISCARD and LOCK (R108, R111, R112, R121) -/

/-- Offsets of a block's shadowed registers, in order. -/
def Block.shadowed (b : Block) : List (Nat × RegSpec) :=
  (b.map.filter (fun r => r.access == .rws)).flatMap (fun r => (List.range r.count).map (fun i => (r.off + i * r.stride, r)))

/-- R114, R232, R554: the commands that a commit will wait for. -/
def Dev.commitUsers (d : Dev) (page : Nat) : List Nat :=
  match blockOf page with
  | some (.part, p) => (d.cmds.filter (fun c => c.live && c.part == p)).map (·.uid)
  | some (b, _) => if b.tickClass then [] else (d.cmds.filter (fun c => c.live && c.started && d.usesPage c page)).map (·.uid)
  | none => []

/-- A write of 1 to COMMIT. -/
def Dev.requestCommit (d : Dev) (page : Nat) : Dev :=
  if d.commitPending page then d.ignored page
  else
    let tiles := match blockOf page with
      | some (.part, p) => (d.cmds.filter (fun c => c.live && c.part == p && isArrayOp c.opcode && !c.work.copies.isEmpty)).map (·.uid)
      | _ => []
    { d with commits := d.commits ++ [{ page := page, since := d.now, waits := d.commitUsers page, tiles := tiles }] }

/-- The shadow takes the active copy, or the active copy the shadow. -/
def Dev.copyShadow (d : Dev) (page : Nat) (toActive : Bool) : Dev :=
  match blockOf page with
  | none => d
  | some (b, _) => b.shadowed.foldl (fun d o =>
      if toActive then d.setReg page (o.1 + 0x400) (d.reg page o.1) else d.setReg page o.1 (d.reg page (o.1 + 0x400))) d

/-- A write of 1 to DISCARD. -/
def Dev.discardShadow (d : Dev) (page : Nat) : Dev :=
  let d : Dev := { d with commits := d.commits.filter (fun k => k.page != page) }
  (d.copyShadow page false).clearStat page 3

/-- R121: a write of the LOCK bit; one from a virtual function is ignored. -/
def Dev.writeLock (d : Dev) (src : Src) (page : Nat) (on : Bool) : Dev :=
  if isVf src then (if on == d.isLocked page then d else d.ignored page)
  else if on == d.isLocked page then d
  else
    let d := d.setReg page oCtl (BitVec.ofNat 32 (setBits (d.regN page oCtl) 8 1 (b2n on)))
    d.setReg page oStat (BitVec.ofNat 32 (setBits (d.regN page oStat) 4 2 (if on then ownerCode src else 0)))

/-- A write to PAGE_CTL (Table 4-5). -/
def Dev.writeCtl (d : Dev) (src : Src) (page : Nat) (v : Nat) : Dev :=
  if d.lockedTo src page then d.ignored page
  else
    let d := d.setReg page oCtl (BitVec.ofNat 32 (setBits (d.regN page oCtl) 1 1 (b2n (bit v 1))))
    let d := d.writeLock src page (bit v 8)
    if bit v 2 then d.discardShadow page
    else if bit v 0 then d.requestCommit page
    else d

/-! ### Register writes (R103, R104, R107, R117, R124) -/

/-- A value written over another with some bits held. -/
def heldWrite (old v : Word) (held : Nat) : Word :=
  let h := BitVec.ofNat 32 held
  (old &&& h) ||| (v &&& ~~~ h)

/-- The bits of a register that a source may not change: PF bits for a virtual function, and the MGT fields that Masthead has locked. -/
def Dev.heldBits (d : Dev) (src : Src) (page off : Nat) (r : RegSpec) : Nat :=
  let pf := if isVf src then r.pf else 0
  let lk := if page = pgMGT && src != .masthead && d.isLocked pgSEC then (Config.lockedMgt off).toNat else 0
  pf ||| lk

/-- A write to a shadowed register. -/
def Dev.writeShadow (d : Dev) (src : Src) (page off : Nat) (r : RegSpec) (v : Word) : Dev :=
  if d.lockedTo src page || d.commitPending page then d.ignored page
  else
    let old := d.reg page off
    let held := d.heldBits src page off r
    let whole := held % 2 ^ 32 &&& r.mask == r.mask && held != 0
    let new := if whole then old else heldWrite old v held
    let d := if (old ^^^ v) &&& BitVec.ofNat 32 held = 0 then d else d.ignored page
    if whole then d else (d.setReg page off new).setStat page 3

/-- Clear the counters of a COUNT_CLEAR: `n` of them from `base`, those the mask names. -/
def Dev.clearCounters (d : Dev) (page base n v : Nat) : Dev :=
  (setBitsOf v n).foldl (fun d i => d.setReg page (base + 4 * i) 0) d

/-- Each page's COUNT_CLEAR: the first counter and how many it names. -/
def Block.counters : Block → Nat × Nat
  | .num => (0x804, 5) | .rng => (0x888, 3) | .kvp => (0x81C, 6) | .core => (0x804, 4) | .arr => (0x804, 7) | .vec => (0x804, 5)
  | .spd => (0x804, 7) | .shc => (0x810, 4) | .hal => (0x804, 10) | .hbm => (0x814, 6) | .stk => (0x804, 5) | .fab => (0x804, 9)
  | .eth => (0x804, 8) | .red => (0x804, 4) | .med => (0x81C, 7) | .ing => (0x804, 3) | .pci => (0x808, 7) | .mon => (0x870, 1)
  | .d2d => (0x804, 3)
  | .tick | .part | .mgt | .sec => (0, 0)

/-- The offset of each page's COUNT_CLEAR. -/
def Block.clearAt : Block → Option Nat
  | .arr | .fab => some 0xC04
  | .tick | .part | .mgt | .sec => none
  | _ => some 0xC00

/-- A write to COUNT_CLEAR (R117): counters shown in 4 KiB units are kept in bytes. -/
def Dev.countClear (d : Dev) (b : Block) (i page v : Nat) : Dev :=
  let d := d.clearCounters page b.counters.1 b.counters.2 v
  match b with
  | .core => d.modCore i (fun x => { x with moverRead := if bit v 1 then 0 else x.moverRead, moverWrite := if bit v 2 then 0 else x.moverWrite })
  | .stk => let s := d.stackUnits.getD i {}
    { d with stackUnits := d.stackUnits.set i { s with moved := if bit v 1 then 0 else s.moved, checked := if bit v 3 then 0 else s.checked } }
  | .red => let r := d.reducers.getD i {}
    { d with reducers := d.reducers.set i { r with reduced := if bit v 0 then 0 else r.reduced } }
  | .eth => let x := d.ports.getD i {}
    { d with ports := d.ports.set i { x with txBytes := if bit v 2 then 0 else x.txBytes, rxBytes := if bit v 3 then 0 else x.rxBytes } }
  | .pci => if bit v 7 then (List.range 64).foldl (fun d f => d.setReg page (0x900 + 4 * f) 0) d else d
  | _ => d

/-- R97, R60: a write to RESYNC. -/
def Dev.resyncRequest (d : Dev) (p v : Nat) : Dev :=
  if (d.part p).resyncPending then d
  else
    let d := d.setReg (pgPART p) 0xC10 (BitVec.ofNat 32 (v &&& 0xFFFF00))
    if !bit v 0 then d
    else
      let a := d.regN (pgPART p) 0xC14 + d.regN (pgPART p) 0xC18 % 65536 * 2 ^ 32
      if a % 4096 ≠ 0 || !rangeValid a (4096 * bits v 8 16) then d.raise (pgPART p) 14
      else d.modPart p (fun x => { x with resyncPending := true })

/-- The descriptor address that a PART page's live registers hold. -/
def Dev.liveAddr (d : Dev) (p lo : Nat) : Nat := d.regN (pgPART p) lo + d.regN (pgPART p) (lo + 4) % 65536 * 2 ^ 32

/-- Live registers of a PART page; `held` has been applied to `v`. -/
def Dev.writePartLive (d : Dev) (p off : Nat) (v : Word) : Dev :=
  let n := v.toNat
  let plain : Dev := d.setReg (pgPART p) off v
  match off with
  | 0xC04 => plain.modPart p (fun x => { x with sessionReq := x.sessionReq ++ [plain.liveAddr p 0xC00] })
  | 0xC08 => (d.closeSession p (bits n 0 12)).getD d
  | 0xC10 => d.resyncRequest p n
  | 0xC1C => d.queueAbort p n
  | 0xC20 => d.queueResume p n
  | 0xC24 => d.clearCounters (pgPART p) 0x844 3 n
  | 0xC2C => plain.modPart p (fun x => { x with jobReq := x.jobReq ++ [plain.liveAddr p 0xC28] })
  | 0xC30 => d.closeJob p (n % 65536)
  | 0xC40 => plain.modPart p (fun x => { x with streamReq := x.streamReq ++ [plain.liveAddr p 0xC3C] })
  | 0xC44 => d.closeStream p (bits n 0 10)
  | 0xC48 => d.modPart p (fun x => { x with rekeyReq := x.rekeyReq ++ [bits n 0 10] })
  | 0xC34 => plain.modPart p (fun x => { x with mailSqTail := n % 65536 })
  | 0xC38 => plain.modPart p (fun x => { x with mailRqHead := n % 65536 })
  | _ => plain

/-- R439: a write to RIG_SET. -/
def Dev.rigSet (d : Dev) (v : Nat) : Dev :=
  let u := bits v 0 7
  if u ≥ 100 then d.ignored pgFAB
  else { d with rigQueue := d.rigQueue ++ [(u, bits v 16 16, if bit v 14 then some (bits v 8 6) else none)] }

/-- R219: a write to FLUSH. -/
def Dev.flushStart (d : Dev) (die v : Nat) : Dev :=
  if bit v 0 && !d.flushing.contains die then { d with flushing := d.flushing ++ [die] } else d

/-- The kind an INJECT write arms, if the register takes it. -/
def Block.armed (b : Block) (v : Nat) : Option Nat :=
  match b with
  | .arr => let k := bits v 0 3; if 1 ≤ k ∧ k ≤ 4 then some k else none
  | .red => if bit v 0 then some 1 else none
  | _ => let k := bits v 0 2; if 1 ≤ k ∧ k ≤ 2 then some k else none

/-- The offset of each page's error injection. -/
def Block.injectAt : Block → Option Nat
  | .arr => some 0xC00
  | .vec | .spd | .hbm | .red => some 0xC04
  | _ => none

/-- A live register of a page other than PART that is no counter clear. -/
def Dev.writeLive (d : Dev) (b : Block) (i page off : Nat) (v : Word) : Dev :=
  let n := v.toNat
  if b.clearAt = some off then d.countClear b i page n
  else if b.injectAt = some off then (match b.armed n with
    | some k => d.setReg page off (BitVec.ofNat 32 k)
    | none => d)
  else match b with
    | .part => d.writePartLive i off v
    | .fab => if off = 0xC00 then d.rigSet n else d
    | .shc => if off = 0xC04 then d.flushStart i n else d
    | .d2d => if off = 0xC04 && bit n 0 then d.linkRetrain i 0 2 else d
    | .mgt => if off = 0xC0C then d else d.setReg page off v
    | _ => d.setReg page off v

/-- One aligned 32-bit write (R106, R123). -/
def Dev.write32 (d : Dev) (src : Src) (page off : Nat) (v : Word) : Dev :=
  if !d.pagePresent src page then
    match src with
    | .fn f => d.bump pgPCI (0x900 + 4 * f) 1
    | .masthead => d
  else
    match blockOf page with
    | none => d
    | some (b, i) =>
      match off with
      | 0x008 => d.writeCtl src page v.toNat
      | 0x00C => if d.lockedTo src page then d.ignored page else d.setReg page oStat (d.reg page oStat &&& ~~~ (v &&& 6))
      | 0x014 => if d.lockedTo src page then d.ignored page else d.setReg page oIntStat (d.reg page oIntStat &&& ~~~ v)
      | 0x018 => d.withIrqEdge page (fun d => d.setReg page oIntEn (v &&& BitVec.ofNat 32 b.intMask))
      | 0x01C => d.raiseBits page (v &&& BitVec.ofNat 32 b.intMask)
      | _ =>
        match regSpec b off with
        | none => d
        | some r =>
          match r.access with
          | .ro => d
          | .rws => d.writeShadow src page off r v
          | .w1c => if d.lockedTo src page then d.ignored page else d.setReg page off (d.reg page off &&& ~~~ v)
          | .l | .wo =>
            let held := d.heldBits src page off r
            let old := d.reg page off
            let d := if (old ^^^ v) &&& BitVec.ofNat 32 held = 0 then d else d.ignored page
            if held % 2 ^ 32 &&& r.mask == r.mask && held != 0 then d
            else d.writeLive b i page off (heldWrite old (v &&& BitVec.ofNat 32 r.mask) held)

/-- R103: a write of any width; one narrower than 32 bits or not aligned is ignored, and a 64-bit write acts as two. -/
def Dev.writeAny (d : Dev) (src : Src) (offset width v : Nat) : Dev :=
  let page := offset / 4096
  if (width = 32 || width = 64) && offset % 4 = 0 then
    let d1 := d.write32 src page (offset % 4096) (BitVec.ofNat 32 v)
    if width = 64 then d1.write32 src ((offset + 4) / 4096) ((offset + 4) % 4096) (BitVec.ofNat 32 (v >>> 32)) else d1
  else if d.pagePresent src page then d.ignored page
  else match src with
    | .fn f => d.bump pgPCI (0x900 + 4 * f) 1
    | .masthead => d

end Sys2Proof.Machine
end

