-- ==== Sys2Proof/Machine/Checks.lean ====
section
/-! DEFINITION. The checks of a commit: field ranges, reserved bits, addresses, agreement within the page and with other pages, and the reason and word a rejection reports (R109, R119, R120, Table 4-9 and each block's reasons). -/

namespace Sys2Proof.Machine

/-- A failed check: register offset, place in the order of R119 (0 range, 1 reserved, 2 address, 3 fields of the page, 4 other pages), reason. -/
abbrev Chk := Nat × Nat × Nat

/-- One check. -/
def chk (off order reason : Nat) (bad : Bool) : List Chk := if bad then [(off, order, reason)] else []

/-- A value lies outside a range. -/
def outside (v lo hi : Nat) : Bool := decide (v < lo) || decide (v > hi)

/-- R120: the failing check that is reported. -/
def firstChk (l : List Chk) : Option Chk :=
  l.foldl (fun a c => match a with
    | none => some c
    | some b => if decide (c.1 < b.1) || (c.1 == b.1 && (decide (c.2.1 < b.2.1) || (c.2.1 == b.2.1 && decide (c.2.2 < b.2.2)))) then some c else some b) none

/-- The shadow of a register as a number. -/
abbrev Shadow := Nat → Nat

/-- The address that a pair of registers holds. -/
def addrOf (r : Nat → Nat) (lo : Nat) : Nat := r lo + r (lo + 4) % 65536 * 2 ^ 32

/-- R104: a reserved bit is set. -/
def Block.reservedChks (b : Block) (s : Shadow) : List Chk :=
  b.shadowed.flatMap (fun o => chk o.1 1 0x01 ((BitVec.ofNat 32 (s o.1) &&& ~~~ BitVec.ofNat 32 o.2.mask) != 0))

/-! ### TICK and PART -/

def Dev.tickChks (d : Dev) (s : Shadow) : List Chk :=
  let n := bits (s 0x040) 0 8
  chk 0x040 0 0x21 (outside n 1 240 || (bits (s 0x040) 8 2 == 3 && 2400 % n != 0)) ++
  chk 0x040 4 0x22 (n != d.tickN && !d.sessions.isEmpty) ++
  chk 0x044 0 0x02 (decide (bits (s 0x044) 8 5 > 16)) ++
  chk 0x048 0 0x02 (decide (bits (s 0x048) 0 11 > 2000))

/-- A ring's SIZE_LOG2, base alignment, base address and changes while enabled (R56, R65, R443): `len` is an entry's bytes. -/
def Dev.ringChks (d : Dev) (page : Nat) (s : Shadow) (cfg lo len size align invalid busy cfgBits : Nat) : List Chk :=
  let on := bit (s cfg) 8 && bit (d.active page cfg) 8
  chk cfg 0 size (outside (bits (s cfg) 0 5) 4 16) ++
  chk cfg 3 busy (on && (s cfg &&& cfgBits) != (d.active page cfg &&& cfgBits)) ++
  chk lo 2 align (s lo % 4096 != 0) ++
  chk lo 3 busy (on && s lo != d.active page lo) ++
  chk (lo + 4) 2 invalid (!rangeValid (addrOf s lo) (len * 2 ^ bits (s cfg) 0 5)) ++
  chk (lo + 4) 3 busy (on && s (lo + 4) != d.active page (lo + 4))

/-- The cores a mask names. -/
def maskCores (lo hi : Nat) : List Nat := setBitsOf lo 32 ++ (setBitsOf hi 32).map (· + 32)

/-- R409: a SPACE 1 tensor of an admitted or pre-empted command lies beyond a number of cores. -/
def Dev.ctxLiveBad (d : Dev) (p cores : Nat) : Bool :=
  d.cmds.any (fun c => c.live && c.part == p && c.tensors.any (fun t => t.space == 1 && (match t.footprint with
    | some (_, hi) => decide (hi / 0x2000000 ≥ cores)
    | none => false)))

/-- The sum of a share over all partitions with one shadow in place of its active copy. -/
def Dev.shareSum (d : Dev) (p lo v : Nat) : Nat :=
  (List.range 64).foldl (fun a q => a + (if q = p then v else bits (d.active (pgPART q) 0x048) lo 9)) 0

/-- R230: the checks of a changed region configuration. -/
def Dev.regionChks (d : Dev) (env : Env) (p : Nat) (s : Shadow) : List Chk :=
  let cfg := s 0x060
  let k := regionCfg cfg (s 0x064) (s 0x068)
  chk 0x060 0 0x37 (decide (k.1 > 32)) ++
  chk 0x060 3 0x37 (k.2.1 && k.1 != 0) ++
  chk 0x064 2 0x05 (s 0x064 % 64 != 0) ++
  (if k.1 = 0 || k.2.1 then (if k.2.1 && k.1 = 0 && (d.differs (pgPART p) 0x060) then chk 0x060 4 0x38 (d.regionConflict p [defaultRegion]) else [])
   else
    chk 0x068 2 0x04 (!rangeValid k.2.2 (64 * k.1)) ++
    (if d.differs (pgPART p) 0x060 || d.differs (pgPART p) 0x064 || d.differs (pgPART p) 0x068 then
      match d.readRegions env p k with
      | .error _ => chk 0x068 3 0x37 true
      | .ok rs => chk 0x068 4 0x38 (d.regionConflict p rs)
     else []))

/-- PART_CTX_AREA (Table 14-8, R395). -/
def Dev.ctxAreaBad (d : Dev) (p : Nat) (s : Shadow) : Bool × Bool :=
  let v := s 0x06C
  let b := bits v 0 7
  let n := bits v 8 7
  let t := bits v 16 7
  let meets (q : Nat) : Bool :=
    let o := d.active (pgPART q) 0x06C
    q != p && n != 0 && bits o 8 7 != 0 && decide (b < bits o 0 7 + bits o 8 7) && decide (bits o 0 7 < b + n)
  (decide (b + n > 64) || decide (t > n),
   (List.range 64).any meets || !claimsFit t (maskCores (s 0x040) (s 0x044)).length (claimSlots (d.claims p)))

def Dev.partChks (d : Dev) (env : Env) (p : Nat) (s : Shadow) : List Chk :=
  let pg := pgPART p
  let new := maskCores (s 0x040) (s 0x044)
  let others (lo : Nat) : Nat := (List.range 64).foldl (fun a q => if q = p then a else a ||| d.active (pgPART q) lo) 0
  let changed (lo : Nat) : Bool := s lo != d.active pg lo
  let area := d.ctxAreaBad p s
  [0x040, 0x044].flatMap (fun lo =>
    chk lo 4 0x30 ((s lo &&& others lo) != 0) ++ chk lo 4 0x31 (changed lo && !(d.sessionsOf p).isEmpty)) ++
  chk 0x044 4 0x3B ((changed 0x040 || changed 0x044) && d.ctxLiveBad p new.length) ++
  chk 0x048 0 0x02 (decide (bits (s 0x048) 0 9 > 256) || decide (bits (s 0x048) 16 9 > 256)) ++
  chk 0x048 4 0x32 (decide (d.shareSum p 0 (bits (s 0x048) 0 9) > 256) || decide (d.shareSum p 16 (bits (s 0x048) 16 9) > 256)) ++
  chk 0x050 0 0x34 (decide (bits (s 0x050) 0 16 < 0x100) || bits (s 0x050) 16 8 == 0) ++
  d.ringChks pg s 0x054 0x058 128 0x33 0x33 0x04 0x33 0x1F ++
  d.regionChks env p s ++
  chk 0x06C 3 0x39 area.1 ++ chk 0x06C 4 0x39 area.2 ++
  chk 0x070 0 0x3A (decide (bits (s 0x070) 0 17 > 32768)) ++
  d.ringChks pg s 0x074 0x078 64 0x3C 0x05 0x04 0x3C 0xFFFFFFFF ++
  d.ringChks pg s 0x074 0x080 64 0x3C 0x05 0x04 0x3C 0 ++
  chk 0x088 2 0x3D (s 0x088 % 2 ^ 30 != 0) ++
  chk 0x08C 2 0x3D (decide (addrOf s 0x088 ≥ regionEnd)) ++
  (List.range 16).flatMap (fun q =>
    let c := 0x100 + 0x20 * q
    d.ringChks pg s c (c + 4) 128 0x35 0x35 0x35 0x36 0x1F ++ d.ringChks pg s c (c + 12) 32 0x35 0x35 0x35 0x36 0)

/-! ### KVP (Table 12-8) -/

/-- Two areas of a pool overlap. -/
def areasMeet (a b : Nat × Nat) : Bool := decide (a.2 > 0) && decide (b.2 > 0) && decide (a.1 < b.1 + b.2) && decide (b.1 < a.1 + a.2)

/-- The area lies wholly within one region of the partition. -/
def Dev.areaOk (d : Dev) (p : Nat) (a : Nat × Nat) : Bool :=
  a.2 == 0 || (d.part p).regions.any (fun r => decide (r.base ≤ a.1) && decide (a.1 + a.2 ≤ r.base + r.size))

def Dev.kvpChks (d : Dev) (p : Nat) (s : Shadow) : List Chk :=
  let k := kvPoolOf s
  let store := (k.base, k.pages * k.pageBytes)
  let table := (k.table, 32 * k.pages)
  let sums := (k.sum, 256 * k.pages)
  let init := bit (s 0x068) 0
  let changed := [0x040, 0x044, 0x048, 0x04C, 0x050, 0x054, 0x058, 0x05C, 0x060].any (fun o => s o != d.active (pgKVP p) o)
  chk 0x040 2 0x05 (s 0x040 % 4096 != 0) ++ chk 0x044 2 0x04 (!addrValid k.base) ++
  chk 0x048 2 0x05 (s 0x048 % 4096 != 0) ++ chk 0x04C 2 0x04 (!addrValid k.table) ++
  chk 0x050 2 0x05 (s 0x050 % 256 != 0) ++ chk 0x054 2 0x04 (!addrValid k.sum) ++
  chk 0x058 0 0x02 (decide (k.pages > 16777216)) ++
  chk 0x058 3 0x92 (areasMeet table sums) ++ chk 0x058 4 0x92 (!d.areaOk p table || !d.areaOk p sums) ++
  chk 0x05C 0 0x91 (outside (bits (s 0x05C) 0 8) 2 5 || outside k.hkv 1 64) ++
  chk 0x060 0 0x91 (outside k.d 1 256 || k.d % 2 != 0 || outside k.dv 1 256) ++
  chk 0x060 3 0x92 (areasMeet store table || areasMeet store sums) ++ chk 0x060 4 0x92 (!d.areaOk p store) ++
  chk 0x068 3 0x93 (changed && !init) ++
  chk 0x068 4 0x90 (init && (decide (d.kvFree p < d.kvCount p (fun _ => true)) || decide (d.kvCount p (fun e => decide (e.pins > 0)) > 0)))

/-! ### The other blocks -/

/-- A tag region of a shadow: enabled, first slot, last slot. -/
def tagRegionOf (s : Shadow) (i : Nat) : Bool × Nat × Nat := (bit (s (0x048 + 8 * i)) 31, bits (s (0x048 + 8 * i)) 0 17, bits (s (0x04C + 8 * i)) 0 17)

/-- SPD (R201, R205, R206). -/
def spdChks (s : Shadow) : List Chk :=
  let one (i : Nat) : List Chk :=
    let r := tagRegionOf s i
    let meets (j : Nat) : Bool := let q := tagRegionOf s j; q.1 && decide (q.2.1 ≤ r.2.2) && decide (r.2.1 ≤ q.2.2)
    chk (0x04C + 8 * i) 3 0x61 (r.1 && (List.range i).any meets) ++
    chk (0x04C + 8 * i) 0 0x62 (r.1 && (decide (r.2.1 > r.2.2) || decide (r.2.2 > 98303)))
  let b := bits (s 0x088) 0 17
  let n := bits (s 0x08C) 0 18
  let inside (i : Nat) : Bool := let r := tagRegionOf s i; r.1 && decide (r.2.1 ≤ b) && decide (b + n ≤ r.2.2 + 1)
  chk 0x040 0 0x60 (decide (s 0x040 < 1024)) ++ (List.range 8).flatMap one ++
  chk 0x090 3 0x63 (bit (s 0x090) 31 && (outside n 1 98304 || !(List.range 8).any inside))

/-- SHC (R218). -/
def shcChks (s : Shadow) : List Chk :=
  let sys := s 0x040 % 65536
  chk 0x040 0 0x69 (outside (setBitsOf sys 16).length 1 4) ++
  (List.range 32).flatMap (fun j => chk (0x080 + 4 * j) 3 0x68 ((s (0x080 + 4 * j) &&& (sys * 65537)) != 0))

/-- FAB (R412, R419-R423). -/
def Dev.fabChks (d : Dev) (s : Shadow) : List Chk :=
  let group (i : Nat) : Bool := bits (s 0x044) (8 * i) 2 == 3 || bits (s 0x044) (8 * i + 2) 2 == 3
  let busy (o : Nat) : Bool := s o != d.active pgFAB o && !d.jobs.isEmpty
  chk 0x040 4 0xA2 (busy 0x040) ++
  chk 0x044 0 0xA0 ((List.range 4).any group) ++
  chk 0x048 0 0x02 (bits (s 0x048) 16 2 == 3) ++
  chk 0x04C 2 0x05 (s 0x04C % 4096 != 0) ++ chk 0x04C 4 0xA2 (busy 0x04C) ++
  chk 0x050 2 0x04 (!addrValid (addrOf s 0x04C)) ++ chk 0x050 4 0xA2 (busy 0x050) ++
  chk 0x054 0 0xA1 (decide (bits (s 0x054) 0 24 < 1200) || bits (s 0x054) 24 8 == 0) ++
  chk 0x058 0 0xA1 (outside (bits (s 0x058) 0 4) 1 8 || bits (s 0x058) 8 8 == 0 || bits (s 0x058) 16 8 == 0) ++
  chk 0x05C 0 0xA1 (bits (s 0x05C) 0 16 == 0) ++
  chk 0x060 0 0xA1 (outside (bits (s 0x060) 0 8) 1 64 || decide (bits (s 0x060) 8 16 < 256))

/-- The checks of a block beyond its reserved bits. -/
def Dev.blockChks (d : Dev) (env : Env) (b : Block) (i : Nat) (s : Shadow) : List Chk :=
  match b with
  | .tick => d.tickChks s
  | .part => d.partChks env i s
  | .kvp => d.kvpChks i s
  | .spd => spdChks s
  | .shc => shcChks s
  | .hal => chk 0x040 0 0x80 (outside (bits (s 0x040) 0 4) 2 15) ++ chk 0x044 0 0x81 (outside (bits (s 0x044) 0 5) 1 16)
  | .fab => d.fabChks s
  | .eth => chk 0x048 0 0xA4 (bit (s 0x048) 8)
  | .red => chk 0x040 0 0xA8 (outside (bits (s 0x040) 0 8) 1 64)
  | .med => chk 0x044 0 0xB0 (outside (bits (s 0x044) 0 16) 100 10000)
  | .ing => chk 0x040 0 0xB8 (outside (bits (s 0x040) 0 21) 16 1048576)
  | .arr => chk 0x040 0 0x50 (outside (bits (s 0x040) 0 8) 16 128 || bits (s 0x040) 0 3 != 0)
  | .mgt => chk 0x048 0 0xD0 (outside (bits (s 0x048) 0 8) 80 Config.thermAutoMax)
  | .d2d => chk 0x040 0 0xE0 (bits (s 0x040) 0 16 == 0)
  | .num | .rng | .core | .vec | .hbm | .stk | .pci | .mon | .sec => []

/-- R188, R427, R550: the page's unit is out of service. -/
def Dev.unitOut (d : Dev) (b : Block) (i : Nat) : Bool :=
  match b with
  | .arr => (d.array i).outOfService
  | .vec => (d.engines.getD i {}).outOfService
  | .red => (d.reducers.getD i {}).outOfService
  | _ => false

/-- R109, R120: what a commit of a page is rejected for. -/
def Dev.commitCheck (d : Dev) (env : Env) (page : Nat) : Option Reject :=
  match blockOf page with
  | none => none
  | some (b, i) =>
    if d.unitOut b i then some ⟨0, 0x06⟩
    else
      let s : Shadow := d.regN page
      (firstChk (b.reservedChks s ++ d.blockChks env b i s)).map (fun c => ⟨c.1, c.2.2⟩)

end Sys2Proof.Machine
end

