-- ==== Sys2Proof/Machine/Commit.lean ====
section
/-! DEFINITION. Applying and rejecting commits, with what an applied commit does beyond its registers; COMMAND_COMMIT_APPLY, COMMIT_WAIT_LIMIT and ZEROING_DONE (R56, R65, R109, R113-R116, R193, R206, R232, R354, R385, R409, R412, R443, R548, R554). -/

namespace Sys2Proof.Machine

/-- Table 20-3: the bit of MGT.READY on which a block's page waits. -/
def Block.flag : Block → Nat
  | .mgt | .sec | .tick | .pci | .mon | .d2d => 0
  | .part | .num | .rng | .kvp | .core | .arr | .vec | .spd | .shc | .hal | .red => 1
  | .fab | .eth => 2
  | .med | .ing => 3
  | .hbm | .stk => 4

/-- Whether the ready flag of a block is set. -/
def Outside.ready (o : Outside) (b : Block) : Bool := bit o.flags b.flag

/-- R544, R545: `n` bytes of the device address space from `a`, as partition p reaches them, lie in initialised cells. -/
def Dev.usable (d : Dev) (o : Outside) (p a n : Nat) : Bool :=
  bit o.flags 5 || isHost a || n == 0 ||
  (List.range ((a + n - 1) / 256 - a / 256 + 1)).all (fun k => match d.cellOf p ((a / 256 + k) * 256) with
    | some c => let b := c / 256 % 8388608; decide (b < o.water) || decide (8323072 ≤ b)
    | none => true)

/-! ### What an applied commit does -/

/-- R409, R116: a command of a partition whose core ranks change. An array command goes on from the boxes of its committed output, its work
dropped; a tile of another command on a core that leaves is run again elsewhere. -/
def Dev.rerankCmd (old d : Dev) (leaving : List Nat) (c : Cmd) : Dev :=
  if isArrayOp c.opcode then
    let c' : Cmd := { c with boxes := old.committedBoxes c, work := {}, restart := true, dealtLast := false }
    d.setCmd (if c.state == .preempted then c' else d.retile c')
  else (c.work.copies.filter (fun x => leaving.contains x.unit.core)).foldl (fun d x => d.killCopy c.uid x false) d

/-- A CORE_MASK change has been applied: `old` is the state before it (R193, R409). -/
def Dev.maskChanged (old d : Dev) (p : Nat) : Dev :=
  let leaving := (old.coresOf p).filter (fun n => !(d.coresOf p).contains n)
  let d := leaving.foldl (fun d n => (d.zeroCore n).modCore n (fun x => { x with zeroing := true })) d
  let running := d.cmds.filter (fun c => c.live && c.part == p && c.started && tiledOp c.opcode)
  running.foldl (fun d c => old.rerankCmd d leaving c) d

/-- R47: CAPACITY_CHANGED where the capacity of a resource has fallen. -/
def Dev.capacityFell (old d : Dev) (p : Nat) (rs : List Nat) : Dev :=
  if rs.any (fun r => decide (d.capacity p r < old.capacity p r)) then d.raise (pgPART p) 5 else d

/-- R65: a queue's ENABLE changes. -/
def Dev.queueSwitched (d : Dev) (p q : Nat) (on : Bool) : Dev :=
  d.modQueue p q (fun x =>
    if on then { x with sqHead := 0, sqTail := 0, cqHead := 0, cqTail := 0, phase := true, state := 1, hostFail := false, last := .none }
    else { x with state := 0, hostFail := false })

/-- A commit of a PART page has been applied. -/
def Dev.partApplied (old d : Dev) (env : Env) (p : Nat) : Dev :=
  let pg := pgPART p
  let was (o : Nat) : Nat := old.active pg o
  let now (o : Nat) : Nat := d.active pg o
  let turned (o : Nat) : Bool := !bit (was o) 8 && bit (now o) 8
  let d := if was 0x040 != now 0x040 || was 0x044 != now 0x044 then old.maskChanged d p else d
  let d := if (old.coresOf p).isEmpty && !(d.coresOf p).isEmpty then d.modPart p (fun x => { x with totals := {}, windows := 0 }) else d
  let d := if was 0x048 != now 0x048 then old.capacityFell d p [2, 3] else d
  let d := if turned 0x054 then (d.setReg pg 0x830 0).setReg pg 0xC0C 0 else d
  let d := if was 0x060 != now 0x060 || was 0x064 != now 0x064 || was 0x068 != now 0x068 then
      match d.readRegions env p (regionCfg (now 0x060) (now 0x064) (now 0x068)) with
      | .ok rs => d.setRegions p rs
      | .error _ => d
    else d
  let d := if turned 0x074 then
      (d.modPart p (fun x => { x with mailSqHead := 0, mailSqTail := 0, mailRqHead := 0, mailRqTail := 0, mailPhase := true })).setReg pg 0xC34 0
        |>.setReg pg 0xC38 0
    else d
  (List.range 16).foldl (fun d q =>
    let o := 0x100 + 0x20 * q
    if bit (was o) 8 != bit (now o) 8 then d.queueSwitched p q (bit (now o) 8) else d) d

/-- A register given a value in both copies. -/
def Dev.setBoth (d : Dev) (page off : Nat) (v : Word) : Dev := (d.setReg page off v).setReg page (off + 0x400) v

/-- R385: LOAD sets the named counters and the epoch, and is cleared in both copies. -/
def Dev.rngApplied (d : Dev) (p : Nat) : Dev :=
  let pg := pgRNG p
  let v (o : Nat) : Nat := d.active pg o + d.active pg (o + 4) * 2 ^ 32
  let load := d.active pg 0x0C8
  let set (l : List Nat) : List Nat := (List.range 16).map (fun i => if bit load i then v (0x040 + 8 * i) else l.getD i 0)
  let d := d.modPart p (fun x => { x with counters := set x.counters, augEpoch := if bit load 16 then v 0x0C0 else x.augEpoch })
  d.setBoth pg 0x0C8 0

/-- R354: INIT starts the initialisation of the pool, which KVP_INIT_DONE ends; INIT is cleared in both copies. -/
def Dev.kvpApplied (d : Dev) (p : Nat) : Dev :=
  let pg := pgKVP p
  if bit (d.active pg 0x068) 0 then (d.setReg pg 0x800 2).setBoth pg 0x068 0 else d

/-- R206: GO sets the tags of the slots named, and is cleared in both copies. -/
def Dev.spdApplied (d : Dev) (n : Nat) : Dev :=
  let pg := pgSPD n
  let ctl := d.active pg 0x090
  if bit ctl 31 then
    let b := bits (d.active pg 0x088) 0 17
    let t : SlotTag := { full := bit ctl 0, seq := bits ctl 16 15 }
    let d := (List.range (bits (d.active pg 0x08C) 0 18)).foldl (fun d i => d.setTag n (b + i) t) d
    d.setBoth pg 0x090 (BitVec.ofNat 32 (ctl % 2 ^ 31))
  else d

/-- R412: the ports of a group whose WIDTH or GEN changes go down. -/
def Dev.fabApplied (old d : Dev) : Dev :=
  (List.range 4).foldl (fun d g =>
    if bits (old.active pgFAB 0x044) (8 * g) 4 = bits (d.active pgFAB 0x044) (8 * g) 4 then d
    else (List.range 4).foldl (fun d k => if (d.ports.getD (4 * g + k) {}).up then d.linkDown (4 * g + k) else d) d) d

/-- R29-R35: a change of SOURCE selects another source, not yet seen. -/
def Dev.tickApplied (old d : Dev) : Dev :=
  let s := bits (d.active pgTICK 0x040) 8 2
  if bits (old.active pgTICK 0x040) 8 2 = s then d
  else { d with tick := { d.tick with source := s, locked := false, holdover := false, seen := false } }

/-- What an applied commit of a page does beyond its registers. -/
def Dev.applied (old d : Dev) (env : Env) (page : Nat) : Dev :=
  match blockOf page with
  | some (.part, p) => old.partApplied d env p
  | some (.rng, p) => d.rngApplied p
  | some (.kvp, p) => d.kvpApplied p
  | some (.spd, n) => d.spdApplied n
  | some (.fab, _) => old.fabApplied d
  | some (.tick, _) => old.tickApplied d
  | _ => d

/-! ### Point of effect (R109) -/

/-- PAGE_STAT with REJECT_REASON and REJECT_WORD set. -/
def Dev.setReject (d : Dev) (page reason word : Nat) : Dev :=
  d.setReg page oStat (BitVec.ofNat 32 (setBits (setBits (d.regN page oStat) 8 8 reason) 16 8 word))

/-- R109: a pending commit is applied or rejected. -/
def Dev.settleCommit (d : Dev) (env : Env) (page : Nat) : Dev :=
  let d0 : Dev := { d with commits := d.commits.filter (fun k => k.page != page) }
  match d.commitCheck env page with
  | some r => ((d0.setStat page 1).setReject page r.reason (r.off / 4)).raise page 31
  | none =>
    let d1 := (d0.copyShadow page true).setReg page oGen (d0.reg page oGen + 1)
    let d2 := (d1.clearStat page 3).setReject page 0 0
    (d.applied d2 env page).raise page 30

/-- R554, R232: a PART page's commit still waits for commands. -/
def Dev.partWaits (d : Dev) (env : Env) (p : Nat) (k : PendingCommit) : Bool :=
  let maskHeld := (d.differs (pgPART p) 0x040 || d.differs (pgPART p) 0x044) && k.tiles.any (fun u => (d.cmd? u).any Cmd.live)
  let gone := d.regionsLeaving env p
  maskHeld || (!gone.isEmpty && k.waits.any (fun u => (d.cmd? u).any (fun c => c.live && d.touchesRegions c gone)))

/-- R113, R548: a tick-class commit is due at an edge. -/
def Dev.commitDue (d : Dev) (env : Env) (o : Outside) (k : PendingCommit) : Bool :=
  match blockOf k.page with
  | none => false
  | some (b, i) => b.tickClass && o.ready b && decide (k.since + 2000 ≤ d.now) && !(b == .part && d.partWaits env i k)

/-- Step 2 of R118 for the tick class, in ascending page index. -/
def Dev.settleTick (d : Dev) (env : Env) (o : Outside) : Dev :=
  let pages := (d.commits.map (·.page)).mergeSort (fun a b => decide (a ≤ b))
  pages.foldl (fun d g => match d.commits.find? (fun k => k.page == g) with
    | some k => if d.commitDue env o k then d.settleCommit env g else d
    | none => d) d

/-- R114, R115: no user of the page's block is running, and no session command has passed the commit in this window. -/
def Dev.atBoundary (d : Dev) (o : Outside) (k : PendingCommit) : Bool :=
  commandClass k.page && (blockOf k.page).any (fun b => o.ready b.1) && !k.passed &&
  !d.cmds.any (fun c => c.live && c.started && c.state != .preempted && d.usesPage c k.page)

/-- Session commands of a partition that wait on a pending commit of a page, or of any page. -/
def Dev.sessionWaits (d : Dev) (p : Nat) (k : PendingCommit) : Bool :=
  commandClass k.page && d.cmds.any (fun c => c.part == p && !c.throughput && d.ready c && d.windowOpen c && d.usesPage c k.page)

/-- R115: the cycles for which a commit has held a partition's session commands in this window. -/
def Dev.countWait (d : Dev) (p : Nat) (k : PendingCommit) : Dev :=
  if d.sessionWaits p k then
    d.modPart p (fun x => { x with commitWait := min 16384 (x.commitWait + (d.now - max k.since d.tick.lastEdge)) })
  else d

/-- The command COMMAND_COMMIT_APPLY: a command-class commit at a command boundary of its block. -/
def Dev.commandCommit (d : Dev) (page : Nat) (o : Outside) : Dev :=
  match d.commits.find? (fun k => k.page == page) with
  | none => d
  | some k =>
    if !d.atBoundary o k then d
    else ((List.range 64).foldl (fun d p => d.countWait p k) d).settleCommit [] page

/-- Command-class commits whose boundary falls on an edge, in ascending page index (R118). -/
def Dev.settleCommand (d : Dev) (o : Outside) : Dev :=
  ((d.commits.map (·.page)).mergeSort (fun a b => decide (a ≤ b))).foldl (fun d g => if commandClass g then d.commandCommit g o else d) d

/-- The command COMMIT_WAIT_LIMIT (R115): pending commits of the command class have held the partition's session commands for 16,384 cycles
of this window, and those commands start under the old active copies. -/
def Dev.commitWaitLimit (d : Dev) (p : Nat) : Dev :=
  let held := d.commits.filter (fun k => d.sessionWaits p k)
  match held with
  | [] => d
  | k :: _ =>
    if (d.part p).commitOpen then d
    else
      let begun := held.foldl (fun a x => min a x.since) k.since
      let due := max begun d.tick.lastEdge + (16384 - (d.part p).commitWait)
      let d : Dev := { d with now := max d.now due }
      d.modPart p (fun x => { x with commitWait := 16384, commitOpen := true })

/-- A new window: the limit of R115 starts again. -/
def Dev.newWaits (d : Dev) : Dev :=
  { d with commits := d.commits.map (fun k => { k with passed := false }),
           parts := d.parts.map (fun x => { x with commitWait := 0, commitOpen := false }) }

/-- The command ZEROING_DONE (R193): the zeroing of a core's scratchpad ends. -/
def Dev.zeroingDone (d : Dev) (n : Nat) : Dev :=
  if !(d.core n).zeroing then d
  else
    let d := (d.modCore n (fun x => { x with zeroing := false })).raise (pgCORE n) 0
    match d.ownerOf n with
    | some p => if (d.coresOf p).any (fun m => (d.core m).zeroing) then d else d.modPart p (fun x => { x with flrZeroing := false })
    | none => d

/-- R110: a page with AUTO_COMMIT_TICK set, a dirty shadow and no pending commit acts at an edge as if COMMIT had been written. -/
def Dev.autoCommits (d : Dev) : Dev :=
  let pages := pageRanges.flatMap (fun r => (List.range r.2.1).map (fun i => r.1 + i))
  pages.foldl (fun d g =>
    if bit (d.regN g oCtl) 1 && bit (d.regN g oStat) 3 && !d.commitPending g then d.requestCommit g else d) d

end Sys2Proof.Machine
end

