-- ==== Sys2Proof/Machine/Acct.lean ====
section
/-! DEFINITION. Accounting windows: their close at a tick edge, slowdown and interference, and ACCT_RECORD_WRITE (R56-R58, Tables 2-9 and 3-19). -/

namespace Sys2Proof.Machine

/-- R57: SLOWDOWN of a window. -/
def slowdownOf (a : Acct) : Nat :=
  if a.solo = 0 then (if a.measured = 0 then 0x0100 else 0xFFFF) else min 0xFFFF (256 * a.measured / a.solo)

/-- Totals saturate as unsigned 64-bit fields (Table 3-19). -/
def sat64 (a b : Nat) : Nat := satAdd 64 a b

/-- The totals with a window added. -/
def Acct.plus (t w : Acct) : Acct :=
  { t with arrayCycles := sat64 t.arrayCycles w.arrayCycles, vectorCycles := sat64 t.vectorCycles w.vectorCycles,
           bankAluCycles := sat64 t.bankAluCycles w.bankAluCycles, hbmRead := sat64 t.hbmRead w.hbmRead,
           hbmWrite := sat64 t.hbmWrite w.hbmWrite, fabTx := sat64 t.fabTx w.fabTx, fabRx := sat64 t.fabRx w.fabRx,
           pcie := sat64 t.pcie w.pcie, mediaPixels := sat64 t.mediaPixels w.mediaPixels, energy := sat64 t.energy w.energy,
           minSlack := min t.minSlack w.minSlack, misses := sat64 t.misses w.misses, replays := sat64 t.replays w.replays,
           tacks := sat64 t.tacks w.tacks }

/-- The window just ended closes for a partition: SLOWDOWN, interference, totals, and a record due if accounting was enabled in it. -/
def Dev.closeWindow (d : Dev) (p window step reserved : Nat) (enabled : Bool) : Dev :=
  let pg := pgPART p
  let x := d.part p
  let w := { x.window with energy := Config.energy window p, holdover := x.window.holdover || d.tick.holdover }
  let slow := slowdownOf w
  let thresh := bits (d.active pg 0x050) 0 16
  let n := bits (d.active pg 0x050) 16 8
  let run := if slow > thresh then x.slowRun + 1 else 0
  let interferes := decide (n ≤ run)
  let d := d.setReg pg 0x824 (BitVec.ofNat 32 slow)
  let d := if run = n then d.raise pg 2 else d
  let rec' : AcctWindow :=
    { tick := window, acct := w, slowdown := slow, interference := interferes, reefStep := step, reserved := reserved }
  d.modPart p (fun x =>
    { x with window := { holdover := d.tick.holdover }, totals := x.totals.plus w, windows := sat64 x.windows 1, slowRun := run,
             acctQueue := if enabled then x.acctQueue ++ [rec'] else x.acctQueue })

/-- Table 2-9: the 128 bytes of a record. -/
def AcctWindow.bytes (w : AcctWindow) (p : Nat) (gap : Bool) : Bytes :=
  let a := w.acct
  let flags := b2n w.interference + 2 * b2n a.missFlag + 4 * b2n a.reefChanged + 8 * b2n a.foldAcross + 16 * b2n a.handover +
    32 * b2n a.holdover + 64 * b2n gap
  toLe 8 w.tick ++ toLe 2 p ++ toLe 2 flags ++ toLe 2 w.slowdown ++ toLe 1 w.reefStep ++ [0] ++
  toLe 8 a.arrayCycles ++ toLe 8 a.vectorCycles ++ toLe 8 a.bankAluCycles ++ toLe 8 a.hbmRead ++ toLe 8 a.hbmWrite ++
  toLe 8 a.fabTx ++ toLe 8 a.fabRx ++ toLe 8 a.pcie ++ toLe 8 a.mediaPixels ++ toLe 4 (min a.energy (2 ^ 32 - 1)) ++
  toLe 4 (ofSigned 32 a.minSlack) ++ toLe 2 (min a.misses 0xFFFF) ++ toLe 2 (min a.replays 0xFFFF) ++ toLe 2 (min a.tacks 0xFFFF) ++
  [0, 0] ++ toLe 8 w.reserved ++ List.replicate 16 0

/-- A record is discarded. -/
def Dev.dropRecord (d : Dev) (p : Nat) : Dev :=
  ((d.bump (pgPART p) 0x834 1).raise (pgPART p) 3).modPart p (fun x => { x with gap := true })

/-- The command ACCT_RECORD_WRITE: the oldest record due is written, or discarded where the ring is full or its write fails (R56). -/
def Dev.acctWrite (d : Dev) (p : Nat) (env : Env) (o : Outside) : Dev :=
  let pg := pgPART p
  match (d.part p).acctQueue with
  | [] => d
  | w :: rest =>
    let size := 2 ^ bits (d.active pg 0x054) 0 5
    let head := d.regN pg 0x830
    let next := (head + 1) % size
    let a := addrOf (d.active pg) 0x058 + 128 * head
    if !d.usable o p a 128 then d
    else
      let gap := (d.part p).gap
      let d := d.modPart p (fun x => { x with acctQueue := rest })
      if next = d.regN pg 0xC0C then d.dropRecord p
      else match d.writeOut env p a (w.bytes p gap) with
        | (d, true) => (d.setReg pg 0x830 (BitVec.ofNat 32 next)).modPart p (fun x => { x with gap := false })
        | (d, false) => d.dropRecord p

end Sys2Proof.Machine
end

