-- ==== Sys2Proof/Machine/Resync.lean ====
section
/-! DEFINITION. The resync summary (R97-R99, Tables 3-15 to 3-19). -/

namespace Sys2Proof.Machine

/-- DEVICE_STATE: 3 temperature emergency, 1 handover, 2 array out of service, 0 normal; the first that holds in this order. -/
def Dev.deviceState (d : Dev) (o : Outside) : Nat :=
  if d.reef.emergency then 3 else if o.handover then 1 else if d.arrays.any (·.outOfService) then 2 else 0

/-- Table 3-16. -/
def Queue.entry (x : Queue) : Bytes :=
  toLe 2 x.sqHead ++ toLe 2 x.sqTail ++ toLe 2 x.cqHead ++ toLe 2 x.cqTail ++ toLe 4 x.lastId ++ toLe 1 x.state ++ toLe 1 (b2n x.phase) ++ [0, 0]

/-- STATE of Table 3-17. -/
def CmdState.code : CmdState → Nat
  | .waiting => 0 | .running => 1 | .preempted => 2 | .replaying => 3 | .recordPending => 4

/-- Table 3-17. -/
def Cmd.resyncEntry (c : Cmd) : Bytes :=
  toLe 4 c.id ++ toLe 1 c.queue ++ toLe 1 c.opcode ++ toLe 1 c.state.code ++ toLe 1 (fieldAt c.record 5 1) ++
  toLe 4 c.work.total ++ toLe 4 c.work.committed ++ toLe 8 c.admitTick ++ (c.raw.drop 8).take 2 ++ [0, 0] ++ toLe 4 c.frame

/-- Table 3-18. -/
def Session.resyncEntry (s : Session) : Bytes :=
  toLe 2 s.id ++ toLe 1 (b2n s.missDrop + 2 * b2n s.noFold) ++ [0] ++ toLe 2 s.interval ++ toLe 1 s.deadline ++ toLe 1 (b2n s.closing) ++
  toLe 4 s.nextFrame ++ toLe 4 s.misses

def Job.resyncEntry (j : Job) : Bytes :=
  toLe 2 j.id ++ toLe 1 (if j.failed then 2 else b2n j.closing) ++ toLe 1 j.reducer ++ toLe 2 j.epoch ++ toLe 2 j.members.length ++
  toLe 8 j.sent ++ toLe 8 j.received ++ toLe 4 j.lastId ++ List.replicate 4 0

/-- The pages a summary lists: those its function sees, with their CONFIG_GEN. -/
def Dev.resyncPages (d : Dev) (p : Nat) : List Bytes :=
  ((pageRanges.flatMap (fun r => (List.range r.2.1).map (fun i => r.1 + i))).filter (fun g => d.pagePresent (.fn p) g)).map (fun g =>
    toLe 2 g ++ [0, 0] ++ toLe 4 (d.regN g oGen))

/-- The five sections, in directory order. -/
def Dev.resyncSections (d : Dev) (p : Nat) : List (List Bytes) :=
  [d.resyncPages p, (d.cmds.filter (fun c => c.part == p)).map Cmd.resyncEntry, (d.sessionsOf p).map Session.resyncEntry,
   (d.jobs.filter (fun j => j.part == p)).map Job.resyncEntry,
   (lastN 64 (d.elog.filter (fun e => e.part == p || e.part == 0xFF))).map LogEntry.bytes]

/-- The offsets of the sections, and the length of the whole. -/
def sectionOffsets : Nat → List (List Bytes) → List Nat
  | at', [] => [at']
  | at', s :: ss => at' :: sectionOffsets (roundUp (at' + s.flatten.length) 64) ss

/-- Of a section at an offset, the entries that fit below a limit. -/
def fitEntries (limit : Nat) : Nat → List Bytes → List Bytes
  | _, [] => []
  | at', e :: es => if at' + e.length ≤ limit then e :: fitEntries limit (at' + e.length) es else []

/-- Table 3-19. -/
def Part.totalsBytes (x : Part) : Bytes :=
  let t := x.totals
  let slack : Int := if t.minSlack = 0x7FFFFFFF then 0x7FFFFFFFFFFFFFFF else t.minSlack
  toLe 8 t.arrayCycles ++ toLe 8 t.vectorCycles ++ toLe 8 t.bankAluCycles ++ toLe 8 t.hbmRead ++ toLe 8 t.hbmWrite ++ toLe 8 t.fabTx ++
  toLe 8 t.fabRx ++ toLe 8 t.pcie ++ toLe 8 t.mediaPixels ++ toLe 8 t.energy ++ toLe 8 t.misses ++ toLe 8 t.replays ++ toLe 8 t.tacks ++
  toLe 8 (ofSigned 64 slack) ++ toLe 8 x.windows ++ List.replicate 8 0

/-- KV_POOL of Table 3-15. -/
def Dev.kvPoolCounts (d : Dev) (p : Nat) : Bytes :=
  toLe 8 (if d.kvReady p then (d.kvPool p).pages else 0) ++ toLe 8 (d.kvFree p) ++ toLe 8 (d.kvCount p (fun e => decide (e.pins > 0))) ++
  toLe 8 (d.kvCount p (·.isSealed)) ++ toLe 8 (d.kvCount p (fun e => decide (e.ref > 1))) ++
  toLe 8 (d.regN (pgKVP p) 0x824 + d.regN (pgKVP p) 0x828)

/-- The summary of a partition cut to a buffer of `limit` bytes, and whether it was cut. The directory counts the entries written. -/
def Dev.resyncImage (d : Dev) (o : Outside) (p limit : Nat) : Bytes × Bool :=
  let ss := d.resyncSections p
  let offs := sectionOffsets 0x400 ss
  let whole := offs.getLastD 0x400
  let limit' := min limit whole
  let kept := (List.range ss.length).map (fun i => fitEntries limit' (offs.getD i 0) (ss.getD i []))
  let dir := ((List.range 5).map (fun i => toLe 4 (offs.getD i 0) ++ toLe 4 (kept.getD i []).length)).flatten ++ List.replicate 8 0
  let fixed := toLe 4 whole ++ toLe 2 1 ++ toLe 2 p ++ toLe 8 d.tick.count ++ toLe 1 (d.deviceState o) ++ toLe 1 d.reef.step ++ [0, 0] ++
    toLe 4 o.flags ++ List.replicate 40 0 ++ (o.fw ++ List.replicate 96 0).take 96 ++ dir ++ d.kvPoolCounts p ++
    ((List.range 16).map (fun q => (d.queue p q).entry)).flatten ++ (d.part p).totalsBytes ++ List.replicate 0x180 0
  let body := (List.range 5).foldl (fun (a : Bytes) i =>
    a ++ List.replicate (offs.getD i 0 - a.length) 0 ++ (kept.getD i []).flatten) fixed
  ((body ++ List.replicate (limit' - body.length) 0).take limit', decide (limit < whole))

/-- Step 7 of R118 for one partition. A summary that cannot be written to host memory is logged and raises no RESYNC_DONE. -/
def Dev.resync (d : Dev) (env : Env) (o : Outside) (p : Nat) : Dev :=
  if !(d.part p).resyncPending then d
  else
    let pg := pgPART p
    let a := d.regN pg 0xC14 + d.regN pg 0xC18 % 65536 * 2 ^ 32
    let size := 4096 * bits (d.regN pg 0xC10) 8 16
    if !d.usable o p a size then d
    else
      let r := d.resyncImage o p size
      let image := if size < 0x400 then [] else r.1
      let d := d.modPart p (fun x => { x with resyncPending := false, resyncWindow := r.1.take 4096 })
      let n := satAdd 16 (d.regN pg 0x838 / 65536) 1
      let d := d.setReg pg 0x838 (BitVec.ofNat 32 (b2n r.2 + 2 + n * 65536))
      match d.writeOut env p a image with
      | (d, true) => d.raise pg 6
      | (d, false) => d

end Sys2Proof.Machine
end

