-- ==== Sys2Proof/Machine/Edge.lean ====
section
/-! DEFINITION. The tick: sources, edges and what happens at an edge, in the order of R118 (R28-R35, R43, R47, R54, R180, R498). -/

namespace Sys2Proof.Machine

/-! ### Hoist permits (R180, R498) -/

/-- R498: the order in which arrays receive permits: array within the core, core within the cluster, cluster within the die, die. -/
def permitKey (a : Nat) : Nat := ((a % 2 * 4 + a / 2 % 4) * 4 + a / 8 % 4) * 4 + a / 32

/-- The arrays of a partition that hold a permit at a Reef step. -/
def Dev.permitted (d : Dev) (p step : Nat) : List Nat :=
  ((d.serviceArrays p).mergeSort (fun a b => decide (permitKey a ≤ permitKey b))).take (d.hoistable p step)

/-- Permits are set and cleared at an edge. -/
def Dev.setPermits (d : Dev) : Dev :=
  let l := d.owners.flatMap (fun p => d.permitted p d.reef.step)
  { d with arrays := (List.range d.arrays.length).map (fun a => { d.array a with permit := l.contains a }) }

/-! ### Reef (step 1) -/

/-- A decided Reef step due at the edge comes into force (R47, R499). -/
def Dev.reefDue (d : Dev) : Option Nat :=
  match d.reef.decided with
  | some (s, t) => if t + 2000 ≤ d.now && s != d.reef.step then some s else none
  | none => none

def Dev.reefApply (d : Dev) : Dev :=
  match d.reefDue with
  | none => d
  | some s =>
    let d' : Dev := { d with reef := { d.reef with step := s, decided := none } }
    (d'.owners.foldl (fun x p => d.capacityFell x p [0]) d').raise pgMGT 1

/-! ### Step 3: missed frames and closes -/

/-- The uncommitted commands of the frames whose deadline edge this is. -/
def Dev.dueCmds (d : Dev) (s : Session) : List Cmd :=
  d.cmds.filter (fun c => c.live && c.part == s.part && c.sessionValid && c.session == s.id && s.deadlineOf c.frame == d.tick.count)

/-- R54 for one session. -/
def Dev.missSession (d : Dev) (s : Session) : Dev :=
  let d := (d.dueCmds s).foldl (fun d c => d.finishClaims c.uid) d
  let l := d.dueCmds s
  let d := ((l.map Cmd.frame).eraseDups).foldl (fun d f => match d.session? s.part s.id with
    | some x => d.missFrame x f
    | none => d) d
  l.foldl (fun d c =>
    if s.missDrop then d.endCmd c.uid stMISS 0
    else match d.cmd? c.uid with
      | some x => d.setCmd { x with missed := true, throughput := true }
      | none => d) d

/-- R39: NEXT_FRAME of the sessions: the first frame whose deadline edge is still to come. -/
def Dev.nextFrames (d : Dev) : Dev :=
  { d with sessions := d.sessions.map (fun s =>
      { s with nextFrame := if d.tick.count < s.t0 + s.deadline then 0 else (d.tick.count - s.t0 - s.deadline) / s.interval + 1 }) }

/-- Step 3 of R118. -/
def Dev.edgeCloses (d : Dev) : Dev :=
  let d := d.sessions.foldl (fun d s => d.missSession s) d
  d.nextFrames.endSessions.endStreams.endJobs

/-! ### Step 4: the rigging table -/

/-- Units of a partition whose function was reset lose their role and owner (Table 17-2). -/
def Dev.rigLosses (d : Dev) : Dev :=
  (List.range 64).foldl (fun d p =>
    if (d.part p).roleLoss then
      let t := (List.range d.rig.length).foldl (fun t u => if (t.getD u {}).owner = some p then rigChange t u 0 none else t) d.rig
      (({ d with rig := t } : Dev).rigApply).modPart p (fun x => { x with roleLoss := false })
    else d) d

/-! ### Steps 5 to 7 -/

/-- The cells of a session descriptor and of its plan record are initialised (R545). -/
def Dev.sessionUsable (d : Dev) (o : Outside) (p a : Nat) : Bool :=
  d.usable o p a 64 && (let s := parseSession p (d.bytesIn p 0 a 64)
    d.usable o p s.planAddr 64 && d.usable o p s.planAddr (fieldAt (d.bytesIn p 0 s.planAddr 16) 8 4 % 2 ^ 24))

/-- Session opens of a partition, in doorbell order; one whose cells are not initialised, and those after it, wait. -/
def Dev.openAllSessions (d : Dev) (env : Env) (o : Outside) (p : Nat) : Dev :=
  let l := (d.part p).sessionReq
  let go := l.takeWhile (fun a => d.sessionUsable o p a)
  let d := d.modPart p (fun x => { x with sessionReq := l.drop go.length })
  go.foldl (fun d a => d.openSession env p a) d

def Dev.openAllJobs (d : Dev) (env : Env) (o : Outside) (p : Nat) : Dev :=
  let l := (d.part p).jobReq
  let go := l.takeWhile (fun a => d.usable o p a 64)
  let d := d.modPart p (fun x => { x with jobReq := l.drop go.length })
  go.foldl (fun d a => d.openJob env p a) d

def Dev.openAllStreams (d : Dev) (env : Env) (o : Outside) (p : Nat) : Dev :=
  let l := (d.part p).streamReq
  let go := l.takeWhile (fun a => d.usable o p a 128)
  let d := d.modPart p (fun x => { x with streamReq := l.drop go.length })
  go.foldl (fun d a => d.openStream env p a) d

/-- R451: the keys of the streams named are read again. -/
def Dev.rekeyAll (d : Dev) (env : Env) (p : Nat) : Dev :=
  let l := (d.part p).rekeyReq
  let d := d.modPart p (fun x => { x with rekeyReq := [] })
  l.foldl (fun d id => d.rekey env p id) d

/-- Steps 5 to 7 of R118, as far as the ready flags allow (R549). -/
def Dev.edgeOpens (d : Dev) (env : Env) (o : Outside) : Dev :=
  let parts := List.range 64
  let compute := bit o.flags 1
  let d := if compute then parts.foldl (fun d p => d.openAllSessions env o p) d else d
  let d := if compute && bit o.flags 2 then parts.foldl (fun d p => d.openAllJobs env o p) d else d
  let d := if compute && bit o.flags 3 then parts.foldl (fun d p => (d.openAllStreams env o p).rekeyAll env p) d else d
  if compute then parts.foldl (fun d p => d.resync env o p) d else d

/-! ### The edge -/

/-- R28, R32: the length of the window that an edge ends: the nominal period, changed by at most 50 cycles for each unit of N while the
generator corrects an offset. -/
def Dev.windowLength (d : Dev) : Nat :=
  let n := d.tickN
  let nominal := n * 500000
  if d.tick.source = 0 || d.tick.holdover || !d.tick.seen then nominal
  else
    let lim : Int := (50 * n : Nat)
    ((nominal : Int) + max (-lim) (min lim (Config.slew d.tick.offsetNs))).toNat

/-- A new window is opened: the count, the registers of the last window and edge, and TICK_OUT (R29, R34). -/
def Dev.nextEdge (d : Dev) : Dev :=
  let len := d.windowLength
  let due := d.tick.edgeAt + len
  let d : Dev := { d with now := max d.now due,
                          tick := { d.tick with count := (d.tick.count + 1) % 2 ^ 64, edgeAt := due, lastEdge := max d.now due } }
  let t := (d.ptpAt d.now).toNat
  let d := ((d.setReg pgTICK 0x814 (BitVec.ofNat 32 len)).setReg pgTICK 0x818 (BitVec.ofNat 32 (t / 1000000000))).setReg pgTICK 0x81C
    (BitVec.ofNat 32 (t / 1000000000 / 2 ^ 32 % 65536))
  let d := d.setReg pgTICK 0x820 (BitVec.ofNat 32 (t % 1000000000))
  if bit (d.active pgTICK 0x040) 10 then { d with sent := .tickOut d.tick.count :: d.sent } else d

/-- The windows of the partitions that own cores close; `old` is the state that the edge found. -/
def Dev.closeWindows (old d : Dev) : Dev :=
  let slot := old.tick.count % 4800
  (List.range 64).foldl (fun d p =>
    if (d.coresOf p).isEmpty then d.modPart p (fun x => { x with window := {} })
    else d.closeWindow p old.tick.count old.reef.step (old.reserved p slot 0) (bit (old.active (pgPART p) 0x054) 8)) d

/-- The command TICK_EDGE, up to step 7 of R118: step 8 is Masthead's. -/
def Dev.tickEdge (d : Dev) (env : Env) (o : Outside) : Dev :=
  let old := d
  let d := d.nextEdge.autoCommits
  let reefNew := d.reefDue.isSome
  let d := d.reefApply
  let d := (d.settleTick env o).settleCommand o
  let d := d.setPermits
  let d := old.closeWindows d.edgeCloses.tickWaits
  let d := (if bit o.flags 1 && bit o.flags 2 then d.rigApply else d).rigLosses
  let d := d.edgeOpens env o
  let d := (d.newWaits).publishSplit (d.tick.count % 4800)
  if reefNew then { d with parts := d.parts.map (fun x => { x with window := { x.window with reefChanged := true } }) } else d

/-! ### Tick sources (R30-R33, R35) -/

/-- HOLDOVER marks the window in progress. -/
def Dev.markHoldover (d : Dev) : Dev :=
  { d with parts := d.parts.map (fun x => { x with window := { x.window with holdover := true } }) }

/-- The selected source is lost or strays: the commands TICK_SOURCE_LOST. -/
def Dev.tickLost (d : Dev) : Dev :=
  if d.tick.source = 0 then d
  else if !d.tick.seen then d.raise pgTICK 2
  else if d.tick.holdover then d
  else
    let d : Dev := { d with tick := { d.tick with locked := false, holdover := true } }
    ((d.bump pgTICK 0x824 1).raise pgTICK 0).markHoldover

/-- An offset from the source reference is measured: within 1 us the generator locks, beyond it lock is lost. -/
def Dev.tickOffset (d : Dev) (ns : Int) : Dev :=
  if d.tick.source = 0 then d
  else
    let d : Dev := { d with tick := { d.tick with offsetNs := ns, seen := true } }
    if -1000 ≤ ns ∧ ns ≤ 1000 then
      let d' : Dev := { d with tick := { d.tick with locked := true, holdover := false } }
      if d.tick.locked then d' else d'.raise pgTICK 1
    else if d.tick.locked then d.tickLost
    else d

/-- The command TICK_LOCKED: the offset has come within 1 us (R33). -/
def Dev.tickLocked (d : Dev) (ns : Int) : Dev := if -1000 ≤ ns ∧ ns ≤ 1000 then d.tickOffset ns else d

/-- The command TICK_IN_EDGE: a rising edge on TICK_IN, `ns` away from the tick edge that follows it by TICK_IN_DELAY. -/
def Dev.tickIn (d : Dev) (ns : Int) : Dev := if d.tick.source = 2 then d.tickOffset ns else d

/-- The command PPS_IN_EDGE. -/
def Dev.ppsIn (d : Dev) (ns : Int) : Dev := if d.tick.source = 3 then d.tickOffset ns else d

/-- The command PTP_MESSAGE: a message of the domain and port of PTP_CFG gives the PTP time of this moment and the offset of the edges
from it. -/
def Dev.ptpMessage (d : Dev) (port domain seconds ns : Nat) (offset : Int) : Dev :=
  let cfg := d.active pgTICK 0x044
  if port != bits cfg 8 5 || domain != bits cfg 0 8 then d
  else
    let base : Int := ((seconds * 1000000000 + ns : Nat) : Int) - ((d.now * 5 / 6 : Nat) : Int)
    let d : Dev := { d with tick := { d.tick with ptpBase := base } }
    if d.tick.source = 1 then d.tickOffset offset else d

end Sys2Proof.Machine
end

