-- ==== Sys2Proof/Machine/Units.lean ====
section
/-! DEFINITION. Commands of the memories: scrub reads, tagged accesses, bank op-writes, atomics, flushes, the stack engines, stack temperature, patrol and uncorrectable reads, and the end of a KV pool's initialisation (R197-R224, R236-R247, R354). -/

namespace Sys2Proof.Machine

/-! ### Scratchpad -/

/-- The words of 64 bytes of a core's scratchpad (R192). -/
def coreWords : Nat := 393216

/-- The command SCRUB_READ: the scrubber reads the next word of core n, row by row over the 32 banks; an error found is corrected by write-back
or only logged, and a completed pass is counted (R213, R214). -/
def Dev.scrubRead (d : Dev) (n : Nat) (error : Option EccError) : Dev :=
  let pos := (d.core n).scrubPos
  let next := (pos + 1) % coreWords
  let d := d.modCore n (fun x => { x with scrubPos := next })
  let d := match error with
    | some e => d.noteSpdError n (pos % 32) (pos / 32) e.word e.uncorrectable true false none
    | none => d
  if next = 0 then d.bump (pgSPD n) 0x80C 1 else d

/-- The command TAGGED_ACCESS: a read is accepted while the slot is FULL, a write while it is EMPTY with SEQ 0; a write of the slot's 256 bytes
sets FULL. An access not accepted is counted as waiting (R200-R203). -/
def Dev.taggedAccess (d : Dev) (n slot : Nat) (access : TagAccess) : Dev :=
  if !d.inTagRegion n slot then d
  else
    let t := d.tag n slot
    match access with
    | .read => if t.full then d else d.bump (pgSPD n) 0x810 1
    | .write data =>
      if t != {} then d.bump (pgSPD n) 0x810 1
      else
        let b := data.take 256
        let d : Dev := { d with spd := d.spd.writeBytes (spdKey n (slot * 256)) b }
        if b.length = 256 then d.setTag n slot ⟨true, 0⟩ else d

/-! ### Bank op-writes (Table 7-3) -/

/-- One lane of ACC. -/
def accLane (ftz integer : Bool) (old s : Word) : Num Word := combineWord ftz integer old s

/-- One lane of MAX. -/
def maxLane (integer : Bool) (old s : Word) : Num Word :=
  if integer then return (if old.toInt < s.toInt then s else old) else return fmax old s

/-- One lane of SCALE_ADD: the exact α d + β s rounded once (R208). -/
def scaleAddLane (ftz : Bool) (alpha beta old s : Word) : Num Word :=
  rnd32 ftz (((val32 alpha).mul (val32 old)).add ((val32 beta).mul (val32 s)))

/-- The words of core n at local offset l, one for each payload word, joined with the payload by a lane function. -/
def Dev.laneWise (d : Dev) (n l : Nat) (words : List Word) (f : Word → Word → Num Word) : Bytes × NumFlags :=
  let old (i : Nat) : Word := BitVec.ofNat 32 (leNat (d.spd.readBytes (spdKey n (l + 4 * i)) 4))
  let r := ((List.range words.length).mapM (fun i => f (old i) (words.getD i 0))).run {}
  (r.1.flatMap (fun w => toLe 4 w.toNat), r.2)

/-- The alignment of an op-write of some words: a word of 64 bytes, or a slot of 256 (R207). -/
def opAligned (l : Nat) (words : List Word) : Bool :=
  (words.length == 16 && l % 64 == 0) || (words.length == 64 && l % 256 == 0)

/-- The draw of the destination element of a CONVERT, by the tensor of the command that has it at that bit address (R208). -/
def Dev.opDraw (d : Dev) (c : Cmd) (fmt : Fmt) (bitAddr : Nat) : Nat :=
  if c.num.round != 2 then 0
  else
    let at' (i : Nat) : Option Nat :=
      let t := c.tensor i
      if t.space = 1 && t.format == fmt then
        ((List.range t.count).find? (fun k => t.bitAddr (coordsOf t.shape k) == bitAddr)).map (fun k => c.roundDraw i (coordsOf t.shape k))
      else none
    match (List.range c.tensors.length).findSome? at' with
    | some x => x
    | none => (Config.freeWord (d.fresh + bitAddr)).toNat % 65536

/-- The formats of CONVERT on a bank ALU (Table 7-3). -/
def bankFormat (f : Fmt) : Bool := f == .bf16 || f == .fp16 || f == .e4m3 || f == .e5m2

/-- What an op-write writes at local offset l of core n, for a partition offset and a command's modes: the offset, the bytes and the flags. -/
def Dev.opBytes (d : Dev) (c : Cmd) (n l off : Nat) (op : BankOp) : Option (Nat × Bytes × NumFlags) :=
  match op with
  | .acc integer ws => if opAligned l ws then some (l, d.laneWise n l ws (accLane c.ftz integer)) else none
  | .scaleAdd a b ws => if opAligned l ws then some (l, d.laneWise n l ws (scaleAddLane c.ftz a b)) else none
  | .max integer ws => if opAligned l ws then some (l, d.laneWise n l ws (maxLane integer)) else none
  | .convert fmt at' ws =>
    match Fmt.ofCode fmt with
    | none => none
    | some f =>
      let w := f.width / 8
      if !bankFormat f || ws.length != 16 || l % 64 != 0 || at' % (16 * w) != 0 || decide (at' + 16 * w > 64) then none
      else
        let r := ((List.range 16).mapM (fun i =>
          convertTo f c.num (d.opDraw c f (8 * (off + at' + i * w))) (val32 (ws.getD i 0)))).run {}
        some (l + at', r.1.flatMap (toLe w), r.2)
  | .combine .. => none

/-- The flags of an op-write go to the command on whose behalf it was issued (R208). -/
def Dev.opFlags (d : Dev) (u : Option Nat) (f : NumFlags) (arrival : Bool) : Dev :=
  match u.bind d.cmd? with
  | none => d
  | some c =>
    let d := if c.live then d.setCmd { c with flags := c.flags.or f, arrival := c.arrival || arrival } else d
    if arrival then d.sticky c.part 3 true else d

/-- The command BANK_OP_WRITE: an op-write of command u to a scratchpad offset of partition p is accepted and applied; a combine whose slot does
not allow it yet waits (R207-R210). -/
def Dev.bankOpWrite (d : Dev) (u : Option Nat) (p off : Nat) (op : BankOp) : Dev :=
  match d.spdPlace p off with
  | none => d
  | some (n, l) =>
    let c := (u.bind d.cmd?).getD {}
    match op with
    | .combine arrival integer group groups ws =>
      if l % 256 != 0 || ws.length != 64 || decide (groups ≤ group) || decide (groups > 32767) || !d.inTagRegion n (l / 256) ||
          (arrival && !c.num.arrivalOk) then d
      else match d.combineSlot c.ftz n l ⟨off, group, groups, ws, integer, arrival⟩ with
        | none => d.bump (pgSPD n) 0x810 1
        | some (d, f) => d.opFlags u f arrival
    | _ =>
      match d.opBytes c n l off op with
      | none => d
      | some (a, b, f) =>
        let d : Dev := { d with spd := d.spd.writeBytes (spdKey n a) b }
        (d.countBalu n (ceilDiv b.length 64)).opFlags u f false

/-! ### Atomics (Table 7-5) -/

/-- The least address alignment of an atomic, in bytes: its operand's size; 0 for a width the table does not have. -/
def atomicSize : AtomicOp → Nat
  | .fetchAdd w _ | .compareSwap w _ _ | .swap w _ | .minMax _ w _ => if w = 32 || w = 64 then w / 8 else 0
  | .fetchAddFp _ | .minMaxFp _ _ => 4
  | .redAdd _ ws => if ws.length = 64 then 256 else 0

/-- MAX and MIN of two FP32 words: a NaN wins as 0x7FC0_0000, and -0 lies below +0. -/
def atomicFp (max : Bool) (a b : Word) : Word := if max then fmax a b else fmin a b

/-- The new bytes of the operand, from the old ones. -/
def atomicApply (op : AtomicOp) (old : Bytes) : Bytes :=
  let v := leNat old
  let w32 := BitVec.ofNat 32 v
  match op with
  | .fetchAdd w x => toLe (w / 8) ((v + x) % 2 ^ w)
  | .fetchAddFp x => toLe 4 (((fadd false w32 x).run {}).1).toNat
  | .compareSwap w cmp x => if v = cmp % 2 ^ w then toLe (w / 8) (x % 2 ^ w) else old
  | .swap w x => toLe (w / 8) (x % 2 ^ w)
  | .minMax max w x =>
    let less := decide (toSigned w v < toSigned w x)
    if less == max then toLe (w / 8) (x % 2 ^ w) else old
  | .minMaxFp max x => toLe 4 (atomicFp max w32 x).toNat
  | .redAdd integer ws =>
    (List.range 64).flatMap (fun i =>
      let o := BitVec.ofNat 32 (fieldAt old (4 * i) 4)
      let x := ws.getD i 0
      toLe 4 (if integer then (o + x).toNat else (((fadd false o x).run {}).1).toNat))

/-- An atomic on the cell at key k, that of device address a: done at the home cache, indivisibly (R221, R222). Its old bytes. -/
def Dev.atomicAt (d : Dev) (p a k : Nat) (op : AtomicOp) : Dev × Bytes :=
  let old := d.hbm.readBytes k (atomicSize op)
  let d := d.touchLine p (homeDie k) (a / 256) true
  let d : Dev := { d with hbm := d.hbm.writeBytes k (atomicApply op old) }
  (d.bump (pgSHC (homeDie k)) 0x814 1, old)

/-- The command ATOMIC: a unit working for partition p performs an atomic on an aligned HBM address in one of its regions. The old value goes
back to it; a line reduction returns nothing. An FP32 line reduction sets NUM.STICKY.ARRIVAL (R223). -/
def Dev.atomic (d : Dev) (o : Outside) (p a : Nat) (op : AtomicOp) : Dev :=
  match d.cellOf p a with
  | none => d
  | some k =>
    if isHost a || (atomicSize op) = 0 || a % max 1 (atomicSize op) != 0 || !d.usable o p a (atomicSize op) then d
    else
      let r := d.atomicAt p a k op
      match op with
      | .redAdd integer _ => if integer then r.1 else r.1.sticky p 3 true
      | _ => { r.1 with atomicOld := r.2 }

/-! ### Flushes (R219) -/

/-- The command FLUSH_DONE: every dirty line of the die has been written back. -/
def Dev.flushDone (d : Dev) (die : Nat) : Dev :=
  if !d.flushing.contains die then d
  else
    let n := (d.lines.filter (fun l => l.die == die && l.dirty)).length
    let clean (l : CacheLine) : CacheLine := if l.die = die then { l with dirty := false } else l
    let d : Dev := { d with lines := d.lines.map clean, flushing := d.flushing.filter (· != die) }
    (d.bump (pgSHC die) 0x810 n).raise (pgSHC die) 2

/-! ### Stack engines (R241-R247) -/

/-- R242: the lines of the blocks an engine reads are written back, and those of the blocks it writes are discarded. The memory holds the current
bytes of every line, so only the lines' records change. -/
def Dev.syncLines (d : Dev) (read written : List Nat) : Dev :=
  let block (l : CacheLine) : Option Nat := (d.anyCell (l.line * 256)).map (· / 256)
  let back := (d.lines.filter (fun l => l.dirty && (block l).any read.contains)).map (·.die)
  let d := back.foldl (fun d die => d.bump (pgSHC die) 0x810 1) d
  let clean (l : CacheLine) : CacheLine := if (block l).any read.contains then { l with dirty := false } else l
  { d with lines := (d.lines.filter (fun l => !(block l).any written.contains)).map clean }

/-- The physical number of block b of stack s. -/
def stackBlock (s b : Nat) : Nat := 32 * s * 8388608 + b

/-- A stack engine reads and writes some blocks of its stack: lines, counters, and an armed error (R242, R247, Table 8-9). -/
def Dev.stackTouch (d : Dev) (s : Nat) (read written : List Nat) : Dev :=
  let d := d.syncLines (read.map (stackBlock s)) (written.map (stackBlock s))
  let d := (d.bumpWide (pgHBM s) 0x804 read.length).bumpWide (pgHBM s) 0x80C written.length
  match read with
  | [] => d
  | b :: _ => d.hbmInject s (b / 8388608) (b % 8388608) false none

/-- Copies of blocks of a stack: every source is read before any destination is written. -/
def Dev.stackMove (d : Dev) (s : Nat) (pairs : List (Nat × Nat)) : Dev :=
  let data := pairs.map (fun q => d.block s q.1)
  let d := d.stackTouch s (pairs.map (·.1)) (pairs.map (·.2))
  let d := (pairs.zip data).foldl (fun d x => d.putBlock s x.1.2 x.2) d
  d.stkCount s (256 * pairs.length) 0 0

/-- Blocks in a row. -/
def blockRun (a n : Nat) : List Nat := (List.range n).map (a + ·)

/-- The command STK_COPY. -/
def Dev.stkCopy (d : Dev) (s src dst count : Nat) : Dev := d.stackMove s ((blockRun src count).zip (blockRun dst count))

/-- The command STK_FILL. -/
def Dev.stkFill (d : Dev) (s dst count : Nat) (pattern : Word) : Dev :=
  let d := d.stackTouch s [] (blockRun dst count)
  let b := (List.replicate 64 (toLe 4 pattern.toNat)).flatMap id
  let d := (blockRun dst count).foldl (fun d x => d.putBlock s x b) d
  d.stkCount s (256 * count) 0 0

/-- The command STK_GATHER. -/
def Dev.stkGather (d : Dev) (s : Nat) (srcs : List Nat) (dst : Nat) : Dev := d.stackMove s (srcs.zip (blockRun dst srcs.length))

/-- The command STK_COMPACT: the blocks whose mask byte is nonzero, in order. -/
def Dev.stkCompact (d : Dev) (s src : Nat) (mask : List Nat) (dst : Nat) : Dev :=
  let kept := ((List.range mask.length).filter (fun i => mask.getD i 0 != 0)).map (src + ·)
  d.stackMove s (kept.zip (blockRun dst kept.length))

/-- A stack engine's result in its mailbox is set. -/
def Dev.modStack (d : Dev) (s : Nat) (f : StackState → StackState) : Dev := { d with stackUnits := d.stackUnits.set s (f (d.stackUnits.getD s {})) }

/-- The command STK_CRC (R246). -/
def Dev.stkCrc (d : Dev) (s src count : Nat) : Dev :=
  let v := crc32c ((blockRun src count).flatMap (d.block s))
  let d := d.stackTouch s (blockRun src count) []
  (d.stkCount s 0 (256 * count) 0).modStack s (fun x => { x with crc := v })

/-- The command STK_SCORE: the listed pages, each with the block its summary key begins at, ranked by score (R243). -/
def Dev.stkScore (d : Dev) (s : Nat) (c : StkScore) : Dev :=
  let n := c.query.length
  let top := rankTop c.top (c.pages.map (fun q => (q.1, scoreOf c.query (d.hbm.readBytes (blockKey s q.2) n))))
  let d := d.stackTouch s (c.pages.flatMap (fun q => blockRun q.2 (ceilDiv n 256))) []
  (d.stkCount s 0 0 c.pages.length).modStack s (fun x => { x with scores := top })

/-- A stack-engine command reaches only blocks its stack has. -/
def stackHas (s : Nat) (blocks : List Nat) : Bool := decide (s < 12) && blocks.all (fun b => decide (b < stackBlocks))

/-! ### HBM temperature, patrol and uncorrectable reads (R236-R240) -/

/-- Table 8-5: the band of a temperature. -/
def bandOf (t : Int) : Nat := if t ≥ 95 then 2 else if t ≥ 85 then 1 else 0

/-- R236: the band after a reading: hotter at once, cooler only 3 °C below the threshold of the band it leaves. -/
def nextBand (band : Nat) (t : Int) : Nat :=
  if bandOf t > band then bandOf t
  else if band = 2 && t ≤ 92 then (if t ≤ 82 then 0 else 1)
  else if band = 1 && t ≤ 82 then 0
  else band

/-- The command HBM_TEMP_READING. -/
def Dev.hbmTempReading (d : Dev) (s : Nat) (t : Int) : Dev :=
  let g := pgHBM s
  let old := d.regN g 0x800
  let band := bits old 8 2
  let next := nextBand band t
  let hot := if t ≥ 105 then true else if t < 102 then false else bit old 10
  let d := d.setReg g 0x800 (BitVec.ofNat 32 (min 255 t.toNat + 256 * next + 1024 * b2n hot))
  let d := if next != band then (d.bump g 0x828 1).raise g 3 else d
  if hot && !bit old 10 then d.raise g 4 else d

/-- The command PATROL_READ: while the patrol is enabled it reads a block, writes it back if an error was corrected, and only logs an uncorrectable
one (R238). -/
def Dev.patrolRead (d : Dev) (s channel block : Nat) (error : Option EccError) : Dev :=
  if !bit (d.active (pgHBM s) 0x040) 0 then d
  else
    let d := d.bumpWide (pgHBM s) 0x804 1
    let d := d.hbmInject s channel block true none
    let d := match error with
      | none => d
      | some e =>
        let d := d.hbmError s (if e.uncorrectable then 3 else 1) channel block e.word e.codeword true false none
        if e.uncorrectable then d else d.bumpWide (pgHBM s) 0x80C 1
    let next := ((d.stackUnits.getD s {}).patrol + 1) % stackBlocks
    let d := d.modStack s (fun x => { x with patrol := next })
    if next = 0 then d.bump (pgHBM s) 0x824 1 else d

/-- R233: the journal copy that a channel block belongs to. -/
def journalCopy (block : Nat) : Option Nat :=
  if 8344918 ≤ block ∧ block ≤ 8355840 then some 0
  else if 8355841 ≤ block ∧ block ≤ 8366763 then some 1
  else none

/-- The command HBM_UNCORRECTABLE_READ: the controller has retried an uncorrectable read made for command u. A block of the journal is served from
the other copy; any other read whose retry fails fails its command (R240). -/
def Dev.hbmUncorrectable (d : Dev) (s channel block symbol codeword : Nat) (retryOk : Bool) (u : Option Nat) : Dev :=
  if retryOk then d.hbmError s 2 channel block symbol codeword false false u
  else
    let last := hbmLast 3 false false channel block symbol codeword
    match journalCopy block with
    | some copy =>
      (d.hbmError s 3 channel block symbol codeword false false u).log
        { cls := 0x0B, severity := 1, source := pgHBM s, detail := toLe 1 copy }
    | none =>
      let d := d.hbmNote s 3 last block false
      let e := d.hbmEntry s 3 last channel block
      match u.bind d.cmd? with
      | none => d.log e
      | some c =>
        let d := if c.opcode = 0x06 && d.usesStacks c then (d.bump (pgSTK s) 0x814 1).raise (pgSTK s) 0 else d
        if c.live then d.loseCmd c.uid e else d.log e

/-! ### KV pool initialisation (R354) -/

/-- The command KVP_INIT_DONE: every entry of the pool's table is written FREE, and the pool becomes ready. -/
def Dev.kvpInitDone (d : Dev) (p : Nat) : Dev :=
  if !d.kvBusy p then d
  else
    let d := (List.range (d.kvPool p).pages).foldl (fun d n => d.setKvEntry p n { free := true }) d
    (d.setReg (pgKVP p) 0x800 1).raise (pgKVP p) 2

end Sys2Proof.Machine
end

