-- ==== Sys2Proof/Machine/Host.lean ====
section
/-! DEFINITION. The host interface: the link, configuration spaces, the HBM aperture, MSI-X, translation, IDE and function-level resets (R475-R490). -/

namespace Sys2Proof.Machine

/-! ### The link (R475, R476, Table 17-6) -/

/-- A data link speed code and width that R475 gives. -/
def linkOk (speed width : Nat) : Bool :=
  decide (1 ≤ speed ∧ speed ≤ 7) && (width == 1 || width == 2 || width == 4 || width == 8)

/-- The link reaches L0. -/
def Dev.linkL0 (d : Dev) (speed width : Nat) (flit : Bool) : Dev :=
  if !linkOk speed width then d
  else (d.setReg pgPCI 0x800 (BitVec.ofNat 32 (1 + 2 * speed + 16 * width + 256 * b2n flit))).raise pgPCI 1

/-- Function f of the physical link. -/
def Dev.fn (d : Dev) (f : Nat) : FnCfg := d.pci.fns.getD f {}

def Dev.modFn (d : Dev) (f : Nat) (g : FnCfg → FnCfg) : Dev :=
  { d with pci := { d.pci with fns := d.pci.fns.set f (g (d.fn f)) } }

/-- The command HOT_RESET: a hot reset, or a DL_Down, returns every function's configuration space to its reset values and changes nothing else. -/
def Dev.hotReset (d : Dev) (linkDown : Bool) : Dev :=
  let d : Dev := { d with pci := { msixPending := d.pci.msixPending, doeResponse := d.pci.doeResponse, doeError := d.pci.doeError } }
  if linkDown then ((d.setReg pgPCI 0x800 0).bump pgPCI 0x80C 1).raise pgPCI 0 else d

/-! ### MSI-X (R483) -/

/-- Pending vectors of function f that are not masked are sent once it may send. -/
def Dev.flushMsix (d : Dev) (f : Nat) : Dev :=
  if !d.mayRequest f then d
  else
    let l := d.pci.msixPending.filter (fun x => x.1 == f && d.pci.unmasked.contains x)
    let d : Dev := { d with pci := { d.pci with msixPending := d.pci.msixPending.filter (fun x => !l.contains x) } }
    l.foldl (fun d x => { d with sent := .msix x.1 x.2 :: d.sent }) d

/-- The command MSIX_UNMASK. -/
def Dev.msixUnmask (d : Dev) (f v : Nat) : Dev :=
  if !d.pci.hasFn f || decide (v ≥ (if f = 0 then 2048 else 32)) || d.pci.unmasked.contains (f, v) then d
  else (({ d with pci := { d.pci with unmasked := (f, v) :: d.pci.unmasked } } : Dev)).flushMsix f

/-! ### Address translation and IDE (R485, R487) -/

/-- The command ATS_INVALIDATE: the translations of a range are dropped and the invalidation completes. -/
def Dev.atsInvalidate (d : Dev) (f a n : Nat) : Dev :=
  if !d.pci.hasFn f then d
  else
    let lo := a % 2 ^ 47 / 4096
    let hi := (a % 2 ^ 47 + n - 1) / 4096
    let keep := d.pci.atc.filter (fun x => x.1 != f || decide (x.2 < lo) || decide (hi < x.2))
    ({ d with pci := { d.pci with atc := keep }, sent := .atsDone f a :: d.sent } : Dev).bump pgPCI 0x820 1

/-- The command IDE_FAILURE: a stream in the Secure state becomes Insecure. -/
def Dev.ideFailure (d : Dev) (stream : Nat) : Dev :=
  match d.pci.ide.find? (fun x => x.id == stream && x.secure) with
  | none => d
  | some x =>
    let drop (y : IdeStream) : IdeStream := if y.id = stream then { y with secure := false } else y
    let d : Dev := { d with pci := { d.pci with ide := d.pci.ide.map drop } }
    ((d.bump pgPCI 0x81C 1).raise pgPCI 2).log (hostEntry (x.covers.headD 0) 2 0 0 0xFF 0 0)

/-- A stream is associated and goes Secure by IDE_KM (R486): at most four streams. -/
def Dev.ideSet (d : Dev) (x : IdeStream) : Dev :=
  let l := d.pci.ide.filter (fun y => y.id != x.id)
  if l.length ≥ 4 then d else { d with pci := { d.pci with ide := l ++ [x] } }

/-! ### Function-level reset (R489, R490, Table 17-2) -/

/-- A page at its reset values but for the fields marked PF and the registers at some offsets; its pending commit is dropped. -/
def Dev.pageToReset (d : Dev) (page : Nat) (kept : List Nat) : Dev :=
  match blockOf page with
  | none => d
  | some (b, _) =>
    let both := b.shadowed.flatMap (fun o => [(o.1, o.2), (o.1 + 0x400, o.2)])
    let keep := both.map (fun o => (o.1, if kept.contains (o.1 % 0x400) then d.reg page o.1 else heldWrite (regReset page o.1) (d.reg page o.1)
      (2 ^ 32 - 1 - o.2.pf % 2 ^ 32)))
    let loaded := d.reg page 0x83C
    let inPage (k : Nat) : Bool := decide (page * 0x1000 ≤ k) && decide (k < (page + 1) * 0x1000)
    let d : Dev := { d with regs := d.regs.filter (fun x => !inPage x.1), commits := d.commits.filter (fun k => k.page != page) }
    let d := keep.foldl (fun d o => d.setReg page o.1 o.2) d
    if b = .part then d.setReg page 0x83C loaded else d

/-- The partition's commands end as aborted, without records. -/
def Dev.flrCommands (d : Dev) (p : Nat) : Dev :=
  let d := d.abortAll p 0xFFFF
  { d with cmds := d.cmds.filter (fun c => c.part != p), records := d.records.filter (fun r => r.part != p),
           saved := d.saved.filter (fun x => x.part != p) }

/-- Sessions, jobs and streams close at the next edge. -/
def Dev.flrCloses (d : Dev) (p : Nat) : Dev :=
  { d with sessions := d.sessions.map (fun s => if s.part = p then { s with closing := true } else s),
           jobs := d.jobs.map (fun j => if j.part = p then { j with closing := true } else j),
           streams := d.streams.map (fun s => if s.part = p then { s with closing := true } else s) }

/-- The cores of the partition are zeroed. -/
def Dev.flrCores (d : Dev) (p : Nat) : Dev :=
  (d.coresOf p).foldl (fun d n => (d.zeroCore n).modCore n (fun x => { x with zeroing := true })) d

/-- The function's own state: configuration space, masks, pending bits, translations; that of the physical function clears VF Enable. -/
def Dev.flrFunction (d : Dev) (f : Nat) : Dev :=
  let c := d.pci
  let c := { c with unmasked := c.unmasked.filter (fun x => x.1 != f), msixPending := c.msixPending.filter (fun x => x.1 != f),
                    atc := c.atc.filter (fun x => x.1 != f), fns := c.fns.set f { flrBusy := true } }
  { d with pci := if f = 0 then { c with vfEnable := false, numVfs := 0 } else c }

/-- The command FUNCTION_LEVEL_RESET. -/
def Dev.flr (d : Dev) (f : Nat) : Dev :=
  if !d.pci.hasFn f then d
  else
    let p := f
    let d := ((d.flrCommands p).flrCloses p).flrCores p
    let kept := [0x060, 0x064, 0x068, 0x06C]
    let d := (((d.pageToReset (pgPART p) kept).pageToReset (pgNUM p) []).pageToReset (pgRNG p) []).pageToReset (pgKVP p) []
    let x := d.part p
    let d := d.setPart p { regions := x.regions, resyncWindow := x.resyncWindow, roleLoss := true, flrZeroing := !(d.coresOf p).isEmpty }
    d.flrFunction f

/-- The command FLR_BUSY_CLEAR. -/
def Dev.flrDone (d : Dev) (f : Nat) : Dev :=
  if (d.fn f).flrBusy then d.modFn f (fun c => { c with flrBusy := false }) else d

/-! ### Configuration space (R477, R478) -/

/-- The command CONFIG_SPACE_WRITE to a function that exists. NumVFs takes a write only while VF Enable is clear. -/
def Dev.configWrite (d : Dev) (f : Nat) (change : ConfigChange) : Dev :=
  if !d.pci.hasFn f then d
  else match change with
    | .busMaster on => (d.modFn f (fun c => { c with busMaster := on })).flushMsix f
    | .ats on =>
      let d := d.modFn f (fun c => { c with ats := on })
      if on then d else { d with pci := { d.pci with atc := d.pci.atc.filter (fun x => x.1 != f) } }
    | .d3hot on =>
      if on then d.modFn f (fun c => { c with d3hot := true })
      else if (d.fn f).d3hot then d.flr f
      else d
    | .vfEnable on =>
      if f ≠ 0 || on == d.pci.vfEnable then d
      else
        let fresh := (List.range 64).map (fun i => if i = 0 then d.fn 0 else {})
        { d with pci := { d.pci with vfEnable := on, fns := fresh } }
    | .numVfs n => if f ≠ 0 || d.pci.vfEnable || decide (n > 63) then d else { d with pci := { d.pci with numVfs := n } }
    | .barSize vf k =>
      if f ≠ 0 || decide (k > 10) then d
      else { d with pci := if vf then { d.pci with vfBar := 2 ^ k } else { d.pci with pfBar := 2 ^ k } }

/-! ### The HBM aperture (R479, R480, R546) -/

/-- The device address of an offset of function f's BAR4. -/
def Dev.apertureAddr (d : Dev) (f off : Nat) : Nat :=
  d.active (pgPART f) 0x088 + d.active (pgPART f) 0x08C % 65536 * 2 ^ 32 + off

/-- An access lies within the function's BAR4. -/
def Dev.inBar4 (d : Dev) (f off n : Nat) : Bool :=
  decide (off + n ≤ (if f = 0 then d.pci.pfBar else d.pci.vfBar) * 2 ^ 30)

/-- R479: the access is permitted. -/
def Dev.apertureOk (d : Dev) (f a n : Nat) (write : Bool) : Bool :=
  if f = 0 then decide (a + n ≤ regionEnd)
  else (d.part f).regions.any (fun r => decide (r.base ≤ a) && decide (a + n ≤ r.base + r.size) && !(write && r.readOnly))

/-- The cell of an address that the aperture reaches: the physical function reaches those of every partition's regions. -/
def Dev.apertureCell (d : Dev) (f a : Nat) : Option Nat := if f = 0 then d.anyCell a else d.cellOf f a

/-- R544: a cell is initialised. -/
def cellReady (o : Outside) (k : Nat) : Bool :=
  let b := k / 256 % 8388608
  bit o.flags 5 || decide (b < o.water) || decide (8323072 ≤ b)

/-- The cells of the 256-byte blocks of an access. -/
def Dev.apertureCells (d : Dev) (f a n : Nat) : List (Option Nat) :=
  if n = 0 then [] else (List.range ((a + n - 1) / 256 - a / 256 + 1)).map (fun k => d.apertureCell f ((a / 256 + k) * 256))

/-- The lines of an access are looked up in their home caches. -/
def Dev.apertureTouch (d : Dev) (f a n : Nat) (write : Bool) : Dev :=
  if n = 0 then d
  else (List.range ((a + n - 1) / 256 - a / 256 + 1)).foldl (fun d k =>
    match d.apertureCell f ((a / 256 + k) * 256) with
    | some c => d.touchLine f (homeDie c) (a / 256 + k) write
    | none => d) d

/-- The byte that a permitted read returns: zero where the cell is not initialised, a free byte where the address lies in no
region (log entry 62). -/
def Dev.apertureByte (d : Dev) (o : Outside) (f a : Nat) : Byte :=
  match d.apertureCell f a with
  | some k => if cellReady o k then d.hbm.read k else 0
  | none => Config.freeByte d.fresh a

/-- Bytes through BAR4 are PCI Express traffic of the partition. -/
def Dev.countPcie (d : Dev) (p n : Nat) : Dev := d.modPart p (fun x => { x with window := { x.window with pcie := x.window.pcie + n } })

/-- The command APERTURE_READ. -/
def Dev.apertureRead (d : Dev) (o : Outside) (f off n : Nat) : Dev :=
  if !d.inBar4 f off n then d
  else
    let a := d.apertureAddr f off
    if !d.apertureOk f a n false then
      ({ d with sent := .readData f (List.replicate n 0) :: d.sent } : Dev).bump pgPCI 0x814 1
    else
      let data := (List.range n).map (fun i => d.apertureByte o f (a + i))
      let d := (d.apertureTouch f a n false).countPcie f n
      { d with sent := .readData f data :: d.sent }

/-- A permitted byte is written. -/
def Dev.apertureSet (d : Dev) (f a : Nat) (b : Byte) : Dev :=
  match d.apertureCell f a with
  | some k => { d with hbm := d.hbm.write k b }
  | none => d

/-- The command APERTURE_WRITE: dropped where a cell is not initialised. -/
def Dev.apertureWrite (d : Dev) (o : Outside) (f off : Nat) (data : Bytes) : Dev :=
  let n := data.length
  if !d.inBar4 f off n then d
  else
    let a := d.apertureAddr f off
    if !d.apertureOk f a n true then d.bump pgPCI 0x814 1
    else if (d.apertureCells f a n).any (fun c => c.any (fun k => !cellReady o k)) then d.bump pgMGT 0x854 1
    else
      let d := (d.apertureTouch f a n true).countPcie f n
      ((List.range n).zip data).foldl (fun d x => d.apertureSet f (a + x.1) x.2) d

/-- R224: a PCI Express AtomicOp as an operation of Table 7-5. -/
def pcieOp : PcieAtomic → AtomicOp
  | .fetchAdd w v => .fetchAdd w v
  | .swap w v => .swap w v
  | .cas w c v => .compareSwap w c v

/-- The command ATOMICOP: a 128-bit CAS, and one to a cell not yet initialised, is completed as Unsupported Request. -/
def Dev.atomicOp (d : Dev) (o : Outside) (f off : Nat) (op : PcieAtomic) : Dev :=
  let n := atomicSize (pcieOp op)
  let a := d.apertureAddr f off
  if n = 0 || !d.inBar4 f off n || a % max 1 n != 0 then { d with sent := .unsupported f :: d.sent }
  else if !d.apertureOk f a n true then
    ({ d with sent := .readData f (List.replicate n 0) :: d.sent } : Dev).bump pgPCI 0x814 1
  else match d.apertureCell f a with
    | none => { d with sent := .unsupported f :: d.sent }
    | some k =>
      if !cellReady o k then { d with sent := .unsupported f :: d.sent }
      else
        let r := d.atomicAt f a k (pcieOp op)
        { (r.1.countPcie f n) with sent := .readData f r.2 :: d.sent }

end Sys2Proof.Machine
end

