-- ==== Sys2Proof/Machine/Masthead.lean ====
section
/-! DEFINITION. Masthead: what the device proper learns of it, its registers, alerts, monitors, Reef, firmware, the error-log window, management messages and attestation (R25, R237, R491-R517, Tables 18-10 to 18-12). -/

namespace Sys2Proof.Machine

/-! ### The whole machine and the device proper -/

/-- The device runs: power is good and no reset holds it (R528, R534). -/
def State.running (s : State) : Bool := s.power.good && !s.power.held

/-- A ready flag (R547): 0 CTRL, 1 COMPUTE, 2 FABRIC, 3 MEDIA, 4 HBM_BASIC, 5 HBM_FULL. -/
def State.flag (s : State) (i : Nat) : Bool := bit s.boot.flags i

/-- A component's identity in the resync summary (Table 3-15). -/
def FwImage.identity (x : FwImage) : Bytes := toLe 4 x.version ++ toLe 4 x.svn ++ x.digest.take 24

/-- What a command of the device proper learns from bring-up and Masthead. -/
def State.outside (s : State) : Outside :=
  { flags := s.boot.flags, water := s.boot.water, fw := s.mgmt.running.flatMap FwImage.identity, handover := s.mgmt.handover.isSome }

/-- A command of the device proper: it acts while the device runs. -/
def State.onDev (s : State) (f : Dev → Dev) : State := if s.running then { s with dev := f s.dev } else s

/-- Masthead is running. -/
def State.masthead (s : State) : Bool := s.running && s.mgmt.started && !s.mgmt.down

/-! ### Registers of Masthead, bring-up and the security block -/

/-- The error-log entry that ELOG_READ names, if it is in the ring (R506). -/
def State.elogEntry (s : State) : Option LogEntry :=
  if s.dev.elogRing then s.dev.logAt (s.dev.regN pgMGT 0xC10) else none

/-- The time since reset release in microseconds. -/
def Dev.micros (d : Dev) : Nat := d.now / 1200

/-- Table 20-6. -/
def State.stageInfo (s : State) (i : Nat) : Nat :=
  let x := s.boot.stages.getD i {}
  (if x.result = 1 then s.dev.micros - x.start else x.duration) % 2 ^ 28 + x.result * 2 ^ 28

/-- MGT.STATE. -/
def State.mgtState (s : State) : Nat :=
  let r := s.dev.reef
  r.step % 4 + r.target % 4 * 4 + b2n r.held * 16 + r.reason % 8 * 32 + s.dev.deviceState s.outside % 8 * 256 + b2n s.mgmt.alert * 4096

/-- The registers of the MGT page that stand outside the device proper (Tables 18-10 and 20-5). -/
def State.mgtWord (s : State) (off : Nat) : Option Nat :=
  match off with
  | 0x800 => some s.boot.flags
  | 0x804 => some s.mgtState
  | 0x818 => some (s.mgmt.fwComponent % 4 + s.mgmt.fwStatus % 8 * 16 + b2n s.mgmt.fwBusy * 256)
  | 0x840 => some s.dev.elogSeq
  | 0x844 => some (b2n s.elogEntry.isNone)
  | 0x850 => some s.boot.water
  | 0x858 => some (bitMask ((List.range 14).filter (fun i => (s.boot.stages.getD i {}).result = 1)))
  | _ =>
    if 0x820 ≤ off ∧ off < 0x838 then
      let x := s.mgmt.running.getD ((off - 0x820) / 8) {}
      some (if !s.flag 0 then 0 else if off % 8 = 0 then x.version else x.svn)
    else if 0x880 ≤ off ∧ off < 0x900 then
      let i := (off - 0x880) / 8
      some (if i ≥ 14 then 0 else if off % 8 = 0 then (s.boot.stages.getD i {}).start else s.stageInfo i)
    else if 0x900 ≤ off ∧ off < 0x940 then
      some (match s.elogEntry with
        | some e => fieldAt e.bytes (off - 0x900) 4
        | none => 0)
    else if (off = 0x048 || off = 0x448) && !s.flag 0 then some 0
    else none

/-- The registers of the SEC page (Table 18-12). -/
def State.secWord (s : State) (off : Nat) : Option Nat :=
  if 0x800 ≤ off ∧ off < 0x980 then some (fieldAt (s.sec.mrs.getD ((off - 0x800) / 0x30) []) ((off - 0x800) % 0x30) 4)
  else if 0x980 ≤ off ∧ off < 0x990 then some (if s.flag 0 then s.flash.counters.getD ((off - 0x980) / 4) 0 else 0)
  else if off = 0x990 then some (s.sec.bootCopy % 2 + 2 * b2n s.sec.pufOk + 4 * b2n s.sec.identityReady + 8 * b2n s.sec.locked)
  else if off = 0x994 then some (min 15 s.sec.sessions.length)
  else none

/-- The word a read of a register page returns to a source that sees the page, and what the read changes (R104, R105, R548). -/
def State.readWord (s : State) (page off : Nat) : State × Word :=
  let held : Option Nat :=
    if page = pgMGT then s.mgtWord off
    else if page = pgSEC then s.secWord off
    else match blockOf page with
      | some (.mon, _) => if off = 0x848 && !s.flag 0 then some 0 else none
      | some (.eth, _) => if (off = 0x044 || off = 0x048 || off = 0x444 || off = 0x448) && !s.flag 2 then some 0 else none
      | _ => none
  match held with
  | some v => (s, BitVec.ofNat 32 v)
  | none => let r := s.dev.readWord page off
    ({ s with dev := r.1 }, r.2)

/-! ### Alerts (R494) -/

/-- A junction reading of a die, in 1/256 °C. -/
def Dev.junction (d : Dev) (die i : Nat) : Int := toSigned 16 (d.regN (pgMON die) (0x800 + 4 * i))

/-- The sixty-four junction readings with their dies and sensors. -/
def Dev.junctions (d : Dev) : List (Nat × Nat × Int) :=
  (List.range 64).map (fun k => (k / 16, k % 16, d.junction (k / 16) (k % 16)))

/-- The temperature of a stack's last reading, °C. -/
def Dev.stackTemp (d : Dev) (s : Nat) : Int := (bits (d.regN (pgHBM s) 0x800) 0 8 : Nat)

/-- Some stack has HOT set (R237). -/
def Dev.anyHot (d : Dev) : Bool := (List.range 12).any (fun s => bit (d.regN (pgHBM s) 0x800) 10)

/-- AUTO of THERM_CFG in 1/256 °C. -/
def Dev.autoTemp (d : Dev) : Int := (256 * (d.active pgMGT 0x048 % 256) : Nat)

/-- Some junction reading is at or above AUTO. -/
def Dev.junctionHot (d : Dev) : Bool := d.autoTemp != 0 && d.junctions.any (fun x => decide (d.autoTemp ≤ x.2.2))

/-- Every junction reading is below AUTO - 5 °C. -/
def Dev.junctionsCool (d : Dev) : Bool := d.junctions.all (fun x => decide (x.2.2 < d.autoTemp - 1280))

/-- A rail reading lies outside 3% of its set-point. -/
def railOff (die r mv : Nat) : Bool :=
  let s := Config.railSetPoint die r
  decide (100 * mv < 97 * s) || decide (103 * s < 100 * mv)

/-- The latest reading of some rail lies outside 3% of its set-point. -/
def State.anyRailOff (s : State) : Bool :=
  (List.range 4).any (fun die => decide (s.mgmt.sampleAt.getD die 0 ≠ 0) &&
    (List.range 8).any (fun r => railOff die r (s.dev.regN (pgMON die) (0x850 + 4 * r))))

/-- A unit is out of service, or failed at bring-up. -/
def State.unitIsOut (s : State) : Bool :=
  s.boot.unitOut || s.dev.arrays.any (·.outOfService) || s.dev.engines.any (·.outOfService) || s.dev.reducers.any (·.outOfService)

/-- The alert conditions that hold, by their bits in ALERT_EN. -/
def State.alertConditions (s : State) : Nat :=
  b2n (s.dev.junctionHot || s.dev.anyHot) + 2 * b2n s.dev.reef.emergency + 4 * b2n s.dev.reef.held + 8 * b2n s.mgmt.excess +
  16 * b2n s.anyRailOff + 32 * b2n s.unitIsOut

/-- MOD_ALERT_N is to be asserted. -/
def State.alerted (s : State) : Bool :=
  s.running && (s.mgmt.down || s.boot.stopped || s.alertConditions &&& s.dev.active pgMGT 0x044 != 0)

/-- MOD_ALERT_N follows the alert conditions; MGT.INT_STAT.ALERT is raised when it becomes asserted. -/
def State.refreshAlert (s : State) : State :=
  let on := s.alerted
  if on == s.mgmt.alert then s
  else
    let d : Dev := { s.dev with sent := .pin .alertN (!on) :: s.dev.sent }
    { s with mgmt := { s.mgmt with alert := on }, dev := if on then d.raise pgMGT 4 else d }

/-! ### Temperature (R495, R499, R500) -/

/-- The hottest of some readings, the first of equal ones. -/
def hottest : List (Nat × Nat × Int) → Option (Nat × Nat × Int)
  | [] => none
  | x :: r => match hottest r with
    | none => some x
    | some y => if y.2.2 ≤ x.2.2 then some x else some y

/-- The THERMAL entry of a sensor: its page, its number and its reading (Table 18-6). -/
def Dev.logThermal (d : Dev) (page sensor : Nat) (celsius : Int) : Dev :=
  d.log { cls := 0x0C, severity := 0, source := page,
          detail := toLe 2 page ++ toLe 1 sensor ++ toLe 1 (ofSigned 8 celsius) ++ toLe 1 d.reef.target ++ toLe 1 d.reef.step }

/-- A THERMAL entry for the hottest junction. -/
def Dev.logJunction (d : Dev) : Dev :=
  match hottest d.junctions with
  | some x => d.logThermal (pgMON x.1) x.2.1 (x.2.2 / 256)
  | none => d

/-- The hottest stack. -/
def Dev.hotStack (d : Dev) : Nat × Int :=
  match hottest ((List.range 12).map (fun s => (s, 0, d.stackTemp s))) with
  | some x => (x.1, x.2.2)
  | none => (0, 0)

/-- A THERMAL entry for the hottest stack. -/
def Dev.logStack (d : Dev) : Dev := d.logThermal (pgHBM d.hotStack.1) 0 d.hotStack.2

/-- A junction reading of 105 °C or a stack reading of 110 °C (Table 18-3). -/
def Dev.junctionEmergency (d : Dev) : Bool := d.junctions.any (fun x => decide (105 * 256 ≤ x.2.2))
def Dev.stackEmergency (d : Dev) : Bool := (List.range 12).any (fun s => decide (110 ≤ d.stackTemp s))

/-- The temperature emergency begins or ends with the readings (R500). -/
def Dev.emergencyCheck (d : Dev) : Dev :=
  let hot := d.junctionEmergency || d.stackEmergency
  let r := d.reef
  if hot == r.emergency then d
  else if hot then
    let d : Dev := { d with reef := { r with emergency := true, emergencyStep := min 3 (r.step + 1), emergencyAt := d.now } }
    if d.junctionEmergency then d.logJunction else d.logStack
  else { d with reef := { r with emergency := false, emergencyStep := 0 } }

/-- What the readings say for the junction and HBM requests (Table 18-3). -/
def Dev.noteHeat (d : Dev) : Dev :=
  let r := d.reef
  let since (cool : Bool) (t : Option Nat) : Option Nat := if cool then some (t.getD d.now) else none
  { d with reef := { r with junctionSeen := r.junctionSeen || d.junctionHot, hbmSeen := r.hbmSeen || d.anyHot,
                            junctionCool := since d.junctionsCool r.junctionCool, hbmCool := since (!d.anyHot) r.hbmCool } }

/-- Readings have changed: requests, emergency, alerts. -/
def State.heat (s : State) : State := ({ s with dev := s.dev.noteHeat.emergencyCheck } : State).refreshAlert

/-- The power of a Reef step (Table 18-2). -/
def reefWatts : Nat → Nat
  | 0 => 4000 | 1 => 3200 | 2 => 2400 | _ => 1500

/-- R502: a reading of the 1 s input power; where it comes to exceed the step's power by 10% a POWER entry is written. -/
def State.powerReading (s : State) (w : Nat) : State :=
  let above := decide (10 * w ≥ 11 * reefWatts s.dev.reef.step)
  let d := s.dev.setReg pgMGT 0x810 (BitVec.ofNat 32 w)
  let d := if above && !s.mgmt.excess then
      d.log { cls := 0x0D, severity := 0, source := pgMGT, detail := toLe 4 w ++ toLe 1 d.reef.step } else d
  { s with dev := d, mgmt := { s.mgmt with excess := above } }

/-- A millisecond in cycles. -/
def msCycles : Nat := 1200000

/-- The next boundary of a 1 ms period after a cycle. -/
def Dev.nextMs (d : Dev) (last : Nat) : Nat := max (last + msCycles) (roundUp d.now msCycles)

/-- The registers of a die's monitors (Table 18-11). -/
def Dev.monitorRegs (d : Dev) (die : Nat) (x : MonSample) : Dev :=
  let g := pgMON die
  let was (f : Int → Bool) : Bool := (List.range 16).any (fun i => f (d.junction die i))
  let hot (t : Int) : Bool := d.autoTemp != 0 && decide (d.autoTemp ≤ t)
  let emergency (t : Int) : Bool := decide (105 * 256 ≤ t)
  let d1 := (List.range 16).foldl (fun d i => d.setReg g (0x800 + 4 * i) (BitVec.ofNat 32 (ofSigned 16 (x.temps.getD i 0)))) d
  let top := (hottest ((List.range 16).map (fun i => (die, i, d1.junction die i)))).getD (die, 0, 0)
  let d1 := (d1.setReg g 0x840 (BitVec.ofNat 32 (ofSigned 16 top.2.2 + top.2.1 * 65536))).setReg g 0x844 (BitVec.ofNat 32 x.process)
  let d1 := (List.range 8).foldl (fun d r => d.setReg g (0x850 + 4 * r) (BitVec.ofNat 32 (x.rails.getD r 0))) d1
  let off := ((List.range 8).filter (fun r => railOff die r (x.rails.getD r 0))).length
  let d1 := if off = 0 then d1 else (d1.bump g 0x870 off).raise g 2
  let now (f : Int → Bool) : Bool := (List.range 16).any (fun i => f (d1.junction die i))
  let d1 := if now hot && !was hot then d1.raise g 0 else d1
  if now emergency && !was emergency then d1.raise g 1 else d1

/-- The command MONITOR_SAMPLE: Crow's nest ends a sampling period of a die, from the end of stage 3 on. -/
def State.monitorSample (s : State) (die : Nat) (x : MonSample) : State :=
  if !(s.running && s.mgmt.started) then s
  else
    let t := s.dev.nextMs (s.mgmt.sampleAt.getD die 0)
    let d := ({ s.dev with now := max s.dev.now t } : Dev).monitorRegs die x
    let d := match x.coolant with
      | some (i, o) => d.setReg pgMGT 0x814 (BitVec.ofNat 32 (i % 256 + o % 256 * 256))
      | none => d
    let s : State := { s with dev := d, mgmt := { s.mgmt with sampleAt := s.mgmt.sampleAt.set die t } }
    let s : State := match x.input with
      | some (mv, ma, w) =>
        let d := (s.dev.setReg pgMGT 0x808 (BitVec.ofNat 32 mv)).setReg pgMGT 0x80C (BitVec.ofNat 32 ma)
        ({ s with dev := d } : State).powerReading w
      | none => s
    s.heat

/-- The command HBM_TEMP_READING: the stack's controller sets band and HOT (R236, R237), and the requests and alerts follow. -/
def State.stackReading (s : State) (i : Nat) (celsius : Int) : State :=
  if !s.running then s else ({ s with dev := s.dev.hbmTempReading i celsius } : State).heat

/-- The command POWER_EXCESS. -/
def State.powerExcess (s : State) (w : Nat) : State := if s.masthead then (s.powerReading w).refreshAlert else s

/-- The command AVS_ADJUST: a rail step of at most 5 mV, no sooner than 1 ms after the die's last, inside the record's window (R496). The size of
the step is not stated (log entry 3). -/
def State.avsAdjust (s : State) (die : Nat) (up : Bool) : State :=
  if !s.masthead then s
  else
    let t := max s.dev.now (s.mgmt.avsAt.getD die 0 + msCycles)
    let step := 1 + (Config.freeWord s.dev.fresh).toNat % 5
    let old := s.dev.regN (pgMON die) 0x848
    let w := Config.avsWindow die
    let new := min w.2 (max w.1 (if up then old + step else old - step))
    let d : Dev := { s.dev with now := t, fresh := s.dev.fresh + 1 }
    { s with dev := d.setReg (pgMON die) 0x848 (BitVec.ofNat 32 new), mgmt := { s.mgmt with avsAt := s.mgmt.avsAt.set die t } }

/-! ### Reef (R47, R499, Table 18-3) -/

/-- 100 ms and 1 s in cycles. -/
def hotPeriod : Nat := 120000000
def coolPeriod : Nat := 1200000000

/-- One step deeper, to at most step 3, with a THERMAL entry. -/
def Dev.deepenJunction (d : Dev) : Dev :=
  if d.reef.junction ≥ 3 then d else ({ d with reef := { d.reef with junction := d.reef.junction + 1 } } : Dev).logJunction
def Dev.deepenHbm (d : Dev) : Dev :=
  if d.reef.hbm ≥ 3 then d else ({ d with reef := { d.reef with hbm := d.reef.hbm + 1 } } : Dev).logStack

/-- Steps back for each full second of cool readings. -/
def stepBack (now req : Nat) (since : Option Nat) : Nat × Option Nat :=
  match since with
  | none => (req, none)
  | some t => let n := (now - t) / coolPeriod
    (req - n, some (t + n * coolPeriod))

/-- The junction and HBM requests at the present cycle: a step deeper for each 100 ms period that has ended and saw heat, steps back for cool
seconds. -/
def Dev.updateRequests (d : Dev) : Dev :=
  let w := d.now / hotPeriod
  let n := w - d.reef.period
  let times (seen hot : Bool) : Nat := if n = 0 then 0 else b2n seen + (if hot then min 3 (n - 1) else 0)
  let j := times d.reef.junctionSeen d.junctionHot
  let h := times d.reef.hbmSeen d.anyHot
  let d := (List.range j).foldl (fun d _ => d.deepenJunction) d
  let d := (List.range h).foldl (fun d _ => d.deepenHbm) d
  let r := d.reef
  let jb := stepBack d.now r.junction r.junctionCool
  let hb := stepBack d.now r.hbm r.hbmCool
  { d with reef := { r with period := w, junctionSeen := if n = 0 then r.junctionSeen else false, hbmSeen := if n = 0 then r.hbmSeen else false,
                            junction := jb.1, junctionCool := jb.2, hbm := hb.1, hbmCool := hb.2 } }

/-- The request of a temperature emergency. -/
def Dev.emergencyRequest (d : Dev) : Nat :=
  if d.reef.emergency then min 3 (d.reef.emergencyStep + (d.now - d.reef.emergencyAt) / (10 * msCycles)) else 0

/-- The requests with their reasons, in the order that names a tie. -/
def Dev.reefRequests (d : Dev) : List (Nat × Nat) :=
  [(d.emergencyRequest, 4), (d.reef.junction, 2), (d.reef.hbm, 3), (d.active pgMGT 0x040 % 4, 1)]

/-- A step's capacity meets every partition's peak reservations. -/
def Dev.stepMeets (d : Dev) (step : Nat) : Bool :=
  d.owners.all (fun p => (List.range 4).all (fun r => decide (d.peak p r ≤ d.capacityAt p step r)))

/-- The deepest step not beyond a target that meets the reservations, or step 0. -/
def Dev.deepestStep (d : Dev) (target : Nat) : Nat :=
  ((List.range (target + 1)).reverse.find? d.stepMeets).getD 0

/-- Masthead selects a step. -/
def Dev.selectStep (d : Dev) : Dev :=
  let reqs := d.reefRequests
  let target := (reqs.map (·.1)).foldl max 0
  let reason := if target = 0 then 0 else ((reqs.find? (fun x => x.1 == target)).getD (0, 0)).2
  let sel := if d.reef.emergency then target else d.deepestStep target
  let decided := if sel = d.reef.step then none else match d.reef.decided with
    | some (x, t) => if x = sel then some (x, t) else some (sel, d.now)
    | none => some (sel, d.now)
  { d with reef := { d.reef with target := target, reason := reason, held := decide (sel < target), decided := decided } }

/-- The command REEF_DECISION. While Masthead is down the step stays (R25). -/
def State.reefDecision (s : State) : State :=
  if !s.masthead then s else ({ s with dev := s.dev.updateRequests.selectStep } : State).refreshAlert

/-! ### Firmware (R507-R511, R516) -/

/-- R513: MR m is extended with a digest. -/
def Security.extend (x : Security) (m : Nat) (digest : Bytes) : Security :=
  { x with mrs := x.mrs.set m (sha384 (x.mrs.getD m [] ++ digest)) }

/-- R507, R512: an image of a component is accepted: its header's fields, digest, signatures and SVN. -/
def imageOk (component counter : Nat) (raw : Bytes) : Bool :=
  let n := fieldAt raw 16 4
  fieldAt raw 0 4 == 0x56524642 && fieldAt raw 4 1 == component && zeroAt raw 5 3 && raw.length == 512 + n && n % 4096 == 0 &&
  decide (raw.length ≤ 48 * 2 ^ 20) && (raw.drop 20).take 48 == sha384 (raw.drop 512) && Config.imageSigned (raw.take 512) &&
  decide (counter ≤ fieldAt raw 12 4)

/-- What the header says of the image. -/
def parseImage (raw : Bytes) : FwImage := { version := fieldAt raw 8 4, svn := fieldAt raw 12 4, digest := (raw.drop 20).take 48 }

/-- R507: where the firmware area keeps an image of a component in a slot. -/
def slotAddr (component slot : Nat) : Nat :=
  let slotBytes := 48 * 2 ^ 20
  0x00BFC0000000 + (match component with
    | 0 => 4 * slotBytes
    | c => (2 * (c - 1) + slot % 2) * slotBytes)

/-- Bytes written to a reserved area of HBM. -/
def Dev.putReserved (d : Dev) (a : Nat) (b : Bytes) : Dev :=
  ((List.range b.length).zip b).foldl (fun d x => match reservedCell (a + x.1) with
    | some k => { d with hbm := d.hbm.write k x.2 }
    | none => d) d

/-- A FIRMWARE entry (Table 18-6). -/
def firmwareEntry (component outcome version severity : Nat) : LogEntry :=
  { cls := 0x0E, severity := severity, source := pgMGT, detail := toLe 1 component ++ toLe 1 outcome ++ [0, 0] ++ toLe 4 version }

/-- Set FW_STATUS. -/
def Mgmt.status (m : Mgmt) (component status : Nat) : Mgmt := { m with fwComponent := component, fwStatus := status, fwBusy := false }

/-- The staging address and length (R508). -/
def Dev.stageAddr (d : Dev) : Nat := d.regN pgMGT 0xC00 + d.regN pgMGT 0xC04 % 65536 * 2 ^ 32
def Dev.stageLen (d : Dev) : Nat := d.regN pgMGT 0xC08

/-- An image is refused: FW_STATUS is REFUSED, a FIRMWARE entry is written, and the refusal is counted (R60, R508). -/
def State.refuseImage (s : State) (component version : Nat) : State :=
  let d := ((s.dev.bump pgSEC 0x998 1).raise pgSEC 0).log (firmwareEntry component 2 version 0)
  { s with mgmt := { s.mgmt.status component 3 with staging := none }, dev := d.raise pgMGT 3 }

/-- R508: an image of this length cannot be staged. -/
def stageLengthBad (n : Nat) : Bool := decide (n > 48 * 2 ^ 20) || decide (n < 512)

/-- A write of STAGE: Masthead begins to copy the image that FW_STAGE names. The address is checked at once (R60): invalid, unaligned or reaching
beyond the space it is refused; so is a host read that fails, with a HOST_REQUEST entry. -/
def State.stage (s : State) (component : Nat) (env : Env) : State :=
  if !s.masthead || decide (component > 2) || s.mgmt.handover.any (fun h => h.1 == component) then s
  else
    let a := s.dev.stageAddr
    let n := s.dev.stageLen
    if a % 4096 != 0 || !rangeValid a n then s.refuseImage component 0
    else match (if isHost a then (match s.dev.hostRequest env 0 a n false with
        | .ok _ => none
        | .error e => some e) else none) with
      | some e => ({ s with dev := s.dev.logHost 0 a 0 e } : State).refuseImage component 0
      | none =>
        let failed := stageLengthBad n
        { s with mgmt := { s.mgmt.status component 1 with staging := some (component, a, n, failed) } }

/-- A staged image: into the inactive slot of the firmware area, and into flash; of boot stage one, into its inactive copy (R508, R535). -/
def State.acceptStaged (s : State) (component : Nat) (raw : Bytes) : State :=
  let x := parseImage raw
  let slot := 1 - s.mgmt.slots.getD component 0 % 2
  let f := s.flash
  let f : Flash := { f with staged := (component, x) :: f.staged.filter (fun y => y.1 != component) }
  let copy := 1 - s.sec.bootCopy % 2
  let f : Flash := if component = 0 then { f with stageOne := f.stageOne.set copy x, first := copy } else f
  { s with flash := f, dev := s.dev.putReserved (slotAddr component slot) raw }

/-- The command FW_STAGE_COMPLETE: the copy is verified. Its source's cells must be initialised (R545). -/
def State.stageComplete (s : State) : State :=
  match s.mgmt.staging with
  | none => s
  | some (component, a, n, failed) =>
    if !s.masthead || !(failed || s.dev.usable s.outside 0 a n) then s
    else
      let raw := if failed then [] else s.dev.bytesIn 0 0 a n
      let m := { s.mgmt with staging := none }
      if !failed && imageOk component (s.flash.counters.getD component 0) raw then
        let s := ({ s with mgmt := m.status component 2 } : State).acceptStaged component raw
        { s with dev := s.dev.raise pgMGT 3 }
      else s.refuseImage component (fieldAt raw 8 4)

/-- The staged image of a component. -/
def Flash.stagedOf (f : Flash) (component : Nat) : Option FwImage := (f.staged.find? (fun x => x.1 == component)).map (·.2)

/-- A write of ACTIVATE (R509, R511). -/
def State.activate (s : State) (component : Nat) : State :=
  let m := s.mgmt
  if m.handover.isSome || m.activate.isSome || m.down then { s with mgmt := { m with fwBusy := true } }
  else if !s.masthead || !(component == 1 || component == 2) || (s.flash.stagedOf component).isNone then s
  else { s with mgmt := { m with activate := some (component, s.dev.now), fwBusy := false } }

/-- The running image of a component. -/
def State.runningImage (s : State) (c : Nat) : FwImage := s.mgmt.running.getD c {}

/-- A write of COMMIT_SVN: the counter rises to the SVN of the running image, and never falls (R516). -/
def State.commitSvn (s : State) (component : Nat) : State :=
  if !s.masthead || decide (component > 2) then s
  else
    let old := s.flash.counters.getD component 0
    { s with flash := { s.flash with counters := s.flash.counters.set component (max old (s.runningImage component).svn) } }

/-- A write to FW_CTL: what each bit asks for, in the order of the bits. -/
def State.fwCtl (s : State) (v : Nat) : State :=
  let c := bits v 8 2
  let s := if bit v 0 then s.stage c [] else s
  let s := if bit v 1 then s.activate c else s
  if bit v 2 then s.commitSvn c else s

/-- Windows carry HANDOVER while one lasts. -/
def Dev.markHandover (d : Dev) : Dev :=
  { d with parts := d.parts.map (fun x => { x with window := { x.window with handover := true } }) }

/-- Tiles that are not in their commit phase are killed and replayed (R509). -/
def Dev.handoverKills (d : Dev) : Dev :=
  let l := d.cmds.flatMap (fun c => (c.work.copies.filter (fun x => !x.claimed)).map (fun x => (c.uid, x)))
  l.foldl (fun d x => d.replayCopy x.1 x.2 false) d

/-- Step 8 of R118: a requested handover whose 2,000 cycles have passed starts. -/
def State.handoverStart (s : State) : State :=
  match s.mgmt.activate with
  | some (c, t) =>
    if decide (t + 2000 ≤ s.dev.now) && s.masthead then
      { s with mgmt := { s.mgmt.status c 4 with activate := none, handover := some (c, 0) }, dev := s.dev.handoverKills.markHandover }
    else s
  | none => if s.mgmt.handover.isSome then { s with dev := s.dev.markHandover } else s

/-- The command TICK_EDGE. -/
def State.tickEdge (s : State) (env : Env) : State :=
  if !s.running then s
  else ({ s with dev := s.dev.tickEdge env s.outside } : State).handoverStart.refreshAlert

/-- The most cycles of a handover (R509). -/
def handoverLimit : Nat := 240000

/-- The command HANDOVER_SLICE: a slice of a handover runs, or its self-check fails and the old image goes on (R510). -/
def State.handoverSlice (s : State) (cycles : Nat) (selfCheckOk : Bool) : State :=
  match s.mgmt.handover with
  | none => s
  | some (c, used) =>
    if !s.running then s
    else if !selfCheckOk then
      let x := (s.flash.stagedOf c).getD {}
      { s with mgmt := { s.mgmt.status c 6 with handover := none }, dev := (s.dev.log (firmwareEntry c 1 x.version 0)).raise pgMGT 3 }
    else if used + cycles ≤ handoverLimit then
      { s with mgmt := { s.mgmt with handover := some (c, used + cycles) }, dev := { s.dev with now := s.dev.now + cycles } }
    else s

/-- The command HANDOVER_END: the new image runs, MR5 is extended and FW_STATUS is ACTIVE; a new Masthead image restarts Masthead (R509, R511). -/
def State.handoverEnd (s : State) : State :=
  match s.mgmt.handover with
  | none => s
  | some (c, _) =>
    if !s.running then s
    else
      let x := (s.flash.stagedOf c).getD {}
      let m := s.mgmt.status c 5
      let m : Mgmt := { m with handover := none, running := m.running.set c x, slots := m.slots.set c (1 - m.slots.getD c 0 % 2), down := c == 1 }
      let f := s.flash
      let f : Flash := { f with staged := f.staged.filter (fun y => y.1 != c), masthead := if c = 1 then x else f.masthead,
                                control := if c = 2 then x else f.control }
      let d := ((s.dev.bump pgMGT 0x84C 1).log (firmwareEntry c 0 x.version 0)).raise pgMGT 3
      ({ s with mgmt := m, flash := f, sec := s.sec.extend 5 x.digest, dev := d } : State).refreshAlert

/-! ### Masthead's restarts (R493) -/

/-- The command WATCHDOG_EXPIRY: the security block restarts Masthead, which is down until it is back. -/
def State.watchdogExpiry (s : State) : State :=
  if s.masthead then ({ s with mgmt := { s.mgmt with down := true } } : State).refreshAlert else s

/-- The command MASTHEAD_RESTART: Masthead is back. -/
def State.mastheadRestart (s : State) : State :=
  if !(s.running && s.mgmt.down) then s
  else
    let d := (s.dev.bump pgMGT 0x848 1).log { cls := 0x10, severity := 0, source := pgMGT, detail := toLe 1 0 }
    ({ s with mgmt := { s.mgmt with down := false }, dev := d } : State).refreshAlert

/-! ### Who reaches the pages (R122, R478, R487, R489, R491, R492) -/

/-- A request of function f is served: the link answers, the function exists, is in D0 and not in reset, and a required IDE stream is Secure. -/
def State.hostOk (s : State) (f : Nat) : Bool :=
  let c := s.dev.fn f
  let ide := if f < 32 then bit (s.dev.active pgPCI 0x044) f else bit (s.dev.active pgPCI 0x048) (f - 32)
  s.running && s.flag 0 && s.dev.pci.hasFn f && !c.d3hot && !c.flrBusy &&
    (!ide || s.dev.pci.ide.any (fun x => x.secure && x.covers.contains f))

/-- A source's access reaches the register pages. -/
def State.srcOk (s : State) (src : Src) : Bool :=
  match src with
  | .fn f => s.hostOk f
  | .masthead => s.masthead && s.mgmt.handover.isNone

/-- The register FW_CTL. -/
def fwCtlSpec : RegSpec := ⟨0xC0C, 4, 1, .l, 0, 0x307, 0x307⟩

/-- A register write of 32 bits by a source. A write to FW_CTL asks Masthead for an action; every other acts on the device proper. -/
def State.write (s : State) (src : Src) (page off : Nat) (v : Word) : State :=
  if page = pgMGT && off = 0xC0C && !isVf src then
    s.fwCtl (heldWrite 0 v (s.dev.heldBits src page off fwCtlSpec)).toNat
  else { s with dev := s.dev.write32 src page off v }

/-- A register write that a source makes while its accesses are served. -/
def State.writeReg (s : State) (src : Src) (page off : Nat) (v : Word) : State :=
  if s.srcOk src then s.write src page off v else s

/-- A doorbell or command bit of a page, acted on by the device proper. -/
def State.fromSrc (s : State) (src : Src) (f : Dev → Dev) : State := if s.srcOk src then { s with dev := f s.dev } else s

/-- The command REGISTER_WRITE (R103): a 64-bit write acts as two, the lower first; other widths and unaligned writes are ignored. -/
def State.registerWrite (s : State) (src : Src) (offset width v : Nat) : State :=
  if !s.srcOk src then s
  else if (width = 32 || width = 64) && offset % 4 = 0 then
    let s1 := s.write src (offset / 4096) (offset % 4096) (BitVec.ofNat 32 v)
    if width = 64 then s1.write src ((offset + 4) / 4096) ((offset + 4) % 4096) (BitVec.ofNat 32 (v >>> 32)) else s1
  else { s with dev := s.dev.writeAny src offset width v }

/-! ### Management messages (R491, R492) -/

/-- Words read from the pages, lowest offset first. -/
def State.readWords (s : State) : Nat → Nat → State × Bytes
  | _, 0 => (s, [])
  | offset, n + 1 =>
    let r := s.readWord (offset / 4096) (offset % 4096)
    let t := State.readWords r.1 (offset + 4) n
    (t.1, toLe 4 r.2.toNat ++ t.2)

/-- Words written to the pages by Masthead. -/
def State.writeWords (s : State) : Nat → List Word → State
  | _, [] => s
  | offset, w :: r => (s.write .masthead (offset / 4096) (offset % 4096) w).writeWords (offset + 4) r

/-- Something is sent to the outside. -/
def State.send (s : State) (x : Sent) : State := { s with dev := { s.dev with sent := x :: s.dev.sent } }

/-- A transport of R491 carries messages: MCTP from the end of stage 3; the Ethernet port once calibrated and inside a secure session. -/
def State.transportOk (s : State) (transport : Nat) : Bool :=
  transport == 0 || (transport == 1 && decide ((s.boot.stages.getD 11 {}).result = 2) && s.sec.sessions.contains 1)

/-- The command MANAGEMENT_MESSAGE. -/
def State.message (s : State) (transport : Nat) (m : MgmtMessage) : State :=
  if !s.masthead || !s.transportOk transport then s
  else if s.mgmt.handover.isSome then s.send (.busy transport)
  else match m with
    | .read offset n => let r := s.readWords (offset / 4 * 4) n
      r.1.send (.answer transport r.2)
    | .write offset ws => (s.writeWords (offset / 4 * 4) ws).send (.answer transport [])

/-! ### Attestation (R514, R515, R488) -/

/-- The measurement blocks of R515. -/
def State.measurements (s : State) : List Bytes :=
  s.sec.mrs ++ [s.mgmt.running.flatMap (fun x => toLe 4 x.version ++ toLe 4 x.svn)]

/-- The responder answers a request that came on a transport. -/
def State.spdm (s : State) (transport : Nat) (req : Bytes) : State × Bytes :=
  if !s.sec.identityReady then (s, Config.spdmError req)
  else
    let x := s.sec
    let l := if Config.spdmOpens req && decide (x.sessions.length < 15) then transport :: x.sessions
             else if Config.spdmCloses req then x.sessions.erase transport else x.sessions
    ({ s with sec := { x with sessions := l }, dev := { s.dev with fresh := s.dev.fresh + 1 } },
     Config.spdmAnswer req s.dev.fresh s.measurements)

/-- The command SPDM_REQUEST on a management transport. -/
def State.spdmRequest (s : State) (transport : Nat) (req : Bytes) : State :=
  if !s.masthead || decide (transport > 1) then s
  else if s.mgmt.handover.isSome then s.send (.busy transport)
  else let r := s.spdm transport req
    r.1.send (.answer transport r.2)

/-- The command I3C_ADDRESS_ASSIGN: Masthead changes to I3C with the dynamic address (R529). -/
def State.i3cAssign (s : State) (address : Nat) : State :=
  if s.masthead && decide (address < 128) then { s with mgmt := { s.mgmt with address := address, i3c := true } } else s

/-- The response of the data-object mailbox. -/
def State.doeAnswer (s : State) (b : Bytes) : State :=
  { s with dev := { s.dev with pci := { s.dev.pci with doeResponse := b }, sent := .answer 2 b :: s.dev.sent } }

/-- An object of a secured session may carry IDE_KM, which makes a stream Secure (R486). -/
def State.ideKm (s : State) (payload : Bytes) : State :=
  if !s.sec.sessions.contains 2 then s
  else match Config.ideKm payload with
    | some (id, covers) => { s with dev := s.dev.ideSet ⟨id, true, covers⟩ }
    | none => s

/-- The command DOE_OBJECT: an object of the physical function's mailbox: type 0 DOE Discovery, 1 CMA/SPDM and 2 Secured CMA/SPDM of vendor 1;
one of more than 65,536 bytes sets DOE Error (R488). -/
def State.doeObject (s : State) (vendor kind length : Nat) (payload : Bytes) : State :=
  if !s.hostOk 0 then s
  else if length > 65536 then { s with dev := { s.dev with pci := { s.dev.pci with doeError := true } } }
  else if vendor ≠ 1 then s
  else match kind with
    | 0 => s.doeAnswer (Config.doeDiscovery payload)
    | 1 => if s.masthead then let r := s.spdm 2 payload
        r.1.doeAnswer r.2 else s
    | 2 => if s.masthead then let r := (s.ideKm payload).spdm 2 payload
        r.1.doeAnswer r.2 else s
    | _ => s

/-- The command DOE_ABORT: the object in progress and any unread response are discarded, and DOE Error clears. -/
def State.doeAbort (s : State) : State :=
  if s.hostOk 0 then { s with dev := { s.dev with pci := { s.dev.pci with doeResponse := [], doeError := false } } } else s

end Sys2Proof.Machine
end

