-- ==== Sys2Proof/Machine/Bringup.lean ====
section
/-! DEFINITION. Bring-up and power: stages, ready flags, HBM initialisation, power input, module signals, shutdowns and fundamental resets (R512-R517, R520-R535, R540-R552). -/

namespace Sys2Proof.Machine

/-! ### Stages (Table 20-1) -/

/-- The stages that a stage comes after. -/
def stageAfter : Nat → List Nat
  | 1 => [0] | 2 => [1] | 3 => [2] | 5 => [3] | 6 => [3] | 7 => [3] | 8 => [6, 7] | 9 => [3] | 10 => [6, 9] | 11 => [3] | 12 => [3] | 13 => [8]
  | _ => []

def Boot.stage (b : Boot) (i : Nat) : BootStage := b.stages.getD i {}

/-- A stage has ended DONE. -/
def Boot.done (b : Boot) (i : Nat) : Bool := (b.stage i).result == 2

/-- A stage has ended, DONE or FAILED. -/
def Boot.ended (b : Boot) (i : Nat) : Bool := (b.stage i).result == 2 || (b.stage i).result == 3

/-- The stages before a stage have ended and it has not started. -/
def Boot.due (b : Boot) (i : Nat) : Bool :=
  !b.stopped && ((b.stage i).result == 0 || (b.stage i).result == 4) && !(stageAfter i).isEmpty && (stageAfter i).all b.ended

/-- A stage starts at a microsecond; stage 11 waits for REFCLK_ETH. -/
def Boot.start (b : Boot) (us i : Nat) : Boot :=
  if !b.due i then b
  else if i = 11 && !b.refclkEth then { b with stages := b.stages.set i { result := 4 } }
  else { b with stages := b.stages.set i { result := 1, start := us } }

/-- Every stage that is due starts. -/
def Boot.startAll (b : Boot) (us : Nat) : Boot := (List.range 14).foldl (fun b i => b.start us i) b

/-- The flags of Table 20-2 whose conditions hold. -/
def Boot.conditions (b : Boot) : Nat :=
  let ctrl := b.done 5 && b.done 3
  let basic := ctrl && b.done 8
  b2n ctrl + 2 * b2n (basic && b.done 6 && b.done 9 && b.done 10) + 4 * b2n (ctrl && b.done 11) + 8 * b2n (ctrl && b.done 12) +
  16 * b2n basic + 32 * b2n (basic && b.done 13)

/-- Die-to-die links that start to train show TRAINING (Table 18-13). -/
def Dev.linksTrain (d : Dev) : Dev := (List.range 6).foldl (fun d i => d.setReg (pgD2D i) 0x800 2) d

/-- Stages that are due start, and flags whose conditions hold are set; a flag never clears. When CTRL is set with the link not in L0, one
HOST_REQUEST entry says so (R547, R550). -/
def State.progress (s : State) : State :=
  let b := s.boot.startAll s.dev.micros
  let d := if (s.boot.stage 6).result = 0 && (b.stage 6).result = 1 then s.dev.linksTrain else s.dev
  let flags := b.flags ||| b.conditions
  let d := if flags != b.flags then d.raise pgMGT 0 else d
  let d := if bit flags 0 && !bit b.flags 0 && !b.done 4 then d.log (hostEntry 0 3 0 0 0xFF 0 0) else d
  { s with boot := { b with flags := flags }, dev := d }

/-- A running stage ends with a result. -/
def State.closeStage (s : State) (i result : Nat) : State :=
  let x := s.boot.stage i
  let x : BootStage := { x with result := result, duration := s.dev.micros - x.start }
  { s with boot := { s.boot with stages := s.boot.stages.set i x } }

/-! ### What stages do -/

/-- The copy of boot stage one that stage 0 loads: the one tried first, or the other. -/
def Flash.copyFor (f : Flash) (detail : Nat) : Nat := (f.first + detail) % 2

/-- The images that stages 0 and 1 accept have an SVN not below their counters (R512, R516). -/
def State.svnOk (s : State) (i detail : Nat) : Bool :=
  let f := s.flash
  let c (k : Nat) : Nat := f.counters.getD k 0
  if i = 0 then decide (c 0 ≤ (f.stageOne.getD (f.copyFor detail) {}).svn)
  else if i = 1 then decide (c 1 ≤ f.masthead.svn) && decide (c 2 ≤ f.control.svn)
  else true

/-- A value set in both copies of a register. -/
def Dev.setCopies (d : Dev) (page off v : Nat) : Dev :=
  (d.setReg page off (BitVec.ofNat 32 v)).setReg page (off + 0x400) (BitVec.ofNat 32 v)

/-- R517: the MAC addresses of the ports, AUTO of THERM_CFG, and the lock of the SEC page. -/
def Dev.loadRecord (d : Dev) : Dev :=
  let d := (List.range 16).foldl (fun d e =>
    let mac := (Config.macBase + e) % 2 ^ 48
    (d.setCopies (pgETH e) 0x044 (mac % 2 ^ 32)).setCopies (pgETH e) 0x048 (mac / 2 ^ 32)) d
  (d.setCopies pgMGT 0x048 (min 95 Config.thermAutoMax)).writeLock .masthead pgSEC true

/-- What a stage that ends DONE leaves. -/
def State.stageDone (s : State) (i detail : Nat) : State :=
  match i with
  | 0 =>
    let copy := s.flash.copyFor detail
    let x := s.flash.stageOne.getD copy {}
    { s with sec := ({ s.sec with bootCopy := copy }.extend 0 Config.romDigest).extend 1 x.digest,
             mgmt := { s.mgmt with running := s.mgmt.running.set 0 x, slots := s.mgmt.slots.set 0 copy } }
  | 1 =>
    let f := s.flash
    { s with sec := (((s.sec.extend 2 f.masthead.digest).extend 3 f.control.digest).extend 4 Config.recordDigest).extend 6
               (Config.counterDigest (f.counters.take 3)),
             mgmt := { s.mgmt with running := (s.mgmt.running.set 1 f.masthead).set 2 f.control } }
  | 2 => { s with sec := { s.sec with pufOk := true, identityReady := true } }
  | 3 =>
    let rail (d : Dev) (die : Nat) : Dev :=
      let w := Config.avsWindow die
      d.setReg (pgMON die) 0x848 (BitVec.ofNat 32 (min w.2 (max w.1 (Config.avsStart die))))
    { s with mgmt := { s.mgmt with started := true, address := 0x60 + Config.slotId % 16 }, dev := (List.range 4).foldl rail s.dev }
  | 5 => { s with dev := s.dev.loadRecord, sec := { s.sec with locked := true } }
  | 6 => { s with dev := (List.range 6).foldl (fun d i => d.setReg (pgD2D i) 0x800 1) s.dev }
  | 8 => { s with dev := { s.dev with elogRing := true } }
  | 9 => { s with dev := { s.dev with spd := {}, tags := [], lines := [] } }
  | _ => s

/-- The entry of a stage that ends FAILED (R550): of stages 0 and 1, `detail` 0 is a FIRMWARE entry and k + 1 a SECURITY entry with cause k; of
the others it names the unit. -/
def failEntry (i detail : Nat) : LogEntry :=
  let security (cause : Nat) : LogEntry := { cls := 0x0F, severity := 5, source := pgSEC, detail := toLe 1 cause }
  match i with
  | 0 | 1 => if detail = 0 then firmwareEntry i 3 0 5 else security (detail - 1)
  | 2 => security 3
  | 3 => firmwareEntry 1 3 0 5
  | 5 => firmwareEntry 2 3 0 5
  | 6 => { cls := 6, severity := 5, source := pgD2D (detail % 6), detail := toLe 1 (detail % 6) ++ toLe 1 3 }
  | 7 | 8 => { cls := 5, severity := 5, source := pgHBM (detail % 12), space := 1, detail := List.replicate 8 0 ++ toLe 1 (detail % 12) }
  | 9 => { cls := 1, severity := 5, source := pgSPD (detail % 64), space := 2 }
  | _ => { cls := 0x11, severity := 5, source := pgMED (detail / 2 % 4), detail := toLe 1 (detail / 2 % 4) ++ toLe 1 (detail % 2) }

/-- A stage that ends FAILED: its entry, the UNIT_OUT condition; of stages 0 and 1, the device stops with the link down (R512, R541). A failure of
stage 2 leaves the identity not ready (R514). -/
def State.stageFailed (s : State) (i detail : Nat) : State :=
  let d := s.dev.log (failEntry i detail)
  let d := if (failEntry i detail).cls = 0x0F then d.raise pgSEC 0 else d
  let d := if i ≤ 1 then (d.bump pgSEC 0x998 1).setReg pgPCI 0x800 0 else d
  { s with dev := d, boot := { s.boot with unitOut := true, stopped := s.boot.stopped || decide (i ≤ 1) } }

/-- Stage 10: an array (0-127), a vector engine (128-191) or a reducer (192-195) fails its self-check and is taken out of service. -/
def Dev.selfCheckFails (d : Dev) (unit : Nat) : Dev :=
  if unit < 128 then d.retire unit
  else if unit < 192 then
    let n := unit - 128
    let d : Dev := { d with engines := d.engines.set n { d.engines.getD n {} with outOfService := true } }
    d.log { cls := 3, severity := 4, source := pgVEC n, part := (d.ownerOf n).getD 0xFF, detail := toLe 4 (d.regN (pgVEC n) 0x820) }
  else
    let r := (unit - 192) % 4
    let d : Dev := { d with reducers := d.reducers.set r { d.reducers.getD r {} with outOfService := true } }
    d.log { cls := 9, severity := 4, source := pgRED r, detail := toLe 1 r ++ toLe 1 3 }

/-- Stage 11: a lane fails calibration. -/
def State.laneFails (s : State) (lane : Nat) : State :=
  { s with boot := { s.boot with badLanes := lane :: s.boot.badLanes, unitOut := true },
           dev := s.dev.log { cls := 8, severity := 4, source := pgFAB, detail := List.replicate 4 0 ++ toLe 1 5 ++ toLe 1 lane } }

/-- The command BRINGUP_STAGE_END: a running stage other than 4 ends. A unit or lane that fails in stages 10 and 11 does not fail the stage;
stage 13 ends when the watermark has passed every block, and its errors do not fail it. -/
def State.stageEnd (s : State) (i : Nat) (ok : Bool) (detail : Nat) : State :=
  if !s.running || (s.boot.stage i).result != 1 || i == 4 || (i == 13 && s.boot.water != 8323072) then s
  else
    let soft := i == 10 || i == 11 || i == 13
    let good := ok && s.svnOk i detail
    let s := s.closeStage i (if good || soft then 2 else 3)
    let s := if good then s.stageDone i detail
      else if i == 10 then { s with dev := s.dev.selfCheckFails detail }
      else if i == 11 then s.laneFails (detail % 32)
      else if i == 13 then s
      else s.stageFailed i detail
    s.progress.refreshAlert

/-- The command HOST_LINK_UP: the link reaches L0, which ends stage 4; it stays down while the device has stopped in boot (R541). -/
def State.hostLinkUp (s : State) (speed width : Nat) (flit : Bool) : State :=
  if !s.running || s.boot.stopped || !linkOk speed width then s
  else
    let s : State := { s with dev := s.dev.linkL0 speed width flit }
    if (s.boot.stage 4).result = 1 then (s.closeStage 4 2).progress else s

/-- The last value of the watermark. -/
def waterFull : Nat := 8323072

/-- The command HBM_INIT_CHUNK: a chunk of 1,024 blocks of every channel is initialised, with the errors its checks found (R543, R544). -/
def State.initChunk (s : State) (errors : List (Nat × Nat × Nat × EccError)) : State :=
  if !s.running || (s.boot.stage 13).result != 1 || decide (waterFull ≤ s.boot.water) then s
  else
    let note (d : Dev) (x : Nat × Nat × Nat × EccError) : Dev :=
      let e := x.2.2.2
      let k := if e.uncorrectable then 3 else 1
      let last := hbmLast k false false x.2.1 x.2.2.1 e.word e.codeword
      (d.hbmNote x.1 k last x.2.2.1 true).log (d.hbmEntry x.1 k last x.2.1 x.2.2.1)
    { s with boot := { s.boot with water := s.boot.water + 1024 }, dev := (errors.filter (fun x => decide (x.1 < 12))).foldl note s.dev }

/-- The command REFCLK_ETH_CHANGE: stage 11 may start; without it every port stays down (R531, R540). -/
def State.refclkEth (s : State) (present : Bool) : State :=
  let s : State := { s with boot := { s.boot with refclkEth := present } }
  if !s.running then s
  else if present then s.progress
  else { s with dev := (List.range 16).foldl Dev.linkDown s.dev }

/-- The lanes of port e, from lane 2e on (R411). -/
def Dev.portLanes (d : Dev) (e : Nat) : List Nat := (List.range (d.groupLanes (e / 4))).map (2 * e + ·)

/-- The command ETH_LINK_UP: a port can come up once the lanes are calibrated, its own among them, and REFCLK_ETH is present. -/
def State.ethUp (s : State) (e : Nat) : State :=
  if s.running && s.flag 2 && s.boot.refclkEth && !(s.dev.portLanes e).any s.boot.badLanes.contains then { s with dev := s.dev.linkUp e } else s

/-! ### Reset and power (R521, R528, R532-R535, R551) -/

/-- The device proper after a loss of its volatile state: the flash copies of log entries stay, and so do the host's memory and what has been sent;
the counter of free values goes on. -/
def Dev.lost (d : Dev) : Dev :=
  { Dev.reset with flashLog := d.flashLog, host := d.host, sent := d.sent, fresh := d.fresh }

/-- MOD_ALERT_N is released. -/
def State.releaseAlert (s : State) : State := if s.mgmt.alert then s.send (.pin .alertN true) else s

/-- Every volatile state is lost. -/
def State.lose (s : State) : State :=
  let s := s.releaseAlert
  { s with dev := s.dev.lost, sec := {}, boot := { refclkEth := s.boot.refclkEth }, mgmt := {} }

/-- The release of a reset: bring-up starts at stages 0 and 4 (R540). -/
def State.bootStart (s : State) : State :=
  let s := s.lose
  { s with boot := { Boot.reset with refclkEth := s.boot.refclkEth }, power := { s.power with held := false } }

/-- The loads are removed with a restart condition of Table 19-9; of several causes the strictest decides (R533). -/
def State.shutDown (s : State) (restart : Nat) : State :=
  let s := s.lose
  let p := s.power
  ({ s with power := { p with good := false, held := true, restart := max p.restart restart } } : State).send (.pin .pwrGood false)

/-- A cause of shutdown: acts while the power is good, and otherwise only tightens the restart condition. -/
def State.cause (s : State) (restart : Nat) : State :=
  if s.power.good then s.shutDown restart else { s with power := { s.power with restart := max s.power.restart restart } }

/-- The load rails are sequenced and MOD_PWR_GOOD is released; a MOD_PERST_N that is already high releases the reset in its time (R532). -/
def State.powerUp (s : State) : State :=
  let s := ({ s with power := { s.power with good := true, held := true, restart := 0, delayed := false } } : State).send (.pin .pwrGood true)
  if s.power.perstLow then s else s.bootStart

/-- The module powers up where MOD_PWR_EN is high, the input is ready and no restart condition is left. -/
def State.tryPowerUp (s : State) : State :=
  let p := s.power
  if !p.good && p.enable && p.ready && p.restart == 0 && !p.delayed then s.powerUp else s

/-- The operating range of the input (Table 19-2). -/
def inputOk (mv : Nat) : Bool := decide (50000 ≤ mv) && decide (mv ≤ 59500)

/-- The command INPUT_APPLIED: the input capacitance begins to charge. -/
def State.inputApplied (s : State) (mv : Nat) : State :=
  if s.power.good || s.power.ready then s else { s with power := { s.power with input := mv } }

/-- The command INPUT_IN_RANGE: the input lies within its range with the capacitance charged, or above 48.5 V after an under-voltage shutdown
(R521, Table 19-9). -/
def State.inputInRange (s : State) (mv : Nat) : State :=
  if !(inputOk mv || (s.power.restart == 1 && decide (48500 < mv ∧ mv ≤ 59500))) then s
  else
    let p := s.power
    ({ s with power := { p with input := mv, ready := true, restart := if p.restart ≤ 2 then 0 else p.restart } } : State).tryPowerUp

/-- The command MOD_PWR_EN_ASSERT after `lowMs` ms low. A pulse shorter than 10 ms is ignored; a return within a shutdown's 10 ms restarts the module
1 s later; after an over-current, rail or thermal shutdown it must have been low for 1 s (R533). -/
def State.pwrEnAssert (s : State) (lowMs : Nat) : State :=
  let p := s.power
  if p.enable then s
  else
    let s : State := { s with power := { p with enable := true } }
    if p.restart = 3 && decide (lowMs < 20) then { s with power := { s.power with delayed := true } }
    else if p.restart = 3 || (p.restart = 4 && decide (1000 ≤ lowMs)) then
      ({ s with power := { s.power with restart := 0 } } : State).tryPowerUp
    else s.tryPowerUp

/-- The command MOD_PWR_EN_DEASSERT: MOD_PWR_EN has been low for 10 ms. It also ends an asserted MOD_THERMTRIP_N. -/
def State.pwrEnDeassert (s : State) : State :=
  let s := s.cause 3
  let tripped := s.power.trip
  let s : State := { s with power := { s.power with enable := false, trip := false, delayed := false } }
  if tripped then s.send (.pin .thermtripN true) else s

/-- The command DELAYED_RESTART: 1 s after a shutdown during which MOD_PWR_EN returned high. -/
def State.delayedRestart (s : State) : State :=
  if s.power.delayed && s.power.enable && decide (s.power.restart ≤ 3) then
    ({ s with power := { s.power with restart := 0, delayed := false } } : State).tryPowerUp
  else s

/-- The command UNDER_VOLTAGE: loads are removed below 47.0 V; at or above it the module goes on. -/
def State.underVoltage (s : State) (mv : Nat) : State :=
  let s : State := { s with power := { s.power with input := mv } }
  if mv < 47000 then ({ s with power := { s.power with ready := false } } : State).cause 1 else s

/-- The command OVER_VOLTAGE: the input has stayed above 61.0 V for 1 ms. -/
def State.overVoltage (s : State) (mv : Nat) : State :=
  let s : State := { s with power := { s.power with input := mv } }
  if mv > 61000 then ({ s with power := { s.power with ready := false } } : State).cause 2 else s

/-- The command OVER_CURRENT: the input current has stayed above 95 A for 1 ms. -/
def State.overCurrent (s : State) (ma : Nat) : State := if ma > 95000 && s.power.good then s.shutDown 4 else s

/-- The command RAIL_FAULT: a severity 5 entry, which reaches flash when the standby energy allows (a free value, log entry 3), and a shutdown. -/
def State.railFault (s : State) (die rail : Nat) : State :=
  if !s.power.good then s
  else
    let kept := (Config.freeWord s.dev.fresh).getLsbD 0
    let d : Dev := { s.dev with fresh := s.dev.fresh + 1 }
    let logged := d.log { cls := 0x0D, severity := 5, source := pgMON die, detail := toLe 4 (d.regN pgMGT 0x810) ++ toLe 1 d.reef.step ++ toLe 1 rail }
    ({ s with dev := if kept then logged else d } : State).shutDown 4

/-- The command THERMAL_TRIP: a junction reading of 115 °C asserts MOD_THERMTRIP_N and removes power (R501). -/
def State.thermalTrip (s : State) : State :=
  if !s.power.good then s
  else
    let s := s.shutDown 4
    ({ s with power := { s.power with trip := true } } : State).send (.pin .thermtripN false)

/-- The command MOD_PERST_N_ASSERT: a fundamental reset, while power is good (R534, R551). -/
def State.perstAssert (s : State) : State :=
  let s : State := { s with power := { s.power with perstLow := true } }
  if s.power.good && !s.power.held then
    let s := s.lose
    { s with power := { s.power with held := true } }
  else s

/-- The command MOD_PERST_N_RELEASE. -/
def State.perstRelease (s : State) : State :=
  let s : State := { s with power := { s.power with perstLow := false } }
  if s.power.good && s.power.held then s.bootStart else s

end Sys2Proof.Machine
end

