-- ==== Sys2Proof/Machine/Whole.lean ====
section
/-! DEFINITION. Commands that run without tiles as a whole: COPY, APPEND_KV, PAGE_RELEASE, COLLECTIVE, the media commands and INGEST (R245, R358, R361, R428, R456, R462, R469). -/

namespace Sys2Proof.Machine

/-- A write of a host operand that would not be issued or would fail (R92, R478). The test takes whole footprints. -/
def Dev.outputFails (d : Dev) (env : Env) (c : Cmd) : Option (Nat × ReadFail) :=
  (d.opCheck c c.image).outputs.findSome? (fun i =>
    let t := c.tensor i
    if t.space = 1 then none
    else match t.footprint with
      | some (lo, hi) =>
        if !isHost lo then none
        else match d.hostRequest env c.part lo (hi + 1 - lo) true with
          | .error e => some (lo, e)
          | .ok _ => none
      | none => none)

/-- R203: the slots of a command's tagged outputs are all free. -/
def Dev.outputsOpen (d : Dev) (c : Cmd) : Bool :=
  (d.taggedSlots c (d.opCheck c c.image).outputs).all (fun s => d.tag s.1 s.2 == {})

/-- The command has committed with status OK. -/
def Dev.committedOk (d : Dev) (u : Nat) : Bool :=
  match d.cmd? u with
  | some c => !c.live && c.status == stOK
  | none => true

/-- A started command of an opcode without tiles runs: its operands are on hand, its requests do not fail, and `f` does its work. -/
def Dev.runUntiled (d : Dev) (op u : Nat) (env : Env) (f : Dev → Cmd → Dev) : Dev :=
  match d.cmd? u with
  | none => d
  | some c =>
    if c.opcode != op || !c.live || !c.started || c.state == .preempted || !d.inputsFull c || !d.outputsOpen c then d
    else match d.inputFails env c with
      | some (a, e) => d.loseHost u a e
      | none => match d.outputFails env c with
        | some (a, e) => d.loseHost u a e
        | none =>
          let d1 := f d c
          if d1.committedOk u then d1.settleTags c else d1

/-- COPY (R245, R246). -/
def Dev.copyRun (d : Dev) (c : Cmd) : Dev :=
  let r := d.copyWrites c
  let d := (d.countStacks c).applyWrites c.part r.1
  d.complete { c with flags := { c.flags with saturated := c.flags.saturated || r.2.1 } } stOK r.2.2

/-- COLLECTIVE with every chunk it can add. -/
def Dev.coAll (d : Dev) (peers : List Contribution) (c : Cmd) : Dev :=
  d.coRun c peers (match d.job? c.coJob with
    | some j => (c.coRange j).2 + 1
    | none => 0)

end Sys2Proof.Machine
end

