-- ==== Sys2Proof/Machine/Ops.lean ====
section
/-! DEFINITION. The shapes that the meanings of commands share: a command to a unit the device has, one that the device proper carries out, one that a source asks for. -/

namespace Sys2Proof.Machine

/-- What a command answers. -/
abbrev Result := Host.Outcome State Fault Refusal

/-- A command whose operands name units or addresses: where the device has them it answers the next state; else it stops. -/
def withUnit (has : Bool) (t : State) : Result := if has then .next t else .fault .noSuchUnit

/-- A command that the device proper carries out while it runs. -/
def onDevice (s : State) (f : Dev → Dev) : Result := .next (s.onDev f)

/-- The same, for a unit or address that the device must have. -/
def onUnit (has : Bool) (s : State) (f : Dev → Dev) : Result := withUnit has (s.onDev f)

/-- MOD_ALERT_N follows what a command of the device proper changed. -/
def onUnitAlert (has : Bool) (s : State) (f : Dev → Dev) : Result := withUnit has (s.onDev f).refreshAlert

/-- A 32-bit register write that a source makes to a page. -/
def bySource (has : Bool) (s : State) (src : Src) (page off : Nat) (v : Word) : Result := withUnit has (s.writeReg src page off v)

end Sys2Proof.Machine
end

