-- ==== Sys2Proof/Machine/Operands.lean ====
section
/-! DEFINITION. Which operands of commands name something the device has: dies, cores, arrays, partitions, queues, stacks, ports, links, pages and sources (R2, R9, R122, R479). -/

namespace Sys2Proof.Machine

def dieOk (i : Nat) : Bool := decide (i < 4)
def coreOk (n : Nat) : Bool := decide (n < 64)
def arrayOk (a : Nat) : Bool := decide (a < 128)
def partOk (p : Nat) : Bool := decide (p < 64)
def queueOk (q : Nat) : Bool := decide (q < 16)
def stackOk (i : Nat) : Bool := decide (i < 12)
def ethOk (e : Nat) : Bool := decide (e < 16)
def d2dOk (i : Nat) : Bool := decide (i < 6)
def railOk (r : Nat) : Bool := decide (r < 8)
def sensorOk (i : Nat) : Bool := decide (i < 16)
def slotOk (i : Nat) : Bool := decide (i < 98304)
def channelOk (c block : Nat) : Bool := decide (c < 32) && decide (block < 8388608)

/-- A unit that takes tiles. -/
def engineOk : Engine → Bool
  | .arr a => arrayOk a
  | .vec n => coreOk n

/-- A requester: one of the 64 functions, or Masthead. -/
def requesterOk : Src → Bool
  | .fn f => partOk f
  | .masthead => true

/-- A source's doorbell pages: virtual function p has its own, the physical function has all, Masthead has none (Table 17-1). -/
def doorbellOk (src : Src) (p q : Nat) : Bool :=
  partOk p && queueOk q && (match src with
    | .fn f => f == 0 || f == p
    | .masthead => false)

/-- A page of BAR0 (R100). -/
def pageOk (page : Nat) : Bool := decide (page < 1024)

/-- The offset of the COUNT_CLEAR register of a page, where it has one (R117). -/
def clearOffset (page : Nat) : Option Nat :=
  match blockOf page with
  | some (.part, _) => some 0xC24
  | some (b, _) => b.clearAt
  | none => none

end Sys2Proof.Machine
end

