-- ==== Sys2Proof/Machine/Flags.lean ====
section
/-! DEFINITION. What waits on the ready flags: queue fetch, admission, mail and media (Table 20-4, R545, R549). -/

namespace Sys2Proof.Machine

/-- The ready flags by their bits (R547). -/
def ctrlFlag : Nat := 0
def computeFlag : Nat := 1
def fabricFlag : Nat := 2
def mediaFlag : Nat := 3
def basicFlag : Nat := 4
/-- FABRIC and COMPUTE. -/
def State.fabricReady (s : State) : Bool := s.flag computeFlag && s.flag fabricFlag

/-- A command on its way into the journal has what it needs: its flags, and initialised cells under its plan and its HBM operands (R545, R549). -/
def State.admissible (s : State) (c : Cmd) : Bool :=
  (c.jobId.isNone || s.flag fabricFlag) &&
  (!(c.opcode == 0x0C || c.opcode == 0x0D || c.opcode == 0x0E) || s.flag mediaFlag) &&
  (c.planAddr == 0 || s.dev.usable s.outside c.part c.planAddr 64) &&
  (List.range c.tensors.length).all (fun i => let t := c.tensor i
    t.space == 1 || (match t.footprint with
      | some (lo, hi) => s.dev.usable s.outside c.part lo (hi + 1 - lo)
      | none => true))

/-- The next entry of a queue is fetched, checked and admitted, refused or left to wait: from COMPUTE on, once its cells are initialised, and a
command that the flags or the watermark still hold stays in its ring. -/
def State.admitNext (s : State) (p q : Nat) (env : Env) : State :=
  let at' := s.dev.sqBase p q + 128 * (s.dev.queue p q).sqHead
  if !s.flag computeFlag || !s.dev.usable s.outside p at' 128 then s
  else
    let d := s.dev.admitEntry p q env
    if (d.cmds.filter (fun c => c.live && decide (s.dev.nextUid ≤ c.uid))).all s.admissible then { s with dev := d } else s

/-- R545: a unit's fabric work goes on from FABRIC and COMPUTE. -/
def State.onFabric (s : State) (f : Dev → Dev) : State := if s.fabricReady then s.onDev f else s

end Sys2Proof.Machine
end

