-- ==== Sys2Proof/Machine/Compute.lean ====
section
/-! DEFINITION. The compute, memory, fabric and media commands of the opcode list: a started command u runs to its end, or as far as what it waits on allows (chapters 9 to 16). -/

namespace Sys2Proof.Machine

/-- MATMUL (R248). -/
def execMatmul (u : Nat) (env : Env) (s : State) : Result := onDevice s (fun d => d.asStarted u (fun d => d.runTiled 0x01 u env))

/-- CONV (R309). -/
def execConv (u : Nat) (env : Env) (s : State) : Result := onDevice s (fun d => d.asStarted u (fun d => d.runTiled 0x02 u env))

/-- ATTEND (R338). -/
def execAttend (u : Nat) (env : Env) (s : State) : Result := onDevice s (fun d => d.asStarted u (fun d => d.runTiled 0x03 u env))

/-- VPROG (R282). -/
def execVprog (u : Nat) (env : Env) (s : State) : Result := onDevice s (fun d => d.asStarted u (fun d => d.runTiled 0x04 u env))

/-- CONVERT (R160). -/
def execConvert (u : Nat) (env : Env) (s : State) : Result := onDevice s (fun d => d.asStarted u (fun d => d.runTiled 0x05 u env))

/-- COPY (R245). -/
def execCopy (u : Nat) (env : Env) (s : State) : Result := onDevice s (fun d => d.asStarted u (fun d => d.runUntiled 0x06 u env Dev.copyRun))

/-- FILL_RANDOM (R377). -/
def execFillRandom (u : Nat) (env : Env) (s : State) : Result := onDevice s (fun d => d.asStarted u (fun d => d.runTiled 0x07 u env))

/-- SAMPLE (R381). -/
def execSample (u : Nat) (env : Env) (s : State) : Result := onDevice s (fun d => d.asStarted u (fun d => d.runTiled 0x08 u env))

/-- APPEND_KV (R358). -/
def execAppendKv (u : Nat) (env : Env) (s : State) : Result := onDevice s (fun d => d.asStarted u (fun d => d.runUntiled 0x09 u env Dev.akCommit))

/-- PAGE_RELEASE (R361). -/
def execPageRelease (u : Nat) (env : Env) (s : State) : Result := onDevice s (fun d => d.asStarted u (fun d => d.runUntiled 0x0A u env Dev.prCommit))

/-- COLLECTIVE (R428): what has reached the module of its peers' parts is an operand. -/
def execCollective (u : Nat) (peers : List Contribution) (env : Env) (s : State) : Result :=
  onDevice s (fun d => d.asStarted u (fun d => d.runUntiled 0x0B u env (fun d c => d.coAll peers c)))

/-- MEDIA_DECODE (R456). -/
def execMediaDecode (u : Nat) (env : Env) (s : State) : Result := onDevice s (fun d => d.asStarted u (fun d => d.runUntiled 0x0C u env Dev.mediaDecode))

/-- MEDIA_ENCODE (R462). -/
def execMediaEncode (u : Nat) (env : Env) (s : State) : Result := onDevice s (fun d => d.asStarted u (fun d => d.runUntiled 0x0D u env Dev.mediaEncode))

/-- INGEST (R469). -/
def execIngest (u : Nat) (env : Env) (s : State) : Result := onDevice s (fun d => d.asStarted u (fun d => d.runUntiled 0x0E u env Dev.ingestRun))

end Sys2Proof.Machine
end

