-- ==== Sys2Proof/Machine/Control.lean ====
section
/-! DEFINITION. Control commands, queues, admission, starts, pre-emption and overruns (chapters 2, 3 and 14). -/

namespace Sys2Proof.Machine

/-- FENCE (R79). -/
def execFence (u : Nat) (s : State) : Result := onDevice s (fun d => d.fenceRun u)

/-- TICK_WAIT (R79). -/
def execTickWait (u : Nat) (s : State) : Result := onDevice s (fun d => d.tickWaitRun u)

/-- CTX_SAVE (R399-R403). -/
def execCtxSave (u : Nat) (env : Env) (s : State) : Result := onDevice s (fun d => d.ctxSave u env)

/-- CTX_RESTORE (R404-R408). -/
def execCtxRestore (u : Nat) (s : State) : Result := onDevice s (fun d => d.ctxRestore u)

/-- SQ_TAIL_DOORBELL (R62). -/
def execSqTailDoorbell (src : Src) (p q : Nat) (v : Word) (s : State) : Result :=
  withUnit (doorbellOk src p q) (s.fromSrc src (fun d => d.sqTail p q v.toNat))

/-- CQ_HEAD_DOORBELL (R63). -/
def execCqHeadDoorbell (src : Src) (p q : Nat) (v : Word) (s : State) : Result :=
  withUnit (doorbellOk src p q) (s.fromSrc src (fun d => d.cqHead p q v.toNat))

/-- COMMAND_ADMIT (R75). -/
def execCommandAdmit (p q : Nat) (env : Env) (s : State) : Result :=
  withUnit (partOk p && queueOk q) (if s.running then s.admitNext p q env else s)

/-- COMMAND_START (R76). -/
def execCommandStart (u : Nat) (s : State) : Result := onDevice s (fun d => d.startRow u)

/-- TACK (R387). -/
def execTack (p : Nat) (s : State) : Result := onUnit (partOk p) s (fun d => d.tack p)

/-- TACK_SAVE (R396). -/
def execTackSave (n : Nat) (s : State) : Result := onUnit (coreOk n) s (fun d => d.tackSave n)

/-- COMMAND_RESUME (R391). -/
def execCommandResume (p : Nat) (s : State) : Result := onUnit (partOk p) s (fun d => d.resume p)

/-- OVERRUN (R55). -/
def execOverrun (u : Nat) (s : State) : Result := onDevice s (fun d => d.overrun u)

/-- COMPLETION_WRITE (R63, R64). -/
def execCompletionWrite (p q : Nat) (env : Env) (s : State) : Result :=
  onUnit (partOk p && queueOk q) s (fun d => d.completionWrite p q env)

end Sys2Proof.Machine
end

