-- ==== Sys2Proof/Machine/HostCmds.lean ====
section
/-! DEFINITION. The PCI Express link: link events, configuration space, function-level resets, the HBM aperture, MSI-X, translation, the data-object mailbox and IDE (chapter 17). -/

namespace Sys2Proof.Machine

/-- A request that function f's memory accesses are served for. -/
def State.forHost (s : State) (f : Nat) (g : Dev → Dev) : State := if s.hostOk f then { s with dev := g s.dev } else s

/-- A BAR4 access: from HBM_BASIC on (Table 20-4). -/
def State.forAperture (s : State) (f : Nat) (g : Dev → Dev) : State := if s.flag basicFlag then s.forHost f g else s

/-- A configuration request: answered with Request Retry Status until CTRL is set (R541). -/
def State.forConfig (s : State) (f : Nat) (g : Dev → Dev) : State :=
  if !s.running || s.boot.stopped then s
  else if !s.flag ctrlFlag then s.send (.retryStatus f)
  else { s with dev := g s.dev }

/-- HOST_LINK_UP (R541). -/
def execHostLinkUp (speed width : Nat) (flit : Bool) (s : State) : Result := withUnit (linkOk speed width) (s.hostLinkUp speed width flit)

/-- HOT_RESET (R476). -/
def execHotReset (linkDown : Bool) (s : State) : Result := onDevice s (fun d => d.hotReset linkDown)

/-- CONFIG_SPACE_WRITE (R478). -/
def execConfigSpaceWrite (f : Nat) (change : ConfigChange) (s : State) : Result :=
  withUnit (partOk f) (s.forConfig f (fun d => d.configWrite f change))

/-- FUNCTION_LEVEL_RESET (R489). -/
def execFunctionLevelReset (f : Nat) (s : State) : Result := withUnit (partOk f) (s.forConfig f (fun d => d.flr f))

/-- FLR_BUSY_CLEAR (R489). -/
def execFlrBusyClear (f : Nat) (s : State) : Result := onUnit (partOk f) s (fun d => d.flrDone f)

/-- APERTURE_READ (R479). -/
def execApertureRead (f offset length : Nat) (s : State) : Result :=
  withUnit (partOk f) (s.forAperture f (fun d => d.apertureRead s.outside f offset length))

/-- APERTURE_WRITE (R479). -/
def execApertureWrite (f offset : Nat) (data : Bytes) (s : State) : Result :=
  withUnit (partOk f) (s.forAperture f (fun d => d.apertureWrite s.outside f offset data))

/-- ATOMICOP (R224). -/
def execAtomicop (f offset : Nat) (op : PcieAtomic) (s : State) : Result :=
  withUnit (partOk f) (s.forAperture f (fun d => d.atomicOp s.outside f offset op))

/-- MSIX_UNMASK (R483). -/
def execMsixUnmask (f vector : Nat) (s : State) : Result :=
  withUnit (partOk f && decide (vector < (if f = 0 then 2048 else 32))) (s.forHost f (fun d => d.msixUnmask f vector))

/-- ATS_INVALIDATE (R485). -/
def execAtsInvalidate (f addr length : Nat) (s : State) : Result := withUnit (partOk f) (s.forHost f (fun d => d.atsInvalidate f addr length))

/-- DOE_OBJECT (R488). -/
def execDoeObject (vendor kind : Nat) (length : Nat) (payload : Bytes) (s : State) : Result := .next (s.doeObject vendor kind length payload)

/-- DOE_ABORT (R488). -/
def execDoeAbort (s : State) : Result := .next s.doeAbort

/-- IDE_FAILURE (R487). -/
def execIdeFailure (stream : Nat) (s : State) : Result := onDevice s (fun d => d.ideFailure stream)

end Sys2Proof.Machine
end

