-- ==== Sys2Proof/Machine/Managing.lean ====
section
/-! DEFINITION. Firmware, Masthead, Reef, monitors, management messages and attestation (chapter 18). -/

namespace Sys2Proof.Machine

/-- A firmware action that a source asks of Masthead by writing a bit of FW_CTL with a component: the MGT page is not in a virtual function's
view, and bits that the security block has locked are held (R508, R509, R516). -/
def State.asksMasthead (s : State) (src : Src) (i component : Nat) (f : State → Nat → State) : State :=
  let v := BitVec.ofNat 32 (2 ^ i + 256 * component)
  if !s.srcOk src then s
  else if isVf src then { s with dev := s.dev.write32 src pgMGT 0xC0C v }
  else
    let w := (heldWrite 0 v (s.dev.heldBits src pgMGT 0xC0C fwCtlSpec)).toNat
    if bit w i then f s (bits w 8 2) else s

/-- STAGE (R508). -/
def execStage (src : Src) (component : Nat) (env : Env) (s : State) : Result :=
  withUnit (requesterOk src && decide (component < 4)) (s.asksMasthead src 0 component (fun s c => s.stage c env))

/-- FW_STAGE_COMPLETE (R508). -/
def execFwStageComplete (s : State) : Result := .next s.stageComplete

/-- ACTIVATE (R509). -/
def execActivate (src : Src) (component : Nat) (s : State) : Result :=
  withUnit (requesterOk src && decide (component < 4)) (s.asksMasthead src 1 component State.activate)

/-- HANDOVER_SLICE (R509). -/
def execHandoverSlice (cycles : Nat) (selfCheckOk : Bool) (s : State) : Result := .next (s.handoverSlice cycles selfCheckOk)

/-- HANDOVER_END (R509). -/
def execHandoverEnd (s : State) : Result := .next s.handoverEnd

/-- COMMIT_SVN (R516). -/
def execCommitSvn (src : Src) (component : Nat) (s : State) : Result :=
  withUnit (requesterOk src && decide (component < 4)) (s.asksMasthead src 2 component State.commitSvn)

/-- MONITOR_SAMPLE (R495). -/
def execMonitorSample (die : Nat) (sample : MonSample) (s : State) : Result := withUnit (dieOk die) (s.monitorSample die sample)

/-- REEF_DECISION (R499). -/
def execReefDecision (s : State) : Result := .next s.reefDecision

/-- THERMAL_TRIP (R501). -/
def execThermalTrip (die sensor : Nat) (s : State) : Result := withUnit (dieOk die && sensorOk sensor) s.thermalTrip

/-- POWER_EXCESS (R502). -/
def execPowerExcess (watts : Nat) (s : State) : Result := .next (s.powerExcess watts)

/-- AVS_ADJUST (R496). -/
def execAvsAdjust (die : Nat) (up : Bool) (s : State) : Result := withUnit (dieOk die) (s.avsAdjust die up)

/-- WATCHDOG_EXPIRY (R493). -/
def execWatchdogExpiry (s : State) : Result := .next s.watchdogExpiry

/-- MASTHEAD_RESTART (R493). -/
def execMastheadRestart (s : State) : Result := .next s.mastheadRestart

/-- MANAGEMENT_MESSAGE (R492): transport 0 is MCTP over the management bus, 1 the management Ethernet port. -/
def execManagementMessage (transport : Nat) (msg : MgmtMessage) (s : State) : Result :=
  withUnit (decide (transport < 2)) (s.message transport msg)

/-- SPDM_REQUEST (R515). -/
def execSpdmRequest (transport : Nat) (request : Bytes) (s : State) : Result :=
  withUnit (decide (transport < 2)) (s.spdmRequest transport request)

/-- I3C_ADDRESS_ASSIGN (R529). -/
def execI3cAddressAssign (address : Nat) (s : State) : Result := withUnit (decide (address < 128)) (s.i3cAssign address)

end Sys2Proof.Machine
end

