-- ==== Sys2Proof/Machine/Memory.lean ====
section
/-! DEFINITION. Commands of the scratchpads, shared caches, stacks, stack engines, KV pools and die-to-die links (chapters 7 and 8, R354, R518). -/

namespace Sys2Proof.Machine

/-- SCRATCHPAD_ECC_ERROR (R212): a word of 64 bytes of a bank row, its reader replayed. -/
def execScratchpadEccError (n bank row word : Nat) (uncorrectable : Bool) (reader : Option Engine) (s : State) : Result :=
  onUnit (coreOk n && decide (bank < 32) && decide (row < 12288) && reader.all engineOk) s
    (fun d => d.spdEccError n bank row word uncorrectable reader)

/-- SCRUB_READ (R213). -/
def execScrubRead (n : Nat) (error : Option EccError) (s : State) : Result := onUnit (coreOk n) s (fun d => d.scrubRead n error)

/-- TAGGED_ACCESS (R202). -/
def execTaggedAccess (n slot : Nat) (access : TagAccess) (s : State) : Result :=
  onUnit (coreOk n && slotOk slot) s (fun d => d.taggedAccess n slot access)

/-- TAG_WAIT_TIMEOUT (R205). -/
def execTagWaitTimeout (u n slot : Nat) (s : State) : Result := onUnit (coreOk n && slotOk slot) s (fun d => d.tagTimeout u n slot)

/-- BANK_OP_WRITE (R207). -/
def execBankOpWrite (u : Option Nat) (p off : Nat) (op : BankOp) (s : State) : Result := onUnit (partOk p) s (fun d => d.bankOpWrite u p off op)

/-- ATOMIC (R222). -/
def execAtomic (p addr : Nat) (op : AtomicOp) (s : State) : Result := onUnit (partOk p) s (fun d => d.atomic s.outside p addr op)

/-- STK_SCORE (R243). -/
def execStkScore (i : Nat) (cmd : StkScore) (s : State) : Result :=
  onUnit (stackHas i (cmd.pages.flatMap (fun q => blockRun q.2 (ceilDiv cmd.query.length 256)))) s (fun d => d.stkScore i cmd)

/-- STK_COPY (R242). -/
def execStkCopy (i src dst count : Nat) (s : State) : Result :=
  onUnit (stackOk i && decide (src + count ≤ stackBlocks) && decide (dst + count ≤ stackBlocks)) s (fun d => d.stkCopy i src dst count)

/-- STK_FILL (R242). -/
def execStkFill (i dst count : Nat) (pattern : Word) (s : State) : Result :=
  onUnit (stackOk i && decide (dst + count ≤ stackBlocks)) s (fun d => d.stkFill i dst count pattern)

/-- STK_GATHER (R242). -/
def execStkGather (i : Nat) (srcs : List Nat) (dst : Nat) (s : State) : Result :=
  onUnit (stackHas i srcs && decide (dst + srcs.length ≤ stackBlocks)) s (fun d => d.stkGather i srcs dst)

/-- STK_COMPACT (R242). -/
def execStkCompact (i src : Nat) (mask : List Nat) (dst : Nat) (s : State) : Result :=
  onUnit (stackOk i && decide (src + mask.length ≤ stackBlocks) && decide (dst + mask.length ≤ stackBlocks)) s
    (fun d => d.stkCompact i src mask dst)

/-- STK_CRC (R246). -/
def execStkCrc (i src count : Nat) (s : State) : Result :=
  onUnit (stackOk i && decide (src + count ≤ stackBlocks)) s (fun d => d.stkCrc i src count)

/-- HBM_TEMP_READING (R236). -/
def execHbmTempReading (i : Nat) (celsius : Int) (s : State) : Result := withUnit (stackOk i) (s.stackReading i celsius)

/-- PATROL_READ (R238). -/
def execPatrolRead (i channel block : Nat) (error : Option EccError) (s : State) : Result :=
  onUnit (stackOk i && channelOk channel block) s (fun d => d.patrolRead i channel block error)

/-- HBM_UNCORRECTABLE_READ (R240). -/
def execHbmUncorrectableRead (i channel block : Nat) (symbol codeword : Nat) (retryOk : Bool) (u : Option Nat) (s : State) : Result :=
  onUnit (stackOk i && channelOk channel block) s (fun d => d.hbmUncorrectable i channel block symbol codeword retryOk u)

/-- FLUSH_DONE (R219). -/
def execFlushDone (die : Nat) (s : State) : Result := onUnit (dieOk die) s (fun d => d.flushDone die)

/-- KVP_INIT_DONE (R354). -/
def execKvpInitDone (p : Nat) (s : State) : Result := onUnit (partOk p) s (fun d => d.kvpInitDone p)

/-- D2D_RETRAIN (R518). -/
def execD2dRetrain (i crcErrors : Nat) (lostLock : Bool) (s : State) : Result :=
  onUnit (d2dOk i) s (fun d => d.linkErrors i crcErrors lostLock)

end Sys2Proof.Machine
end

