-- ==== Sys2Proof/Machine/Network.lean ====
section
/-! DEFINITION. Mail, fabric packets and timers, the reducer, ports, RTP and RTCP (chapters 15 and 16). -/

namespace Sys2Proof.Machine

/-- MAIL_SEND (R442). -/
def execMailSend (p : Nat) (env : Env) (s : State) : Result := withUnit (partOk p) (s.onFabric (fun d => d.mailSend env p))

/-- MAIL_DELIVER (R441). -/
def execMailDeliver (env : Env) (s : State) : Result := .next (s.onFabric (fun d => d.mailDeliver env))

/-- BFT_DATA_RECEIVE (R418). -/
def execBftDataReceive (pkt : BftData) (s : State) : Result := .next (s.onFabric (fun d => d.dataReceive pkt.raw pkt.ce))

/-- BFT_ACK_RECEIVE (R419). -/
def execBftAckReceive (pkt : BftAck) (s : State) : Result := .next (s.onFabric (fun d => d.ackReceive pkt.raw))

/-- ACK_DELAY_EXPIRY (R418). -/
def execAckDelayExpiry (flow : Nat) (s : State) : Result := .next (s.onFabric (fun d => d.ackDelay flow))

/-- RTO_EXPIRY (R419). -/
def execRtoExpiry (flow psn : Nat) (s : State) : Result := .next (s.onFabric (fun d => d.rtoExpire flow psn))

/-- JOB_WAIT_EXPIRY (R420). -/
def execJobWaitExpiry (flow : Nat) (s : State) : Result := .next (s.onFabric (fun d => d.jobWaitExpire flow))

/-- FLOW_RATE_UPDATE (R421). -/
def execFlowRateUpdate (flow : Nat) (s : State) : Result := .next (s.onFabric (fun d => d.rateUpdate flow))

/-- MAIL_PACKET_RECEIVE (R441). -/
def execMailPacketReceive (pkt : BftMail) (s : State) : Result := .next (s.onFabric (fun d => d.mailReceive pkt.raw pkt.ce))

/-- REDUCER_CHUNK (R426). -/
def execReducerChunk (die : Nat) (error : Bool) (s : State) : Result := onUnitAlert (dieOk die) s (fun d => d.reducerChunk die error)

/-- ETH_LINK_DOWN (R414). -/
def execEthLinkDown (e : Nat) (s : State) : Result := onUnit (ethOk e) s (fun d => d.linkDown e)

/-- ETH_LINK_UP (R414). -/
def execEthLinkUp (e : Nat) (s : State) : Result := withUnit (ethOk e) (s.ethUp e)

/-- RTP_RECEIVE (R452). -/
def execRtpReceive (pkt : UdpPacket) (s : State) : Result := onUnit (ethOk pkt.port) s (fun d => d.rtpReceive pkt)

/-- RTCP_RECEIVE (R455). -/
def execRtcpReceive (pkt : UdpPacket) (s : State) : Result := onUnit (ethOk pkt.port) s (fun d => d.rtcpReceive pkt)

/-- PLI_TIMER (R461). -/
def execPliTimer (stream : Nat) (s : State) : Result := onDevice s (fun d => d.pliTimer stream)

/-- RTCP_REPORT_TIMER (R464). -/
def execRtcpReportTimer (stream : Nat) (s : State) : Result := onDevice s (fun d => d.rtcpReport stream)

end Sys2Proof.Machine
end

