-- ==== Sys2Proof/Machine/PowerCmds.lean ====
section
/-! DEFINITION. Power input, module signals, shutdowns, fundamental resets, bring-up stages and HBM initialisation (chapters 19 and 20). -/

namespace Sys2Proof.Machine

/-- INPUT_APPLIED (R521). -/
def execInputApplied (millivolts : Nat) (s : State) : Result := .next (s.inputApplied millivolts)

/-- MOD_PWR_EN_ASSERT (R532). -/
def execModPwrEnAssert (lowMs : Nat) (s : State) : Result := .next (s.pwrEnAssert lowMs)

/-- MOD_PWR_EN_DEASSERT (R533). -/
def execModPwrEnDeassert (s : State) : Result := .next s.pwrEnDeassert

/-- UNDER_VOLTAGE (R533). -/
def execUnderVoltage (millivolts : Nat) (s : State) : Result := .next (s.underVoltage millivolts)

/-- OVER_VOLTAGE (R533). -/
def execOverVoltage (millivolts : Nat) (s : State) : Result := .next (s.overVoltage millivolts)

/-- OVER_CURRENT (R533). -/
def execOverCurrent (milliamps : Nat) (s : State) : Result := .next (s.overCurrent milliamps)

/-- RAIL_FAULT (R533). -/
def execRailFault (die rail : Nat) (s : State) : Result := withUnit (dieOk die && railOk rail) (s.railFault die rail)

/-- MOD_PERST_N_ASSERT (R534). -/
def execModPerstNAssert (s : State) : Result := .next s.perstAssert

/-- MOD_PERST_N_RELEASE (R540). -/
def execModPerstNRelease (s : State) : Result := .next s.perstRelease

/-- BRINGUP_STAGE_END (R540). -/
def execBringupStageEnd (i : Nat) (ok : Bool) (detail : Nat) (s : State) : Result :=
  withUnit (decide (i < 14)) (s.stageEnd i ok detail)

/-- HBM_INIT_CHUNK (R544). -/
def execHbmInitChunk (errors : List (Nat × Nat × Nat × EccError)) (s : State) : Result :=
  withUnit (errors.all (fun e => stackOk e.1 && channelOk e.2.1 e.2.2.1)) (s.initChunk errors)

/-- REFCLK_ETH_CHANGE (R540). -/
def execRefclkEthChange (present : Bool) (s : State) : Result := .next (s.refclkEth present)

/-- INPUT_IN_RANGE (R533). -/
def execInputInRange (millivolts : Nat) (s : State) : Result := .next (s.inputInRange millivolts)

/-- DELAYED_RESTART (R533). -/
def execDelayedRestart (s : State) : Result := .next s.delayedRestart

end Sys2Proof.Machine
end

