-- ==== Sys2Proof/Machine/Registers.lean ====
section
/-! DEFINITION. Commands that are writes to register pages: commits, discards, locks, forced interrupts, counter clears, any other write, the request registers of PART, injections, flushes, retrains and the error-log window (chapters 3 and 4). -/

namespace Sys2Proof.Machine

/-- A write to PAGE_CTL that keeps AUTO_COMMIT_TICK and LOCK as they are. -/
def State.ctlKept (s : State) (page v : Nat) : Word := BitVec.ofNat 32 ((s.dev.regN page oCtl &&& 0x102) ||| v)

/-- COMMIT (R108). -/
def execCommit (src : Src) (page : Nat) (s : State) : Result := bySource (requesterOk src && pageOk page) s src page oCtl (s.ctlKept page 1)

/-- DISCARD (R111): alone, or with COMMIT in the same write, which then has no effect. -/
def execDiscard (src : Src) (page : Nat) (withCommit : Bool) (s : State) : Result :=
  bySource (requesterOk src && pageOk page) s src page oCtl (s.ctlKept page (4 + b2n withCommit))

/-- LOCK (R121). -/
def execLock (src : Src) (page : Nat) (on : Bool) (s : State) : Result :=
  bySource (requesterOk src && pageOk page) s src page oCtl (BitVec.ofNat 32 ((s.dev.regN page oCtl &&& 2) + 256 * b2n on))

/-- INT_FORCE (R102). -/
def execIntForce (src : Src) (page : Nat) (v : Word) (s : State) : Result := bySource (requesterOk src && pageOk page) s src page 0x01C v

/-- COUNT_CLEAR (R117): the page must have the register. -/
def execCountClear (src : Src) (page : Nat) (v : Word) (s : State) : Result :=
  bySource (requesterOk src && (clearOffset page).isSome) s src page ((clearOffset page).getD 0) v

/-- REGISTER_WRITE (R103): an offset in BAR0's 4 MiB. -/
def execRegisterWrite (src : Src) (offset width : Nat) (v : Nat) (s : State) : Result :=
  withUnit (requesterOk src && decide (offset < 0x400000)) (s.registerWrite src offset width v)

/-- A write to a request register of partition p's PART page. -/
def partWrite (src : Src) (p off : Nat) (v : Word) (s : State) : Result := bySource (requesterOk src && partOk p) s src (pgPART p) off v

/-- SESSION_OPEN_DOORBELL (R38). -/
def execSessionOpenDoorbell (src : Src) (p : Nat) (v : Word) (s : State) : Result := partWrite src p 0xC04 v s

/-- SESSION_CLOSE (R43). -/
def execSessionClose (src : Src) (p : Nat) (v : Word) (s : State) : Result := partWrite src p 0xC08 v s

/-- RESYNC (R97). -/
def execResync (src : Src) (p : Nat) (v : Word) (s : State) : Result := partWrite src p 0xC10 v s

/-- QUEUE_ABORT (R66). -/
def execQueueAbort (src : Src) (p : Nat) (v : Word) (s : State) : Result := partWrite src p 0xC1C v s

/-- QUEUE_RESUME (R66). -/
def execQueueResume (src : Src) (p : Nat) (v : Word) (s : State) : Result := partWrite src p 0xC20 v s

/-- JOB_OPEN_DOORBELL (R423). -/
def execJobOpenDoorbell (src : Src) (p : Nat) (v : Word) (s : State) : Result := partWrite src p 0xC2C v s

/-- JOB_CLOSE (R424). -/
def execJobClose (src : Src) (p : Nat) (v : Word) (s : State) : Result := partWrite src p 0xC30 v s

/-- STREAM_OPEN_DOORBELL (R448). -/
def execStreamOpenDoorbell (src : Src) (p : Nat) (v : Word) (s : State) : Result := partWrite src p 0xC40 v s

/-- STREAM_CLOSE (R450). -/
def execStreamClose (src : Src) (p : Nat) (v : Word) (s : State) : Result := partWrite src p 0xC44 v s

/-- STREAM_REKEY (R451). -/
def execStreamRekey (src : Src) (p : Nat) (v : Word) (s : State) : Result := partWrite src p 0xC48 v s

/-- MAIL_SQ_TAIL (R440). -/
def execMailSqTail (src : Src) (p : Nat) (v : Word) (s : State) : Result := partWrite src p 0xC34 v s

/-- MAIL_RQ_HEAD (R440). -/
def execMailRqHead (src : Src) (p : Nat) (v : Word) (s : State) : Result := partWrite src p 0xC38 v s

/-- RIG_SET (R439). -/
def execRigSet (src : Src) (v : Word) (s : State) : Result := bySource (requesterOk src) s src pgFAB 0xC00 v

/-- ARR_INJECT (R189). -/
def execArrInject (src : Src) (a : Nat) (v : Word) (s : State) : Result := bySource (requesterOk src && arrayOk a) s src (pgARR a) 0xC00 v

/-- SPD_ECC_INJECT (R212). -/
def execSpdEccInject (src : Src) (n : Nat) (v : Word) (s : State) : Result := bySource (requesterOk src && coreOk n) s src (pgSPD n) 0xC04 v

/-- VEC_INJECT (R291). -/
def execVecInject (src : Src) (n : Nat) (v : Word) (s : State) : Result := bySource (requesterOk src && coreOk n) s src (pgVEC n) 0xC04 v

/-- HBM_ECC_INJECT (R239). -/
def execHbmEccInject (src : Src) (i : Nat) (v : Word) (s : State) : Result := bySource (requesterOk src && stackOk i) s src (pgHBM i) 0xC04 v

/-- RED_INJECT (R427). -/
def execRedInject (src : Src) (die : Nat) (v : Word) (s : State) : Result := bySource (requesterOk src && dieOk die) s src (pgRED die) 0xC04 v

/-- FLUSH (R219). -/
def execFlush (src : Src) (die : Nat) (v : Word) (s : State) : Result := bySource (requesterOk src && dieOk die) s src (pgSHC die) 0xC04 v

/-- RETRAIN (R518). -/
def execRetrain (src : Src) (i : Nat) (v : Word) (s : State) : Result := bySource (requesterOk src && d2dOk i) s src (pgD2D i) 0xC04 v

/-- ELOG_READ (R506). -/
def execElogRead (src : Src) (v : Word) (s : State) : Result := bySource (requesterOk src) s src pgMGT 0xC10 v

end Sys2Proof.Machine
end

