-- ==== Sys2Proof/Machine/Ticks.lean ====
section
/-! DEFINITION. The frame tick, its sources, accounting records, commits at command boundaries and zeroing (chapters 1 to 4 and 7). -/

namespace Sys2Proof.Machine

/-- TICK_EDGE (R118). -/
def execTickEdge (env : Env) (s : State) : Result := .next (s.tickEdge env)

/-- ACCT_RECORD_WRITE (R56). -/
def execAcctRecordWrite (p : Nat) (env : Env) (s : State) : Result := onUnit (partOk p) s (fun d => d.acctWrite p env s.outside)

/-- COMMAND_COMMIT_APPLY (R114). -/
def execCommandCommitApply (page : Nat) (s : State) : Result := onUnit (pageOk page) s (fun d => d.commandCommit page s.outside)

/-- COMMIT_WAIT_LIMIT (R115). -/
def execCommitWaitLimit (p : Nat) (s : State) : Result := onUnit (partOk p) s (fun d => d.commitWaitLimit p)

/-- ZEROING_DONE (R193). -/
def execZeroingDone (n : Nat) (s : State) : Result := onUnit (coreOk n) s (fun d => d.zeroingDone n)

/-- TICK_SOURCE_LOST (R33). -/
def execTickSourceLost (s : State) : Result := onDevice s Dev.tickLost

/-- TICK_LOCKED (R33). -/
def execTickLocked (offsetNs : Int) (s : State) : Result := onDevice s (fun d => d.tickLocked offsetNs)

/-- TICK_IN_EDGE (R30). -/
def execTickInEdge (offsetNs : Int) (s : State) : Result := onDevice s (fun d => d.tickIn offsetNs)

/-- PPS_IN_EDGE (R30). -/
def execPpsInEdge (offsetNs : Int) (s : State) : Result := onDevice s (fun d => d.ppsIn offsetNs)

/-- PTP_MESSAGE (R30). -/
def execPtpMessage (port domain : Nat) (seconds nanoseconds : Nat) (offsetNs : Int) (s : State) : Result :=
  onUnit (decide (port < 32)) s (fun d => d.ptpMessage port domain seconds nanoseconds offsetNs)

end Sys2Proof.Machine
end

