-- ==== Sys2Proof/Machine/Work.lean ====
section
/-! DEFINITION. Tiles on their units: dealing, hoisting, results, commits, leases, and the errors of arrays and vector engines (chapters 6, 9 and 10). -/

namespace Sys2Proof.Machine

/-- TAKE_WORK (R272). -/
def execTakeWork (e : Engine) (s : State) : Result := onUnit (engineOk e) s (fun d => d.takeWork e)

/-- HOIST_RAISE (R178). -/
def execHoistRaise (a : Nat) (s : State) : Result := onUnit (arrayOk a) s (fun d => d.hoistRaise a)

/-- HOIST_RAISE_END (R175). -/
def execHoistRaiseEnd (a : Nat) (s : State) : Result := onUnit (arrayOk a) s (fun d => d.hoistRaiseEnd a)

/-- HOIST_LOWER (R177). -/
def execHoistLower (a : Nat) (s : State) : Result := onUnit (arrayOk a) s (fun d => d.hoistLower a)

/-- HOIST_LOWER_END (R175). -/
def execHoistLowerEnd (a : Nat) (s : State) : Result := onUnit (arrayOk a) s (fun d => d.hoistLowerEnd a)

/-- TILE_RESULT_ON_CHIP (R274). -/
def execTileResultOnChip (e : Engine) (env : Env) (s : State) : Result := onUnitAlert (engineOk e) s (fun d => d.asHolder (d.holding e) (fun d => d.resultOnChip e env))

/-- TILE_COMMIT (R86, R87). -/
def execTileCommit (e : Engine) (env : Env) (s : State) : Result := onUnit (engineOk e) s (fun d => d.asHolder (d.claimedOn e) (fun d => d.tileCommit e env))

/-- LEASE_SCAN (R275). -/
def execLeaseScan (die : Nat) (s : State) : Result := onUnit (dieOk die) s (fun d => d.leaseScan die)

/-- GROUP_TILE_ABANDON (R268). -/
def execGroupTileAbandon (p : Nat) (s : State) : Result := onUnit (partOk p) s (fun d => d.groupAbandon p)

/-- ARRAY_CHECK_FAIL (R185-R188). -/
def execArrayCheckFail (a : Nat) (kind : ArrayError) (row column : Nat) (both : Bool) (s : State) : Result :=
  onUnitAlert (arrayOk a) s (fun d => d.arrayCheckFail a kind row column both)

/-- VECTOR_CHECK_FAIL (R291). -/
def execVectorCheckFail (n : Nat) (parity : Bool) (lane reg : Nat) (s : State) : Result :=
  onUnitAlert (coreOk n) s (fun d => d.vectorError n parity lane reg false)

end Sys2Proof.Machine
end

