-- ==== Sys2Proof/Machine/Dispatch.lean ====
section
/-! DEFINITION. The meaning of every command: one arm for each constructor of Instr. -/

namespace Sys2Proof.Machine

def exec (i : Instr) (s : State) : Host.Outcome State Fault Refusal :=
  match i with
  | .matmul u env => Sys2Proof.Machine.execMatmul u env s
  | .conv u env => Sys2Proof.Machine.execConv u env s
  | .attend u env => Sys2Proof.Machine.execAttend u env s
  | .vprog u env => Sys2Proof.Machine.execVprog u env s
  | .convert u env => Sys2Proof.Machine.execConvert u env s
  | .copy u env => Sys2Proof.Machine.execCopy u env s
  | .fillRandom u env => Sys2Proof.Machine.execFillRandom u env s
  | .sample u env => Sys2Proof.Machine.execSample u env s
  | .appendKv u env => Sys2Proof.Machine.execAppendKv u env s
  | .pageRelease u env => Sys2Proof.Machine.execPageRelease u env s
  | .collective u peers env => Sys2Proof.Machine.execCollective u peers env s
  | .mediaDecode u env => Sys2Proof.Machine.execMediaDecode u env s
  | .mediaEncode u env => Sys2Proof.Machine.execMediaEncode u env s
  | .ingest u env => Sys2Proof.Machine.execIngest u env s
  | .fence u => Sys2Proof.Machine.execFence u s
  | .tickWait u => Sys2Proof.Machine.execTickWait u s
  | .ctxSave u env => Sys2Proof.Machine.execCtxSave u env s
  | .ctxRestore u => Sys2Proof.Machine.execCtxRestore u s
  | .sqTailDoorbell src p q v => Sys2Proof.Machine.execSqTailDoorbell src p q v s
  | .cqHeadDoorbell src p q v => Sys2Proof.Machine.execCqHeadDoorbell src p q v s
  | .commandAdmit p q env => Sys2Proof.Machine.execCommandAdmit p q env s
  | .commandStart u => Sys2Proof.Machine.execCommandStart u s
  | .tack p => Sys2Proof.Machine.execTack p s
  | .tackSave n => Sys2Proof.Machine.execTackSave n s
  | .commandResume p => Sys2Proof.Machine.execCommandResume p s
  | .overrun u => Sys2Proof.Machine.execOverrun u s
  | .takeWork e => Sys2Proof.Machine.execTakeWork e s
  | .hoistRaise a => Sys2Proof.Machine.execHoistRaise a s
  | .hoistLower a => Sys2Proof.Machine.execHoistLower a s
  | .tileResultOnChip e env => Sys2Proof.Machine.execTileResultOnChip e env s
  | .tileCommit e env => Sys2Proof.Machine.execTileCommit e env s
  | .completionWrite p q env => Sys2Proof.Machine.execCompletionWrite p q env s
  | .leaseScan die => Sys2Proof.Machine.execLeaseScan die s
  | .groupTileAbandon p => Sys2Proof.Machine.execGroupTileAbandon p s
  | .arrayCheckFail a kind row column both => Sys2Proof.Machine.execArrayCheckFail a kind row column both s
  | .scratchpadEccError n bank row word uncorrectable reader => Sys2Proof.Machine.execScratchpadEccError n bank row word uncorrectable reader s
  | .scrubRead n error => Sys2Proof.Machine.execScrubRead n error s
  | .taggedAccess n slot access => Sys2Proof.Machine.execTaggedAccess n slot access s
  | .tagWaitTimeout u n slot => Sys2Proof.Machine.execTagWaitTimeout u n slot s
  | .bankOpWrite u p off op => Sys2Proof.Machine.execBankOpWrite u p off op s
  | .atomic p addr op => Sys2Proof.Machine.execAtomic p addr op s
  | .stkScore j cmd => Sys2Proof.Machine.execStkScore j cmd s
  | .stkCopy j src dst count => Sys2Proof.Machine.execStkCopy j src dst count s
  | .stkFill j dst count pattern => Sys2Proof.Machine.execStkFill j dst count pattern s
  | .stkGather j srcs dst => Sys2Proof.Machine.execStkGather j srcs dst s
  | .stkCompact j src mask dst => Sys2Proof.Machine.execStkCompact j src mask dst s
  | .stkCrc j src count => Sys2Proof.Machine.execStkCrc j src count s
  | .hbmTempReading j celsius => Sys2Proof.Machine.execHbmTempReading j celsius s
  | .patrolRead j channel block error => Sys2Proof.Machine.execPatrolRead j channel block error s
  | .hbmUncorrectableRead j channel block symbol codeword retryOk u => Sys2Proof.Machine.execHbmUncorrectableRead j channel block symbol codeword retryOk u s
  | .tickEdge env => Sys2Proof.Machine.execTickEdge env s
  | .acctRecordWrite p env => Sys2Proof.Machine.execAcctRecordWrite p env s
  | .commandCommitApply page => Sys2Proof.Machine.execCommandCommitApply page s
  | .commitWaitLimit p => Sys2Proof.Machine.execCommitWaitLimit p s
  | .zeroingDone n => Sys2Proof.Machine.execZeroingDone n s
  | .commit src page => Sys2Proof.Machine.execCommit src page s
  | .discard src page withCommit => Sys2Proof.Machine.execDiscard src page withCommit s
  | .lock src page on => Sys2Proof.Machine.execLock src page on s
  | .intForce src page v => Sys2Proof.Machine.execIntForce src page v s
  | .countClear src page v => Sys2Proof.Machine.execCountClear src page v s
  | .registerWrite src offset width v => Sys2Proof.Machine.execRegisterWrite src offset width v s
  | .sessionOpenDoorbell src p v => Sys2Proof.Machine.execSessionOpenDoorbell src p v s
  | .sessionClose src p v => Sys2Proof.Machine.execSessionClose src p v s
  | .resync src p v => Sys2Proof.Machine.execResync src p v s
  | .queueAbort src p v => Sys2Proof.Machine.execQueueAbort src p v s
  | .queueResume src p v => Sys2Proof.Machine.execQueueResume src p v s
  | .jobOpenDoorbell src p v => Sys2Proof.Machine.execJobOpenDoorbell src p v s
  | .jobClose src p v => Sys2Proof.Machine.execJobClose src p v s
  | .streamOpenDoorbell src p v => Sys2Proof.Machine.execStreamOpenDoorbell src p v s
  | .streamClose src p v => Sys2Proof.Machine.execStreamClose src p v s
  | .streamRekey src p v => Sys2Proof.Machine.execStreamRekey src p v s
  | .mailSqTail src p v => Sys2Proof.Machine.execMailSqTail src p v s
  | .mailRqHead src p v => Sys2Proof.Machine.execMailRqHead src p v s
  | .mailSend p env => Sys2Proof.Machine.execMailSend p env s
  | .mailDeliver env => Sys2Proof.Machine.execMailDeliver env s
  | .rigSet src v => Sys2Proof.Machine.execRigSet src v s
  | .arrInject src a v => Sys2Proof.Machine.execArrInject src a v s
  | .spdEccInject src n v => Sys2Proof.Machine.execSpdEccInject src n v s
  | .vecInject src n v => Sys2Proof.Machine.execVecInject src n v s
  | .hbmEccInject src j v => Sys2Proof.Machine.execHbmEccInject src j v s
  | .redInject src d v => Sys2Proof.Machine.execRedInject src d v s
  | .flush src d v => Sys2Proof.Machine.execFlush src d v s
  | .flushDone d => Sys2Proof.Machine.execFlushDone d s
  | .retrain src j v => Sys2Proof.Machine.execRetrain src j v s
  | .d2dRetrain j crcErrors lostLock => Sys2Proof.Machine.execD2dRetrain j crcErrors lostLock s
  | .stage src component env => Sys2Proof.Machine.execStage src component env s
  | .fwStageComplete => Sys2Proof.Machine.execFwStageComplete s
  | .activate src component => Sys2Proof.Machine.execActivate src component s
  | .handoverSlice cycles selfCheckOk => Sys2Proof.Machine.execHandoverSlice cycles selfCheckOk s
  | .handoverEnd => Sys2Proof.Machine.execHandoverEnd s
  | .commitSvn src component => Sys2Proof.Machine.execCommitSvn src component s
  | .elogRead src v => Sys2Proof.Machine.execElogRead src v s
  | .monitorSample d sample => Sys2Proof.Machine.execMonitorSample d sample s
  | .reefDecision => Sys2Proof.Machine.execReefDecision s
  | .thermalTrip d sensor => Sys2Proof.Machine.execThermalTrip d sensor s
  | .powerExcess watts => Sys2Proof.Machine.execPowerExcess watts s
  | .avsAdjust d up => Sys2Proof.Machine.execAvsAdjust d up s
  | .watchdogExpiry => Sys2Proof.Machine.execWatchdogExpiry s
  | .mastheadRestart => Sys2Proof.Machine.execMastheadRestart s
  | .managementMessage transport msg => Sys2Proof.Machine.execManagementMessage transport msg s
  | .spdmRequest transport request => Sys2Proof.Machine.execSpdmRequest transport request s
  | .i3cAddressAssign address => Sys2Proof.Machine.execI3cAddressAssign address s
  | .tickSourceLost => Sys2Proof.Machine.execTickSourceLost s
  | .tickLocked offsetNs => Sys2Proof.Machine.execTickLocked offsetNs s
  | .tickInEdge offsetNs => Sys2Proof.Machine.execTickInEdge offsetNs s
  | .ppsInEdge offsetNs => Sys2Proof.Machine.execPpsInEdge offsetNs s
  | .bftDataReceive pkt => Sys2Proof.Machine.execBftDataReceive pkt s
  | .bftAckReceive pkt => Sys2Proof.Machine.execBftAckReceive pkt s
  | .ackDelayExpiry flow => Sys2Proof.Machine.execAckDelayExpiry flow s
  | .rtoExpiry flow psn => Sys2Proof.Machine.execRtoExpiry flow psn s
  | .jobWaitExpiry flow => Sys2Proof.Machine.execJobWaitExpiry flow s
  | .flowRateUpdate flow => Sys2Proof.Machine.execFlowRateUpdate flow s
  | .mailPacketReceive pkt => Sys2Proof.Machine.execMailPacketReceive pkt s
  | .reducerChunk d error => Sys2Proof.Machine.execReducerChunk d error s
  | .ethLinkDown e => Sys2Proof.Machine.execEthLinkDown e s
  | .ethLinkUp e => Sys2Proof.Machine.execEthLinkUp e s
  | .rtpReceive pkt => Sys2Proof.Machine.execRtpReceive pkt s
  | .rtcpReceive pkt => Sys2Proof.Machine.execRtcpReceive pkt s
  | .pliTimer stream => Sys2Proof.Machine.execPliTimer stream s
  | .rtcpReportTimer stream => Sys2Proof.Machine.execRtcpReportTimer stream s
  | .hostLinkUp speed width flit => Sys2Proof.Machine.execHostLinkUp speed width flit s
  | .hotReset linkDown => Sys2Proof.Machine.execHotReset linkDown s
  | .configSpaceWrite f change => Sys2Proof.Machine.execConfigSpaceWrite f change s
  | .functionLevelReset f => Sys2Proof.Machine.execFunctionLevelReset f s
  | .apertureRead f offset length => Sys2Proof.Machine.execApertureRead f offset length s
  | .apertureWrite f offset data => Sys2Proof.Machine.execApertureWrite f offset data s
  | .atomicop f offset op => Sys2Proof.Machine.execAtomicop f offset op s
  | .msixUnmask f vector => Sys2Proof.Machine.execMsixUnmask f vector s
  | .atsInvalidate f addr length => Sys2Proof.Machine.execAtsInvalidate f addr length s
  | .doeObject vendor kind length payload => Sys2Proof.Machine.execDoeObject vendor kind length payload s
  | .doeAbort => Sys2Proof.Machine.execDoeAbort s
  | .ideFailure stream => Sys2Proof.Machine.execIdeFailure stream s
  | .inputApplied millivolts => Sys2Proof.Machine.execInputApplied millivolts s
  | .modPwrEnAssert lowMs => Sys2Proof.Machine.execModPwrEnAssert lowMs s
  | .modPwrEnDeassert => Sys2Proof.Machine.execModPwrEnDeassert s
  | .underVoltage millivolts => Sys2Proof.Machine.execUnderVoltage millivolts s
  | .overVoltage millivolts => Sys2Proof.Machine.execOverVoltage millivolts s
  | .overCurrent milliamps => Sys2Proof.Machine.execOverCurrent milliamps s
  | .railFault d rail => Sys2Proof.Machine.execRailFault d rail s
  | .modPerstNAssert => Sys2Proof.Machine.execModPerstNAssert s
  | .modPerstNRelease => Sys2Proof.Machine.execModPerstNRelease s
  | .bringupStageEnd j ok detail => Sys2Proof.Machine.execBringupStageEnd j ok detail s
  | .hbmInitChunk errors => Sys2Proof.Machine.execHbmInitChunk errors s
  | .hoistRaiseEnd a => Sys2Proof.Machine.execHoistRaiseEnd a s
  | .hoistLowerEnd a => Sys2Proof.Machine.execHoistLowerEnd a s
  | .refclkEthChange present => Sys2Proof.Machine.execRefclkEthChange present s
  | .ptpMessage port domain seconds nanoseconds offsetNs => Sys2Proof.Machine.execPtpMessage port domain seconds nanoseconds offsetNs s
  | .kvpInitDone p => Sys2Proof.Machine.execKvpInitDone p s
  | .flrBusyClear f => Sys2Proof.Machine.execFlrBusyClear f s
  | .vectorCheckFail n parity lane reg => Sys2Proof.Machine.execVectorCheckFail n parity lane reg s
  | .inputInRange millivolts => Sys2Proof.Machine.execInputInRange millivolts s
  | .delayedRestart => Sys2Proof.Machine.execDelayedRestart s

end Sys2Proof.Machine
end

