-- ==== Sys2Proof/Machine/Step.lean ====
section
/-! DEFINITION. The step: the command at the front of the queue is carried out; with none waiting, time passes. -/

namespace Sys2Proof.Machine

/-- No command is waiting: one arithmetic-clock cycle passes while the device runs (DESIGN CHOICE, log entry 1). -/
def State.idle (s : State) : State := s.onDev (fun d => { d with now := d.now + 1 })

/-- One step of the block. -/
def step (s : State) : Host.Outcome State Fault Refusal :=
  match s.pending with
  | [] => .next s.idle
  | c :: rest => exec c { s with pending := rest }

/-- The opcode table gives no row any bits, so no word spells a command and the queue stays as it is. -/
def State.withFetchWord (s : State) (_nbits _w : Nat) : State := s

end Sys2Proof.Machine
end

