-- ==== Sys2Proof/WellFormed.lean ====
section
/-! DEFINITION. Well-formed commands: every unit, page, queue or address that a command names is one that the device has. -/

namespace Sys2Proof

open Sys2Proof.Machine in
/-- The operands name units that the device has (R2, R9, R100, R122, R479). -/
def Instr.wellFormed : Instr → Bool
  | .matmul _ _ => true
  | .conv _ _ => true
  | .attend _ _ => true
  | .vprog _ _ => true
  | .convert _ _ => true
  | .copy _ _ => true
  | .fillRandom _ _ => true
  | .sample _ _ => true
  | .appendKv _ _ => true
  | .pageRelease _ _ => true
  | .collective _ _ _ => true
  | .mediaDecode _ _ => true
  | .mediaEncode _ _ => true
  | .ingest _ _ => true
  | .fence _ => true
  | .tickWait _ => true
  | .ctxSave _ _ => true
  | .ctxRestore _ => true
  | .sqTailDoorbell src p q _ => doorbellOk src p q
  | .cqHeadDoorbell src p q _ => doorbellOk src p q
  | .commandAdmit p q _ => partOk p && queueOk q
  | .commandStart _ => true
  | .tack p => partOk p
  | .tackSave n => coreOk n
  | .commandResume p => partOk p
  | .overrun _ => true
  | .takeWork e => engineOk e
  | .hoistRaise a => arrayOk a
  | .hoistLower a => arrayOk a
  | .tileResultOnChip e _ => engineOk e
  | .tileCommit e _ => engineOk e
  | .completionWrite p q _ => partOk p && queueOk q
  | .leaseScan die => dieOk die
  | .groupTileAbandon p => partOk p
  | .arrayCheckFail a _ _ _ _ => arrayOk a
  | .scratchpadEccError n bank row _ _ reader => coreOk n && decide (bank < 32) && decide (row < 12288) && reader.all engineOk
  | .scrubRead n _ => coreOk n
  | .taggedAccess n slot _ => coreOk n && slotOk slot
  | .tagWaitTimeout _ n slot => coreOk n && slotOk slot
  | .bankOpWrite _ p _ _ => partOk p
  | .atomic p _ _ => partOk p
  | .stkScore i cmd => stackHas i (cmd.pages.flatMap (fun q => blockRun q.2 (ceilDiv cmd.query.length 256)))
  | .stkCopy i src dst count => stackOk i && decide (src + count ≤ stackBlocks) && decide (dst + count ≤ stackBlocks)
  | .stkFill i dst count _ => stackOk i && decide (dst + count ≤ stackBlocks)
  | .stkGather i srcs dst => stackHas i srcs && decide (dst + srcs.length ≤ stackBlocks)
  | .stkCompact i src mask dst => stackOk i && decide (src + mask.length ≤ stackBlocks) && decide (dst + mask.length ≤ stackBlocks)
  | .stkCrc i src count => stackOk i && decide (src + count ≤ stackBlocks)
  | .hbmTempReading i _ => stackOk i
  | .patrolRead i channel block _ => stackOk i && channelOk channel block
  | .hbmUncorrectableRead i channel block _ _ _ _ => stackOk i && channelOk channel block
  | .tickEdge _ => true
  | .acctRecordWrite p _ => partOk p
  | .commandCommitApply page => pageOk page
  | .commitWaitLimit p => partOk p
  | .zeroingDone n => coreOk n
  | .commit src page => requesterOk src && pageOk page
  | .discard src page _ => requesterOk src && pageOk page
  | .lock src page _ => requesterOk src && pageOk page
  | .intForce src page _ => requesterOk src && pageOk page
  | .countClear src page _ => requesterOk src && (clearOffset page).isSome
  | .registerWrite src offset _ _ => requesterOk src && decide (offset < 0x400000)
  | .sessionOpenDoorbell src p _ => requesterOk src && partOk p
  | .sessionClose src p _ => requesterOk src && partOk p
  | .resync src p _ => requesterOk src && partOk p
  | .queueAbort src p _ => requesterOk src && partOk p
  | .queueResume src p _ => requesterOk src && partOk p
  | .jobOpenDoorbell src p _ => requesterOk src && partOk p
  | .jobClose src p _ => requesterOk src && partOk p
  | .streamOpenDoorbell src p _ => requesterOk src && partOk p
  | .streamClose src p _ => requesterOk src && partOk p
  | .streamRekey src p _ => requesterOk src && partOk p
  | .mailSqTail src p _ => requesterOk src && partOk p
  | .mailRqHead src p _ => requesterOk src && partOk p
  | .mailSend p _ => partOk p
  | .mailDeliver _ => true
  | .rigSet src _ => requesterOk src
  | .arrInject src a _ => requesterOk src && arrayOk a
  | .spdEccInject src n _ => requesterOk src && coreOk n
  | .vecInject src n _ => requesterOk src && coreOk n
  | .hbmEccInject src i _ => requesterOk src && stackOk i
  | .redInject src die _ => requesterOk src && dieOk die
  | .flush src die _ => requesterOk src && dieOk die
  | .flushDone die => dieOk die
  | .retrain src i _ => requesterOk src && d2dOk i
  | .d2dRetrain i _ _ => d2dOk i
  | .stage src component _ => requesterOk src && decide (component < 4)
  | .fwStageComplete => true
  | .activate src component => requesterOk src && decide (component < 4)
  | .handoverSlice _ _ => true
  | .handoverEnd => true
  | .commitSvn src component => requesterOk src && decide (component < 4)
  | .elogRead src _ => requesterOk src
  | .monitorSample die _ => dieOk die
  | .reefDecision => true
  | .thermalTrip die sensor => dieOk die && sensorOk sensor
  | .powerExcess _ => true
  | .avsAdjust die _ => dieOk die
  | .watchdogExpiry => true
  | .mastheadRestart => true
  | .managementMessage transport _ => decide (transport < 2)
  | .spdmRequest transport _ => decide (transport < 2)
  | .i3cAddressAssign address => decide (address < 128)
  | .tickSourceLost => true
  | .tickLocked _ => true
  | .tickInEdge _ => true
  | .ppsInEdge _ => true
  | .bftDataReceive _ => true
  | .bftAckReceive _ => true
  | .ackDelayExpiry _ => true
  | .rtoExpiry _ _ => true
  | .jobWaitExpiry _ => true
  | .flowRateUpdate _ => true
  | .mailPacketReceive _ => true
  | .reducerChunk die _ => dieOk die
  | .ethLinkDown e => ethOk e
  | .ethLinkUp e => ethOk e
  | .rtpReceive pkt => ethOk pkt.port
  | .rtcpReceive pkt => ethOk pkt.port
  | .pliTimer _ => true
  | .rtcpReportTimer _ => true
  | .hostLinkUp speed width _ => linkOk speed width
  | .hotReset _ => true
  | .configSpaceWrite f _ => partOk f
  | .functionLevelReset f => partOk f
  | .apertureRead f _ _ => partOk f
  | .apertureWrite f _ _ => partOk f
  | .atomicop f _ _ => partOk f
  | .msixUnmask f vector => partOk f && decide (vector < (if f = 0 then 2048 else 32))
  | .atsInvalidate f _ _ => partOk f
  | .doeObject _ _ _ _ => true
  | .doeAbort => true
  | .ideFailure _ => true
  | .inputApplied _ => true
  | .modPwrEnAssert _ => true
  | .modPwrEnDeassert => true
  | .underVoltage _ => true
  | .overVoltage _ => true
  | .overCurrent _ => true
  | .railFault die rail => dieOk die && railOk rail
  | .modPerstNAssert => true
  | .modPerstNRelease => true
  | .bringupStageEnd i _ _ => decide (i < 14)
  | .hbmInitChunk errors => errors.all (fun e => stackOk e.1 && channelOk e.2.1 e.2.2.1)
  | .hoistRaiseEnd a => arrayOk a
  | .hoistLowerEnd a => arrayOk a
  | .refclkEthChange _ => true
  | .ptpMessage port _ _ _ _ => decide (port < 32)
  | .kvpInitDone p => partOk p
  | .flrBusyClear f => partOk f
  | .vectorCheckFail n _ _ _ => coreOk n
  | .inputInRange _ => true
  | .delayedRestart => true

end Sys2Proof
end

