-- ==== Sys2Proof/Safety.lean ====
section
/-! DEFINITION. What counts as a safe state and a safe step, in the terms that claims use. -/

namespace Sys2Proof

/-- The commands that bring a fundamental reset, or the loss of power, and the release that ends it (R533, R534, R540). -/
def Instr.resets : Instr → Bool
  | .modPerstNAssert | .modPerstNRelease | .modPwrEnAssert _ | .modPwrEnDeassert | .delayedRestart | .inputApplied _ | .inputInRange _ => true
  | .underVoltage _ | .overVoltage _ | .overCurrent _ | .railFault _ _ | .thermalTrip _ _ => true
  | _ => false

/-- The restart condition of Table 19-9 that a command which removes power from the loads leaves: 1 under-voltage, 2 over-voltage, 3 a next assertion
of MOD_PWR_EN, 4 MOD_PWR_EN low for 1 s (R501, R533). -/
def Instr.cutsPower : Instr → Option Nat
  | .modPwrEnDeassert => some 3
  | .underVoltage mv => if mv < 47000 then some 1 else none
  | .overVoltage mv => if 61000 < mv then some 2 else none
  | .overCurrent ma => if 95000 < ma then some 4 else none
  | .railFault _ _ => some 4
  | .thermalTrip _ _ => some 4
  | _ => none

/-- The commands that can change more than the device proper: power, bring-up, firmware, Masthead, the security block, and those that MOD_ALERT_N
follows. -/
def Instr.reachesBeyond (i : Instr) : Bool :=
  i.resets || (match i with
    | .registerWrite .. | .tickEdge _ | .tileResultOnChip .. | .arrayCheckFail .. | .vectorCheckFail .. | .reducerChunk .. => true
    | .hbmTempReading .. | .stage .. | .fwStageComplete | .activate .. | .handoverSlice .. | .handoverEnd | .commitSvn .. => true
    | .monitorSample .. | .reefDecision | .powerExcess _ | .avsAdjust .. | .watchdogExpiry | .mastheadRestart => true
    | .managementMessage .. | .spdmRequest .. | .i3cAddressAssign _ | .doeObject .. | .hostLinkUp .. => true
    | .bringupStageEnd .. | .hbmInitChunk _ | .refclkEthChange _ => true
    | _ => false)

end Sys2Proof

namespace Sys2Proof.Machine

/-- The memories stand in their canonical form. -/
def State.MemOk (s : State) : Prop := s.dev.hbm.wf = true ∧ s.dev.host.wf = true ∧ s.dev.spd.wf = true

/-- R513: a measurement register m of the security block is zero. -/
def State.measuresZero (s : State) (m : Nat) : Prop := s.sec.mrs[m]? = some (List.replicate 48 0)

/-- The rollback counter of a component (R516). -/
def State.counter (s : State) (component : Nat) : Nat := s.flash.counters.getD component 0

/-- No rollback counter of one state is below the same counter of another (R516). -/
def State.countersKept (s t : State) : Prop := ∀ c, s.counter c ≤ t.counter c

/-- Every ready flag of one state is set in another (R547). -/
def State.flagsKept (s t : State) : Prop := ∀ i, s.flag i = true → t.flag i = true

/-- No ready flag is set before CTRL (R547). -/
def State.ctrlFirst (s : State) : Prop := ∀ i, s.flag i = true → s.flag 0 = true

/-- The watermark is a multiple of 1,024 blocks and at most 8,323,072 (R544). -/
def State.waterOk (s : State) : Prop := s.boot.water % 1024 = 0 ∧ s.boot.water ≤ 8323072

/-- A device without power is held in reset (R528, R532). -/
def State.heldWithoutPower (s : State) : Prop := s.power.good = false → s.power.held = true

/-- A command has ended with a status and a DETAIL, and a record of it waits to be written. -/
def Dev.HasEnded (d : Dev) (u : Nat) (e : Nat × Nat) : Prop :=
  (∃ c, d.cmd? u = some c ∧ c.live = false ∧ c.status = e.1 ∧ c.detail = e.2) ∧ ∃ r ∈ d.records, r.uid = u

/-- A started command without tiles has what it waits for: the copies it started with are in force, it is not pre-empted, its tagged inputs are FULL and its tagged outputs EMPTY, and none of its
host requests fails (R79, R92, R203). -/
def Dev.OnHand (d : Dev) (env : Env) (u op : Nat) (c : Cmd) : Prop :=
  d.cmd? u = some c ∧ c.opcode = op ∧ c.live = true ∧ c.started = true ∧ c.copy = d.copyNow ∧ c.state ≠ .preempted ∧ d.inputsFull c = true ∧ d.outputsOpen c = true ∧
    d.inputFails env c = none ∧ d.outputFails env c = none

/-- A source's writes to a page are served, and the page is in its view (R122, R123). -/
def State.canWrite (s : State) (src : Src) (page : Nat) : Prop :=
  requesterOk src = true ∧ s.srcOk src = true ∧ s.dev.pagePresent src page = true

/-- Every register but those at some BAR0 offsets reads as in another state. -/
def Dev.RegsBut (d e : Dev) (keys : List Nat) : Prop :=
  ∀ page off, off < 0x1000 → regKey page off ∉ keys → d.reg page off = e.reg page off

/-- Two states differ in registers only. -/
def State.OnlyRegs (s t : State) : Prop := t = { s with dev := { s.dev with regs := t.dev.regs } }

/-- Memories as another state has them. -/
def Dev.SameMemory (d e : Dev) : Prop := d.hbm = e.hbm ∧ d.host = e.host ∧ d.spd = e.spd

/-- No two units of the rigging table hold the same role (R438). -/
def Dev.RolesUnique (d : Dev) : Prop :=
  ∀ u v, u < v → v < d.rig.length → (d.unit u).role ≠ 0 → (d.unit u).role ≠ (d.unit v).role

/-- The range of INT32 at which an integer chain clamps (R143). -/
def clampInt32 (x : Int) : Int := max (-2147483648) (min 2147483647 x)

/-- Some step of an integer chain over these products, from a start, clamps (R143). -/
def chainClamps : Int → List Int → Bool
  | _, [] => false
  | s, x :: r => decide (clampInt32 (s + x) ≠ s + x) || chainClamps (clampInt32 (s + x)) r

end Sys2Proof.Machine
end

