-- ==== Sys2Proof/Certificates/Slice0/Obligations.lean ====
section
/-! DEFINITION. The statements: what a step is, what every command of the opcode table does where it completes, and what every step keeps. -/

open Sys2Proof Sys2Proof.Machine

/-! ### The machine as a whole -/

/-- The command at the front of the queue is carried out, with the rest of the queue behind it. -/
def Obligations.StepRunsTheFrontCommand : Prop :=
  ∀ (c : Instr) (rest : List Instr) (s : State), s.pending = c :: rest → step s = exec c { s with pending := rest }

/-- With no command waiting a running device only counts a cycle (the model's choice, log entry 1), and one that does not run stays as it is. -/
def Obligations.StepIdles : Prop :=
  ∀ s : State, s.pending = [] →
    (s.running = true → step s = .next { s with dev := { s.dev with now := s.dev.now + 1 } }) ∧
    (s.running = false → step s = .next s)

/-- A command whose operands name units that the device has answers a next state; any other stops with noSuchUnit.
(Model's choices: log entries 12.) -/
def Obligations.WellFormedCommandsAnswer : Prop :=
  ∀ (i : Instr) (s : State),
    (i.wellFormed = true → ∃ t, exec i s = .next t) ∧ (i.wellFormed = false → exec i s = .fault .noSuchUnit)

/-- No command changes the queue of the commands behind it, and a command of the device proper leaves module flash, the security block, bring-up, power and
Masthead as they are. -/
def Obligations.CommandFrames : Prop :=
  ∀ (i : Instr) (s t : State), exec i s = .next t →
    t.pending = s.pending ∧
    (i.reachesBeyond = false → t.flash = s.flash ∧ t.sec = s.sec ∧ t.boot = s.boot ∧ t.power = s.power ∧ t.mgmt = s.mgmt)

/-- R516: no step lowers a rollback counter. -/
def Obligations.StepsKeepRollbackCounters : Prop := ∀ s t : State, step s = .next t → s.countersKept t

/-- R547: a ready flag, once set, stays set through every step but those of a fundamental reset or a loss of power. -/
def Obligations.StepsKeepReadyFlags : Prop :=
  ∀ s t : State, s.pending.head?.all (fun i => !i.resets) = true → step s = .next t → s.flagsKept t

/-- What holds of flash, security, bring-up and power in every state that a run reaches: MR7 is never extended and reads 0 (R513), no ready flag is
set before CTRL (R547), the watermark lies on a chunk within its range (R544), and a device without power is held in reset. -/
def Obligations.StepsKeepTheBootInvariant : Prop :=
  ∀ s t : State, s.measuresZero 7 → s.ctrlFirst → s.waterOk → s.heldWithoutPower → step s = .next t →
    t.measuresZero 7 ∧ t.ctrlFirst ∧ t.waterOk ∧ t.heldWithoutPower

/-- The invariant holds right after reset, where every memory is in its canonical form and no two units share a role.
(Model's choices: log entries 32, 33, 34.) -/
def Obligations.ResetMeetsTheInvariants : Prop :=
  State.reset.measuresZero 7 ∧ State.reset.ctrlFirst ∧ State.reset.waterOk ∧ State.reset.heldWithoutPower ∧ State.reset.MemOk ∧
    State.reset.dev.RolesUnique

/-! ### Power, reset and bring-up (chapters 19 and 20) -/

/-- R501, R533: each case of Table 19-9 (MOD_PWR_EN_DEASSERT, UNDER_VOLTAGE, OVER_VOLTAGE, OVER_CURRENT, RAIL_FAULT, THERMAL_TRIP) removes the loads of a powered
module: MOD_PWR_GOOD goes low, every volatile state is lost, flash keeps its
counters and images, and the strictest restart condition stands.
(Model's choices: log entries 128, 130.) -/
def Obligations.ShutdownsLoseVolatileState : Prop :=
  ∀ (i : Instr) (r : Nat) (s : State), i.wellFormed = true → i.cutsPower = some r → s.power.good = true →
    ∃ t, exec i s = .next t ∧ t.power.good = false ∧ t.power.held = true ∧ t.power.restart = max s.power.restart r ∧
      .pin .pwrGood false ∈ t.dev.sent ∧
      t.dev = { s.dev.lost with sent := t.dev.sent, flashLog := t.dev.flashLog, fresh := t.dev.fresh } ∧
      t.flash = s.flash ∧ t.sec = {} ∧ t.mgmt = {} ∧ t.boot = { refclkEth := s.boot.refclkEth } ∧
      (∀ die sensor, i = .thermalTrip die sensor → t.power.trip = true ∧ .pin .thermtripN false ∈ t.dev.sent)

/-- R533: readings within the limits of Table 19-9 remove no power. -/
def Obligations.ReadingsWithinLimitsKeepPower : Prop :=
  ∀ (s : State) (mv ma : Nat),
    (47000 ≤ mv → exec (.underVoltage mv) s = .next { s with power := { s.power with input := mv } }) ∧
    (mv ≤ 61000 → exec (.overVoltage mv) s = .next { s with power := { s.power with input := mv } }) ∧
    (ma ≤ 95000 → exec (.overCurrent ma) s = .next s)

/-- R521, R532, R533: a module without power comes up when the last of its conditions is met: MOD_PWR_EN rising with the input ready, the input coming into
range with MOD_PWR_EN high, or the second after a shutdown. MOD_PWR_GOOD rises; with MOD_PERST_N low the device is held in reset until its release.
(Model's choices: log entries 128, 129.) -/
def Obligations.PowerUpConditions : Prop :=
  ∀ s : State, s.power.good = false → s.power.perstLow = true →
    (∀ low, s.power.enable = false → s.power.ready = true → s.power.delayed = false →
      (s.power.restart = 0 ∨ (s.power.restart = 3 ∧ 20 ≤ low) ∨ (s.power.restart = 4 ∧ 1000 ≤ low)) →
      ∃ t, exec (.modPwrEnAssert low) s = .next t ∧ t.power.good = true ∧ t.power.held = true ∧ t.power.restart = 0 ∧
        .pin .pwrGood true ∈ t.dev.sent) ∧
    (∀ mv, 50000 ≤ mv → mv ≤ 59500 → s.power.enable = true → s.power.delayed = false → s.power.restart ≤ 2 →
      ∃ t, exec (.inputInRange mv) s = .next t ∧ t.power.good = true ∧ t.power.held = true ∧ t.power.input = mv ∧
        .pin .pwrGood true ∈ t.dev.sent) ∧
    (s.power.delayed = true → s.power.enable = true → s.power.ready = true → s.power.restart ≤ 3 →
      ∃ t, exec .delayedRestart s = .next t ∧ t.power.good = true ∧ t.power.held = true ∧ t.power.delayed = false ∧
        .pin .pwrGood true ∈ t.dev.sent) ∧
    (∀ mv, s.power.ready = false → exec (.inputApplied mv) s = .next { s with power := { s.power with input := mv } })

/-- R534, R540: MOD_PERST_N resets every unit of a powered device, and its release starts bring-up at stages 0 and 4; flash keeps its contents.
(Model's choices: log entries 130.) -/
def Obligations.FundamentalReset : Prop :=
  ∀ s : State, s.power.good = true →
    (s.power.held = false → ∃ t, exec .modPerstNAssert s = .next t ∧ t.running = false ∧ t.power.perstLow = true ∧
      t.dev = { s.dev.lost with sent := t.dev.sent } ∧ t.sec = {} ∧ t.mgmt = {} ∧ t.boot.flags = 0 ∧ t.flash = s.flash) ∧
    (s.power.held = true → ∃ t, exec .modPerstNRelease s = .next t ∧ t.running = true ∧ t.power.perstLow = false ∧
      t.dev = { s.dev.lost with sent := t.dev.sent } ∧ t.boot = { Boot.reset with refclkEth := s.boot.refclkEth } ∧ t.flash = s.flash)

/-- R540, R544, R547: a running stage that ends well leaves its result in the stage log; a chunk of stage 13 raises the watermark by 1,024 blocks; and
REFCLK_ETH is noted.
(Model's choices: log entries 125.) -/
def Obligations.BringUpProgresses : Prop :=
  ∀ s : State, s.running = true →
    (∀ i, i < 13 → i ≠ 4 → (s.boot.stage i).result = 1 → s.svnOk i 0 = true →
      ∃ t, exec (.bringupStageEnd i true 0) s = .next t ∧ (t.boot.stage i).result = 2 ∧ t.boot.water = s.boot.water ∧ t.power = s.power ∧ t.flash = s.flash) ∧
    ((s.boot.stage 13).result = 1 → s.boot.water < 8323072 →
      exec (.hbmInitChunk []) s = .next { s with boot := { s.boot with water := s.boot.water + 1024 } }) ∧
    (∀ present, ∃ t, exec (.refclkEthChange present) s = .next t ∧ t.boot.refclkEth = present ∧ t.power = s.power ∧ t.flash = s.flash)

/-! ### Arrays and their hoists (chapter 6) -/

/-- R175, R178: a waiting array with a permit begins to raise when fewer than eight arrays of its die are raising and no lower one waits; a raise ends H cycles
after it began with the array hoisted. No other array, no command and no memory changes.
(Model's choices: log entries 2.) -/
def Obligations.ArraysRaise : Prop :=
  ∀ (a : Nat) (s : State), s.running = true → a < 128 →
    ((s.dev.array a).hoist = .waiting → (s.dev.array a).permit = true → (s.dev.array a).outOfService = false →
      (((List.range 32).map (fun i => 32 * (a / 32) + i)).filter (fun b => (s.dev.array b).hoist == .raising)).length < 8 →
      (∀ b, 32 * (a / 32) ≤ b → b < a → (s.dev.array b).hoist ≠ .waiting ∨ (s.dev.array b).permit = false) →
      ∃ t, exec (.hoistRaise a) s = .next t ∧ t.dev.array a = { s.dev.array a with hoist := .raising, since := s.dev.now } ∧
        (∀ b, b ≠ a → t.dev.array b = s.dev.array b) ∧ t.dev.cmds = s.dev.cmds ∧ t.dev.SameMemory s.dev) ∧
    ((s.dev.array a).hoist = .raising →
      ∃ t, exec (.hoistRaiseEnd a) s = .next t ∧ (t.dev.array a).hoist = .hoisted ∧
        t.dev.now = max s.dev.now ((s.dev.array a).since + s.dev.hoistCycles a) ∧ (t.dev.array a).since = t.dev.now ∧
        (∀ b, b ≠ a → t.dev.array b = s.dev.array b) ∧ t.dev.cmds = s.dev.cmds ∧ t.dev.SameMemory s.dev)

/-- R175, R177, R180: a hoisted array without a tile begins to lower 256 cycles after its last accumulator write, or at once without a permit; lowering
ends H cycles after it began with the array lowered. No other array, no command and no memory changes.
(Model's choices: log entries 2.) -/
def Obligations.ArraysLower : Prop :=
  ∀ (a : Nat) (s : State), s.running = true → a < 128 → s.dev.holding (.arr a) = [] →
    ((s.dev.array a).hoist = .hoisted →
      ∃ t, exec (.hoistLower a) s = .next t ∧ (t.dev.array a).hoist = .lowering ∧ (t.dev.array a).since = t.dev.now ∧
        t.dev.now = (if (s.dev.array a).permit then max s.dev.now ((s.dev.array a).lastWrite + 256) else s.dev.now) ∧
        (∀ b, b ≠ a → t.dev.array b = s.dev.array b) ∧ t.dev.cmds = s.dev.cmds ∧ t.dev.SameMemory s.dev) ∧
    ((s.dev.array a).hoist = .lowering →
      ∃ t, exec (.hoistLowerEnd a) s = .next t ∧ (t.dev.array a).hoist = .lowered ∧ (t.dev.array a).since = t.dev.now ∧
        t.dev.now = max s.dev.now ((s.dev.array a).since + s.dev.hoistCycles a) ∧
        (∀ b, b ≠ a → t.dev.array b = s.dev.array b) ∧ t.dev.cmds = s.dev.cmds ∧ t.dev.SameMemory s.dev)

/-! ### Register pages (chapter 4) -/

/-- R103, R107, R108, R121: an aligned 32-bit write to a shadowed register changes the shadow and sets SHADOW_DIRTY; on a page that is locked to the source
or has a commit pending it sets IGNORED_WRITE alone. No other register and nothing beyond the registers changes. -/
def Obligations.ShadowedRegistersTakeWrites : Prop :=
  ∀ (s : State) (src : Src) (page off v : Nat) (b : Block) (i : Nat) (r : RegSpec),
    s.canWrite src page → page < 1024 → 0x40 ≤ off → off < 0x800 → off % 4 = 0 → blockOf page = some (b, i) → regSpec b off = some r → r.access = .rws →
    s.dev.heldBits src page off r = 0 →
    ∃ t, exec (.registerWrite src (4096 * page + off) 32 v) s = .next t ∧ s.OnlyRegs t ∧
      (s.dev.lockedTo src page = false → s.dev.commitPending page = false →
        t.dev.reg page off = BitVec.ofNat 32 v ∧ bit (t.dev.regN page oStat) 3 = true ∧
        t.dev.RegsBut s.dev [regKey page off, regKey page oStat]) ∧
      (s.dev.lockedTo src page = true ∨ s.dev.commitPending page = true →
        bit (t.dev.regN page oStat) 2 = true ∧ t.dev.RegsBut s.dev [regKey page oStat])

/-- R102, R103, R104: a write of 1 clears a W1C bit, a write to a read-only register changes nothing, and a write of 8 or 16 bits sets IGNORED_WRITE alone. -/
def Obligations.OtherRegistersTakeWrites : Prop :=
  ∀ (s : State) (src : Src) (page off v : Nat) (b : Block) (i : Nat),
    s.canWrite src page → page < 1024 → 0x40 ≤ off → off < 0xC00 → off % 4 = 0 → blockOf page = some (b, i) →
    (∀ r, regSpec b off = some r → r.access = .w1c → s.dev.lockedTo src page = false →
      ∃ t, exec (.registerWrite src (4096 * page + off) 32 v) s = .next t ∧ s.OnlyRegs t ∧
        t.dev.reg page off = s.dev.reg page off &&& ~~~ BitVec.ofNat 32 v ∧ t.dev.RegsBut s.dev [regKey page off]) ∧
    (∀ r, regSpec b off = some r → r.access = .ro → exec (.registerWrite src (4096 * page + off) 32 v) s = .next s) ∧
    (∀ width, width = 8 ∨ width = 16 →
      ∃ t, exec (.registerWrite src (4096 * page + off) width v) s = .next t ∧ s.OnlyRegs t ∧
        bit (t.dev.regN page oStat) 2 = true ∧ t.dev.RegsBut s.dev [regKey page oStat])

/-- R112: a write of 1 to DISCARD in the same 32-bit write as COMMIT acts as DISCARD alone. -/
def Obligations.DiscardWinsOverCommit : Prop :=
  ∀ (s : State) (src : Src) (page : Nat), exec (.discard src page true) s = exec (.discard src page false) s

/-- R108, R111, R121: COMMIT leaves a pending commit and changes no register; DISCARD takes the active copy into the shadow, clears SHADOW_DIRTY and
drops a pending commit; LOCK records its owner, who clears it. -/
def Obligations.CommitDiscardLock : Prop :=
  ∀ (s : State) (src : Src) (page : Nat) (b : Block) (i : Nat),
    s.canWrite src page → page < 1024 → blockOf page = some (b, i) → s.dev.lockedTo src page = false →
    (s.dev.commitPending page = false →
      ∃ t k, exec (.commit src page) s = .next t ∧ t = { s with dev := { s.dev with regs := t.dev.regs, commits := s.dev.commits ++ [k] } } ∧
        k.page = page ∧ k.since = s.dev.now ∧ t.dev.RegsBut s.dev []) ∧
    (∃ t, exec (.discard src page false) s = .next t ∧
      t = { s with dev := { s.dev with regs := t.dev.regs, commits := s.dev.commits.filter (fun k => k.page != page) } } ∧
      (∀ o ∈ b.shadowed, t.dev.reg page o.1 = s.dev.reg page (o.1 + 0x400)) ∧ bit (t.dev.regN page oStat) 3 = false ∧
      t.dev.RegsBut s.dev (regKey page oStat :: b.shadowed.map (fun o => regKey page o.1))) ∧
    (∀ on, isVf src = false →
      ∃ t, exec (.lock src page on) s = .next t ∧ s.OnlyRegs t ∧ t.dev.isLocked page = on ∧
        (on ≠ s.dev.isLocked page → bits (t.dev.regN page oStat) 4 2 = if on then ownerCode src else 0) ∧
        t.dev.RegsBut s.dev [regKey page oCtl, regKey page oStat])

/-- R102: INT_FORCE sets the named bits of INT_STAT that the block defines; only the page's signal follows.
(Model's choices: log entries 42.) -/
def Obligations.InterruptsAreForced : Prop :=
  ∀ (s : State) (src : Src) (page : Nat) (v : Word) (b : Block) (i : Nat),
    s.canWrite src page → page < 1024 → blockOf page = some (b, i) →
    ∃ t, exec (.intForce src page v) s = .next t ∧
      t = { s with dev := { s.dev with regs := t.dev.regs, pci := t.dev.pci, sent := t.dev.sent } } ∧
      t.dev.reg page oIntStat = s.dev.reg page oIntStat ||| (v &&& BitVec.ofNat 32 b.intMask) ∧ t.dev.RegsBut s.dev [regKey page oIntStat]

/-- R117: COUNT_CLEAR clears the counters it names, in a partition's page those of Tack, and no other register but a page's function counters. -/
def Obligations.CountersAreCleared : Prop :=
  ∀ (s : State) (src : Src) (page off : Nat) (v : Word) (b : Block) (i : Nat),
    s.canWrite src page → page < 1024 → blockOf page = some (b, i) → clearOffset page = some off →
    ∃ t, exec (.countClear src page v) s = .next t ∧
      (b ≠ .part → ∀ k < b.counters.2, t.dev.reg page (b.counters.1 + 4 * k) = if v.getLsbD k then 0 else s.dev.reg page (b.counters.1 + 4 * k)) ∧
      (b = .part → ∀ k < 3, t.dev.reg page (0x844 + 4 * k) = if v.getLsbD k then 0 else s.dev.reg page (0x844 + 4 * k)) ∧
      (∀ pg o, o < 0x1000 → pg ≠ page → t.dev.reg pg o = s.dev.reg pg o) ∧ t.dev.SameMemory s.dev ∧ t.dev.cmds = s.dev.cmds ∧ t.flash = s.flash

/-- R38, R423, R440, R448, R451: request registers of a partition's page: an open takes the descriptor address that the pair of registers holds, a rekey the
stream, a mail doorbell the ring index. No other partition, no command and no memory changes. -/
def Obligations.RequestsAreQueued : Prop :=
  ∀ (s : State) (src : Src) (p : Nat) (v : Word), s.canWrite src (pgPART p) → p < 64 → p < s.dev.parts.length →
    (∃ t, exec (.sessionOpenDoorbell src p v) s = .next t ∧
      t.dev.part p = { s.dev.part p with sessionReq := (s.dev.part p).sessionReq ++ [s.dev.regN (pgPART p) 0xC00 + v.toNat % 65536 * 2 ^ 32] } ∧
      (∀ q, q ≠ p → t.dev.part q = s.dev.part q) ∧ t.dev.cmds = s.dev.cmds ∧ t.dev.SameMemory s.dev) ∧
    (∃ t, exec (.jobOpenDoorbell src p v) s = .next t ∧
      t.dev.part p = { s.dev.part p with jobReq := (s.dev.part p).jobReq ++ [s.dev.regN (pgPART p) 0xC28 + v.toNat % 65536 * 2 ^ 32] } ∧
      (∀ q, q ≠ p → t.dev.part q = s.dev.part q) ∧ t.dev.cmds = s.dev.cmds ∧ t.dev.SameMemory s.dev) ∧
    (∃ t, exec (.streamOpenDoorbell src p v) s = .next t ∧
      t.dev.part p = { s.dev.part p with streamReq := (s.dev.part p).streamReq ++ [s.dev.regN (pgPART p) 0xC3C + v.toNat % 65536 * 2 ^ 32] } ∧
      (∀ q, q ≠ p → t.dev.part q = s.dev.part q) ∧ t.dev.cmds = s.dev.cmds ∧ t.dev.SameMemory s.dev) ∧
    (∃ t, exec (.streamRekey src p v) s = .next t ∧
      t.dev.part p = { s.dev.part p with rekeyReq := (s.dev.part p).rekeyReq ++ [v.toNat % 1024] } ∧
      (∀ q, q ≠ p → t.dev.part q = s.dev.part q) ∧ t.dev.cmds = s.dev.cmds ∧ t.dev.SameMemory s.dev) ∧
    (∃ t, exec (.mailSqTail src p v) s = .next t ∧ t.dev.part p = { s.dev.part p with mailSqTail := v.toNat % 65536 } ∧
      (∀ q, q ≠ p → t.dev.part q = s.dev.part q) ∧ t.dev.cmds = s.dev.cmds ∧ t.dev.SameMemory s.dev) ∧
    (∃ t, exec (.mailRqHead src p v) s = .next t ∧ t.dev.part p = { s.dev.part p with mailRqHead := v.toNat % 65536 } ∧
      (∀ q, q ≠ p → t.dev.part q = s.dev.part q) ∧ t.dev.cmds = s.dev.cmds ∧ t.dev.SameMemory s.dev)

/-- R43, R424, R450, R97: SESSION_CLOSE, JOB_CLOSE and STREAM_CLOSE mark what they name as closing, and RESYNC leaves a pending request. No command and no
memory changes.
(Model's choices: log entries 98.) -/
def Obligations.ClosesAreRequested : Prop :=
  ∀ (s : State) (src : Src) (p : Nat) (v : Word), s.canWrite src (pgPART p) → p < 64 →
    (∀ x, s.dev.session? p (v.toNat % 4096) = some x → x.closing = false →
      ∃ t, exec (.sessionClose src p v) s = .next t ∧ t.dev.session? p (v.toNat % 4096) = some { x with closing := true } ∧
        (∀ q id, id ≠ v.toNat % 4096 → t.dev.session? q id = s.dev.session? q id) ∧ t.dev.cmds = s.dev.cmds ∧ t.dev.SameMemory s.dev) ∧
    (∀ x, s.dev.job? (v.toNat % 65536) = some x → x.part = p →
      ∃ t, exec (.jobClose src p v) s = .next t ∧ t.dev.job? (v.toNat % 65536) = some { x with closing := true } ∧
        (∀ id, id ≠ v.toNat % 65536 → t.dev.job? id = s.dev.job? id) ∧ t.dev.cmds = s.dev.cmds ∧ t.dev.SameMemory s.dev) ∧
    (∀ x, s.dev.stream? (v.toNat % 1024) = some x → x.part = p →
      ∃ t, exec (.streamClose src p v) s = .next t ∧ t.dev.stream? (v.toNat % 1024) = some { x with closing := true } ∧
        (∀ id, id ≠ v.toNat % 1024 → t.dev.stream? id = s.dev.stream? id) ∧ t.dev.cmds = s.dev.cmds ∧ t.dev.SameMemory s.dev) ∧
    ((s.dev.part p).resyncPending = false → p < s.dev.parts.length → v.getLsbD 0 = true →
      (s.dev.regN (pgPART p) 0xC14 + s.dev.regN (pgPART p) 0xC18 % 65536 * 2 ^ 32) % 4096 = 0 →
      rangeValid (s.dev.regN (pgPART p) 0xC14 + s.dev.regN (pgPART p) 0xC18 % 65536 * 2 ^ 32) (4096 * bits (v &&& 0xFFFF01).toNat 8 16) = true →
      ∃ t, exec (.resync src p v) s = .next t ∧ t.dev.part p = { s.dev.part p with resyncPending := true } ∧
        (∀ q, q ≠ p → t.dev.part q = s.dev.part q) ∧ t.dev.cmds = s.dev.cmds ∧ t.dev.SameMemory s.dev)

/-- R66: QUEUE_RESUME returns the stopped queues it names to ENABLED; QUEUE_ABORT stops the enabled queues it names, and the command in progress on them, with
no tile in its commit phase, ends ABORTED. -/
def Obligations.QueuesStopAndResume : Prop :=
  ∀ (s : State) (src : Src) (p : Nat) (v : Word), s.canWrite src (pgPART p) → p < 64 → p < s.dev.parts.length → (s.dev.part p).queues.length = 16 →
    (∃ t, exec (.queueResume src p v) s = .next t ∧ t.dev.cmds = s.dev.cmds ∧ t.dev.SameMemory s.dev ∧
      (∀ q, q ≠ p → t.dev.part q = s.dev.part q) ∧
      (∀ q < 16, (t.dev.queue p q).state = if v.getLsbD q && (s.dev.queue p q).state == 2 then 1 else (s.dev.queue p q).state)) ∧
    (s.dev.cmds.filter (fun c => c.live && c.part == p && v.getLsbD c.queue) = [] →
      ∃ t, exec (.queueAbort src p v) s = .next t ∧ t.dev.cmds = s.dev.cmds ∧ t.dev.SameMemory s.dev ∧
        (∀ q, q ≠ p → t.dev.part q = s.dev.part q) ∧
        (∀ q < 16, (t.dev.queue p q).state = if v.getLsbD q && (s.dev.queue p q).state == 1 then 2 else (s.dev.queue p q).state)) ∧
    (∀ c, s.dev.cmds.filter (fun c => c.live && c.part == p && v.getLsbD c.queue) = [c] → s.dev.cmd? c.uid = some c → c.queue < 16 →
      c.work.copies.all (fun x => !x.claimed) = true →
      ∃ t, exec (.queueAbort src p v) s = .next t ∧ t.dev.HasEnded c.uid (c.endStatus stABORT 0))

/-- R189, R212, R239, R291, R427: a write to an injection register by a source other than a virtual function arms the kind it names; nothing else changes. -/
def Obligations.InjectionsAreArmed : Prop :=
  ∀ (s : State) (src : Src) (n k : Nat), isVf src = false → s.srcOk src = true → requesterOk src = true →
    (n < 128 → 1 ≤ k → k ≤ 4 → ∃ t, exec (.arrInject src n (BitVec.ofNat 32 k)) s = .next t ∧ s.OnlyRegs t ∧
      t.dev.regN (pgARR n) 0xC00 = k ∧ t.dev.RegsBut s.dev [regKey (pgARR n) 0xC00]) ∧
    (n < 64 → 1 ≤ k → k ≤ 2 → ∃ t, exec (.spdEccInject src n (BitVec.ofNat 32 k)) s = .next t ∧ s.OnlyRegs t ∧
      t.dev.regN (pgSPD n) 0xC04 = k ∧ t.dev.RegsBut s.dev [regKey (pgSPD n) 0xC04]) ∧
    (n < 64 → 1 ≤ k → k ≤ 2 → ∃ t, exec (.vecInject src n (BitVec.ofNat 32 k)) s = .next t ∧ s.OnlyRegs t ∧
      t.dev.regN (pgVEC n) 0xC04 = k ∧ t.dev.RegsBut s.dev [regKey (pgVEC n) 0xC04]) ∧
    (n < 12 → 1 ≤ k → k ≤ 2 → ∃ t, exec (.hbmEccInject src n (BitVec.ofNat 32 k)) s = .next t ∧ s.OnlyRegs t ∧
      t.dev.regN (pgHBM n) 0xC04 = k ∧ t.dev.RegsBut s.dev [regKey (pgHBM n) 0xC04]) ∧
    (n < 4 → ∃ t, exec (.redInject src n 1) s = .next t ∧ s.OnlyRegs t ∧
      t.dev.regN (pgRED n) 0xC04 = 1 ∧ t.dev.RegsBut s.dev [regKey (pgRED n) 0xC04])

/-- R439, R219, R506, R518: RIG_SET queues a change for the next edge; FLUSH starts the write-back of a die's lines; ELOG_READ keeps the SEQ it names; RETRAIN
counts a retrain of the link and raises its interrupt. No memory changes.
(Model's choices: log entries 101.) -/
def Obligations.DeviceRequests : Prop :=
  ∀ (s : State) (src : Src) (v : Word), isVf src = false → s.srcOk src = true → requesterOk src = true →
    (v.toNat % 128 < 100 →
      exec (.rigSet src v) s = .next { s with dev := { s.dev with
        rigQueue := s.dev.rigQueue ++ [(v.toNat % 128, v.toNat / 65536, if v.getLsbD 14 then some (v.toNat / 256 % 64) else none)] } }) ∧
    (∀ die, die < 4 → v.getLsbD 0 = true → s.dev.flushing.contains die = false →
      exec (.flush src die v) s = .next { s with dev := { s.dev with flushing := s.dev.flushing ++ [die] } }) ∧
    (s.dev.isLocked pgSEC = false → ∃ t, exec (.elogRead src v) s = .next t ∧ s.OnlyRegs t ∧ t.dev.reg pgMGT 0xC10 = v ∧ t.dev.RegsBut s.dev [regKey pgMGT 0xC10]) ∧
    (∀ i, i < 6 → v.getLsbD 0 = true → s.dev.cmds = [] →
      ∃ t, exec (.retrain src i v) s = .next t ∧ t.dev.regN (pgD2D i) 0x804 = min (s.dev.regN (pgD2D i) 0x804 + 1) (2 ^ 32 - 1) ∧
        bit (t.dev.regN (pgD2D i) oIntStat) 0 = true ∧ t.dev.SameMemory s.dev ∧ t.dev.cmds = [])

/-! ### Queues, admission and starts (chapter 3) -/

/-- R62, R63: a doorbell value inside the ring becomes the tail or head of the queue; a larger one sets DOORBELL_ERR alone. -/
def Obligations.DoorbellsMoveTheRing : Prop :=
  ∀ (s : State) (src : Src) (p q : Nat) (v : Word), doorbellOk src p q = true → s.srcOk src = true → p < s.dev.parts.length →
    (s.dev.part p).queues.length = 16 →
    (∃ t, exec (.sqTailDoorbell src p q v) s = .next t ∧ t = { s with dev := { s.dev with parts := t.dev.parts } } ∧
      t.dev.queue p q = (if v.toNat % 65536 < s.dev.ringSize p q then { s.dev.queue p q with sqTail := v.toNat % 65536 }
        else { s.dev.queue p q with doorbellErr := true }) ∧
      (∀ r, r ≠ q → t.dev.queue p r = s.dev.queue p r) ∧ (∀ o, o ≠ p → t.dev.part o = s.dev.part o)) ∧
    (∃ t, exec (.cqHeadDoorbell src p q v) s = .next t ∧ t = { s with dev := { s.dev with parts := t.dev.parts } } ∧
      t.dev.queue p q = (if v.toNat % 65536 < s.dev.ringSize p q then { s.dev.queue p q with cqHead := v.toNat % 65536 }
        else { s.dev.queue p q with doorbellErr := true }) ∧
      (∀ r, r ≠ q → t.dev.queue p r = s.dev.queue p r) ∧ (∀ o, o ≠ p → t.dev.part o = s.dev.part o))

/-- R62, R75, R79: the next entry of an enabled queue, a FENCE or TICK_WAIT outside a session, is fetched: SQ_HEAD passes it; it joins the journal where every
check passes, and where its descriptor is ill formed it ends DESCRIPTOR_INVALID with the byte offset.
(Model's choices: log entries 26, 107, 136, 137.) -/
def Obligations.ControlCommandsAreAdmitted : Prop :=
  ∀ (s : State) (p q : Nat) (env : Env) (b : Bytes) (c : Cmd), s.running = true → p < 64 → q < 16 → p < s.dev.parts.length →
    (s.dev.part p).queues.length = 16 → s.flag 1 = true → s.flag 2 = true → s.flag 3 = true → s.flag 5 = true →
    (s.dev.queue p q).state = 1 → (s.dev.queue p q).sqHead ≠ (s.dev.queue p q).sqTail → s.dev.slotFree p = true →
    s.dev.readStruct env p (s.dev.sqBase p q + 128 * (s.dev.queue p q).sqHead) 128 = .ok b → c = s.dev.parseCmd p q b →
    (∀ x ∈ s.dev.cmds, x.uid < s.dev.nextUid) →
    (c.opcode = 0x10 ∨ c.opcode = 0x11) → c.sessionValid = false →
    (s.dev.descriptorBad c = none → s.dev.modeDenied c = false → c.controlCheck.formed = none → s.dev.firstFailure c c.controlCheck [] = none →
      s.dev.bitsUsed ≤ 2 ^ 30 →
      ∃ t, exec (.commandAdmit p q env) s = .next t ∧ t.dev.nextUid = s.dev.nextUid + 1 ∧
        (t.dev.queue p q).sqHead = ((s.dev.queue p q).sqHead + 1) % s.dev.ringSize p q ∧
        (∃ x, t.dev.cmd? s.dev.nextUid = some x ∧ x.live = true ∧ x.started = false ∧ x.raw = b ∧ x.part = p ∧ x.queue = q) ∧
        t.dev.SameMemory s.dev) ∧
    (∀ off, s.dev.descriptorBad c = some off →
      ∃ t, exec (.commandAdmit p q env) s = .next t ∧ t.dev.HasEnded s.dev.nextUid (stINVALID, off + 0xFF00))

/-- R76, R78, R79: a control command whose conditions hold starts; a command that may not run after a failure ends DEPENDENCY_FAILED with the failed command's ID
and starts nothing. R116: a command keeps the active copies in force at its start, and a started command whose copies are no longer in force runs as it would under
them.
(Model's choices: log entries 82.) -/
def Obligations.CommandsStart : Prop :=
  (∀ (s : State) (u : Nat) (c : Cmd), s.running = true → s.dev.cmd? u = some c → s.dev.ready c = true →
    (c.skipsFor = none → s.dev.eligible c = true → isControlOp c.opcode = true →
      ∃ t, exec (.commandStart u) s = .next t ∧
        (∃ x, t.dev.cmd? u = some x ∧ x.started = true ∧ x.state = .running ∧ x.startAt = s.dev.now ∧ x.raw = c.raw ∧ x.copy = s.dev.copyNow) ∧
        (∀ v, v ≠ u → t.dev.cmd? v = s.dev.cmd? v)) ∧
    (∀ id, c.skipsFor = some id → ∃ t, exec (.commandStart u) s = .next t ∧ t.dev.HasEnded u (c.endStatus stDEP id))) ∧
  (∀ (s : State) (u : Nat) (c : Cmd) (env : Env) (i : Instr), s.running = true → s.dev.cmd? u = some c → c.started = true → c.copy ≠ s.dev.copyNow →
    (s.dev.withCopy c.copy).copyNow = c.copy →
    i ∈ [Instr.matmul u env, .conv u env, .attend u env, .vprog u env, .convert u env, .copy u env, .fillRandom u env, .sample u env, .appendKv u env,
      .pageRelease u env, .mediaDecode u env, .mediaEncode u env, .ingest u env] →
    ∃ t, exec i { s with dev := s.dev.withCopy c.copy } = .next t ∧ exec i s = .next { t with dev := t.dev.withCopy s.dev.copyNow })

/-- R79: a started FENCE ends OK once every earlier command of its partition from the queues it names has ended, a TICK_WAIT once its tick has come; until then
nothing changes. -/
def Obligations.FencesAndTickWaitsCommit : Prop :=
  ∀ (s : State) (u : Nat) (c : Cmd), s.running = true → s.dev.cmd? u = some c → c.started = true → c.live = true →
    (c.opcode = 0x10 → (∀ x ∈ s.dev.cmds, x.live = true → x.part = c.part → x.uid < c.uid → bit (c.u16 64) x.queue = false) →
      ∃ t, exec (.fence u) s = .next t ∧ t.dev.HasEnded u (c.endStatus stOK 0)) ∧
    (c.opcode = 0x10 → (∃ x ∈ s.dev.cmds, x.live = true ∧ x.part = c.part ∧ x.uid < c.uid ∧ bit (c.u16 64) x.queue = true) →
      exec (.fence u) s = .next s) ∧
    (c.opcode = 0x11 → c.waitTick ≤ s.dev.tick.count → ∃ t, exec (.tickWait u) s = .next t ∧ t.dev.HasEnded u (c.endStatus stOK 0)) ∧
    (c.opcode = 0x11 → s.dev.tick.count < c.waitTick → exec (.tickWait u) s = .next s)

/-- R63, R64: the oldest waiting record of a queue is written at CQ_TAIL of a ring in HBM with room, with PHASE; CQ_TAIL moves on and the command gives back its
slot. Without room nothing changes. -/
def Obligations.CompletionRecordsAreWritten : Prop :=
  ∀ (s : State) (p q : Nat) (env : Env) (r : PendingRecord), s.running = true → p < 64 → q < 16 → p < s.dev.parts.length →
    (s.dev.part p).queues.length = 16 → s.dev.records.find? (fun r => r.part == p && r.queue == q) = some r →
    ((s.dev.queue p q).state ≠ 2 → s.dev.cqRoom p q = true → isHost (s.dev.cqBase p q + 32 * (s.dev.queue p q).cqTail) = false →
      ∃ t, exec (.completionWrite p q env) s = .next t ∧
        t.dev.hbm = (s.dev.putBytesIn p 0 (s.dev.cqBase p q + 32 * (s.dev.queue p q).cqTail) (r.image (s.dev.queue p q).phase)).hbm ∧
        t.dev.records = s.dev.records.erase r ∧ t.dev.cmds = s.dev.cmds.filter (fun c => c.uid != r.uid) ∧
        (t.dev.queue p q).cqTail = ((s.dev.queue p q).cqTail + 1) % s.dev.ringSize p q ∧
        (t.dev.queue p q).lastId = fieldAt r.bytes 0 4) ∧
    (s.dev.cqRoom p q = false → exec (.completionWrite p q env) s = .next s)

/-! ### Tack, contexts and overruns (chapters 2 and 14) -/

/-- R387, R390: an eligible session command pre-empts the throughput array command that holds the partition's units; the cores' saves begin, TACKS counts one
and TACK is raised. No memory changes.
(Model's choices: log entries 89.) -/
def Obligations.TackPreempts : Prop :=
  ∀ (s : State) (p : Nat) (c x : Cmd), s.running = true → p < 64 → p < s.dev.parts.length →
    x ∈ s.dev.cmds → x.part = p → x.throughput = false → s.dev.eligible x = true →
    s.dev.stoppable p = [c] → s.dev.cmd? c.uid = some c →
    ∃ t y, exec (.tack p) s = .next t ∧ t.dev.cmd? c.uid = some y ∧ y.state = .preempted ∧ y.raw = c.raw ∧
      (∀ z ∈ y.work.copies, z ∈ c.work.copies) ∧ (∀ v, v ≠ c.uid → t.dev.cmd? v = s.dev.cmd? v) ∧
      (t.dev.part p).saveCores = s.dev.coresOf p ∧ (t.dev.part p).tackAt = some s.dev.now ∧
      t.dev.regN (pgPART p) 0x844 = min (s.dev.regN (pgPART p) 0x844 + 1) (2 ^ 32 - 1) ∧ t.dev.SameMemory s.dev

/-- R396, R398: a core whose units are free of the stopped commands has its save done: each saved slot holds the slot's bytes and tag. The oldest pre-empted command
resumes when nothing holds it back, with the partition's saved slots given back.
(Model's choices: log entries 57, 63.) -/
def Obligations.TackSavesAndResumes : Prop :=
  (∀ (s : State) (p n : Nat), s.running = true → n < 64 → s.dev.ownerOf n = some p → p < s.dev.parts.length →
    (s.dev.part p).saveCores.contains n = true → s.dev.coreFree p n = true →
    ∃ t, exec (.tackSave n) s = .next t ∧ (t.dev.part p).saveCores = (s.dev.part p).saveCores.filter (· != n) ∧
      (∀ x ∈ t.dev.saved, x ∈ s.dev.saved ∨ (x.part = p ∧ x.core = n ∧ x.data = s.dev.spd.readBytes (spdKey n (256 * x.slot)) 256 ∧
        x.tag = ((s.dev.tag n x.slot).full, (s.dev.tag n x.slot).seq))) ∧
      t.dev.cmds = s.dev.cmds ∧ t.dev.SameMemory s.dev) ∧
  (∀ (s : State) (p : Nat) (c : Cmd) (rest : List Cmd), s.running = true → p < 64 → s.dev.preempted p = c :: rest → s.dev.cmd? c.uid = some c →
    s.dev.eligibleOf p 0 false = [] → s.dev.grainFree p = true → (∀ x ∈ s.dev.saved, x.part ≠ p) → (s.dev.part p).saveCores = [] →
    s.dev.maskPending p = false → s.dev.waitsOnZeroing c = false → s.dev.heldBySave c = false → c.restart = false → c.work.committed ≠ c.work.total →
    ∃ t, exec (.commandResume p) s = .next t ∧ t.dev.cmd? c.uid = some { c with state := .running, resumed := true } ∧
      (∀ v, v ≠ c.uid → t.dev.cmd? v = s.dev.cmd? v) ∧ t.dev.saved = s.dev.saved.filter (fun x => x.part != p) ∧ t.dev.SameMemory s.dev)

/-- R55: a session command whose measured occupancy has passed its declared worst case moves to the throughput class; OVERRUN_COUNT counts it and OVERRUN is
raised. One within its worst case stays as it is. -/
def Obligations.OverrunsAreDemoted : Prop :=
  ∀ (s : State) (u : Nat) (c : Cmd), s.running = true → s.dev.cmd? u = some c → c.live = true → c.started = true → c.sessionValid = true →
    c.throughput = false →
    ((s.dev.measured c).overruns = true →
      ∃ t, exec (.overrun u) s = .next t ∧ t.dev.cmd? u = some { c with throughput := true } ∧ (∀ v, v ≠ u → t.dev.cmd? v = s.dev.cmd? v) ∧
        t.dev.regN (pgPART c.part) 0x82C = min (s.dev.regN (pgPART c.part) 0x82C + 1) (2 ^ 32 - 1) ∧
        bit (t.dev.regN (pgPART c.part) oIntStat) 4 = true ∧ t.dev.SameMemory s.dev) ∧
    ((s.dev.measured c).overruns = false → exec (.overrun u) s = .next s)

/-- R399-R404: a started CTX_SAVE without DETACH or AT_CHEAP whose commands stand stopped writes their image to its buffer in HBM and ends OK with the image's 4 KiB
blocks; a started CTX_RESTORE ends OK.
(Model's choices: log entries 29, 57, 92.) -/
def Obligations.ContextsAreSavedAndRestored : Prop :=
  ∀ (s : State) (u : Nat) (env : Env) (c : Cmd), s.running = true → s.dev.cmd? u = some c → c.live = true → c.started = true →
    (c.opcode = 0x12 → c.u8 74 = 0 → isHost (c.u48 64) = false → c.pins = [] → c.kvTargets = [] →
      (∀ x ∈ s.dev.ctxEarlier c, x.savable = true ∧ x.state = .preempted ∧ x.work.copies = [] ∧ s.dev.cmd? x.uid = some x) →
      ∃ t, exec (.ctxSave u env) s = .next t ∧
        t.dev.HasEnded u (c.endStatus stOK (ceilDiv (s.dev.ctxImage c.part (s.dev.ctxEarlier c)).length 4096)) ∧
        t.dev.hbm = (s.dev.putCtx c.part (c.u48 64) (s.dev.ctxImage c.part (s.dev.ctxEarlier c))).hbm ∧ t.dev.host = s.dev.host ∧ t.dev.spd = s.dev.spd) ∧
    (c.opcode = 0x13 → ∃ t, exec (.ctxRestore u) s = .next t ∧ t.dev.HasEnded u (c.endStatus stOK 0))

/-! ### The commands of the opcode list (chapters 8 to 13, 15 and 16) -/

/-- R86-R88: a started command with tiles whose last tile is left runs it: the tile's elements are written through the partition's addresses, the clock stands at the
end of the tile's cycles, and the command ends OK.
(Model's choices: log entries 83, 86, 87.) -/
def Obligations.TiledCommandsRun : Prop :=
  ∀ (s : State) (u op : Nat) (env : Env) (c k : Cmd) (id : TileId) (i : Instr) (d : Dev) (r : TileResult),
    (i, op) ∈ [(Instr.matmul u env, 0x01), (.conv u env, 0x02), (.attend u env, 0x03), (.vprog u env, 0x04), (.convert u env, 0x05),
      (.fillRandom u env, 0x07), (.sample u env, 0x08)] →
    s.running = true → s.dev.cmd? u = some c → c.opcode = op → c.live = true → c.started = true → c.copy = s.dev.copyNow → c.state ≠ .preempted → s.dev.serving c ≠ [] →
    s.dev.inputFails env c = none → (∀ j, (c.tensor j).tagged = false) → s.dev.tilesLeft c = [id] → c.work.cleatOf id = none → c.work.copies = [] →
    c.work.committed + 1 = c.work.total → d = s.dev.beginWhole c → k = s.dev.wholeCmd c → k.work.mayRun (d.opSpace k) id = true →
    r = d.opTile k id → r.flags.waits = false → r.combines = [] → d.writeFails env k r.writes = none →
    ∃ t, exec i s = .next t ∧ t.dev.HasEnded u (c.endStatus stOK 0) ∧ t.dev.now = s.dev.now + (s.dev.opSpace c).cycles id ∧
      (c.pins = [] → c.kvTargets = [] → t.dev.SameMemory (({ d with fresh := d.fresh + 1 } : Dev).applyWrites c.part r.writes))

/-- R245, R246, R456, R462, R469: a COPY writes its elements and ends with the saturation and DETAIL of its mode; an INGEST writes its batch and its rejects and ends
with the samples it consumed; a MEDIA_ENCODE hands one frame to its stream and writes no memory; a MEDIA_DECODE of a tensor writes its pictures, or ends
DATA_CORRUPT where too few are decoded; a live one ends OK, or STALE.
(Model's choices: log entries 3, 4, 8, 83.) -/
def Obligations.MovesAndMediaRun : Prop :=
  ∀ (s : State) (u : Nat) (env : Env) (c : Cmd), s.running = true → c.pins = [] → c.kvTargets = [] →
    (s.dev.OnHand env u 0x06 c →
      ∃ t, exec (.copy u env) s = .next t ∧ t.dev.HasEnded u (c.endStatus stOK (s.dev.copyWrites c).2.2) ∧
        t.dev.SameMemory (s.dev.applyWrites c.part (s.dev.copyWrites c).1)) ∧
    (∀ g, s.dev.OnHand env u 0x0E c → g = s.dev.gather c (c.igEntries - c.igFirst) c.igFirst {} →
      ∃ t, exec (.ingest u env) s = .next t ∧ t.dev.HasEnded u (c.endStatus stOK g.consumed) ∧
        t.dev.SameMemory ((s.dev.undefineBuffer c.part (c.tensor c.igWork)).applyWrites c.part
          ((List.range c.igB).flatMap (s.dev.slotWrites c g) ++ c.rejectWrites g))) ∧
    (∀ x, s.dev.OnHand env u 0x0D c → s.dev.stream? c.meStream = some x →
      ∃ t y, exec (.mediaEncode u env) s = .next t ∧ t.dev.HasEnded u (c.endStatus stOK 0) ∧ t.dev.SameMemory s.dev ∧
        t.dev.stream? c.meStream = some y ∧ y.frames = x.frames + 1 ∧ y.pli = false ∧ y.raw = x.raw ∧
        (∀ v, v ≠ c.meStream → t.dev.stream? v = s.dev.stream? v)) ∧
    (∀ b, s.dev.OnHand env u 0x0C c → c.mdLive = false →
      b = s.dev.bytesIn c.part (c.tensor c.mdSrc).space (c.tensor c.mdSrc).addr ((c.tensor c.mdSrc).dim 0) →
      ∃ t, exec (.mediaDecode u env) s = .next t ∧
        (∀ why, headerReason c.mdCodec (c.entry.maxes.getD 4 0) (s.dev.ppb c.mdUnit) b = some why →
          t.dev.HasEnded u (c.endStatus (if why = 5 then stDIMS else stCORRUPT) why)) ∧
        (headerReason c.mdCodec (c.entry.maxes.getD 4 0) (s.dev.ppb c.mdUnit) b = none → Config.codecPictures c.mdCodec b = none →
          t.dev.HasEnded u (c.endStatus stCORRUPT 3)) ∧
        (∀ ps, headerReason c.mdCodec (c.entry.maxes.getD 4 0) (s.dev.ppb c.mdUnit) b = none → Config.codecPictures c.mdCodec b = some ps →
          (ps.length < (c.tensor c.mdOut).dim 3 → t.dev.HasEnded u (c.endStatus stCORRUPT 7)) ∧
          ((c.tensor c.mdOut).dim 3 ≤ ps.length → t.dev.HasEnded u (c.endStatus stOK 0) ∧
            t.dev.SameMemory ((s.dev.undefineBuffer c.part (c.tensor c.mdWork)).applyWrites c.part
              ((List.range ((c.tensor c.mdOut).dim 3)).flatMap (fun i => c.decodedWrites i (ps.getD i default))))))) ∧
    (∀ x, s.dev.OnHand env u 0x0C c → c.mdLive = true → s.dev.stream? c.mdStream = some x →
      ∃ t st, exec (.mediaDecode u env) s = .next t ∧ (st = stOK ∨ st = stSTALE) ∧ t.dev.HasEnded u (c.endStatus st 0))

/-- R354, R358, R360, R361: an APPEND_KV writes its positions, its summaries and its sequence and ends OK; a PAGE_RELEASE acts on each page it lists and ends OK; a
pool whose initialisation ends has every entry free and READY set.
(Model's choices: log entries 53, 83.) -/
def Obligations.KvCommandsRun : Prop :=
  (∀ (s : State) (u : Nat) (env : Env) (c : Cmd), s.running = true →
    (s.dev.OnHand env u 0x09 c →
      ∃ t, exec (.appendKv u env) s = .next t ∧ t.dev.HasEnded u (c.endStatus stOK 0) ∧
        (c.pins ≠ [] → t.dev.SameMemory ((s.dev.akStored c).1.kvRelease c)) ∧
        t.dev.jobs = s.dev.jobs ∧ t.dev.streams = s.dev.streams ∧ t.dev.arrays = s.dev.arrays ∧ t.dev.now = s.dev.now) ∧
    (s.dev.OnHand env u 0x0A c →
      ∃ t, exec (.pageRelease u env) s = .next t ∧ t.dev.HasEnded u (c.endStatus stOK 0) ∧
        (c.pins ≠ [] → t.dev.SameMemory ((s.dev.prActed c).kvRelease c)) ∧
        t.dev.jobs = s.dev.jobs ∧ t.dev.streams = s.dev.streams ∧ t.dev.arrays = s.dev.arrays ∧ t.dev.now = s.dev.now)) ∧
  (∀ (s : State) (p : Nat), s.running = true → p < 64 →
    (s.dev.kvBusy p = true →
      ∃ t, exec (.kvpInitDone p) s = .next t ∧ t.dev.regN (pgKVP p) 0x800 = 1 ∧ bit (t.dev.regN (pgKVP p) oIntStat) 2 = true ∧
        t.dev.hbm = ((List.range (s.dev.kvPool p).pages).foldl (fun d n => d.setKvEntry p n { free := true }) s.dev).hbm ∧
        t.dev.cmds = s.dev.cmds ∧ t.dev.parts = s.dev.parts) ∧
    (s.dev.kvBusy p = false → exec (.kvpInitDone p) s = .next s))

/-- R426-R429: a COLLECTIVE that only moves data, and has on hand all its peers' parts, writes its destination and, with nothing to send, ends OK. An error of a
reducer is counted and logged, and the third in a row takes it out of service; a chunk without one clears the run.
(Model's choices: log entries 59, 69, 83.) -/
def Obligations.CollectivesRun : Prop :=
  (∀ (s : State) (u : Nat) (env : Env) (peers : List Contribution) (c k : Cmd) (j : Job), s.running = true → s.dev.OnHand env u 0x0B c →
    c.pins = [] → c.kvTargets = [] → c.coReduces = false → c.coThin = 0 → c.shipped = false → s.dev.job? c.coJob = some j → k = c.arrive peers →
    (∀ n ∈ k.coNeeds j, (k.partOf n.1).length = n.2) → s.dev.coSends k j [] = [] → s.dev.txFlows = [] →
    (∀ x ∈ s.dev.cmds, x.uid ≠ u → x.shipped = false) →
    ∃ t, exec (.collective u peers env) s = .next t ∧ t.dev.HasEnded u (c.endStatus stOK 0) ∧
      t.dev.SameMemory (s.dev.applyWrites c.part ((s.dev.coWrites k j []).run {}).1) ∧
      (t.dev.job? j.id).map (·.received) = some (j.received + (k.coNeeds j).foldl (fun a n => a + n.2) 0)) ∧
  (∀ (s : State) (die : Nat) (r : Reducer), s.running = true → die < 4 → s.dev.reducers[die]? = some r → r.outOfService = false →
    (r.failRun < 2 → ∃ t, exec (.reducerChunk die true) s = .next t ∧ t.dev.reducers[die]? = some { r with failRun := r.failRun + 1 } ∧
      t.dev.regN (pgRED die) 0x80C = min (s.dev.regN (pgRED die) 0x80C + 1) (2 ^ 32 - 1) ∧ t.dev.cmds = s.dev.cmds ∧ t.dev.SameMemory s.dev) ∧
    (r.failRun = 2 → ∃ t, exec (.reducerChunk die true) s = .next t ∧ (t.dev.reducers[die]?).map (·.outOfService) = some true) ∧
    (bit (s.dev.regN (pgRED die) 0xC04) 0 = false → (∀ x ∈ s.dev.cmds, x.opcode ≠ 0x0B) →
      ∃ t, exec (.reducerChunk die false) s = .next t ∧ t.dev.reducers[die]? = some { r with failRun := 0 } ∧ t.dev.cmds = s.dev.cmds ∧
        t.dev.SameMemory s.dev))

/-! ### Tiles on their units (chapters 6, 7, 9 and 10) -/

/-- R272, R275: a unit that may take work and has room takes the first tile its command has for it: a copy of the tile on that unit, with a lease of MULT times the
plan entry's TILE_CYCLES. Without a command to deal from, nothing changes.
(Model's choices: log entries 87.) -/
def Obligations.UnitsTakeWork : Prop :=
  ∀ (s : State) (e : Engine) (p : Nat), s.running = true → engineOk e = true → s.dev.unitPart e = some p → s.dev.mayWork e = true →
    (s.dev.holding e).length < (if e.isArr then 2 else 1) →
    (∀ c k, s.dev.dealingTo p e = [c] → s.dev.cmd? c.uid = some c → s.dev.takeFrom c e true = some k →
      ∃ t x y, exec (.takeWork e) s = .next t ∧ t.dev.cmd? c.uid = some x ∧ x.raw = c.raw ∧ y ∈ x.work.copies ∧ y.tile = k.1 ∧ y.unit = e ∧
        y.claimed = false ∧ y.dealt = s.dev.now ∧
        y.lease = s.dev.now + bits ((s.dev.viewOf c).active (pgHAL e.die) 0x040) 0 4 * (if c.entry.tileCycles = 0 then 32768 else c.entry.tileCycles) ∧
        (∀ v, v ≠ c.uid → t.dev.cmd? v = s.dev.cmd? v) ∧ t.dev.SameMemory s.dev) ∧
    (s.dev.dealingTo p e = [] → exec (.takeWork e) s = .next s)

/-- R86, R87, R274: a result on chip claims its tile where the record is OPEN, and is discarded where it is not; a claimed tile's commit writes its elements and
sets COMMITTED.
(Model's choices: log entries 2, 84.) -/
def Obligations.TilesClaimAndCommit : Prop :=
  ∀ (s : State) (e : Engine) (env : Env) (u : Nat) (c : Cmd) (x : Copy), s.running = true → engineOk e = true → s.dev.cmd? u = some c →
    c.copy = s.dev.copyNow →
    (∀ due r, (s.dev.holding e).head? = some (u, x) → s.dev.dueAt c x = some due → r = s.dev.opTile c x.tile → r.flags.waits = false → s.dev.armed e = 0 →
      s.dev.regN (pgSPD e.core) 0xC04 = 0 → (s.dev.streamed' c x due).inputFails env c = none →
      (c.work.cleatOf x.tile = none → x ∈ c.work.copies → (∀ y ∈ c.work.copies, y.tile = x.tile → y = x) →
        ∃ t k y, exec (.tileResultOnChip e env) s = .next t ∧ t.dev.cmd? u = some k ∧ k.work.cleatOf x.tile = some .claimed ∧ y ∈ k.work.copies ∧
          y.tile = x.tile ∧ y.unit = x.unit ∧ y.claimed = true ∧ y.result = r ∧ t.dev.now = max s.dev.now due ∧ t.dev.SameMemory s.dev) ∧
      (c.work.cleatOf x.tile ≠ none →
        ∃ t k, exec (.tileResultOnChip e env) s = .next t ∧ t.dev.cmd? u = some k ∧ x ∉ k.work.copies ∧ k.work.cleat = c.work.cleat ∧
          t.dev.regN (pgHAL x.unit.die) 0x81C = min (s.dev.regN (pgHAL x.unit.die) 0x81C + 1) (2 ^ 32 - 1) ∧ t.dev.SameMemory s.dev)) ∧
    ((s.dev.claimedOn e).head? = some (u, x) → (∀ j, (c.tensor j).tagged = false) → x.result.combines = [] → x.result.sends = [] →
      s.dev.writeFails env c x.result.writes = none → c.work.committed + 1 ≠ c.work.total →
      ∃ t k, exec (.tileCommit e env) s = .next t ∧ t.dev.cmd? u = some k ∧ k.work.cleatOf x.tile = some .committed ∧
        k.work.committed = c.work.committed + 1 ∧ (∀ y ∈ k.work.copies, y.tile ≠ x.tile) ∧
        t.dev.SameMemory (s.dev.applyWrites c.part x.result.writes))

/-- R268, R275: LEASE_SCAN, at the next multiple of 1,024 cycles, puts the tile of an expired lease on a reissue list and lets the copy run on; a stuck group tile
is abandoned, and ABANDONS counts it.
(Model's choices: log entries 2.) -/
def Obligations.LeasesAndGroups : Prop :=
  (∀ (s : State) (die : Nat), s.running = true → die < 4 →
    ((∀ c ∈ s.dev.cmds, c.expired (roundUp s.dev.now 1024) die = []) →
      exec (.leaseScan die) s = .next { s with dev := { s.dev with now := roundUp s.dev.now 1024 } }) ∧
    (∀ c x, s.dev.cmds = [c] → c.expired (roundUp s.dev.now 1024) die = [x] → x.tile.sub = 0 → (s.dev.opSpace c).splits = 0 →
      (∀ y ∈ c.work.due, y.1 ≠ x.tile) → (∀ y ∈ c.work.dies, x.tile ∉ y.reissue) →
      (∃ y ∈ c.work.dies, y.die = s.dev.tileDie c (s.dev.opSpace c) x.tile) →
      ∃ t k y, exec (.leaseScan die) s = .next t ∧ t.dev.cmd? c.uid = some k ∧ y ∈ k.work.dies ∧ x.tile ∈ y.reissue ∧
        k.work.copies = c.work.copies ∧ t.dev.now = roundUp s.dev.now 1024 ∧ t.dev.SameMemory s.dev)) ∧
  (∀ (s : State) (p : Nat), s.running = true → p < 64 →
    (∀ e u c x, ((s.dev.arraysOf p).map Engine.arr).filter s.dev.mayWork = [e] → s.dev.stuckGroup e = some (u, x) → s.dev.cmd? u = some c → x.claimed = true →
      (∃ y ∈ s.dev.cmds, y.part = p ∧ y.live = true ∧ ∃ z ∈ y.work.dies, z.reissue ≠ []) →
      ∃ t k, exec (.groupTileAbandon p) s = .next t ∧ t.dev.cmd? u = some k ∧ x ∉ k.work.copies ∧
        t.dev.regN (pgHAL x.unit.die) 0x820 = min (s.dev.regN (pgHAL x.unit.die) 0x820 + 1) (2 ^ 32 - 1) ∧ t.dev.SameMemory s.dev) ∧
    (s.dev.cmds = [] → exec (.groupTileAbandon p) s = .next s))

/-- R92, R185-R188, R212, R213, R291: a detected error of an array, a vector engine or a scratchpad is counted and described in its page; with no tile in hand nothing
else of the work changes, and an array's third failure in a row takes it out of service. A scrub read without an error only moves on. -/
def Obligations.DetectedErrors : Prop :=
  (∀ (s : State) (a : Nat) (kind : ArrayError) (row col : Nat) (both : Bool), s.running = true → a < 128 → s.dev.inService a = true →
    (s.dev.array a).hoist = .hoisted → s.dev.holding (.arr a) = [] → (s.dev.array a).failRun < 2 →
    ∃ t, exec (.arrayCheckFail a kind row col both) s = .next t ∧
      t.dev.regN (pgARR a) 0x838 = arrayErrorCode kind + 8 + row % 1024 * 16 + col % 1024 * 16384 + b2n both * 2 ^ 24 ∧
      t.dev.regN (pgARR a) (0x80C + 4 * arrayErrorCode kind) = min (s.dev.regN (pgARR a) (0x80C + 4 * arrayErrorCode kind) + 1) (2 ^ 32 - 1) ∧
      (t.dev.array a).failRun = (s.dev.array a).failRun + (if kind = .accCorrected then 0 else 1) ∧
      (∀ b, b ≠ a → t.dev.array b = s.dev.array b) ∧ t.dev.cmds = s.dev.cmds ∧ t.dev.SameMemory s.dev) ∧
  (∀ (s : State) (a : Nat) (kind : ArrayError) (row col : Nat) (both : Bool), s.running = true → a < 128 → s.dev.inService a = true →
    (s.dev.array a).hoist = .hoisted → s.dev.holding (.arr a) = [] → (s.dev.array a).failRun = 2 → kind ≠ .accCorrected →
    ∃ t, exec (.arrayCheckFail a kind row col both) s = .next t ∧ (t.dev.array a).outOfService = true ∧ (t.dev.array a).permit = false ∧
      t.dev.SameMemory s.dev) ∧
  (∀ (s : State) (n : Nat) (parity : Bool) (lane r : Nat), s.running = true → n < 64 → s.dev.holding (.vec n) = [] →
    ∃ t, exec (.vectorCheckFail n parity lane r) s = .next t ∧
      t.dev.regN (pgVEC n) 0x820 = (if parity then 2 else 1) + lane % 512 * 16 + r % 32 * 8192 ∧ t.dev.cmds = s.dev.cmds ∧ t.dev.SameMemory s.dev) ∧
  (∀ (s : State) (n bank row word : Nat) (unc : Bool), s.running = true → n < 64 → bank < 32 → row < 12288 →
    ∃ t, exec (.scratchpadEccError n bank row word unc none) s = .next t ∧
      t.dev.regN (pgSPD n) 0x828 = (if unc then 2 else 1) + bank * 16 + row * 512 + word % 8 * 2 ^ 23 ∧ t.dev.cmds = s.dev.cmds ∧ t.dev.SameMemory s.dev) ∧
  (∀ (s : State) (n : Nat), s.running = true → n < 64 → n < s.dev.cores.length →
    ∃ t, exec (.scrubRead n none) s = .next t ∧ (t.dev.core n).scrubPos = ((s.dev.core n).scrubPos + 1) % coreWords ∧
      (∀ m, m ≠ n → t.dev.core m = s.dev.core m) ∧ t.dev.cmds = s.dev.cmds ∧ t.dev.tags = s.dev.tags ∧ t.dev.SameMemory s.dev)

/-- R202, R203, R205: a tagged read is accepted only while the slot is FULL and leaves the tag; a plain write only while it is EMPTY with SEQ 0, and all 256 bytes
set FULL. What is not accepted counts as a wait and changes nothing else. A started command that has waited past the limit fails with the slot's offset.
(Model's choices: log entries 2.) -/
def Obligations.TaggedAccesses : Prop :=
  (∀ (s : State) (n slot : Nat), s.running = true → n < 64 → slotOk slot = true → s.dev.inTagRegion n slot = true →
    ((s.dev.tag n slot).full = true → exec (.taggedAccess n slot .read) s = .next s) ∧
    ((s.dev.tag n slot).full = false → ∃ t, exec (.taggedAccess n slot .read) s = .next t ∧ s.OnlyRegs t ∧ t.dev.RegsBut s.dev [regKey (pgSPD n) 0x810] ∧
      t.dev.regN (pgSPD n) 0x810 = min (s.dev.regN (pgSPD n) 0x810 + 1) (2 ^ 32 - 1)) ∧
    (∀ data, s.dev.tag n slot = {} → data.length = 256 →
      ∃ t, exec (.taggedAccess n slot (.write data)) s = .next t ∧ t.dev.tag n slot = ⟨true, 0⟩ ∧ t.dev.spd.readBytes (spdKey n (slot * 256)) 256 = data ∧
        (∀ a, a < spdKey n (slot * 256) ∨ spdKey n (slot * 256) + 256 ≤ a → t.dev.spd.read a = s.dev.spd.read a) ∧ t.dev.hbm = s.dev.hbm ∧ t.dev.cmds = s.dev.cmds) ∧
    (∀ data, s.dev.tag n slot ≠ {} → ∃ t, exec (.taggedAccess n slot (.write data)) s = .next t ∧ s.OnlyRegs t ∧
      t.dev.RegsBut s.dev [regKey (pgSPD n) 0x810])) ∧
  (∀ (s : State) (u n slot : Nat) (c : Cmd), s.running = true → n < 64 → slotOk slot = true → s.dev.cmd? u = some c → c.live = true → c.started = true →
    tiledOp c.opcode = false → c.work.copies = [] → s.dev.slotBlocks c n slot = true →
    ∃ t, exec (.tagWaitTimeout u n slot) s = .next t ∧
      t.dev.HasEnded u (c.endStatus stTAG (((s.dev.coresOf c.part).findIdx? (· == n)).getD 0 * 0x2000000 + slot * 256)) ∧
      t.dev.now = max s.dev.now (c.startAt + s.dev.active (pgSPD n) 0x040))

/-- R207, R209, R221, R222: an op-write of a bank ALU replaces the bytes its operation gives; the first group of a combine on an EMPTY slot stores its values and
leaves SEQ 1, or FULL where it is the only one; an aligned atomic on HBM that its unit may use applies its operation once and returns the old bytes.
(Model's choices: log entries 113.) -/
def Obligations.BankOpsAndAtomics : Prop :=
  (∀ (s : State) (p off n l a : Nat) (op : BankOp) (b : Bytes) (f : NumFlags), s.running = true → p < 64 → s.dev.spdPlace p off = some (n, l) →
    s.dev.opBytes {} n l off op = some (a, b, f) →
    ∃ t, exec (.bankOpWrite none p off op) s = .next t ∧ t.dev.spd = s.dev.spd.writeBytes (spdKey n a) b ∧ t.dev.hbm = s.dev.hbm ∧ t.dev.host = s.dev.host ∧
      t.dev.tags = s.dev.tags ∧ t.dev.cmds = s.dev.cmds) ∧
  (∀ (s : State) (p off n l groups : Nat) (integer : Bool) (ws : List Word), s.running = true → p < 64 → s.dev.spdPlace p off = some (n, l) → l % 256 = 0 →
    ws.length = 64 → 0 < groups → groups ≤ 32767 → s.dev.inTagRegion n (l / 256) = true → s.dev.tag n (l / 256) = {} →
    ∃ t, exec (.bankOpWrite none p off (.combine false integer 0 groups ws)) s = .next t ∧
      t.dev.spd = s.dev.spd.writeBytes (spdKey n l) (ws.flatMap (fun w => toLe 4 w.toNat)) ∧
      t.dev.tag n (l / 256) = (if groups = 1 then ⟨true, 0⟩ else ⟨false, 1⟩) ∧ t.dev.hbm = s.dev.hbm ∧ t.dev.cmds = s.dev.cmds) ∧
  (∀ (s : State) (p addr k : Nat) (op : AtomicOp), s.running = true → p < 64 → s.dev.cellOf p addr = some k → isHost addr = false → 0 < atomicSize op →
    addr % atomicSize op = 0 → s.dev.usable s.outside p addr (atomicSize op) = true → (∀ i ws, op ≠ .redAdd i ws) →
    ∃ t, exec (.atomic p addr op) s = .next t ∧ t.dev.hbm = s.dev.hbm.writeBytes k (atomicApply op (s.dev.hbm.readBytes k (atomicSize op))) ∧
      t.dev.atomicOld = s.dev.hbm.readBytes k (atomicSize op) ∧ t.dev.host = s.dev.host ∧ t.dev.spd = s.dev.spd ∧ t.dev.cmds = s.dev.cmds)

/-! ### HBM, stack engines and links (chapters 7 and 8) -/

/-- R242, R243, R246: a stack engine reads all its source blocks, then writes its destinations; a fill writes its pattern; a score ranks its pages; a CRC is held in
the engine. The blocks written alone change.
(Model's choices: log entries 21, 108, 109.) -/
def Obligations.StackEnginesRun : Prop :=
  ∀ (s : State) (i : Nat), s.running = true → i < 12 → i < s.dev.stackUnits.length →
    (∀ src dst n, src + n ≤ stackBlocks → dst + n ≤ stackBlocks →
      ∃ t, exec (.stkCopy i src dst n) s = .next t ∧
        t.dev.hbm = (((blockRun src n).zip (blockRun dst n)).foldl (fun m q => m.writeBytes (blockKey i q.2) (s.dev.block i q.1)) s.dev.hbm) ∧
        t.dev.host = s.dev.host ∧ t.dev.spd = s.dev.spd ∧ t.dev.cmds = s.dev.cmds) ∧
    (∀ dst n (pattern : Word), dst + n ≤ stackBlocks →
      ∃ t, exec (.stkFill i dst n pattern) s = .next t ∧
        t.dev.hbm = ((blockRun dst n).foldl (fun m b => m.writeBytes (blockKey i b) ((List.replicate 64 (toLe 4 pattern.toNat)).flatMap id)) s.dev.hbm) ∧
        t.dev.host = s.dev.host ∧ t.dev.spd = s.dev.spd ∧ t.dev.cmds = s.dev.cmds) ∧
    (∀ srcs dst, (∀ b ∈ srcs, b < stackBlocks) → dst + srcs.length ≤ stackBlocks →
      ∃ t, exec (.stkGather i srcs dst) s = .next t ∧
        t.dev.hbm = ((srcs.zip (blockRun dst srcs.length)).foldl (fun m q => m.writeBytes (blockKey i q.2) (s.dev.block i q.1)) s.dev.hbm) ∧
        t.dev.host = s.dev.host ∧ t.dev.spd = s.dev.spd ∧ t.dev.cmds = s.dev.cmds) ∧
    (∀ src mask dst kept, src + mask.length ≤ stackBlocks → dst + mask.length ≤ stackBlocks →
      kept = ((List.range mask.length).filter (fun j => mask.getD j 0 != 0)).map (src + ·) →
      ∃ t, exec (.stkCompact i src mask dst) s = .next t ∧
        t.dev.hbm = ((kept.zip (blockRun dst kept.length)).foldl (fun m q => m.writeBytes (blockKey i q.2) (s.dev.block i q.1)) s.dev.hbm) ∧
        t.dev.host = s.dev.host ∧ t.dev.spd = s.dev.spd ∧ t.dev.cmds = s.dev.cmds) ∧
    (∀ cmd : StkScore, stackHas i (cmd.pages.flatMap (fun q => blockRun q.2 (ceilDiv cmd.query.length 256))) = true →
      ∃ t, exec (.stkScore i cmd) s = .next t ∧ t.dev.SameMemory s.dev ∧ t.dev.cmds = s.dev.cmds ∧
        (t.dev.stackUnits.getD i {}).scores =
          rankTop cmd.top (cmd.pages.map (fun q => (q.1, scoreOf cmd.query (s.dev.hbm.readBytes (blockKey i q.2) cmd.query.length))))) ∧
    (∀ src n, src + n ≤ stackBlocks →
      ∃ t, exec (.stkCrc i src n) s = .next t ∧ t.dev.SameMemory s.dev ∧ t.dev.cmds = s.dev.cmds ∧
        (t.dev.stackUnits.getD i {}).crc = crc32c ((blockRun src n).flatMap (s.dev.block i)))

/-- R219, R236, R238, R240, R518: a reading sets a stack's temperature and band; patrol reads walk the stack; an error is described in HBM.LAST_ERROR; the end of a
flush leaves the die's lines clean; CRC errors of a link within its limit are counted only. No memory and no command changes.
(Model's choices: log entries 30, 101, 112, 139.) -/
def Obligations.HbmAndLinkEvents : Prop :=
  ∀ (s : State), s.running = true →
    (∀ (i : Nat) (celsius : Int), i < 12 → 0 ≤ celsius → celsius ≤ 255 →
      ∃ t, exec (.hbmTempReading i celsius) s = .next t ∧ (t.dev.regN (pgHBM i) 0x800 % 256 : Int) = celsius ∧
        bits (t.dev.regN (pgHBM i) 0x800) 8 2 = nextBand (bits (s.dev.regN (pgHBM i) 0x800) 8 2) celsius ∧ t.dev.cmds = s.dev.cmds ∧ t.dev.SameMemory s.dev) ∧
    (∀ i channel block, i < 12 → i < s.dev.stackUnits.length → channelOk channel block = true → bit (s.dev.active (pgHBM i) 0x040) 0 = true →
      ∃ t, exec (.patrolRead i channel block none) s = .next t ∧
        (t.dev.stackUnits.getD i {}).patrol = ((s.dev.stackUnits.getD i {}).patrol + 1) % stackBlocks ∧ t.dev.cmds = s.dev.cmds ∧ t.dev.SameMemory s.dev) ∧
    (∀ i channel block symbol codeword, i < 12 → channelOk channel block = true →
      ∃ t, exec (.hbmUncorrectableRead i channel block symbol codeword true none) s = .next t ∧
        t.dev.regN (pgHBM i) 0x82C = 2 + channel % 32 * 16 + block % 2 * 512 + symbol % 32 * 1024 + codeword % 4 * 32768 ∧
        t.dev.regN (pgHBM i) 0x830 = block % 2 ^ 23 ∧ t.dev.cmds = s.dev.cmds ∧ t.dev.SameMemory s.dev) ∧
    (∀ die, die < 4 → s.dev.flushing.contains die = true →
      ∃ t, exec (.flushDone die) s = .next t ∧ die ∉ t.dev.flushing ∧ (∀ l ∈ t.dev.lines, l.die = die → l.dirty = false) ∧ t.dev.cmds = s.dev.cmds ∧
        t.dev.SameMemory s.dev) ∧
    (∀ i n, i < 6 → n ≤ s.dev.active (pgD2D i) 0x040 % 65536 →
      ∃ t, exec (.d2dRetrain i n false) s = .next t ∧ s.OnlyRegs t ∧ t.dev.RegsBut s.dev [regKey (pgD2D i) 0x808, regKey (pgD2D i) 0x80C] ∧
        t.dev.regN (pgD2D i) 0x808 = min (s.dev.regN (pgD2D i) 0x808 + n) (2 ^ 32 - 1)) ∧
    (∀ i n, i < 6 → s.dev.cmds = [] →
      ∃ t, exec (.d2dRetrain i n true) s = .next t ∧ t.dev.regN (pgD2D i) 0x804 = min (s.dev.regN (pgD2D i) 0x804 + 1) (2 ^ 32 - 1) ∧
        t.dev.cmds = [] ∧ t.dev.SameMemory s.dev)

/-! ### The tick, accounting, commits and zeroing (chapters 1 to 4 and 7) -/

/-- R28, R29, R118: an edge ends the window at its length: the count and the edge's cycle move on, and the device's clock reaches the edge. Flash, bring-up and
power stay as they are.
(Model's choices: log entries 2.) -/
def Obligations.TickEdges : Prop :=
  ∀ (s : State) (env : Env), s.running = true →
    ∃ t, exec (.tickEdge env) s = .next t ∧ t.dev.tick.count = (s.dev.tick.count + 1) % 2 ^ 64 ∧
      t.dev.tick.edgeAt = s.dev.tick.edgeAt + s.dev.windowLength ∧ t.dev.now = max s.dev.now (s.dev.tick.edgeAt + s.dev.windowLength) ∧
      t.dev.tick.lastEdge = t.dev.now ∧ t.flash = s.flash ∧ t.sec = s.sec ∧ t.boot = s.boot ∧ t.power = s.power

/-- R56, R109, R114, R115, R193: the oldest accounting record due goes into its ring, or is discarded and counted where the ring is full; a command-class commit
at a boundary is applied or rejected; the wait limit lets the session commands start; zeroing of a core ends.
(Model's choices: log entries 102.) -/
def Obligations.RecordsCommitsAndZeroing : Prop :=
  (∀ (s : State) (env : Env) (p : Nat) (w : AcctWindow) (rest : List AcctWindow) (a next : Nat), s.running = true → p < 64 → p < s.dev.parts.length →
    (s.dev.part p).acctQueue = w :: rest → a = addrOf (s.dev.active (pgPART p)) 0x058 + 128 * s.dev.regN (pgPART p) 0x830 →
    next = (s.dev.regN (pgPART p) 0x830 + 1) % 2 ^ bits (s.dev.active (pgPART p) 0x054) 0 5 → s.dev.usable s.outside p a 128 = true →
    (next ≠ s.dev.regN (pgPART p) 0xC0C → isHost a = false →
      ∃ t, exec (.acctRecordWrite p env) s = .next t ∧ t.dev.SameMemory (s.dev.putBytesIn p 0 a (w.bytes p (s.dev.part p).gap)) ∧
        t.dev.regN (pgPART p) 0x830 = next ∧ t.dev.part p = { s.dev.part p with acctQueue := rest, gap := false } ∧
        (∀ q, q ≠ p → t.dev.part q = s.dev.part q) ∧ t.dev.cmds = s.dev.cmds) ∧
    (next = s.dev.regN (pgPART p) 0xC0C →
      ∃ t, exec (.acctRecordWrite p env) s = .next t ∧ t.dev.SameMemory s.dev ∧
        t.dev.regN (pgPART p) 0x834 = min (s.dev.regN (pgPART p) 0x834 + 1) (2 ^ 32 - 1) ∧
        t.dev.part p = { s.dev.part p with acctQueue := rest, gap := true } ∧ (∀ q, q ≠ p → t.dev.part q = s.dev.part q) ∧ t.dev.cmds = s.dev.cmds)) ∧
  (∀ (s : State) (page i : Nat) (b : Block) (k : PendingCommit), s.running = true → page < 1024 → blockOf page = some (b, i) →
    s.dev.commits.find? (fun k => k.page == page) = some k → s.dev.atBoundary s.outside k = true → (∀ p, s.dev.sessionWaits p k = false) →
    (∀ r, s.dev.commitCheck [] page = some r → r.reason < 256 →
      ∃ t, exec (.commandCommitApply page) s = .next t ∧ bit (t.dev.regN page oStat) 1 = true ∧ bits (t.dev.regN page oStat) 8 8 = r.reason ∧
        t.dev.commits = s.dev.commits.filter (fun k => k.page != page) ∧ t.dev.RegsBut s.dev [regKey page oStat, regKey page oIntStat] ∧
        t.dev.cmds = s.dev.cmds ∧ t.dev.SameMemory s.dev) ∧
    (s.dev.commitCheck [] page = none → b ≠ .rng → b ≠ .kvp → b ≠ .spd →
      ∃ t, exec (.commandCommitApply page) s = .next t ∧ t.dev.reg page oGen = s.dev.reg page oGen + 1 ∧ bit (t.dev.regN page oStat) 3 = false ∧
        (∀ o ∈ b.shadowed, t.dev.reg page (o.1 + 0x400) = s.dev.reg page o.1) ∧ t.dev.commits = s.dev.commits.filter (fun k => k.page != page) ∧
        t.dev.cmds = s.dev.cmds ∧ t.dev.SameMemory s.dev)) ∧
  (∀ (s : State) (p : Nat), s.running = true → p < 64 → p < s.dev.parts.length →
    ((∀ k ∈ s.dev.commits, s.dev.sessionWaits p k = false) → exec (.commitWaitLimit p) s = .next s) ∧
    ((∃ k ∈ s.dev.commits, s.dev.sessionWaits p k = true) → (s.dev.part p).commitOpen = false →
      ∃ t, exec (.commitWaitLimit p) s = .next t ∧ t = { s with dev := { s.dev with now := t.dev.now, parts := t.dev.parts } } ∧ s.dev.now ≤ t.dev.now ∧
        t.dev.part p = { s.dev.part p with commitWait := 16384, commitOpen := true } ∧ (∀ q, q ≠ p → t.dev.part q = s.dev.part q))) ∧
  (∀ (s : State) (n : Nat), s.running = true → n < 64 → n < s.dev.cores.length →
    ((s.dev.core n).zeroing = false → exec (.zeroingDone n) s = .next s) ∧
    ((s.dev.core n).zeroing = true →
      ∃ t, exec (.zeroingDone n) s = .next t ∧ t.dev.core n = { s.dev.core n with zeroing := false } ∧ (∀ m, m ≠ n → t.dev.core m = s.dev.core m) ∧
        t.dev.cmds = s.dev.cmds ∧ t.dev.SameMemory s.dev))

/-- R30, R32, R33, R35: an offset within 1 us from the selected source locks the generator and ends holdover; losing the source counts a holdover entry and marks
the windows; what comes from a source that is not selected changes nothing.
(Model's choices: log entries 15, 75, 105.) -/
def Obligations.TickSources : Prop :=
  ∀ s : State, s.running = true →
    (s.dev.tick.source ≠ 0 → s.dev.tick.seen = true → s.dev.tick.holdover = false →
      ∃ t, exec .tickSourceLost s = .next t ∧ t.dev.tick = { s.dev.tick with locked := false, holdover := true } ∧
        t.dev.regN pgTICK 0x824 = min (s.dev.regN pgTICK 0x824 + 1) (2 ^ 32 - 1) ∧ (∀ x ∈ t.dev.parts, x.window.holdover = true) ∧
        t.dev.cmds = s.dev.cmds ∧ t.dev.SameMemory s.dev) ∧
    (s.dev.tick.source = 0 ∨ (s.dev.tick.seen = true ∧ s.dev.tick.holdover = true) → exec .tickSourceLost s = .next s) ∧
    (∀ ns, -1000 ≤ ns → ns ≤ 1000 → s.dev.tick.source ≠ 0 →
      ∃ t, exec (.tickLocked ns) s = .next t ∧ t.dev.tick = { s.dev.tick with offsetNs := ns, seen := true, locked := true, holdover := false } ∧
        t.dev.parts = s.dev.parts ∧ t.dev.cmds = s.dev.cmds ∧ t.dev.SameMemory s.dev) ∧
    (∀ ns, ns < -1000 ∨ 1000 < ns → exec (.tickLocked ns) s = .next s) ∧
    (∀ ns, -1000 ≤ ns → ns ≤ 1000 → s.dev.tick.source = 2 →
      ∃ t, exec (.tickInEdge ns) s = .next t ∧ t.dev.tick = { s.dev.tick with offsetNs := ns, seen := true, locked := true, holdover := false } ∧
        t.dev.parts = s.dev.parts ∧ t.dev.cmds = s.dev.cmds ∧ t.dev.SameMemory s.dev) ∧
    (∀ ns, s.dev.tick.source ≠ 2 → exec (.tickInEdge ns) s = .next s) ∧
    (∀ ns, -1000 ≤ ns → ns ≤ 1000 → s.dev.tick.source = 3 →
      ∃ t, exec (.ppsInEdge ns) s = .next t ∧ t.dev.tick = { s.dev.tick with offsetNs := ns, seen := true, locked := true, holdover := false } ∧
        t.dev.parts = s.dev.parts ∧ t.dev.cmds = s.dev.cmds ∧ t.dev.SameMemory s.dev) ∧
    (∀ ns, s.dev.tick.source ≠ 3 → exec (.ppsInEdge ns) s = .next s) ∧
    (∀ port domain seconds nano ns, port < 32 → port = bits (s.dev.active pgTICK 0x044) 8 5 → domain = bits (s.dev.active pgTICK 0x044) 0 8 →
      s.dev.tick.source = 1 → -1000 ≤ ns → ns ≤ 1000 →
      ∃ t, exec (.ptpMessage port domain seconds nano ns) s = .next t ∧
        t.dev.tick = { s.dev.tick with ptpBase := ((seconds * 1000000000 + nano : Nat) : Int) - ((s.dev.now * 5 / 6 : Nat) : Int),
                                       offsetNs := ns, seen := true, locked := true, holdover := false } ∧
        t.dev.parts = s.dev.parts ∧ t.dev.cmds = s.dev.cmds ∧ t.dev.SameMemory s.dev) ∧
    (∀ port domain seconds nano ns, port < 32 → port ≠ bits (s.dev.active pgTICK 0x044) 8 5 ∨ domain ≠ bits (s.dev.active pgTICK 0x044) 0 8 →
      exec (.ptpMessage port domain seconds nano ns) s = .next s)

/-! ### Fabric, mail, ports and streams (chapters 15 and 16) -/

/-- R440-R442: the message at the head of a send ring goes to its unit's inbox, or stays while that is full; a waiting message goes into its owner's receive ring;
a received packet is taken once.
(Model's choices: log entries 68, 72.) -/
def Obligations.Mail : Prop :=
  ∀ (s : State) (env : Env), s.running = true → s.fabricReady = true →
    (∀ p b u msg, p < 64 → p < s.dev.parts.length → s.dev.mailOn p = true → (s.dev.part p).mailSqHead ≠ (s.dev.part p).mailSqTail →
      s.dev.readStruct env p (s.dev.addrPair (pgPART p) 0x078 + 64 * (s.dev.part p).mailSqHead) 64 = .ok b →
      msg = putAt b 8 (toLe 2 s.dev.node ++ toLe 1 p ++ toLe 1 0) → bits (fieldAt msg 0 2) 0 14 = s.dev.node → s.dev.mailTarget msg = some u →
      (s.dev.inboxRoom u = true →
        ∃ t, exec (.mailSend p env) s = .next t ∧ t.dev.inbox = s.dev.inbox ++ [⟨u, s.dev.node, p, msg⟩] ∧
          t.dev.part p = { s.dev.part p with mailSqHead := ((s.dev.part p).mailSqHead + 1) % s.dev.mailSize p } ∧
          (∀ q, q ≠ p → t.dev.part q = s.dev.part q) ∧ t.dev.cmds = s.dev.cmds ∧ t.dev.SameMemory s.dev) ∧
      (s.dev.inboxRoom u = false → exec (.mailSend p env) s = .next s)) ∧
    (∀ m u p msg, (∀ q, (s.dev.part q).mailReturns = []) → s.dev.mailNext = some m → s.dev.mailTarget m.msg = some u → (s.dev.unit u).owner = some p →
      msg = putAt (putAt (putAt m.msg 7 [0]) 12 (toLe 2 u)) 6
        (toLe 1 (setBits (fieldAt (putAt (putAt m.msg 7 [0]) 12 (toLe 2 u)) 6 1) 7 1 (b2n (s.dev.part p).mailPhase))) →
      p < s.dev.parts.length → isHost (s.dev.addrPair (pgPART p) 0x080 + 64 * (s.dev.part p).mailRqTail) = false →
      ∃ t, exec (.mailDeliver env) s = .next t ∧ t.dev.inbox = s.dev.inbox.erase m ∧
        t.dev.SameMemory (s.dev.putBytesIn p 0 (s.dev.addrPair (pgPART p) 0x080 + 64 * (s.dev.part p).mailRqTail) msg) ∧
        (t.dev.part p).mailRqTail = ((s.dev.part p).mailRqTail + 1) % s.dev.mailSize p ∧ (∀ q, q ≠ p → t.dev.part q = s.dev.part q) ∧
        t.dev.cmds = s.dev.cmds) ∧
    ((∀ q, (s.dev.part q).mailReturns = []) → s.dev.mailNext = none → exec (.mailDeliver env) s = .next s) ∧
    (∀ (k : BftMail) (r : Dev × RxFlow) (psn : Nat) (msg : Bytes), r = s.dev.rxFlow (bftSource k.raw) 0 (bits (fieldAt k.raw 10 1) 0 2) →
      psn = fieldAt k.raw 12 4 → msg = (k.raw.drop 32).take 64 →
      (r.2.has psn = true → ∃ t, exec (.mailPacketReceive k) s = .next t ∧ t.dev.inbox = s.dev.inbox ∧ t.dev.parts = s.dev.parts ∧
        t.dev.regN pgFAB 0x818 = min (s.dev.regN pgFAB 0x818 + 1) (2 ^ 32 - 1) ∧ t.dev.cmds = s.dev.cmds ∧ t.dev.SameMemory s.dev) ∧
      (∀ u, r.2.has psn = false → bits (fieldAt k.raw 0 1) 4 4 ≠ 3 → s.dev.mailTarget msg = some u → s.dev.inboxRoom u = true →
        ∃ t, exec (.mailPacketReceive k) s = .next t ∧ t.dev.inbox = s.dev.inbox ++ [⟨u, bftSource k.raw, fieldAt msg 10 1, msg⟩] ∧
          t.dev.parts = s.dev.parts ∧ t.dev.cmds = s.dev.cmds ∧ t.dev.SameMemory s.dev) ∧
      (∀ p, r.2.has psn = false → bits (fieldAt k.raw 0 1) 4 4 = 3 → p = fieldAt msg 10 1 % 64 → p < s.dev.parts.length →
        ∃ t, exec (.mailPacketReceive k) s = .next t ∧ t.dev.inbox = s.dev.inbox ∧
          t.dev.part p = { s.dev.part p with mailReturns := (s.dev.part p).mailReturns ++ [msg] } ∧ (∀ q, q ≠ p → t.dev.part q = s.dev.part q) ∧
          t.dev.cmds = s.dev.cmds ∧ t.dev.SameMemory s.dev))

/-- R418-R421: a DATA packet is taken once and counted towards an acknowledgement; an ACK removes what it covers; the ACK delay sends the ACK; a retransmission
keeps the packet, and past the retry limit the flow fails; so does one that is NOT_READY too long; a rate update follows the marks.
(Model's choices: log entries 2, 66.) -/
def Obligations.FabricPackets : Prop :=
  ∀ s : State, s.running = true → s.fabricReady = true →
    (∀ (k : BftData) (j : Job) (r : Dev × RxFlow), r = s.dev.rxFlow (bftSource k.raw) (fieldAt k.raw 6 2) (bits (fieldAt k.raw 10 1) 0 2) →
      s.dev.job? (fieldAt k.raw 6 2) = some j → j.epoch = fieldAt k.raw 8 2 →
      (r.2.has (fieldAt k.raw 12 4) = false → ∃ t, exec (.bftDataReceive k) s = .next t ∧
        t.dev.received = s.dev.received ++ [⟨bftSource k.raw, fieldAt k.raw 6 2, bits (fieldAt k.raw 10 1) 0 2, fieldAt k.raw 24 4, fieldAt k.raw 16 8,
          (k.raw.drop 32).take (fieldAt k.raw 28 2)⟩] ∧ t.dev.cmds = s.dev.cmds ∧ t.dev.SameMemory s.dev) ∧
      (r.2.has (fieldAt k.raw 12 4) = true → ∃ t, exec (.bftDataReceive k) s = .next t ∧ t.dev.received = s.dev.received ∧
        t.dev.regN pgFAB 0x818 = min (s.dev.regN pgFAB 0x818 + 1) (2 ^ 32 - 1) ∧ t.dev.cmds = s.dev.cmds ∧ t.dev.SameMemory s.dev)) ∧
    (∀ (k : BftAck) (f : TxFlow),
      s.dev.txFlows.find? (fun g => g.dst == bits (fieldAt k.raw 2 2) 0 14 && g.job == fieldAt k.raw 6 2 && g.die == bits (fieldAt k.raw 10 1) 0 2) = some f →
      (fieldAt k.raw 46 1 = 1 → exec (.bftAckReceive k) s = .next { s with dev := s.dev.setTx { f with notReadySince := some (f.notReadySince.getD s.dev.now) } }) ∧
      (fieldAt k.raw 46 1 = 0 → f.waiting = [] → (∀ c ∈ s.dev.cmds, c.shipped = false) →
        ∃ t, exec (.bftAckReceive k) s = .next t ∧
          (∀ g ∈ t.dev.txFlows, g.id = f.id → ∀ p ∈ g.unacked, ackCovers (fieldAt k.raw 32 4) (fieldAt k.raw 36 8) p.psn = false) ∧
          t.dev.cmds = s.dev.cmds ∧ t.dev.SameMemory s.dev)) ∧
    (∀ flow f, s.dev.rxFlows.find? (fun g => g.id == flow) = some f →
      (f.unacked = 0 → exec (.ackDelayExpiry flow) s = .next s) ∧
      (f.unacked ≠ 0 → ∃ t, exec (.ackDelayExpiry flow) s = .next t ∧
        t.dev.now = max s.dev.now (f.since + bits (s.dev.active pgFAB 0x060) 8 16) ∧ (∀ g ∈ t.dev.rxFlows, g.id = f.id → g = { f with unacked := 0, ce := 0 }) ∧
        t.dev.cmds = s.dev.cmds ∧ t.dev.SameMemory s.dev)) ∧
    (∀ flow psn f p, s.dev.txFlows.find? (fun g => g.id == flow) = some f → f.unacked.find? (fun q => q.psn == psn) = some p →
      (p.tries < s.dev.retryLimit → f.notReadySince = none → ∃ t, exec (.rtoExpiry flow psn) s = .next t ∧ t.dev.now = max s.dev.now (p.sentAt + s.dev.rtoCycles) ∧
        t.dev.regN pgFAB 0x81C = min (s.dev.regN pgFAB 0x81C + 1) (2 ^ 32 - 1) ∧
        (∀ g ∈ t.dev.txFlows, g.id = f.id → g.unacked.length = f.unacked.length ∧ ∀ q ∈ g.unacked, q.psn = psn → q.sentAt = t.dev.now ∧ q.tries = p.tries + 1) ∧
        t.dev.cmds = s.dev.cmds ∧ t.dev.SameMemory s.dev) ∧
      (s.dev.retryLimit ≤ p.tries → f.notReadySince = none → (∀ c ∈ s.dev.cmds, c.live = false ∨ c.jobId ≠ some f.job) →
        ∃ t, exec (.rtoExpiry flow psn) s = .next t ∧ (∀ g ∈ t.dev.txFlows, g.id ≠ f.id) ∧ (∀ j ∈ t.dev.jobs, f.job ≠ 0 → j.id = f.job → j.failed = true) ∧
          t.dev.regN pgFAB 0x824 = min (s.dev.regN pgFAB 0x824 + 1) (2 ^ 32 - 1) ∧ t.dev.cmds = s.dev.cmds ∧ t.dev.SameMemory s.dev)) ∧
    (∀ flow f n, s.dev.txFlows.find? (fun g => g.id == flow) = some f → f.notReadySince = some n → (∀ c ∈ s.dev.cmds, c.live = false ∨ c.jobId ≠ some f.job) →
      ∃ t, exec (.jobWaitExpiry flow) s = .next t ∧ t.dev.now = max s.dev.now (n + s.dev.jobWaitCycles) ∧ (∀ g ∈ t.dev.txFlows, g.id ≠ f.id) ∧
        (∀ j ∈ t.dev.jobs, f.job ≠ 0 → j.id = f.job → j.failed = true) ∧ t.dev.cmds = s.dev.cmds ∧ t.dev.SameMemory s.dev) ∧
    (∀ flow f, s.dev.txFlows.find? (fun g => g.id == flow) = some f →
      ∃ t, exec (.flowRateUpdate flow) s = .next t ∧ t = { s with dev := { s.dev with now := t.dev.now, txFlows := t.dev.txFlows } } ∧
        t.dev.now = max s.dev.now (f.updatedAt + 12000) ∧
        (∀ g ∈ t.dev.txFlows, g.id = f.id → g.marked = 0 ∧ g.acked = 0 ∧ (f.marked = 0 →
          g.rate = min (s.dev.lineRate f.die : Rat) (f.rate + (bits (s.dev.active pgFAB 0x058) 8 8 : Rat)))))

/-- R414, R452-R455, R461, R464: a port's link goes down or comes up; a packet of no stream is counted and dropped, one that is not fresh fails, another is held
for its frame; a sender report or PLI reaches its stream; the PLI and report timers send RTCP.
(Model's choices: log entries 8, 65, 77.) -/
def Obligations.PortsAndStreams : Prop :=
  ∀ s : State, s.running = true →
    (∀ e, e < 16 → e < s.dev.ports.length →
      ((s.dev.ports.getD e {}).up = false → exec (.ethLinkDown e) s = .next s) ∧
      ((s.dev.ports.getD e {}).up = true → ∃ t, exec (.ethLinkDown e) s = .next t ∧ t.dev.ports.getD e {} = { s.dev.ports.getD e {} with up := false } ∧
        (∀ i, i ≠ e → t.dev.ports.getD i {} = s.dev.ports.getD i {}) ∧
        t.dev.regN (pgETH e) 0x820 = min (s.dev.regN (pgETH e) 0x820 + 1) (2 ^ 32 - 1) ∧ t.dev.cmds = s.dev.cmds ∧ t.dev.SameMemory s.dev) ∧
      ((s.dev.ports.getD e {}).up = false → s.flag fabricFlag = true → s.boot.refclkEth = true → (s.dev.portLanes e).any s.boot.badLanes.contains = false →
        s.dev.portExists e = true → bit (s.dev.active (pgETH e) 0x040) 0 = true →
        ∃ t, exec (.ethLinkUp e) s = .next t ∧ t.dev.ports.getD e {} = { s.dev.ports.getD e {} with up := true } ∧
          (∀ i, i ≠ e → t.dev.ports.getD i {} = s.dev.ports.getD i {}) ∧ t.dev.cmds = s.dev.cmds ∧ t.dev.SameMemory s.dev)) ∧
    (∀ k : UdpPacket, k.port < 16 →
      (s.dev.rtpStream k = none → ∃ t, exec (.rtpReceive k) s = .next t ∧ s.OnlyRegs t ∧ t.dev.RegsBut s.dev [regKey (pgMED (k.port / 4 % 4)) 0x81C] ∧
        t.dev.regN (pgMED (k.port / 4 % 4)) 0x81C = min (s.dev.regN (pgMED (k.port / 4 % 4)) 0x81C + 1) (2 ^ 32 - 1)) ∧
      (∀ x, s.dev.rtpStream k = some x → x.fresh (extendSeq x.highest (beNat ((k.data.drop 2).take 2))) = false →
        ∃ t, exec (.rtpReceive k) s = .next t ∧ t.dev.regN (pgMED x.unit) 0x820 = min (s.dev.regN (pgMED x.unit) 0x820 + 1) (2 ^ 32 - 1) ∧
          t.dev.streams = s.dev.streams ∧ t.dev.cmds = s.dev.cmds ∧ t.dev.SameMemory s.dev) ∧
      (∀ x n, s.dev.rtpStream k = some x → s.dev.stream? x.id = some x → x.srtp = 0 → x.packets = [] → x.lastEnd = none →
        n = extendSeq x.highest (beNat ((k.data.drop 2).take 2)) → bit (fieldAt k.data 1 1) 7 = false → x.fresh n = true →
        ∃ t y, exec (.rtpReceive k) s = .next t ∧ t.dev.stream? x.id = some y ∧
          (Config.rtpModeOk x.codec (rtpPayload k.data) = false → y.packets = []) ∧
          (Config.rtpModeOk x.codec (rtpPayload k.data) = true →
            y.packets = [⟨n, beNat ((k.data.drop 4).take 4), false, rtpPayload k.data, s.dev.ptpAt s.dev.now⟩]) ∧
          y.highest = some (max (x.highest.getD n) n) ∧ y.ready = x.ready ∧ t.dev.cmds = s.dev.cmds ∧ t.dev.SameMemory s.dev) ∧
      (s.dev.rtcpStream k = none → ∃ t, exec (.rtcpReceive k) s = .next t ∧ s.OnlyRegs t ∧ t.dev.RegsBut s.dev [regKey (pgMED (k.port / 4 % 4)) 0x81C] ∧
        t.dev.regN (pgMED (k.port / 4 % 4)) 0x81C = min (s.dev.regN (pgMED (k.port / 4 % 4)) 0x81C + 1) (2 ^ 32 - 1)) ∧
      (∀ x, s.dev.rtcpStream k = some x → s.dev.stream? x.id = some x → x.srtp = 0 → k.data.length = 28 → fieldAt k.data 1 1 = 200 →
        beNat ((k.data.drop 2).take 2) = 6 → x.isSend = false → beNat ((k.data.drop 4).take 4) = x.ssrc →
        ∃ t, exec (.rtcpReceive k) s = .next t ∧ t.dev.cmds = s.dev.cmds ∧ t.dev.SameMemory s.dev ∧
          t.dev.stream? x.id = some { x with report := some (s.dev.ntpToPtp x.unit (beNat ((k.data.drop 8).take 4)) (beNat ((k.data.drop 12).take 4)),
            beNat ((k.data.drop 16).take 4)) })) ∧
    (∀ id x, s.dev.stream? id = some x →
      (x.needKey = false → exec (.pliTimer id) s = .next s) ∧
      (x.needKey = true → x.closing = false → ∃ t, exec (.pliTimer id) s = .next t ∧ t.dev.now = max s.dev.now (x.pliAt + 120000000) ∧
        t.dev.stream? id = some { x with pliAt := t.dev.now } ∧ t.dev.regN (pgMED x.unit) 0x830 = min (s.dev.regN (pgMED x.unit) 0x830 + 1) (2 ^ 32 - 1) ∧
        t.dev.sent.length = s.dev.sent.length + 1 ∧ t.dev.cmds = s.dev.cmds ∧ t.dev.SameMemory s.dev) ∧
      (x.closing = false → ∃ t, exec (.rtcpReportTimer id) s = .next t ∧
        t.dev.now = max s.dev.now (x.rtcpAt + s.dev.active (pgMED x.unit) 0x044 % 65536 * 1200000) ∧ t.dev.stream? id = some { x with rtcpAt := t.dev.now } ∧
        t.dev.sent.length = s.dev.sent.length + 1 ∧ t.dev.cmds = s.dev.cmds ∧ t.dev.SameMemory s.dev))

/-! ### The host link (chapter 17) -/

/-- R475, R476, R478, R485, R487, R489, R541: what the link and its requests change: the link's width and speed, configuration spaces, the functions' commands,
IDE streams and translations.
(Model's choices: log entries 115, 116, 117, 127, 132.) -/
def Obligations.HostLinkEvents : Prop :=
  ∀ s : State, s.running = true →
    (∀ speed width flit, linkOk speed width = true → s.boot.stopped = false →
      ((s.boot.stage 4).result ≠ 1 → ∃ t, exec (.hostLinkUp speed width flit) s = .next t ∧ t.boot = s.boot ∧
        t.dev.regN pgPCI 0x800 = 1 + 2 * speed + 16 * width + 256 * b2n flit ∧ t.dev.cmds = s.dev.cmds ∧ t.dev.SameMemory s.dev) ∧
      ((s.boot.stage 4).result = 1 → s.boot.stages.length = 14 →
        ∃ t, exec (.hostLinkUp speed width flit) s = .next t ∧ (t.boot.stage 4).result = 2 ∧ t.power = s.power ∧ t.flash = s.flash)) ∧
    (∃ t, exec (.hotReset false) s = .next t ∧ t.dev = { s.dev with pci := t.dev.pci } ∧ t.dev.pci.vfEnable = false ∧ t.dev.pci.unmasked = [] ∧
      t.dev.pci.fns = List.replicate 64 {} ∧ t.dev.pci.msixPending = s.dev.pci.msixPending) ∧
    (∃ t, exec (.hotReset true) s = .next t ∧ t.dev.regN pgPCI 0x800 = 0 ∧ t.dev.regN pgPCI 0x80C = min (s.dev.regN pgPCI 0x80C + 1) (2 ^ 32 - 1) ∧
      t.dev.pci.fns = List.replicate 64 {} ∧ t.dev.cmds = s.dev.cmds ∧ t.dev.SameMemory s.dev) ∧
    (∀ f on, f < 64 → s.boot.stopped = false →
      (s.flag ctrlFlag = false → exec (.configSpaceWrite f (.busMaster on)) s = .next (s.send (.retryStatus f))) ∧
      (s.flag ctrlFlag = true → s.dev.pci.hasFn f = true → f < s.dev.pci.fns.length →
        ∃ t, exec (.configSpaceWrite f (.busMaster on)) s = .next t ∧ t.dev.fn f = { s.dev.fn f with busMaster := on } ∧
          (∀ g, g ≠ f → t.dev.fn g = s.dev.fn g) ∧ t.dev.cmds = s.dev.cmds ∧ t.dev.SameMemory s.dev) ∧
      (s.flag ctrlFlag = true → s.dev.pci.hasFn f = true → f < s.dev.pci.fns.length →
        ∃ t, exec (.functionLevelReset f) s = .next t ∧ t.dev.fn f = { flrBusy := true } ∧ (∀ c ∈ t.dev.cmds, c.part ≠ f) ∧
          (∀ x ∈ t.dev.sessions, x.part = f → x.closing = true) ∧ (∀ x ∈ t.dev.jobs, x.part = f → x.closing = true) ∧
          (∀ x ∈ t.dev.pci.unmasked, x.1 ≠ f))) ∧
    (∀ f, f < 64 →
      ((s.dev.fn f).flrBusy = false → exec (.flrBusyClear f) s = .next s) ∧
      ((s.dev.fn f).flrBusy = true → f < s.dev.pci.fns.length → ∃ t, exec (.flrBusyClear f) s = .next t ∧ t.dev.fn f = { s.dev.fn f with flrBusy := false } ∧
        (∀ g, g ≠ f → t.dev.fn g = s.dev.fn g) ∧ t.dev = { s.dev with pci := t.dev.pci })) ∧
    (∀ stream, ((∀ x ∈ s.dev.pci.ide, x.id = stream → x.secure = false) → exec (.ideFailure stream) s = .next s) ∧
      ((∃ x ∈ s.dev.pci.ide, x.id = stream ∧ x.secure = true) → ∃ t, exec (.ideFailure stream) s = .next t ∧
        (∀ x ∈ t.dev.pci.ide, x.id = stream → x.secure = false) ∧ t.dev.regN pgPCI 0x81C = min (s.dev.regN pgPCI 0x81C + 1) (2 ^ 32 - 1) ∧
        t.dev.cmds = s.dev.cmds ∧ t.dev.SameMemory s.dev)) ∧
    (∀ f a n, f < 64 → s.hostOk f = true →
      ∃ t, exec (.atsInvalidate f a n) s = .next t ∧ t.dev.sent = .atsDone f a :: s.dev.sent ∧
        (∀ x ∈ t.dev.pci.atc, x.1 = f → x.2 < a % 2 ^ 47 / 4096 ∨ (a % 2 ^ 47 + n - 1) / 4096 < x.2) ∧
        t.dev.regN pgPCI 0x820 = min (s.dev.regN pgPCI 0x820 + 1) (2 ^ 32 - 1) ∧ t.dev.cmds = s.dev.cmds ∧ t.dev.SameMemory s.dev)

/-- R224, R479, R546: a permitted access through BAR4 reads or writes the cells it reaches; one that is not permitted reads zeros, writes nothing and is counted; a
write to a cell that is not initialised is dropped and counted; an AtomicOp returns the old bytes.
(Model's choices: log entries 114, 118.) -/
def Obligations.HostAccess : Prop :=
  ∀ (s : State) (f off : Nat), f < 64 → s.flag basicFlag = true → s.hostOk f = true →
    (∀ n a, s.dev.inBar4 f off n = true → a = s.dev.apertureAddr f off →
      (s.dev.apertureOk f a n false = true → ∃ t, exec (.apertureRead f off n) s = .next t ∧
        t.dev.sent = .readData f ((List.range n).map (fun i => s.dev.apertureByte s.outside f (a + i))) :: s.dev.sent ∧ t.dev.cmds = s.dev.cmds ∧
        t.dev.SameMemory s.dev) ∧
      (s.dev.apertureOk f a n false = false → ∃ t, exec (.apertureRead f off n) s = .next t ∧ t.dev.sent = .readData f (List.replicate n 0) :: s.dev.sent ∧
        t.dev.regN pgPCI 0x814 = min (s.dev.regN pgPCI 0x814 + 1) (2 ^ 32 - 1) ∧ t.dev.cmds = s.dev.cmds ∧ t.dev.SameMemory s.dev)) ∧
    (∀ data a, s.dev.inBar4 f off data.length = true → a = s.dev.apertureAddr f off →
      (s.dev.apertureOk f a data.length true = true → (∀ k, some k ∈ s.dev.apertureCells f a data.length → cellReady s.outside k = true) →
        ∃ t, exec (.apertureWrite f off data) s = .next t ∧ t.dev.host = s.dev.host ∧ t.dev.spd = s.dev.spd ∧ t.dev.cmds = s.dev.cmds ∧
          t.dev.hbm = ((List.range data.length).zip data).foldl (fun m x => match s.dev.apertureCell f (a + x.1) with
            | some k => m.write k x.2
            | none => m) s.dev.hbm) ∧
      (s.dev.apertureOk f a data.length true = true → (∃ k, some k ∈ s.dev.apertureCells f a data.length ∧ cellReady s.outside k = false) →
        ∃ t, exec (.apertureWrite f off data) s = .next t ∧ s.OnlyRegs t ∧ t.dev.RegsBut s.dev [regKey pgMGT 0x854] ∧
          t.dev.regN pgMGT 0x854 = min (s.dev.regN pgMGT 0x854 + 1) (2 ^ 32 - 1)) ∧
      (s.dev.apertureOk f a data.length true = false →
        ∃ t, exec (.apertureWrite f off data) s = .next t ∧ s.OnlyRegs t ∧ t.dev.RegsBut s.dev [regKey pgPCI 0x814] ∧
          t.dev.regN pgPCI 0x814 = min (s.dev.regN pgPCI 0x814 + 1) (2 ^ 32 - 1))) ∧
    (∀ op a k old, 0 < atomicSize (pcieOp op) → s.dev.inBar4 f off (atomicSize (pcieOp op)) = true → a = s.dev.apertureAddr f off →
      a % atomicSize (pcieOp op) = 0 → s.dev.apertureOk f a (atomicSize (pcieOp op)) true = true → s.dev.apertureCell f a = some k →
      cellReady s.outside k = true → old = s.dev.hbm.readBytes k (atomicSize (pcieOp op)) →
      ∃ t, exec (.atomicop f off op) s = .next t ∧ t.dev.hbm = s.dev.hbm.writeBytes k (atomicApply (pcieOp op) old) ∧
        t.dev.sent = .readData f old :: s.dev.sent ∧ t.dev.host = s.dev.host ∧ t.dev.spd = s.dev.spd ∧ t.dev.cmds = s.dev.cmds) ∧
    (∀ op, s.dev.inBar4 f off (atomicSize (pcieOp op)) = false → exec (.atomicop f off op) s = .next (s.send (.unsupported f)))

/-- R483: an event of a masked vector sets its pending bit and sends nothing, and adds nothing where the bit is set; unmasking a vector whose bit is set sends one
message, once the function may send (R478).
(Model's choices: log entries 116.) -/
def Obligations.MaskedVectors : Prop :=
  (∀ (d : Dev) (f v : Nat), d.pci.unmasked.contains (f, v) = false →
    ((f, v) ∈ (d.sendVector f v).pci.msixPending ∧ (d.sendVector f v).sent = d.sent ∧ (d.sendVector f v).sendVector f v = d.sendVector f v) ∧
    ((f, v) ∈ d.pci.msixPending → d.sendVector f v = d)) ∧
  (∀ (s : State) (f v : Nat), f < 64 → v < (if f = 0 then 2048 else 32) → s.hostOk f = true → s.dev.pci.unmasked.contains (f, v) = false →
    s.dev.pci.msixPending.Nodup → (∀ x ∈ s.dev.pci.msixPending, x.1 = f → x ∉ s.dev.pci.unmasked) →
    ((f, v) ∈ s.dev.pci.msixPending → s.dev.mayRequest f = true → ∃ t, exec (.msixUnmask f v) s = .next t ∧ t.dev.sent = .msix f v :: s.dev.sent ∧
      (f, v) ∉ t.dev.pci.msixPending ∧ (f, v) ∈ t.dev.pci.unmasked ∧ (∀ x, x ≠ (f, v) → (x ∈ t.dev.pci.msixPending ↔ x ∈ s.dev.pci.msixPending)) ∧
      t.dev.cmds = s.dev.cmds ∧ t.dev.SameMemory s.dev) ∧
    ((f, v) ∉ s.dev.pci.msixPending ∨ s.dev.mayRequest f = false → ∃ t, exec (.msixUnmask f v) s = .next t ∧ t.dev.sent = s.dev.sent ∧
      t.dev.pci.msixPending = s.dev.pci.msixPending ∧ (f, v) ∈ t.dev.pci.unmasked ∧ t.dev.cmds = s.dev.cmds ∧ t.dev.SameMemory s.dev))

/-! ### Firmware, monitors, Reef and Masthead (chapter 18) -/

/-- R508-R511, R516: an image is staged, verified and activated; a handover runs in slices and ends with the new image running; COMMIT_SVN raises a rollback
counter to the running image's.
(Model's choices: log entries 18, 122, 123.) -/
def Obligations.Firmware : Prop :=
  ∀ s : State, s.masthead = true →
    (∀ src c, requesterOk src = true → s.srcOk src = true → isVf src = false → s.dev.heldBits src pgMGT 0xC0C fwCtlSpec = 0 →
      (∀ env, c < 3 → s.mgmt.handover = none → s.dev.stageAddr % 4096 = 0 → rangeValid s.dev.stageAddr s.dev.stageLen = true → isHost s.dev.stageAddr = false →
        exec (.stage src c env) s = .next { s with mgmt := { s.mgmt with fwComponent := c, fwStatus := 1, fwBusy := false,
                                                                         staging := some (c, s.dev.stageAddr, s.dev.stageLen, stageLengthBad s.dev.stageLen) } }) ∧
      (∀ env, c < 3 → s.mgmt.handover = none → s.dev.stageAddr % 4096 ≠ 0 →
        ∃ t, exec (.stage src c env) s = .next t ∧ t.mgmt.fwComponent = c ∧ t.mgmt.fwStatus = 3 ∧ t.mgmt.staging = none ∧
          t.dev.regN pgSEC 0x998 = min (s.dev.regN pgSEC 0x998 + 1) (2 ^ 32 - 1) ∧ t.flash = s.flash ∧ t.dev.cmds = s.dev.cmds ∧ t.dev.SameMemory s.dev) ∧
      (c = 1 ∨ c = 2 → (s.flash.stagedOf c).isSome = true → s.mgmt.handover = none → s.mgmt.activate = none →
        exec (.activate src c) s = .next { s with mgmt := { s.mgmt with activate := some (c, s.dev.now), fwBusy := false } }) ∧
      (c < 4 → s.mgmt.activate ≠ none → exec (.activate src c) s = .next { s with mgmt := { s.mgmt with fwBusy := true } }) ∧
      (c < 3 → exec (.commitSvn src c) s =
        .next { s with flash := { s.flash with counters := s.flash.counters.set c (max (s.flash.counters.getD c 0) (s.runningImage c).svn) } })) ∧
    (∀ c a n raw, s.mgmt.staging = some (c, a, n, false) → s.dev.usable s.outside 0 a n = true → raw = s.dev.bytesIn 0 0 a n →
      ∃ t, exec .fwStageComplete s = .next t ∧ t.mgmt.staging = none ∧ t.dev.cmds = s.dev.cmds ∧
        (imageOk c (s.flash.counters.getD c 0) raw = true →
          t.mgmt.fwComponent = c ∧ t.mgmt.fwStatus = 2 ∧ t.flash.stagedOf c = some (parseImage raw) ∧ t.flash.counters = s.flash.counters ∧
          t.dev.SameMemory (s.dev.putReserved (slotAddr c (1 - s.mgmt.slots.getD c 0 % 2)) raw)) ∧
        (imageOk c (s.flash.counters.getD c 0) raw = false → t.mgmt.fwStatus = 3 ∧ t.flash = s.flash ∧ t.dev.SameMemory s.dev)) ∧
    (∀ c used cycles, s.mgmt.handover = some (c, used) →
      (used + cycles ≤ 240000 → exec (.handoverSlice cycles true) s =
        .next { s with mgmt := { s.mgmt with handover := some (c, used + cycles) }, dev := { s.dev with now := s.dev.now + cycles } }) ∧
      (∃ t, exec (.handoverSlice cycles false) s = .next t ∧ t.mgmt = { s.mgmt with fwComponent := c, fwStatus := 6, fwBusy := false, handover := none } ∧
        t.flash = s.flash ∧ t.sec = s.sec ∧ t.dev.cmds = s.dev.cmds ∧ t.dev.SameMemory s.dev) ∧
      (∀ x, s.flash.stagedOf c = some x →
        ∃ t, exec .handoverEnd s = .next t ∧ t.mgmt.handover = none ∧ t.mgmt.fwStatus = 5 ∧ t.mgmt.running = s.mgmt.running.set c x ∧
          t.mgmt.down = decide (c = 1) ∧ t.flash.stagedOf c = none ∧ t.flash.counters = s.flash.counters ∧ t.sec = s.sec.extend 5 x.digest ∧
          t.dev.regN pgMGT 0x84C = min (s.dev.regN pgMGT 0x84C + 1) (2 ^ 32 - 1) ∧ t.dev.cmds = s.dev.cmds ∧ t.dev.SameMemory s.dev)) ∧
    (s.mgmt.handover = none → exec .handoverEnd s = .next s)

/-- R25, R495, R496, R499, R502: a sample fills the die's readings; a supply step moves a rail by at most 5 mV within its window; a reading of the input power is
kept and compared with the step's; a decision selects a step no deeper than the target that meets every reservation, and none while Masthead is down.
(Model's choices: log entries 112, 119, 121.) -/
def Obligations.MonitorsAndReef : Prop :=
  ∀ s : State,
    (∀ die x, die < 4 → s.running = true → s.mgmt.started = true →
      ∃ t, exec (.monitorSample die x) s = .next t ∧ t.dev.now = max s.dev.now (s.dev.nextMs (s.mgmt.sampleAt.getD die 0)) ∧
        (∀ i, i < 16 → t.dev.regN (pgMON die) (0x800 + 4 * i) = ofSigned 16 (x.temps.getD i 0)) ∧
        (∀ r, r < 8 → t.dev.reg (pgMON die) (0x850 + 4 * r) = BitVec.ofNat 32 (x.rails.getD r 0)) ∧ t.dev.cmds = s.dev.cmds ∧ t.dev.SameMemory s.dev) ∧
    (∀ die up, die < 4 → s.masthead = true →
      ∃ t, exec (.avsAdjust die up) s = .next t ∧ t.dev.now = max s.dev.now (s.mgmt.avsAt.getD die 0 + 1200000) ∧
        t.dev.RegsBut s.dev [regKey (pgMON die) 0x848] ∧ t.dev.cmds = s.dev.cmds ∧ t.dev.SameMemory s.dev ∧
        ((Config.avsWindow die).1 ≤ s.dev.regN (pgMON die) 0x848 → s.dev.regN (pgMON die) 0x848 ≤ (Config.avsWindow die).2 → (Config.avsWindow die).2 < 2 ^ 32 →
          (Config.avsWindow die).1 ≤ t.dev.regN (pgMON die) 0x848 ∧ t.dev.regN (pgMON die) 0x848 ≤ (Config.avsWindow die).2 ∧
          (if up then s.dev.regN (pgMON die) 0x848 ≤ t.dev.regN (pgMON die) 0x848 ∧ t.dev.regN (pgMON die) 0x848 ≤ s.dev.regN (pgMON die) 0x848 + 5
           else t.dev.regN (pgMON die) 0x848 ≤ s.dev.regN (pgMON die) 0x848 ∧ s.dev.regN (pgMON die) 0x848 ≤ t.dev.regN (pgMON die) 0x848 + 5))) ∧
    (∀ w, w < 2 ^ 32 → s.masthead = true →
      ∃ t, exec (.powerExcess w) s = .next t ∧ t.dev.regN pgMGT 0x810 = w ∧ t.mgmt.excess = decide (11 * reefWatts s.dev.reef.step ≤ 10 * w) ∧
        t.dev.reef = s.dev.reef ∧ t.dev.cmds = s.dev.cmds ∧ t.dev.SameMemory s.dev) ∧
    (s.masthead = true →
      ∃ t, exec .reefDecision s = .next t ∧ t.dev.reef.step = s.dev.reef.step ∧
        (∀ x at', t.dev.reef.decided = some (x, at') → x ≠ s.dev.reef.step ∧ x ≤ t.dev.reef.target ∧
          (s.dev.reef.emergency = false → x = 0 ∨ s.dev.stepMeets x = true)) ∧
        s.dev.active pgMGT 0x040 % 4 ≤ t.dev.reef.target ∧ t.dev.cmds = s.dev.cmds ∧ t.dev.SameMemory s.dev) ∧
    (s.masthead = false → exec .reefDecision s = .next s)

/-- R488, R492, R493, R515, R529: Masthead's restart and its messages: it is down until it is back, and its restart is counted; a message read, an SPDM request and
an object of the mailbox are answered, and a message during a handover is answered with busy.
(Model's choices: log entries 16.) -/
def Obligations.MastheadAnswers : Prop :=
  ∀ s : State,
    (s.masthead = true → ∃ t, exec .watchdogExpiry s = .next t ∧ t.mgmt.down = true ∧ t.mgmt.alert = true ∧ t.masthead = false ∧ t.dev.cmds = s.dev.cmds ∧
      t.dev.SameMemory s.dev ∧ t.flash = s.flash) ∧
    (s.running = true → s.mgmt.down = true → ∃ t, exec .mastheadRestart s = .next t ∧ t.mgmt.down = false ∧
      t.dev.regN pgMGT 0x848 = min (s.dev.regN pgMGT 0x848 + 1) (2 ^ 32 - 1) ∧ t.dev.cmds = s.dev.cmds ∧ t.dev.SameMemory s.dev ∧ t.flash = s.flash) ∧
    (∀ transport, transport < 2 → s.masthead = true →
      (∀ m req, s.mgmt.handover.isSome = true → s.transportOk transport = true →
        exec (.managementMessage transport m) s = .next (s.send (.busy transport)) ∧ exec (.spdmRequest transport req) s = .next (s.send (.busy transport))) ∧
      (∀ off n, s.mgmt.handover = none → s.transportOk transport = true →
        ∃ t, exec (.managementMessage transport (.read off n)) s = .next t ∧
          t.dev.sent.head? = some (.answer transport (s.readWords (off / 4 * 4) n).2) ∧ t.flash = s.flash ∧ t.mgmt = s.mgmt) ∧
      (∀ off ws, s.mgmt.handover = none → s.transportOk transport = true →
        ∃ t, exec (.managementMessage transport (.write off ws)) s = .next t ∧ t.dev.sent.head? = some (.answer transport []) ∧ t.boot = s.boot) ∧
      (∀ req, s.mgmt.handover = none → s.sec.identityReady = true →
        ∃ t, exec (.spdmRequest transport req) s = .next t ∧
          t.dev.sent = .answer transport (Config.spdmAnswer req s.dev.fresh s.measurements) :: s.dev.sent ∧ t.sec.mrs = s.sec.mrs ∧
          t.dev.cmds = s.dev.cmds ∧ t.dev.SameMemory s.dev)) ∧
    (∀ address, address < 128 → s.masthead = true →
      exec (.i3cAddressAssign address) s = .next { s with mgmt := { s.mgmt with address := address, i3c := true } }) ∧
    (s.hostOk 0 = true →
      (∀ vendor kind len payload, 65536 < len →
        exec (.doeObject vendor kind len payload) s = .next { s with dev := { s.dev with pci := { s.dev.pci with doeError := true } } }) ∧
      (∀ len payload, len ≤ 65536 → ∃ t, exec (.doeObject 1 0 len payload) s = .next t ∧ t.dev.pci.doeResponse = Config.doeDiscovery payload ∧
        t.dev.cmds = s.dev.cmds ∧ t.dev.SameMemory s.dev) ∧
      exec .doeAbort s = .next { s with dev := { s.dev with pci := { s.dev.pci with doeResponse := [], doeError := false } } })

/-! ### Integer chains (chapter 5) -/

/-- R143: an integer chain starts from the INT32 carry-in or from 0; each step adds the product and clamps to 32 bits, and a step that clamps sets SATURATED. The
products come in logical k order, in MATMUL and in CONV. -/
def Obligations.IntegerChains : Prop :=
  (∀ (start : Int) (ps : List (Val × Val)) (f : NumFlags),
    ((intRun start ps).run f).1 = ps.foldl (fun s p => clampInt32 (s + p.1.toInt * p.2.toInt)) start ∧
    ((intRun start ps).run f).2 = { f with saturated := f.saturated || chainClamps start (ps.map (fun p => p.1.toInt * p.2.toInt)) }) ∧
  (∀ (ftz : Bool) (start : Int) (ps : List (Val × Val)) (f : NumFlags),
    (accRun ftz (.int start) ps).run f = (.int ((intRun start ps).run f).1, ((intRun start ps).run f).2)) ∧
  (∀ (d : Dev) (c : Cmd) (co : List Nat) (lo hi i : Nat) (f : NumFlags), i < hi - lo →
    ∃ f1 f2, ((d.mProducts c co lo hi).run f).1[i]? = some
      (((d.streamed c c.mA [lo + i, co.getD 1 0, if (c.tensor c.mA).dim 2 = 1 then 0 else co.getD 2 0, 0, 0]).run f1).1,
       ((d.elemOf c c.mB [lo + i, co.getD 0 0, if (c.tensor c.mB).dim 2 = 1 then 0 else co.getD 2 0, 0, 0]).run f2).1)) ∧
  (∀ (d : Dev) (c : Cmd) (co : List Nat) (lo hi i : Nat) (f : NumFlags), i < hi - lo → c.cvKind ≠ 1 →
    ∃ f1, ((d.cvProducts c co lo hi (fun _ => false)).run f).1[i]? = some
      ((d.cvProduct c (co.getD 0 0) (co.getD 1 0) (co.getD 2 0) (co.getD 3 0) (lo + i)).run f1).1) ∧
  (∀ (d : Dev) (c : Cmd) (co : List Nat) (f : NumFlags), c.mChain = .int 0 →
    (c.mCarry = 0xFF → (d.mStart c co).run f = (.int 0, f)) ∧
    (c.mCarry ≠ 0xFF → ∀ r, r = (d.readElem c.part (c.tensor c.mCarry) co).run f → (d.mStart c co).run f = (.int (toSigned 32 r.1), r.2))) ∧
  (∀ (d : Dev) (c : Cmd) (co : List Nat) (f : NumFlags), c.cvChain = .int 0 →
    (c.cvAux1 = 0xFF → (d.cvStart c co).run f = (.int 0, f)) ∧
    (c.cvAux1 ≠ 0xFF → ∀ r, r = (d.readElem c.part (c.tensor c.cvAux1) co).run f → (d.cvStart c co).run f = (.int (toSigned 32 r.1), r.2)))
end

