-- ==== Sys2Proof/Laws/Mem.lean ====
section
/-! SUPPORT. The laws of association lists and sparse memories: what a read gives after a write, and that every operation keeps the canonical form. -/

namespace Sys2Proof.Machine

/-! ### Association lists -/

theorem assocGet_put_same {α : Type} (d : α) (a : Nat) (x : α) (l : List (Nat × α)) (h : ∀ q ∈ l, q.1 ≠ a) :
    assocGet d (assocPut a x l) a = x := by
  induction l with
  | nil => simp [assocPut, assocGet]
  | cons q r ih =>
    have hq := h q (List.mem_cons_self ..)
    simp only [assocPut]
    split
    · simp [assocGet]
    · simp [assocGet, hq, ih (fun y hy => h y (List.mem_cons_of_mem _ hy))]

theorem assocGet_put_other {α : Type} (d : α) {a b : Nat} (x : α) (l : List (Nat × α)) (h : b ≠ a) :
    assocGet d (assocPut a x l) b = assocGet d l b := by
  induction l with
  | nil => simp [assocPut, assocGet, Ne.symm h]
  | cons q r ih =>
    simp only [assocPut]
    split
    · simp [assocGet, Ne.symm h]
    · simp [assocGet, ih]

theorem assocGet_none {α : Type} (d : α) (a : Nat) (l : List (Nat × α)) (h : ∀ q ∈ l, q.1 ≠ a) : assocGet d l a = d := by
  induction l with
  | nil => rfl
  | cons q r ih => simp [assocGet, h q (List.mem_cons_self ..), ih (fun y hy => h y (List.mem_cons_of_mem _ hy))]

theorem assocGet_filter {α : Type} (d : α) {a b : Nat} (l : List (Nat × α)) (h : b ≠ a) :
    assocGet d (l.filter (fun q => decide (q.1 ≠ a))) b = assocGet d l b := by
  induction l with
  | nil => rfl
  | cons q r ih =>
    rw [List.filter_cons]
    split <;> simp_all [assocGet]
    omega

theorem filter_keys {α : Type} (a : Nat) (l : List (Nat × α)) : ∀ q ∈ l.filter (fun q => decide (q.1 ≠ a)), q.1 ≠ a := by
  intro q hq
  simpa using (List.mem_filter.mp hq).2

/-- A key that has been set reads as its value. -/
theorem assocGet_set_same {α : Type} [DecidableEq α] (d : α) (a : Nat) (x : α) (l : List (Nat × α)) :
    assocGet d (assocSet d a x l) a = x := by
  unfold assocSet
  split
  · rw [assocGet_none _ _ _ (filter_keys a l)]; simp_all
  · exact assocGet_put_same _ _ _ _ (filter_keys a l)

/-- Every other key reads as before. -/
theorem assocGet_set_other {α : Type} [DecidableEq α] (d d' : α) {a b : Nat} (x : α) (l : List (Nat × α)) (h : b ≠ a) :
    assocGet d (assocSet d' a x l) b = assocGet d l b := by
  unfold assocSet
  split
  · exact assocGet_filter _ _ h
  · rw [assocGet_put_other _ _ _ h, assocGet_filter _ _ h]

/-! ### Rising keys -/

theorem risingFrom_weaken {α : Type} {lo hi : Nat} {l : List (Nat × α)} (h : lo ≤ hi) (r : risingFrom hi l = true) :
    risingFrom lo l = true := by
  cases l with
  | nil => rfl
  | cons q r' => simp_all [risingFrom]; omega

theorem risingFrom_filter {α : Type} (f : Nat × α → Bool) (lo : Nat) (l : List (Nat × α)) (h : risingFrom lo l = true) :
    risingFrom lo (l.filter f) = true := by
  induction l generalizing lo with
  | nil => rfl
  | cons q r ih =>
    simp only [risingFrom, Bool.and_eq_true, decide_eq_true_eq] at h
    rw [List.filter_cons]
    split
    · simp only [risingFrom, Bool.and_eq_true, decide_eq_true_eq]
      exact ⟨h.1, ih _ h.2⟩
    · exact risingFrom_weaken (by omega) (ih _ h.2)

theorem risingFrom_put {α : Type} (a : Nat) (x : α) (lo : Nat) (l : List (Nat × α)) (h : risingFrom lo l = true) (hlo : lo ≤ a)
    (hk : ∀ q ∈ l, q.1 ≠ a) : risingFrom lo (assocPut a x l) = true := by
  induction l generalizing lo with
  | nil => simp [assocPut, risingFrom, hlo]
  | cons q r ih =>
    simp only [risingFrom, Bool.and_eq_true, decide_eq_true_eq] at h
    have hq := hk q (List.mem_cons_self ..)
    simp only [assocPut]
    split
    · simp only [risingFrom, Bool.and_eq_true, decide_eq_true_eq]
      exact ⟨hlo, by omega, h.2⟩
    · simp only [risingFrom, Bool.and_eq_true, decide_eq_true_eq]
      exact ⟨h.1, ih _ h.2 (by omega) (fun y hy => hk y (List.mem_cons_of_mem _ hy))⟩

theorem mem_assocPut {α : Type} {a : Nat} {x : α} {l : List (Nat × α)} {q : Nat × α} (h : q ∈ assocPut a x l) : q = (a, x) ∨ q ∈ l := by
  induction l with
  | nil => simpa [assocPut] using h
  | cons y r ih =>
    simp only [assocPut] at h
    split at h
    · simpa using h
    · rcases List.mem_cons.mp h with h | h
      · exact .inr (by simp [h])
      · rcases ih h with h | h
        · exact .inl h
        · exact .inr (by simp [h])

/-! ### One byte -/

theorem cellGet_put_same (a : Nat) (x : Byte) (l : List (Nat × Byte)) (h : ∀ q ∈ l, q.1 ≠ a) : cellGet (assocPut a x l) a = some x := by
  induction l with
  | nil => simp [assocPut, cellGet]
  | cons q r ih =>
    have hq := h q (List.mem_cons_self ..)
    simp only [assocPut]
    split
    · simp [cellGet]
    · simp [cellGet, hq, ih (fun y hy => h y (List.mem_cons_of_mem _ hy))]

theorem cellGet_put_other {a b : Nat} (x : Byte) (l : List (Nat × Byte)) (h : b ≠ a) : cellGet (assocPut a x l) b = cellGet l b := by
  induction l with
  | nil => simp [assocPut, cellGet, Ne.symm h]
  | cons q r ih =>
    simp only [assocPut]
    split
    · simp [cellGet, Ne.symm h]
    · simp [cellGet, ih]

theorem cellGet_none (a : Nat) (l : List (Nat × Byte)) (h : ∀ q ∈ l, q.1 ≠ a) : cellGet l a = none := by
  induction l with
  | nil => rfl
  | cons q r ih => simp [cellGet, h q (List.mem_cons_self ..), ih (fun y hy => h y (List.mem_cons_of_mem _ hy))]

theorem cellGet_filter (f : Nat × Byte → Bool) {a : Nat} (l : List (Nat × Byte)) (h : ∀ v, f (a, v) = true) :
    cellGet (l.filter f) a = cellGet l a := by
  induction l with
  | nil => rfl
  | cons q r ih =>
    obtain ⟨k, v⟩ := q
    by_cases hk : k = a
    · subst hk; simp [h, cellGet]
    · rw [List.filter_cons]
      split <;> simp [cellGet, hk, ih]

theorem cellGet_set_same (a : Nat) (x : Option Byte) (l : List (Nat × Byte)) : cellGet (cellSet a x l) a = x := by
  cases x with
  | none => exact cellGet_none _ _ (filter_keys a l)
  | some b => exact cellGet_put_same _ _ _ (filter_keys a l)

theorem cellGet_set_other {a c : Nat} (x : Option Byte) (l : List (Nat × Byte)) (h : c ≠ a) : cellGet (cellSet a x l) c = cellGet l c := by
  cases x with
  | none => exact cellGet_filter _ _ (by simp [h])
  | some b => exact (cellGet_put_other _ _ h).trans (cellGet_filter _ _ (by simp [h]))

/-- A byte that has been written reads as it was written. -/
@[simp] theorem Mem.read_write_same (m : Mem) (a : Nat) (b : Byte) : (m.write a b).read a = b := by
  simp only [Mem.write, Mem.read, cellGet_set_same]
  by_cases h : b = 0 ∧ openTag m.opens a = none
  · simp [h, Mem.unlisted]
  · have h' : ¬ ((decide (b = 0) && (openTag m.opens a).isNone) = true) := by simpa using h
    rw [if_neg h']

/-- Every other byte reads as before. -/
theorem Mem.read_write_other (m : Mem) {a c : Nat} (b : Byte) (h : c ≠ a) : (m.write a b).read c = m.read c := by
  simp only [Mem.write, Mem.read, cellGet_set_other _ _ h]
  rfl

@[simp] theorem Mem.write_opens (m : Mem) (a : Nat) (b : Byte) : (m.write a b).opens = m.opens := rfl

/-! ### Strings of bytes -/

theorem Mem.read_writeBytes_below (m : Mem) (bs : Bytes) (a c : Nat) (h : c < a) : (m.writeBytes a bs).read c = m.read c := by
  induction bs generalizing m a with
  | nil => rfl
  | cons b bs ih => rw [Mem.writeBytes, ih _ _ (by omega), Mem.read_write_other _ _ (by omega)]

/-- Bytes outside a written string read as before. -/
theorem Mem.read_writeBytes_other (m : Mem) (bs : Bytes) (a c : Nat) (h : c < a ∨ a + bs.length ≤ c) :
    (m.writeBytes a bs).read c = m.read c := by
  induction bs generalizing m a with
  | nil => rfl
  | cons b bs ih =>
    simp only [List.length_cons] at h
    rw [Mem.writeBytes, ih _ _ (by omega), Mem.read_write_other _ _ (by omega)]

/-- A written string reads back. -/
theorem Mem.readBytes_writeBytes (m : Mem) (bs : Bytes) (a : Nat) : (m.writeBytes a bs).readBytes a bs.length = bs := by
  induction bs generalizing m a with
  | nil => rfl
  | cons b bs ih =>
    simp only [List.length_cons, Mem.readBytes, Mem.writeBytes]
    rw [ih, Mem.read_writeBytes_below _ _ _ _ (by omega), Mem.read_write_same]

/-! ### The canonical form -/

theorem Mem.wf_iff (m : Mem) : m.wf = true ↔ risingFrom 0 m.cells = true ∧ ∀ c ∈ m.cells, c.2 ≠ 0 ∨ (openTag m.opens c.1).isSome = true := by
  simp [Mem.wf]

theorem Mem.write_wf (m : Mem) (a : Nat) (b : Byte) (h : m.wf = true) : (m.write a b).wf = true := by
  rw [Mem.wf_iff] at *
  have hr := risingFrom_filter (fun q => decide (q.1 ≠ a)) 0 m.cells h.1
  have hall : ∀ c ∈ m.cells.filter (fun q => decide (q.1 ≠ a)), c.2 ≠ 0 ∨ (openTag m.opens c.1).isSome = true :=
    fun c hc => h.2 c (List.mem_filter.mp hc).1
  simp only [Mem.write, cellSet]
  by_cases hb : b = 0 ∧ openTag m.opens a = none
  · simp only [hb, Option.isNone_none, decide_true, Bool.and_self, if_true]
    exact ⟨hr, hall⟩
  · have hb' : ¬ ((decide (b = 0) && (openTag m.opens a).isNone) = true) := by simpa using hb
    simp only [hb']
    refine ⟨risingFrom_put _ _ _ _ hr (Nat.zero_le _) (filter_keys a m.cells), fun c hc => ?_⟩
    rcases mem_assocPut hc with rfl | hc
    · by_cases h0 : b = 0
      · exact .inr (by simpa [h0, Option.isSome_iff_ne_none] using hb)
      · exact .inl h0
    · exact hall c hc

theorem Mem.writeBytes_wf (m : Mem) (a : Nat) (bs : Bytes) (h : m.wf = true) : (m.writeBytes a bs).wf = true := by
  induction bs generalizing m a with
  | nil => exact h
  | cons b bs ih => exact ih _ _ (m.write_wf a b h)

theorem Mem.undefine_wf (m : Mem) (a n t : Nat) (h : m.wf = true) : (m.undefine a n t).wf = true := by
  rw [Mem.wf_iff] at *
  refine ⟨risingFrom_filter _ _ _ h.1, fun c hc => ?_⟩
  have hc' := List.mem_filter.mp hc
  rcases h.2 c hc'.1 with h0 | h0
  · exact .inl h0
  · right
    simp only [Mem.undefine, openTag]
    split <;> simp_all

theorem openTag_append (l r : List (Nat × Nat × Nat)) (a : Nat) : openTag (l ++ r) a = (openTag l a).or (openTag r a) := by
  induction l with
  | nil => simp [openTag]
  | cons q l ih => simp only [List.cons_append, openTag]; split <;> simp [ih]

theorem openTag_cut (a n : Nat) (r : Nat × Nat × Nat) (c : Nat) (h : c < a ∨ a + n ≤ c) :
    openTag (openCut a n r) c = if r.1 ≤ c ∧ c < r.1 + r.2.1 then some r.2.2 else none := by
  unfold openCut
  simp only [openTag_append]
  split <;> split <;> simp only [openTag] <;> repeat' split
  all_goals first | rfl | (exfalso; omega) | skip

theorem Mem.zero_wf (m : Mem) (a n : Nat) (h : m.wf = true) : (m.zero a n).wf = true := by
  rw [Mem.wf_iff] at *
  refine ⟨risingFrom_filter _ _ _ h.1, fun c hc => ?_⟩
  have hc' := List.mem_filter.mp hc
  have hout : c.1 < a ∨ a + n ≤ c.1 := by simpa using hc'.2
  rcases h.2 c hc'.1 with h0 | h0
  · exact .inl h0
  · right
    have : ∀ l : List (Nat × Nat × Nat), openTag (l.flatMap (openCut a n)) c.1 = openTag l c.1 := by
      intro l
      induction l with
      | nil => rfl
      | cons q l ih =>
        rw [List.flatMap_cons, openTag_append, ih, openTag_cut _ _ _ _ hout]
        simp only [openTag]
        split <;> simp
    simpa [Mem.zero, this] using h0

end Sys2Proof.Machine
end

