-- ==== Sys2Proof/Laws/State.lean ====
section
/-! SUPPORT. What each update of the device leaves as it was, field by field, and what a register reads after it. -/

namespace Sys2Proof.Machine

/-! ### State -/

@[simp] theorem State.onDev_pending (s : State) (f : Dev → Dev) : (s.onDev f).pending = s.pending := by unfold State.onDev; split <;> rfl
@[simp] theorem State.onDev_flash (s : State) (f : Dev → Dev) : (s.onDev f).flash = s.flash := by unfold State.onDev; split <;> rfl
@[simp] theorem State.onDev_sec (s : State) (f : Dev → Dev) : (s.onDev f).sec = s.sec := by unfold State.onDev; split <;> rfl
@[simp] theorem State.onDev_boot (s : State) (f : Dev → Dev) : (s.onDev f).boot = s.boot := by unfold State.onDev; split <;> rfl
@[simp] theorem State.onDev_power (s : State) (f : Dev → Dev) : (s.onDev f).power = s.power := by unfold State.onDev; split <;> rfl
@[simp] theorem State.onDev_mgmt (s : State) (f : Dev → Dev) : (s.onDev f).mgmt = s.mgmt := by unfold State.onDev; split <;> rfl

/-- While the device runs its commands act on it. -/
theorem State.onDev_dev (s : State) (f : Dev → Dev) (h : s.running = true) : (s.onDev f).dev = f s.dev := by simp [State.onDev, h]

/-- While it does not, they leave it alone. -/
theorem State.onDev_held (s : State) (f : Dev → Dev) (h : s.running = false) : s.onDev f = s := by simp [State.onDev, h]

/-! ### The device, field by field -/


@[simp] theorem Dev.setReg_now (d : Dev) (page off : Nat) (v : Word) : (d.setReg page off v).now = d.now := rfl
@[simp] theorem Dev.setReg_fresh (d : Dev) (page off : Nat) (v : Word) : (d.setReg page off v).fresh = d.fresh := rfl
@[simp] theorem Dev.setReg_commits (d : Dev) (page off : Nat) (v : Word) : (d.setReg page off v).commits = d.commits := rfl
@[simp] theorem Dev.setReg_tick (d : Dev) (page off : Nat) (v : Word) : (d.setReg page off v).tick = d.tick := rfl
@[simp] theorem Dev.setReg_hbm (d : Dev) (page off : Nat) (v : Word) : (d.setReg page off v).hbm = d.hbm := rfl
@[simp] theorem Dev.setReg_host (d : Dev) (page off : Nat) (v : Word) : (d.setReg page off v).host = d.host := rfl
@[simp] theorem Dev.setReg_spd (d : Dev) (page off : Nat) (v : Word) : (d.setReg page off v).spd = d.spd := rfl
@[simp] theorem Dev.setReg_tags (d : Dev) (page off : Nat) (v : Word) : (d.setReg page off v).tags = d.tags := rfl
@[simp] theorem Dev.setReg_lines (d : Dev) (page off : Nat) (v : Word) : (d.setReg page off v).lines = d.lines := rfl
@[simp] theorem Dev.setReg_flushing (d : Dev) (page off : Nat) (v : Word) : (d.setReg page off v).flushing = d.flushing := rfl
@[simp] theorem Dev.setReg_arrays (d : Dev) (page off : Nat) (v : Word) : (d.setReg page off v).arrays = d.arrays := rfl
@[simp] theorem Dev.setReg_engines (d : Dev) (page off : Nat) (v : Word) : (d.setReg page off v).engines = d.engines := rfl
@[simp] theorem Dev.setReg_cores (d : Dev) (page off : Nat) (v : Word) : (d.setReg page off v).cores = d.cores := rfl
@[simp] theorem Dev.setReg_stackUnits (d : Dev) (page off : Nat) (v : Word) : (d.setReg page off v).stackUnits = d.stackUnits := rfl
@[simp] theorem Dev.setReg_parts (d : Dev) (page off : Nat) (v : Word) : (d.setReg page off v).parts = d.parts := rfl
@[simp] theorem Dev.setReg_cmds (d : Dev) (page off : Nat) (v : Word) : (d.setReg page off v).cmds = d.cmds := rfl
@[simp] theorem Dev.setReg_nextUid (d : Dev) (page off : Nat) (v : Word) : (d.setReg page off v).nextUid = d.nextUid := rfl
@[simp] theorem Dev.setReg_records (d : Dev) (page off : Nat) (v : Word) : (d.setReg page off v).records = d.records := rfl
@[simp] theorem Dev.setReg_plans (d : Dev) (page off : Nat) (v : Word) : (d.setReg page off v).plans = d.plans := rfl
@[simp] theorem Dev.setReg_saved (d : Dev) (page off : Nat) (v : Word) : (d.setReg page off v).saved = d.saved := rfl
@[simp] theorem Dev.setReg_reef (d : Dev) (page off : Nat) (v : Word) : (d.setReg page off v).reef = d.reef := rfl
@[simp] theorem Dev.setReg_sessions (d : Dev) (page off : Nat) (v : Word) : (d.setReg page off v).sessions = d.sessions := rfl
@[simp] theorem Dev.setReg_jobs (d : Dev) (page off : Nat) (v : Word) : (d.setReg page off v).jobs = d.jobs := rfl
@[simp] theorem Dev.setReg_txFlows (d : Dev) (page off : Nat) (v : Word) : (d.setReg page off v).txFlows = d.txFlows := rfl
@[simp] theorem Dev.setReg_rxFlows (d : Dev) (page off : Nat) (v : Word) : (d.setReg page off v).rxFlows = d.rxFlows := rfl
@[simp] theorem Dev.setReg_nextFlow (d : Dev) (page off : Nat) (v : Word) : (d.setReg page off v).nextFlow = d.nextFlow := rfl
@[simp] theorem Dev.setReg_received (d : Dev) (page off : Nat) (v : Word) : (d.setReg page off v).received = d.received := rfl
@[simp] theorem Dev.setReg_rig (d : Dev) (page off : Nat) (v : Word) : (d.setReg page off v).rig = d.rig := rfl
@[simp] theorem Dev.setReg_rigQueue (d : Dev) (page off : Nat) (v : Word) : (d.setReg page off v).rigQueue = d.rigQueue := rfl
@[simp] theorem Dev.setReg_inbox (d : Dev) (page off : Nat) (v : Word) : (d.setReg page off v).inbox = d.inbox := rfl
@[simp] theorem Dev.setReg_reducers (d : Dev) (page off : Nat) (v : Word) : (d.setReg page off v).reducers = d.reducers := rfl
@[simp] theorem Dev.setReg_ports (d : Dev) (page off : Nat) (v : Word) : (d.setReg page off v).ports = d.ports := rfl
@[simp] theorem Dev.setReg_streams (d : Dev) (page off : Nat) (v : Word) : (d.setReg page off v).streams = d.streams := rfl
@[simp] theorem Dev.setReg_ingest (d : Dev) (page off : Nat) (v : Word) : (d.setReg page off v).ingest = d.ingest := rfl
@[simp] theorem Dev.setReg_elog (d : Dev) (page off : Nat) (v : Word) : (d.setReg page off v).elog = d.elog := rfl
@[simp] theorem Dev.setReg_elogSeq (d : Dev) (page off : Nat) (v : Word) : (d.setReg page off v).elogSeq = d.elogSeq := rfl
@[simp] theorem Dev.setReg_elogRing (d : Dev) (page off : Nat) (v : Word) : (d.setReg page off v).elogRing = d.elogRing := rfl
@[simp] theorem Dev.setReg_flashLog (d : Dev) (page off : Nat) (v : Word) : (d.setReg page off v).flashLog = d.flashLog := rfl
@[simp] theorem Dev.setReg_pci (d : Dev) (page off : Nat) (v : Word) : (d.setReg page off v).pci = d.pci := rfl
@[simp] theorem Dev.setReg_atomicOld (d : Dev) (page off : Nat) (v : Word) : (d.setReg page off v).atomicOld = d.atomicOld := rfl
@[simp] theorem Dev.setReg_sent (d : Dev) (page off : Nat) (v : Word) : (d.setReg page off v).sent = d.sent := rfl

@[simp] theorem Dev.bump_now (d : Dev) (page off n : Nat) : (d.bump page off n).now = d.now := rfl
@[simp] theorem Dev.bump_fresh (d : Dev) (page off n : Nat) : (d.bump page off n).fresh = d.fresh := rfl
@[simp] theorem Dev.bump_commits (d : Dev) (page off n : Nat) : (d.bump page off n).commits = d.commits := rfl
@[simp] theorem Dev.bump_tick (d : Dev) (page off n : Nat) : (d.bump page off n).tick = d.tick := rfl
@[simp] theorem Dev.bump_hbm (d : Dev) (page off n : Nat) : (d.bump page off n).hbm = d.hbm := rfl
@[simp] theorem Dev.bump_host (d : Dev) (page off n : Nat) : (d.bump page off n).host = d.host := rfl
@[simp] theorem Dev.bump_spd (d : Dev) (page off n : Nat) : (d.bump page off n).spd = d.spd := rfl
@[simp] theorem Dev.bump_tags (d : Dev) (page off n : Nat) : (d.bump page off n).tags = d.tags := rfl
@[simp] theorem Dev.bump_lines (d : Dev) (page off n : Nat) : (d.bump page off n).lines = d.lines := rfl
@[simp] theorem Dev.bump_flushing (d : Dev) (page off n : Nat) : (d.bump page off n).flushing = d.flushing := rfl
@[simp] theorem Dev.bump_arrays (d : Dev) (page off n : Nat) : (d.bump page off n).arrays = d.arrays := rfl
@[simp] theorem Dev.bump_engines (d : Dev) (page off n : Nat) : (d.bump page off n).engines = d.engines := rfl
@[simp] theorem Dev.bump_cores (d : Dev) (page off n : Nat) : (d.bump page off n).cores = d.cores := rfl
@[simp] theorem Dev.bump_stackUnits (d : Dev) (page off n : Nat) : (d.bump page off n).stackUnits = d.stackUnits := rfl
@[simp] theorem Dev.bump_parts (d : Dev) (page off n : Nat) : (d.bump page off n).parts = d.parts := rfl
@[simp] theorem Dev.bump_cmds (d : Dev) (page off n : Nat) : (d.bump page off n).cmds = d.cmds := rfl
@[simp] theorem Dev.bump_nextUid (d : Dev) (page off n : Nat) : (d.bump page off n).nextUid = d.nextUid := rfl
@[simp] theorem Dev.bump_records (d : Dev) (page off n : Nat) : (d.bump page off n).records = d.records := rfl
@[simp] theorem Dev.bump_plans (d : Dev) (page off n : Nat) : (d.bump page off n).plans = d.plans := rfl
@[simp] theorem Dev.bump_saved (d : Dev) (page off n : Nat) : (d.bump page off n).saved = d.saved := rfl
@[simp] theorem Dev.bump_reef (d : Dev) (page off n : Nat) : (d.bump page off n).reef = d.reef := rfl
@[simp] theorem Dev.bump_sessions (d : Dev) (page off n : Nat) : (d.bump page off n).sessions = d.sessions := rfl
@[simp] theorem Dev.bump_jobs (d : Dev) (page off n : Nat) : (d.bump page off n).jobs = d.jobs := rfl
@[simp] theorem Dev.bump_txFlows (d : Dev) (page off n : Nat) : (d.bump page off n).txFlows = d.txFlows := rfl
@[simp] theorem Dev.bump_rxFlows (d : Dev) (page off n : Nat) : (d.bump page off n).rxFlows = d.rxFlows := rfl
@[simp] theorem Dev.bump_nextFlow (d : Dev) (page off n : Nat) : (d.bump page off n).nextFlow = d.nextFlow := rfl
@[simp] theorem Dev.bump_received (d : Dev) (page off n : Nat) : (d.bump page off n).received = d.received := rfl
@[simp] theorem Dev.bump_rig (d : Dev) (page off n : Nat) : (d.bump page off n).rig = d.rig := rfl
@[simp] theorem Dev.bump_rigQueue (d : Dev) (page off n : Nat) : (d.bump page off n).rigQueue = d.rigQueue := rfl
@[simp] theorem Dev.bump_inbox (d : Dev) (page off n : Nat) : (d.bump page off n).inbox = d.inbox := rfl
@[simp] theorem Dev.bump_reducers (d : Dev) (page off n : Nat) : (d.bump page off n).reducers = d.reducers := rfl
@[simp] theorem Dev.bump_ports (d : Dev) (page off n : Nat) : (d.bump page off n).ports = d.ports := rfl
@[simp] theorem Dev.bump_streams (d : Dev) (page off n : Nat) : (d.bump page off n).streams = d.streams := rfl
@[simp] theorem Dev.bump_ingest (d : Dev) (page off n : Nat) : (d.bump page off n).ingest = d.ingest := rfl
@[simp] theorem Dev.bump_elog (d : Dev) (page off n : Nat) : (d.bump page off n).elog = d.elog := rfl
@[simp] theorem Dev.bump_elogSeq (d : Dev) (page off n : Nat) : (d.bump page off n).elogSeq = d.elogSeq := rfl
@[simp] theorem Dev.bump_elogRing (d : Dev) (page off n : Nat) : (d.bump page off n).elogRing = d.elogRing := rfl
@[simp] theorem Dev.bump_flashLog (d : Dev) (page off n : Nat) : (d.bump page off n).flashLog = d.flashLog := rfl
@[simp] theorem Dev.bump_pci (d : Dev) (page off n : Nat) : (d.bump page off n).pci = d.pci := rfl
@[simp] theorem Dev.bump_atomicOld (d : Dev) (page off n : Nat) : (d.bump page off n).atomicOld = d.atomicOld := rfl
@[simp] theorem Dev.bump_sent (d : Dev) (page off n : Nat) : (d.bump page off n).sent = d.sent := rfl

@[simp] theorem Dev.setWide_now (d : Dev) (page off v : Nat) : (d.setWide page off v).now = d.now := rfl
@[simp] theorem Dev.setWide_fresh (d : Dev) (page off v : Nat) : (d.setWide page off v).fresh = d.fresh := rfl
@[simp] theorem Dev.setWide_commits (d : Dev) (page off v : Nat) : (d.setWide page off v).commits = d.commits := rfl
@[simp] theorem Dev.setWide_tick (d : Dev) (page off v : Nat) : (d.setWide page off v).tick = d.tick := rfl
@[simp] theorem Dev.setWide_hbm (d : Dev) (page off v : Nat) : (d.setWide page off v).hbm = d.hbm := rfl
@[simp] theorem Dev.setWide_host (d : Dev) (page off v : Nat) : (d.setWide page off v).host = d.host := rfl
@[simp] theorem Dev.setWide_spd (d : Dev) (page off v : Nat) : (d.setWide page off v).spd = d.spd := rfl
@[simp] theorem Dev.setWide_tags (d : Dev) (page off v : Nat) : (d.setWide page off v).tags = d.tags := rfl
@[simp] theorem Dev.setWide_lines (d : Dev) (page off v : Nat) : (d.setWide page off v).lines = d.lines := rfl
@[simp] theorem Dev.setWide_flushing (d : Dev) (page off v : Nat) : (d.setWide page off v).flushing = d.flushing := rfl
@[simp] theorem Dev.setWide_arrays (d : Dev) (page off v : Nat) : (d.setWide page off v).arrays = d.arrays := rfl
@[simp] theorem Dev.setWide_engines (d : Dev) (page off v : Nat) : (d.setWide page off v).engines = d.engines := rfl
@[simp] theorem Dev.setWide_cores (d : Dev) (page off v : Nat) : (d.setWide page off v).cores = d.cores := rfl
@[simp] theorem Dev.setWide_stackUnits (d : Dev) (page off v : Nat) : (d.setWide page off v).stackUnits = d.stackUnits := rfl
@[simp] theorem Dev.setWide_parts (d : Dev) (page off v : Nat) : (d.setWide page off v).parts = d.parts := rfl
@[simp] theorem Dev.setWide_cmds (d : Dev) (page off v : Nat) : (d.setWide page off v).cmds = d.cmds := rfl
@[simp] theorem Dev.setWide_nextUid (d : Dev) (page off v : Nat) : (d.setWide page off v).nextUid = d.nextUid := rfl
@[simp] theorem Dev.setWide_records (d : Dev) (page off v : Nat) : (d.setWide page off v).records = d.records := rfl
@[simp] theorem Dev.setWide_plans (d : Dev) (page off v : Nat) : (d.setWide page off v).plans = d.plans := rfl
@[simp] theorem Dev.setWide_saved (d : Dev) (page off v : Nat) : (d.setWide page off v).saved = d.saved := rfl
@[simp] theorem Dev.setWide_reef (d : Dev) (page off v : Nat) : (d.setWide page off v).reef = d.reef := rfl
@[simp] theorem Dev.setWide_sessions (d : Dev) (page off v : Nat) : (d.setWide page off v).sessions = d.sessions := rfl
@[simp] theorem Dev.setWide_jobs (d : Dev) (page off v : Nat) : (d.setWide page off v).jobs = d.jobs := rfl
@[simp] theorem Dev.setWide_txFlows (d : Dev) (page off v : Nat) : (d.setWide page off v).txFlows = d.txFlows := rfl
@[simp] theorem Dev.setWide_rxFlows (d : Dev) (page off v : Nat) : (d.setWide page off v).rxFlows = d.rxFlows := rfl
@[simp] theorem Dev.setWide_nextFlow (d : Dev) (page off v : Nat) : (d.setWide page off v).nextFlow = d.nextFlow := rfl
@[simp] theorem Dev.setWide_received (d : Dev) (page off v : Nat) : (d.setWide page off v).received = d.received := rfl
@[simp] theorem Dev.setWide_rig (d : Dev) (page off v : Nat) : (d.setWide page off v).rig = d.rig := rfl
@[simp] theorem Dev.setWide_rigQueue (d : Dev) (page off v : Nat) : (d.setWide page off v).rigQueue = d.rigQueue := rfl
@[simp] theorem Dev.setWide_inbox (d : Dev) (page off v : Nat) : (d.setWide page off v).inbox = d.inbox := rfl
@[simp] theorem Dev.setWide_reducers (d : Dev) (page off v : Nat) : (d.setWide page off v).reducers = d.reducers := rfl
@[simp] theorem Dev.setWide_ports (d : Dev) (page off v : Nat) : (d.setWide page off v).ports = d.ports := rfl
@[simp] theorem Dev.setWide_streams (d : Dev) (page off v : Nat) : (d.setWide page off v).streams = d.streams := rfl
@[simp] theorem Dev.setWide_ingest (d : Dev) (page off v : Nat) : (d.setWide page off v).ingest = d.ingest := rfl
@[simp] theorem Dev.setWide_elog (d : Dev) (page off v : Nat) : (d.setWide page off v).elog = d.elog := rfl
@[simp] theorem Dev.setWide_elogSeq (d : Dev) (page off v : Nat) : (d.setWide page off v).elogSeq = d.elogSeq := rfl
@[simp] theorem Dev.setWide_elogRing (d : Dev) (page off v : Nat) : (d.setWide page off v).elogRing = d.elogRing := rfl
@[simp] theorem Dev.setWide_flashLog (d : Dev) (page off v : Nat) : (d.setWide page off v).flashLog = d.flashLog := rfl
@[simp] theorem Dev.setWide_pci (d : Dev) (page off v : Nat) : (d.setWide page off v).pci = d.pci := rfl
@[simp] theorem Dev.setWide_atomicOld (d : Dev) (page off v : Nat) : (d.setWide page off v).atomicOld = d.atomicOld := rfl
@[simp] theorem Dev.setWide_sent (d : Dev) (page off v : Nat) : (d.setWide page off v).sent = d.sent := rfl

@[simp] theorem Dev.bumpWide_now (d : Dev) (page off n : Nat) : (d.bumpWide page off n).now = d.now := rfl
@[simp] theorem Dev.bumpWide_fresh (d : Dev) (page off n : Nat) : (d.bumpWide page off n).fresh = d.fresh := rfl
@[simp] theorem Dev.bumpWide_commits (d : Dev) (page off n : Nat) : (d.bumpWide page off n).commits = d.commits := rfl
@[simp] theorem Dev.bumpWide_tick (d : Dev) (page off n : Nat) : (d.bumpWide page off n).tick = d.tick := rfl
@[simp] theorem Dev.bumpWide_hbm (d : Dev) (page off n : Nat) : (d.bumpWide page off n).hbm = d.hbm := rfl
@[simp] theorem Dev.bumpWide_host (d : Dev) (page off n : Nat) : (d.bumpWide page off n).host = d.host := rfl
@[simp] theorem Dev.bumpWide_spd (d : Dev) (page off n : Nat) : (d.bumpWide page off n).spd = d.spd := rfl
@[simp] theorem Dev.bumpWide_tags (d : Dev) (page off n : Nat) : (d.bumpWide page off n).tags = d.tags := rfl
@[simp] theorem Dev.bumpWide_lines (d : Dev) (page off n : Nat) : (d.bumpWide page off n).lines = d.lines := rfl
@[simp] theorem Dev.bumpWide_flushing (d : Dev) (page off n : Nat) : (d.bumpWide page off n).flushing = d.flushing := rfl
@[simp] theorem Dev.bumpWide_arrays (d : Dev) (page off n : Nat) : (d.bumpWide page off n).arrays = d.arrays := rfl
@[simp] theorem Dev.bumpWide_engines (d : Dev) (page off n : Nat) : (d.bumpWide page off n).engines = d.engines := rfl
@[simp] theorem Dev.bumpWide_cores (d : Dev) (page off n : Nat) : (d.bumpWide page off n).cores = d.cores := rfl
@[simp] theorem Dev.bumpWide_stackUnits (d : Dev) (page off n : Nat) : (d.bumpWide page off n).stackUnits = d.stackUnits := rfl
@[simp] theorem Dev.bumpWide_parts (d : Dev) (page off n : Nat) : (d.bumpWide page off n).parts = d.parts := rfl
@[simp] theorem Dev.bumpWide_cmds (d : Dev) (page off n : Nat) : (d.bumpWide page off n).cmds = d.cmds := rfl
@[simp] theorem Dev.bumpWide_nextUid (d : Dev) (page off n : Nat) : (d.bumpWide page off n).nextUid = d.nextUid := rfl
@[simp] theorem Dev.bumpWide_records (d : Dev) (page off n : Nat) : (d.bumpWide page off n).records = d.records := rfl
@[simp] theorem Dev.bumpWide_plans (d : Dev) (page off n : Nat) : (d.bumpWide page off n).plans = d.plans := rfl
@[simp] theorem Dev.bumpWide_saved (d : Dev) (page off n : Nat) : (d.bumpWide page off n).saved = d.saved := rfl
@[simp] theorem Dev.bumpWide_reef (d : Dev) (page off n : Nat) : (d.bumpWide page off n).reef = d.reef := rfl
@[simp] theorem Dev.bumpWide_sessions (d : Dev) (page off n : Nat) : (d.bumpWide page off n).sessions = d.sessions := rfl
@[simp] theorem Dev.bumpWide_jobs (d : Dev) (page off n : Nat) : (d.bumpWide page off n).jobs = d.jobs := rfl
@[simp] theorem Dev.bumpWide_txFlows (d : Dev) (page off n : Nat) : (d.bumpWide page off n).txFlows = d.txFlows := rfl
@[simp] theorem Dev.bumpWide_rxFlows (d : Dev) (page off n : Nat) : (d.bumpWide page off n).rxFlows = d.rxFlows := rfl
@[simp] theorem Dev.bumpWide_nextFlow (d : Dev) (page off n : Nat) : (d.bumpWide page off n).nextFlow = d.nextFlow := rfl
@[simp] theorem Dev.bumpWide_received (d : Dev) (page off n : Nat) : (d.bumpWide page off n).received = d.received := rfl
@[simp] theorem Dev.bumpWide_rig (d : Dev) (page off n : Nat) : (d.bumpWide page off n).rig = d.rig := rfl
@[simp] theorem Dev.bumpWide_rigQueue (d : Dev) (page off n : Nat) : (d.bumpWide page off n).rigQueue = d.rigQueue := rfl
@[simp] theorem Dev.bumpWide_inbox (d : Dev) (page off n : Nat) : (d.bumpWide page off n).inbox = d.inbox := rfl
@[simp] theorem Dev.bumpWide_reducers (d : Dev) (page off n : Nat) : (d.bumpWide page off n).reducers = d.reducers := rfl
@[simp] theorem Dev.bumpWide_ports (d : Dev) (page off n : Nat) : (d.bumpWide page off n).ports = d.ports := rfl
@[simp] theorem Dev.bumpWide_streams (d : Dev) (page off n : Nat) : (d.bumpWide page off n).streams = d.streams := rfl
@[simp] theorem Dev.bumpWide_ingest (d : Dev) (page off n : Nat) : (d.bumpWide page off n).ingest = d.ingest := rfl
@[simp] theorem Dev.bumpWide_elog (d : Dev) (page off n : Nat) : (d.bumpWide page off n).elog = d.elog := rfl
@[simp] theorem Dev.bumpWide_elogSeq (d : Dev) (page off n : Nat) : (d.bumpWide page off n).elogSeq = d.elogSeq := rfl
@[simp] theorem Dev.bumpWide_elogRing (d : Dev) (page off n : Nat) : (d.bumpWide page off n).elogRing = d.elogRing := rfl
@[simp] theorem Dev.bumpWide_flashLog (d : Dev) (page off n : Nat) : (d.bumpWide page off n).flashLog = d.flashLog := rfl
@[simp] theorem Dev.bumpWide_pci (d : Dev) (page off n : Nat) : (d.bumpWide page off n).pci = d.pci := rfl
@[simp] theorem Dev.bumpWide_atomicOld (d : Dev) (page off n : Nat) : (d.bumpWide page off n).atomicOld = d.atomicOld := rfl
@[simp] theorem Dev.bumpWide_sent (d : Dev) (page off n : Nat) : (d.bumpWide page off n).sent = d.sent := rfl

@[simp] theorem Dev.setCmd_now (d : Dev) (c : Cmd) : (d.setCmd c).now = d.now := rfl
@[simp] theorem Dev.setCmd_fresh (d : Dev) (c : Cmd) : (d.setCmd c).fresh = d.fresh := rfl
@[simp] theorem Dev.setCmd_regs (d : Dev) (c : Cmd) : (d.setCmd c).regs = d.regs := rfl
@[simp] theorem Dev.setCmd_commits (d : Dev) (c : Cmd) : (d.setCmd c).commits = d.commits := rfl
@[simp] theorem Dev.setCmd_tick (d : Dev) (c : Cmd) : (d.setCmd c).tick = d.tick := rfl
@[simp] theorem Dev.setCmd_hbm (d : Dev) (c : Cmd) : (d.setCmd c).hbm = d.hbm := rfl
@[simp] theorem Dev.setCmd_host (d : Dev) (c : Cmd) : (d.setCmd c).host = d.host := rfl
@[simp] theorem Dev.setCmd_spd (d : Dev) (c : Cmd) : (d.setCmd c).spd = d.spd := rfl
@[simp] theorem Dev.setCmd_tags (d : Dev) (c : Cmd) : (d.setCmd c).tags = d.tags := rfl
@[simp] theorem Dev.setCmd_lines (d : Dev) (c : Cmd) : (d.setCmd c).lines = d.lines := rfl
@[simp] theorem Dev.setCmd_flushing (d : Dev) (c : Cmd) : (d.setCmd c).flushing = d.flushing := rfl
@[simp] theorem Dev.setCmd_arrays (d : Dev) (c : Cmd) : (d.setCmd c).arrays = d.arrays := rfl
@[simp] theorem Dev.setCmd_engines (d : Dev) (c : Cmd) : (d.setCmd c).engines = d.engines := rfl
@[simp] theorem Dev.setCmd_cores (d : Dev) (c : Cmd) : (d.setCmd c).cores = d.cores := rfl
@[simp] theorem Dev.setCmd_stackUnits (d : Dev) (c : Cmd) : (d.setCmd c).stackUnits = d.stackUnits := rfl
@[simp] theorem Dev.setCmd_parts (d : Dev) (c : Cmd) : (d.setCmd c).parts = d.parts := rfl
@[simp] theorem Dev.setCmd_nextUid (d : Dev) (c : Cmd) : (d.setCmd c).nextUid = d.nextUid := rfl
@[simp] theorem Dev.setCmd_records (d : Dev) (c : Cmd) : (d.setCmd c).records = d.records := rfl
@[simp] theorem Dev.setCmd_plans (d : Dev) (c : Cmd) : (d.setCmd c).plans = d.plans := rfl
@[simp] theorem Dev.setCmd_saved (d : Dev) (c : Cmd) : (d.setCmd c).saved = d.saved := rfl
@[simp] theorem Dev.setCmd_reef (d : Dev) (c : Cmd) : (d.setCmd c).reef = d.reef := rfl
@[simp] theorem Dev.setCmd_sessions (d : Dev) (c : Cmd) : (d.setCmd c).sessions = d.sessions := rfl
@[simp] theorem Dev.setCmd_jobs (d : Dev) (c : Cmd) : (d.setCmd c).jobs = d.jobs := rfl
@[simp] theorem Dev.setCmd_txFlows (d : Dev) (c : Cmd) : (d.setCmd c).txFlows = d.txFlows := rfl
@[simp] theorem Dev.setCmd_rxFlows (d : Dev) (c : Cmd) : (d.setCmd c).rxFlows = d.rxFlows := rfl
@[simp] theorem Dev.setCmd_nextFlow (d : Dev) (c : Cmd) : (d.setCmd c).nextFlow = d.nextFlow := rfl
@[simp] theorem Dev.setCmd_received (d : Dev) (c : Cmd) : (d.setCmd c).received = d.received := rfl
@[simp] theorem Dev.setCmd_rig (d : Dev) (c : Cmd) : (d.setCmd c).rig = d.rig := rfl
@[simp] theorem Dev.setCmd_rigQueue (d : Dev) (c : Cmd) : (d.setCmd c).rigQueue = d.rigQueue := rfl
@[simp] theorem Dev.setCmd_inbox (d : Dev) (c : Cmd) : (d.setCmd c).inbox = d.inbox := rfl
@[simp] theorem Dev.setCmd_reducers (d : Dev) (c : Cmd) : (d.setCmd c).reducers = d.reducers := rfl
@[simp] theorem Dev.setCmd_ports (d : Dev) (c : Cmd) : (d.setCmd c).ports = d.ports := rfl
@[simp] theorem Dev.setCmd_streams (d : Dev) (c : Cmd) : (d.setCmd c).streams = d.streams := rfl
@[simp] theorem Dev.setCmd_ingest (d : Dev) (c : Cmd) : (d.setCmd c).ingest = d.ingest := rfl
@[simp] theorem Dev.setCmd_elog (d : Dev) (c : Cmd) : (d.setCmd c).elog = d.elog := rfl
@[simp] theorem Dev.setCmd_elogSeq (d : Dev) (c : Cmd) : (d.setCmd c).elogSeq = d.elogSeq := rfl
@[simp] theorem Dev.setCmd_elogRing (d : Dev) (c : Cmd) : (d.setCmd c).elogRing = d.elogRing := rfl
@[simp] theorem Dev.setCmd_flashLog (d : Dev) (c : Cmd) : (d.setCmd c).flashLog = d.flashLog := rfl
@[simp] theorem Dev.setCmd_pci (d : Dev) (c : Cmd) : (d.setCmd c).pci = d.pci := rfl
@[simp] theorem Dev.setCmd_atomicOld (d : Dev) (c : Cmd) : (d.setCmd c).atomicOld = d.atomicOld := rfl
@[simp] theorem Dev.setCmd_sent (d : Dev) (c : Cmd) : (d.setCmd c).sent = d.sent := rfl

@[simp] theorem Dev.setPart_now (d : Dev) (p : Nat) (x : Part) : (d.setPart p x).now = d.now := rfl
@[simp] theorem Dev.setPart_fresh (d : Dev) (p : Nat) (x : Part) : (d.setPart p x).fresh = d.fresh := rfl
@[simp] theorem Dev.setPart_regs (d : Dev) (p : Nat) (x : Part) : (d.setPart p x).regs = d.regs := rfl
@[simp] theorem Dev.setPart_commits (d : Dev) (p : Nat) (x : Part) : (d.setPart p x).commits = d.commits := rfl
@[simp] theorem Dev.setPart_tick (d : Dev) (p : Nat) (x : Part) : (d.setPart p x).tick = d.tick := rfl
@[simp] theorem Dev.setPart_hbm (d : Dev) (p : Nat) (x : Part) : (d.setPart p x).hbm = d.hbm := rfl
@[simp] theorem Dev.setPart_host (d : Dev) (p : Nat) (x : Part) : (d.setPart p x).host = d.host := rfl
@[simp] theorem Dev.setPart_spd (d : Dev) (p : Nat) (x : Part) : (d.setPart p x).spd = d.spd := rfl
@[simp] theorem Dev.setPart_tags (d : Dev) (p : Nat) (x : Part) : (d.setPart p x).tags = d.tags := rfl
@[simp] theorem Dev.setPart_lines (d : Dev) (p : Nat) (x : Part) : (d.setPart p x).lines = d.lines := rfl
@[simp] theorem Dev.setPart_flushing (d : Dev) (p : Nat) (x : Part) : (d.setPart p x).flushing = d.flushing := rfl
@[simp] theorem Dev.setPart_arrays (d : Dev) (p : Nat) (x : Part) : (d.setPart p x).arrays = d.arrays := rfl
@[simp] theorem Dev.setPart_engines (d : Dev) (p : Nat) (x : Part) : (d.setPart p x).engines = d.engines := rfl
@[simp] theorem Dev.setPart_cores (d : Dev) (p : Nat) (x : Part) : (d.setPart p x).cores = d.cores := rfl
@[simp] theorem Dev.setPart_stackUnits (d : Dev) (p : Nat) (x : Part) : (d.setPart p x).stackUnits = d.stackUnits := rfl
@[simp] theorem Dev.setPart_cmds (d : Dev) (p : Nat) (x : Part) : (d.setPart p x).cmds = d.cmds := rfl
@[simp] theorem Dev.setPart_nextUid (d : Dev) (p : Nat) (x : Part) : (d.setPart p x).nextUid = d.nextUid := rfl
@[simp] theorem Dev.setPart_records (d : Dev) (p : Nat) (x : Part) : (d.setPart p x).records = d.records := rfl
@[simp] theorem Dev.setPart_plans (d : Dev) (p : Nat) (x : Part) : (d.setPart p x).plans = d.plans := rfl
@[simp] theorem Dev.setPart_saved (d : Dev) (p : Nat) (x : Part) : (d.setPart p x).saved = d.saved := rfl
@[simp] theorem Dev.setPart_reef (d : Dev) (p : Nat) (x : Part) : (d.setPart p x).reef = d.reef := rfl
@[simp] theorem Dev.setPart_sessions (d : Dev) (p : Nat) (x : Part) : (d.setPart p x).sessions = d.sessions := rfl
@[simp] theorem Dev.setPart_jobs (d : Dev) (p : Nat) (x : Part) : (d.setPart p x).jobs = d.jobs := rfl
@[simp] theorem Dev.setPart_txFlows (d : Dev) (p : Nat) (x : Part) : (d.setPart p x).txFlows = d.txFlows := rfl
@[simp] theorem Dev.setPart_rxFlows (d : Dev) (p : Nat) (x : Part) : (d.setPart p x).rxFlows = d.rxFlows := rfl
@[simp] theorem Dev.setPart_nextFlow (d : Dev) (p : Nat) (x : Part) : (d.setPart p x).nextFlow = d.nextFlow := rfl
@[simp] theorem Dev.setPart_received (d : Dev) (p : Nat) (x : Part) : (d.setPart p x).received = d.received := rfl
@[simp] theorem Dev.setPart_rig (d : Dev) (p : Nat) (x : Part) : (d.setPart p x).rig = d.rig := rfl
@[simp] theorem Dev.setPart_rigQueue (d : Dev) (p : Nat) (x : Part) : (d.setPart p x).rigQueue = d.rigQueue := rfl
@[simp] theorem Dev.setPart_inbox (d : Dev) (p : Nat) (x : Part) : (d.setPart p x).inbox = d.inbox := rfl
@[simp] theorem Dev.setPart_reducers (d : Dev) (p : Nat) (x : Part) : (d.setPart p x).reducers = d.reducers := rfl
@[simp] theorem Dev.setPart_ports (d : Dev) (p : Nat) (x : Part) : (d.setPart p x).ports = d.ports := rfl
@[simp] theorem Dev.setPart_streams (d : Dev) (p : Nat) (x : Part) : (d.setPart p x).streams = d.streams := rfl
@[simp] theorem Dev.setPart_ingest (d : Dev) (p : Nat) (x : Part) : (d.setPart p x).ingest = d.ingest := rfl
@[simp] theorem Dev.setPart_elog (d : Dev) (p : Nat) (x : Part) : (d.setPart p x).elog = d.elog := rfl
@[simp] theorem Dev.setPart_elogSeq (d : Dev) (p : Nat) (x : Part) : (d.setPart p x).elogSeq = d.elogSeq := rfl
@[simp] theorem Dev.setPart_elogRing (d : Dev) (p : Nat) (x : Part) : (d.setPart p x).elogRing = d.elogRing := rfl
@[simp] theorem Dev.setPart_flashLog (d : Dev) (p : Nat) (x : Part) : (d.setPart p x).flashLog = d.flashLog := rfl
@[simp] theorem Dev.setPart_pci (d : Dev) (p : Nat) (x : Part) : (d.setPart p x).pci = d.pci := rfl
@[simp] theorem Dev.setPart_atomicOld (d : Dev) (p : Nat) (x : Part) : (d.setPart p x).atomicOld = d.atomicOld := rfl
@[simp] theorem Dev.setPart_sent (d : Dev) (p : Nat) (x : Part) : (d.setPart p x).sent = d.sent := rfl

@[simp] theorem Dev.modPart_now (d : Dev) (p : Nat) (f : Part → Part) : (d.modPart p f).now = d.now := rfl
@[simp] theorem Dev.modPart_fresh (d : Dev) (p : Nat) (f : Part → Part) : (d.modPart p f).fresh = d.fresh := rfl
@[simp] theorem Dev.modPart_regs (d : Dev) (p : Nat) (f : Part → Part) : (d.modPart p f).regs = d.regs := rfl
@[simp] theorem Dev.modPart_commits (d : Dev) (p : Nat) (f : Part → Part) : (d.modPart p f).commits = d.commits := rfl
@[simp] theorem Dev.modPart_tick (d : Dev) (p : Nat) (f : Part → Part) : (d.modPart p f).tick = d.tick := rfl
@[simp] theorem Dev.modPart_hbm (d : Dev) (p : Nat) (f : Part → Part) : (d.modPart p f).hbm = d.hbm := rfl
@[simp] theorem Dev.modPart_host (d : Dev) (p : Nat) (f : Part → Part) : (d.modPart p f).host = d.host := rfl
@[simp] theorem Dev.modPart_spd (d : Dev) (p : Nat) (f : Part → Part) : (d.modPart p f).spd = d.spd := rfl
@[simp] theorem Dev.modPart_tags (d : Dev) (p : Nat) (f : Part → Part) : (d.modPart p f).tags = d.tags := rfl
@[simp] theorem Dev.modPart_lines (d : Dev) (p : Nat) (f : Part → Part) : (d.modPart p f).lines = d.lines := rfl
@[simp] theorem Dev.modPart_flushing (d : Dev) (p : Nat) (f : Part → Part) : (d.modPart p f).flushing = d.flushing := rfl
@[simp] theorem Dev.modPart_arrays (d : Dev) (p : Nat) (f : Part → Part) : (d.modPart p f).arrays = d.arrays := rfl
@[simp] theorem Dev.modPart_engines (d : Dev) (p : Nat) (f : Part → Part) : (d.modPart p f).engines = d.engines := rfl
@[simp] theorem Dev.modPart_cores (d : Dev) (p : Nat) (f : Part → Part) : (d.modPart p f).cores = d.cores := rfl
@[simp] theorem Dev.modPart_stackUnits (d : Dev) (p : Nat) (f : Part → Part) : (d.modPart p f).stackUnits = d.stackUnits := rfl
@[simp] theorem Dev.modPart_cmds (d : Dev) (p : Nat) (f : Part → Part) : (d.modPart p f).cmds = d.cmds := rfl
@[simp] theorem Dev.modPart_nextUid (d : Dev) (p : Nat) (f : Part → Part) : (d.modPart p f).nextUid = d.nextUid := rfl
@[simp] theorem Dev.modPart_records (d : Dev) (p : Nat) (f : Part → Part) : (d.modPart p f).records = d.records := rfl
@[simp] theorem Dev.modPart_plans (d : Dev) (p : Nat) (f : Part → Part) : (d.modPart p f).plans = d.plans := rfl
@[simp] theorem Dev.modPart_saved (d : Dev) (p : Nat) (f : Part → Part) : (d.modPart p f).saved = d.saved := rfl
@[simp] theorem Dev.modPart_reef (d : Dev) (p : Nat) (f : Part → Part) : (d.modPart p f).reef = d.reef := rfl
@[simp] theorem Dev.modPart_sessions (d : Dev) (p : Nat) (f : Part → Part) : (d.modPart p f).sessions = d.sessions := rfl
@[simp] theorem Dev.modPart_jobs (d : Dev) (p : Nat) (f : Part → Part) : (d.modPart p f).jobs = d.jobs := rfl
@[simp] theorem Dev.modPart_txFlows (d : Dev) (p : Nat) (f : Part → Part) : (d.modPart p f).txFlows = d.txFlows := rfl
@[simp] theorem Dev.modPart_rxFlows (d : Dev) (p : Nat) (f : Part → Part) : (d.modPart p f).rxFlows = d.rxFlows := rfl
@[simp] theorem Dev.modPart_nextFlow (d : Dev) (p : Nat) (f : Part → Part) : (d.modPart p f).nextFlow = d.nextFlow := rfl
@[simp] theorem Dev.modPart_received (d : Dev) (p : Nat) (f : Part → Part) : (d.modPart p f).received = d.received := rfl
@[simp] theorem Dev.modPart_rig (d : Dev) (p : Nat) (f : Part → Part) : (d.modPart p f).rig = d.rig := rfl
@[simp] theorem Dev.modPart_rigQueue (d : Dev) (p : Nat) (f : Part → Part) : (d.modPart p f).rigQueue = d.rigQueue := rfl
@[simp] theorem Dev.modPart_inbox (d : Dev) (p : Nat) (f : Part → Part) : (d.modPart p f).inbox = d.inbox := rfl
@[simp] theorem Dev.modPart_reducers (d : Dev) (p : Nat) (f : Part → Part) : (d.modPart p f).reducers = d.reducers := rfl
@[simp] theorem Dev.modPart_ports (d : Dev) (p : Nat) (f : Part → Part) : (d.modPart p f).ports = d.ports := rfl
@[simp] theorem Dev.modPart_streams (d : Dev) (p : Nat) (f : Part → Part) : (d.modPart p f).streams = d.streams := rfl
@[simp] theorem Dev.modPart_ingest (d : Dev) (p : Nat) (f : Part → Part) : (d.modPart p f).ingest = d.ingest := rfl
@[simp] theorem Dev.modPart_elog (d : Dev) (p : Nat) (f : Part → Part) : (d.modPart p f).elog = d.elog := rfl
@[simp] theorem Dev.modPart_elogSeq (d : Dev) (p : Nat) (f : Part → Part) : (d.modPart p f).elogSeq = d.elogSeq := rfl
@[simp] theorem Dev.modPart_elogRing (d : Dev) (p : Nat) (f : Part → Part) : (d.modPart p f).elogRing = d.elogRing := rfl
@[simp] theorem Dev.modPart_flashLog (d : Dev) (p : Nat) (f : Part → Part) : (d.modPart p f).flashLog = d.flashLog := rfl
@[simp] theorem Dev.modPart_pci (d : Dev) (p : Nat) (f : Part → Part) : (d.modPart p f).pci = d.pci := rfl
@[simp] theorem Dev.modPart_atomicOld (d : Dev) (p : Nat) (f : Part → Part) : (d.modPart p f).atomicOld = d.atomicOld := rfl
@[simp] theorem Dev.modPart_sent (d : Dev) (p : Nat) (f : Part → Part) : (d.modPart p f).sent = d.sent := rfl

@[simp] theorem Dev.modQueue_now (d : Dev) (p q : Nat) (f : Queue → Queue) : (d.modQueue p q f).now = d.now := rfl
@[simp] theorem Dev.modQueue_fresh (d : Dev) (p q : Nat) (f : Queue → Queue) : (d.modQueue p q f).fresh = d.fresh := rfl
@[simp] theorem Dev.modQueue_regs (d : Dev) (p q : Nat) (f : Queue → Queue) : (d.modQueue p q f).regs = d.regs := rfl
@[simp] theorem Dev.modQueue_commits (d : Dev) (p q : Nat) (f : Queue → Queue) : (d.modQueue p q f).commits = d.commits := rfl
@[simp] theorem Dev.modQueue_tick (d : Dev) (p q : Nat) (f : Queue → Queue) : (d.modQueue p q f).tick = d.tick := rfl
@[simp] theorem Dev.modQueue_hbm (d : Dev) (p q : Nat) (f : Queue → Queue) : (d.modQueue p q f).hbm = d.hbm := rfl
@[simp] theorem Dev.modQueue_host (d : Dev) (p q : Nat) (f : Queue → Queue) : (d.modQueue p q f).host = d.host := rfl
@[simp] theorem Dev.modQueue_spd (d : Dev) (p q : Nat) (f : Queue → Queue) : (d.modQueue p q f).spd = d.spd := rfl
@[simp] theorem Dev.modQueue_tags (d : Dev) (p q : Nat) (f : Queue → Queue) : (d.modQueue p q f).tags = d.tags := rfl
@[simp] theorem Dev.modQueue_lines (d : Dev) (p q : Nat) (f : Queue → Queue) : (d.modQueue p q f).lines = d.lines := rfl
@[simp] theorem Dev.modQueue_flushing (d : Dev) (p q : Nat) (f : Queue → Queue) : (d.modQueue p q f).flushing = d.flushing := rfl
@[simp] theorem Dev.modQueue_arrays (d : Dev) (p q : Nat) (f : Queue → Queue) : (d.modQueue p q f).arrays = d.arrays := rfl
@[simp] theorem Dev.modQueue_engines (d : Dev) (p q : Nat) (f : Queue → Queue) : (d.modQueue p q f).engines = d.engines := rfl
@[simp] theorem Dev.modQueue_cores (d : Dev) (p q : Nat) (f : Queue → Queue) : (d.modQueue p q f).cores = d.cores := rfl
@[simp] theorem Dev.modQueue_stackUnits (d : Dev) (p q : Nat) (f : Queue → Queue) : (d.modQueue p q f).stackUnits = d.stackUnits := rfl
@[simp] theorem Dev.modQueue_cmds (d : Dev) (p q : Nat) (f : Queue → Queue) : (d.modQueue p q f).cmds = d.cmds := rfl
@[simp] theorem Dev.modQueue_nextUid (d : Dev) (p q : Nat) (f : Queue → Queue) : (d.modQueue p q f).nextUid = d.nextUid := rfl
@[simp] theorem Dev.modQueue_records (d : Dev) (p q : Nat) (f : Queue → Queue) : (d.modQueue p q f).records = d.records := rfl
@[simp] theorem Dev.modQueue_plans (d : Dev) (p q : Nat) (f : Queue → Queue) : (d.modQueue p q f).plans = d.plans := rfl
@[simp] theorem Dev.modQueue_saved (d : Dev) (p q : Nat) (f : Queue → Queue) : (d.modQueue p q f).saved = d.saved := rfl
@[simp] theorem Dev.modQueue_reef (d : Dev) (p q : Nat) (f : Queue → Queue) : (d.modQueue p q f).reef = d.reef := rfl
@[simp] theorem Dev.modQueue_sessions (d : Dev) (p q : Nat) (f : Queue → Queue) : (d.modQueue p q f).sessions = d.sessions := rfl
@[simp] theorem Dev.modQueue_jobs (d : Dev) (p q : Nat) (f : Queue → Queue) : (d.modQueue p q f).jobs = d.jobs := rfl
@[simp] theorem Dev.modQueue_txFlows (d : Dev) (p q : Nat) (f : Queue → Queue) : (d.modQueue p q f).txFlows = d.txFlows := rfl
@[simp] theorem Dev.modQueue_rxFlows (d : Dev) (p q : Nat) (f : Queue → Queue) : (d.modQueue p q f).rxFlows = d.rxFlows := rfl
@[simp] theorem Dev.modQueue_nextFlow (d : Dev) (p q : Nat) (f : Queue → Queue) : (d.modQueue p q f).nextFlow = d.nextFlow := rfl
@[simp] theorem Dev.modQueue_received (d : Dev) (p q : Nat) (f : Queue → Queue) : (d.modQueue p q f).received = d.received := rfl
@[simp] theorem Dev.modQueue_rig (d : Dev) (p q : Nat) (f : Queue → Queue) : (d.modQueue p q f).rig = d.rig := rfl
@[simp] theorem Dev.modQueue_rigQueue (d : Dev) (p q : Nat) (f : Queue → Queue) : (d.modQueue p q f).rigQueue = d.rigQueue := rfl
@[simp] theorem Dev.modQueue_inbox (d : Dev) (p q : Nat) (f : Queue → Queue) : (d.modQueue p q f).inbox = d.inbox := rfl
@[simp] theorem Dev.modQueue_reducers (d : Dev) (p q : Nat) (f : Queue → Queue) : (d.modQueue p q f).reducers = d.reducers := rfl
@[simp] theorem Dev.modQueue_ports (d : Dev) (p q : Nat) (f : Queue → Queue) : (d.modQueue p q f).ports = d.ports := rfl
@[simp] theorem Dev.modQueue_streams (d : Dev) (p q : Nat) (f : Queue → Queue) : (d.modQueue p q f).streams = d.streams := rfl
@[simp] theorem Dev.modQueue_ingest (d : Dev) (p q : Nat) (f : Queue → Queue) : (d.modQueue p q f).ingest = d.ingest := rfl
@[simp] theorem Dev.modQueue_elog (d : Dev) (p q : Nat) (f : Queue → Queue) : (d.modQueue p q f).elog = d.elog := rfl
@[simp] theorem Dev.modQueue_elogSeq (d : Dev) (p q : Nat) (f : Queue → Queue) : (d.modQueue p q f).elogSeq = d.elogSeq := rfl
@[simp] theorem Dev.modQueue_elogRing (d : Dev) (p q : Nat) (f : Queue → Queue) : (d.modQueue p q f).elogRing = d.elogRing := rfl
@[simp] theorem Dev.modQueue_flashLog (d : Dev) (p q : Nat) (f : Queue → Queue) : (d.modQueue p q f).flashLog = d.flashLog := rfl
@[simp] theorem Dev.modQueue_pci (d : Dev) (p q : Nat) (f : Queue → Queue) : (d.modQueue p q f).pci = d.pci := rfl
@[simp] theorem Dev.modQueue_atomicOld (d : Dev) (p q : Nat) (f : Queue → Queue) : (d.modQueue p q f).atomicOld = d.atomicOld := rfl
@[simp] theorem Dev.modQueue_sent (d : Dev) (p q : Nat) (f : Queue → Queue) : (d.modQueue p q f).sent = d.sent := rfl

@[simp] theorem Dev.modArray_now (d : Dev) (a : Nat) (f : ArrayState → ArrayState) : (d.modArray a f).now = d.now := rfl
@[simp] theorem Dev.modArray_fresh (d : Dev) (a : Nat) (f : ArrayState → ArrayState) : (d.modArray a f).fresh = d.fresh := rfl
@[simp] theorem Dev.modArray_regs (d : Dev) (a : Nat) (f : ArrayState → ArrayState) : (d.modArray a f).regs = d.regs := rfl
@[simp] theorem Dev.modArray_commits (d : Dev) (a : Nat) (f : ArrayState → ArrayState) : (d.modArray a f).commits = d.commits := rfl
@[simp] theorem Dev.modArray_tick (d : Dev) (a : Nat) (f : ArrayState → ArrayState) : (d.modArray a f).tick = d.tick := rfl
@[simp] theorem Dev.modArray_hbm (d : Dev) (a : Nat) (f : ArrayState → ArrayState) : (d.modArray a f).hbm = d.hbm := rfl
@[simp] theorem Dev.modArray_host (d : Dev) (a : Nat) (f : ArrayState → ArrayState) : (d.modArray a f).host = d.host := rfl
@[simp] theorem Dev.modArray_spd (d : Dev) (a : Nat) (f : ArrayState → ArrayState) : (d.modArray a f).spd = d.spd := rfl
@[simp] theorem Dev.modArray_tags (d : Dev) (a : Nat) (f : ArrayState → ArrayState) : (d.modArray a f).tags = d.tags := rfl
@[simp] theorem Dev.modArray_lines (d : Dev) (a : Nat) (f : ArrayState → ArrayState) : (d.modArray a f).lines = d.lines := rfl
@[simp] theorem Dev.modArray_flushing (d : Dev) (a : Nat) (f : ArrayState → ArrayState) : (d.modArray a f).flushing = d.flushing := rfl
@[simp] theorem Dev.modArray_engines (d : Dev) (a : Nat) (f : ArrayState → ArrayState) : (d.modArray a f).engines = d.engines := rfl
@[simp] theorem Dev.modArray_cores (d : Dev) (a : Nat) (f : ArrayState → ArrayState) : (d.modArray a f).cores = d.cores := rfl
@[simp] theorem Dev.modArray_stackUnits (d : Dev) (a : Nat) (f : ArrayState → ArrayState) : (d.modArray a f).stackUnits = d.stackUnits := rfl
@[simp] theorem Dev.modArray_parts (d : Dev) (a : Nat) (f : ArrayState → ArrayState) : (d.modArray a f).parts = d.parts := rfl
@[simp] theorem Dev.modArray_cmds (d : Dev) (a : Nat) (f : ArrayState → ArrayState) : (d.modArray a f).cmds = d.cmds := rfl
@[simp] theorem Dev.modArray_nextUid (d : Dev) (a : Nat) (f : ArrayState → ArrayState) : (d.modArray a f).nextUid = d.nextUid := rfl
@[simp] theorem Dev.modArray_records (d : Dev) (a : Nat) (f : ArrayState → ArrayState) : (d.modArray a f).records = d.records := rfl
@[simp] theorem Dev.modArray_plans (d : Dev) (a : Nat) (f : ArrayState → ArrayState) : (d.modArray a f).plans = d.plans := rfl
@[simp] theorem Dev.modArray_saved (d : Dev) (a : Nat) (f : ArrayState → ArrayState) : (d.modArray a f).saved = d.saved := rfl
@[simp] theorem Dev.modArray_reef (d : Dev) (a : Nat) (f : ArrayState → ArrayState) : (d.modArray a f).reef = d.reef := rfl
@[simp] theorem Dev.modArray_sessions (d : Dev) (a : Nat) (f : ArrayState → ArrayState) : (d.modArray a f).sessions = d.sessions := rfl
@[simp] theorem Dev.modArray_jobs (d : Dev) (a : Nat) (f : ArrayState → ArrayState) : (d.modArray a f).jobs = d.jobs := rfl
@[simp] theorem Dev.modArray_txFlows (d : Dev) (a : Nat) (f : ArrayState → ArrayState) : (d.modArray a f).txFlows = d.txFlows := rfl
@[simp] theorem Dev.modArray_rxFlows (d : Dev) (a : Nat) (f : ArrayState → ArrayState) : (d.modArray a f).rxFlows = d.rxFlows := rfl
@[simp] theorem Dev.modArray_nextFlow (d : Dev) (a : Nat) (f : ArrayState → ArrayState) : (d.modArray a f).nextFlow = d.nextFlow := rfl
@[simp] theorem Dev.modArray_received (d : Dev) (a : Nat) (f : ArrayState → ArrayState) : (d.modArray a f).received = d.received := rfl
@[simp] theorem Dev.modArray_rig (d : Dev) (a : Nat) (f : ArrayState → ArrayState) : (d.modArray a f).rig = d.rig := rfl
@[simp] theorem Dev.modArray_rigQueue (d : Dev) (a : Nat) (f : ArrayState → ArrayState) : (d.modArray a f).rigQueue = d.rigQueue := rfl
@[simp] theorem Dev.modArray_inbox (d : Dev) (a : Nat) (f : ArrayState → ArrayState) : (d.modArray a f).inbox = d.inbox := rfl
@[simp] theorem Dev.modArray_reducers (d : Dev) (a : Nat) (f : ArrayState → ArrayState) : (d.modArray a f).reducers = d.reducers := rfl
@[simp] theorem Dev.modArray_ports (d : Dev) (a : Nat) (f : ArrayState → ArrayState) : (d.modArray a f).ports = d.ports := rfl
@[simp] theorem Dev.modArray_streams (d : Dev) (a : Nat) (f : ArrayState → ArrayState) : (d.modArray a f).streams = d.streams := rfl
@[simp] theorem Dev.modArray_ingest (d : Dev) (a : Nat) (f : ArrayState → ArrayState) : (d.modArray a f).ingest = d.ingest := rfl
@[simp] theorem Dev.modArray_elog (d : Dev) (a : Nat) (f : ArrayState → ArrayState) : (d.modArray a f).elog = d.elog := rfl
@[simp] theorem Dev.modArray_elogSeq (d : Dev) (a : Nat) (f : ArrayState → ArrayState) : (d.modArray a f).elogSeq = d.elogSeq := rfl
@[simp] theorem Dev.modArray_elogRing (d : Dev) (a : Nat) (f : ArrayState → ArrayState) : (d.modArray a f).elogRing = d.elogRing := rfl
@[simp] theorem Dev.modArray_flashLog (d : Dev) (a : Nat) (f : ArrayState → ArrayState) : (d.modArray a f).flashLog = d.flashLog := rfl
@[simp] theorem Dev.modArray_pci (d : Dev) (a : Nat) (f : ArrayState → ArrayState) : (d.modArray a f).pci = d.pci := rfl
@[simp] theorem Dev.modArray_atomicOld (d : Dev) (a : Nat) (f : ArrayState → ArrayState) : (d.modArray a f).atomicOld = d.atomicOld := rfl
@[simp] theorem Dev.modArray_sent (d : Dev) (a : Nat) (f : ArrayState → ArrayState) : (d.modArray a f).sent = d.sent := rfl

@[simp] theorem Dev.modCore_now (d : Dev) (n : Nat) (f : CoreState → CoreState) : (d.modCore n f).now = d.now := rfl
@[simp] theorem Dev.modCore_fresh (d : Dev) (n : Nat) (f : CoreState → CoreState) : (d.modCore n f).fresh = d.fresh := rfl
@[simp] theorem Dev.modCore_regs (d : Dev) (n : Nat) (f : CoreState → CoreState) : (d.modCore n f).regs = d.regs := rfl
@[simp] theorem Dev.modCore_commits (d : Dev) (n : Nat) (f : CoreState → CoreState) : (d.modCore n f).commits = d.commits := rfl
@[simp] theorem Dev.modCore_tick (d : Dev) (n : Nat) (f : CoreState → CoreState) : (d.modCore n f).tick = d.tick := rfl
@[simp] theorem Dev.modCore_hbm (d : Dev) (n : Nat) (f : CoreState → CoreState) : (d.modCore n f).hbm = d.hbm := rfl
@[simp] theorem Dev.modCore_host (d : Dev) (n : Nat) (f : CoreState → CoreState) : (d.modCore n f).host = d.host := rfl
@[simp] theorem Dev.modCore_spd (d : Dev) (n : Nat) (f : CoreState → CoreState) : (d.modCore n f).spd = d.spd := rfl
@[simp] theorem Dev.modCore_tags (d : Dev) (n : Nat) (f : CoreState → CoreState) : (d.modCore n f).tags = d.tags := rfl
@[simp] theorem Dev.modCore_lines (d : Dev) (n : Nat) (f : CoreState → CoreState) : (d.modCore n f).lines = d.lines := rfl
@[simp] theorem Dev.modCore_flushing (d : Dev) (n : Nat) (f : CoreState → CoreState) : (d.modCore n f).flushing = d.flushing := rfl
@[simp] theorem Dev.modCore_arrays (d : Dev) (n : Nat) (f : CoreState → CoreState) : (d.modCore n f).arrays = d.arrays := rfl
@[simp] theorem Dev.modCore_engines (d : Dev) (n : Nat) (f : CoreState → CoreState) : (d.modCore n f).engines = d.engines := rfl
@[simp] theorem Dev.modCore_stackUnits (d : Dev) (n : Nat) (f : CoreState → CoreState) : (d.modCore n f).stackUnits = d.stackUnits := rfl
@[simp] theorem Dev.modCore_parts (d : Dev) (n : Nat) (f : CoreState → CoreState) : (d.modCore n f).parts = d.parts := rfl
@[simp] theorem Dev.modCore_cmds (d : Dev) (n : Nat) (f : CoreState → CoreState) : (d.modCore n f).cmds = d.cmds := rfl
@[simp] theorem Dev.modCore_nextUid (d : Dev) (n : Nat) (f : CoreState → CoreState) : (d.modCore n f).nextUid = d.nextUid := rfl
@[simp] theorem Dev.modCore_records (d : Dev) (n : Nat) (f : CoreState → CoreState) : (d.modCore n f).records = d.records := rfl
@[simp] theorem Dev.modCore_plans (d : Dev) (n : Nat) (f : CoreState → CoreState) : (d.modCore n f).plans = d.plans := rfl
@[simp] theorem Dev.modCore_saved (d : Dev) (n : Nat) (f : CoreState → CoreState) : (d.modCore n f).saved = d.saved := rfl
@[simp] theorem Dev.modCore_reef (d : Dev) (n : Nat) (f : CoreState → CoreState) : (d.modCore n f).reef = d.reef := rfl
@[simp] theorem Dev.modCore_sessions (d : Dev) (n : Nat) (f : CoreState → CoreState) : (d.modCore n f).sessions = d.sessions := rfl
@[simp] theorem Dev.modCore_jobs (d : Dev) (n : Nat) (f : CoreState → CoreState) : (d.modCore n f).jobs = d.jobs := rfl
@[simp] theorem Dev.modCore_txFlows (d : Dev) (n : Nat) (f : CoreState → CoreState) : (d.modCore n f).txFlows = d.txFlows := rfl
@[simp] theorem Dev.modCore_rxFlows (d : Dev) (n : Nat) (f : CoreState → CoreState) : (d.modCore n f).rxFlows = d.rxFlows := rfl
@[simp] theorem Dev.modCore_nextFlow (d : Dev) (n : Nat) (f : CoreState → CoreState) : (d.modCore n f).nextFlow = d.nextFlow := rfl
@[simp] theorem Dev.modCore_received (d : Dev) (n : Nat) (f : CoreState → CoreState) : (d.modCore n f).received = d.received := rfl
@[simp] theorem Dev.modCore_rig (d : Dev) (n : Nat) (f : CoreState → CoreState) : (d.modCore n f).rig = d.rig := rfl
@[simp] theorem Dev.modCore_rigQueue (d : Dev) (n : Nat) (f : CoreState → CoreState) : (d.modCore n f).rigQueue = d.rigQueue := rfl
@[simp] theorem Dev.modCore_inbox (d : Dev) (n : Nat) (f : CoreState → CoreState) : (d.modCore n f).inbox = d.inbox := rfl
@[simp] theorem Dev.modCore_reducers (d : Dev) (n : Nat) (f : CoreState → CoreState) : (d.modCore n f).reducers = d.reducers := rfl
@[simp] theorem Dev.modCore_ports (d : Dev) (n : Nat) (f : CoreState → CoreState) : (d.modCore n f).ports = d.ports := rfl
@[simp] theorem Dev.modCore_streams (d : Dev) (n : Nat) (f : CoreState → CoreState) : (d.modCore n f).streams = d.streams := rfl
@[simp] theorem Dev.modCore_ingest (d : Dev) (n : Nat) (f : CoreState → CoreState) : (d.modCore n f).ingest = d.ingest := rfl
@[simp] theorem Dev.modCore_elog (d : Dev) (n : Nat) (f : CoreState → CoreState) : (d.modCore n f).elog = d.elog := rfl
@[simp] theorem Dev.modCore_elogSeq (d : Dev) (n : Nat) (f : CoreState → CoreState) : (d.modCore n f).elogSeq = d.elogSeq := rfl
@[simp] theorem Dev.modCore_elogRing (d : Dev) (n : Nat) (f : CoreState → CoreState) : (d.modCore n f).elogRing = d.elogRing := rfl
@[simp] theorem Dev.modCore_flashLog (d : Dev) (n : Nat) (f : CoreState → CoreState) : (d.modCore n f).flashLog = d.flashLog := rfl
@[simp] theorem Dev.modCore_pci (d : Dev) (n : Nat) (f : CoreState → CoreState) : (d.modCore n f).pci = d.pci := rfl
@[simp] theorem Dev.modCore_atomicOld (d : Dev) (n : Nat) (f : CoreState → CoreState) : (d.modCore n f).atomicOld = d.atomicOld := rfl
@[simp] theorem Dev.modCore_sent (d : Dev) (n : Nat) (f : CoreState → CoreState) : (d.modCore n f).sent = d.sent := rfl

@[simp] theorem Dev.modStack_now (d : Dev) (i : Nat) (f : StackState → StackState) : (d.modStack i f).now = d.now := rfl
@[simp] theorem Dev.modStack_fresh (d : Dev) (i : Nat) (f : StackState → StackState) : (d.modStack i f).fresh = d.fresh := rfl
@[simp] theorem Dev.modStack_regs (d : Dev) (i : Nat) (f : StackState → StackState) : (d.modStack i f).regs = d.regs := rfl
@[simp] theorem Dev.modStack_commits (d : Dev) (i : Nat) (f : StackState → StackState) : (d.modStack i f).commits = d.commits := rfl
@[simp] theorem Dev.modStack_tick (d : Dev) (i : Nat) (f : StackState → StackState) : (d.modStack i f).tick = d.tick := rfl
@[simp] theorem Dev.modStack_hbm (d : Dev) (i : Nat) (f : StackState → StackState) : (d.modStack i f).hbm = d.hbm := rfl
@[simp] theorem Dev.modStack_host (d : Dev) (i : Nat) (f : StackState → StackState) : (d.modStack i f).host = d.host := rfl
@[simp] theorem Dev.modStack_spd (d : Dev) (i : Nat) (f : StackState → StackState) : (d.modStack i f).spd = d.spd := rfl
@[simp] theorem Dev.modStack_tags (d : Dev) (i : Nat) (f : StackState → StackState) : (d.modStack i f).tags = d.tags := rfl
@[simp] theorem Dev.modStack_lines (d : Dev) (i : Nat) (f : StackState → StackState) : (d.modStack i f).lines = d.lines := rfl
@[simp] theorem Dev.modStack_flushing (d : Dev) (i : Nat) (f : StackState → StackState) : (d.modStack i f).flushing = d.flushing := rfl
@[simp] theorem Dev.modStack_arrays (d : Dev) (i : Nat) (f : StackState → StackState) : (d.modStack i f).arrays = d.arrays := rfl
@[simp] theorem Dev.modStack_engines (d : Dev) (i : Nat) (f : StackState → StackState) : (d.modStack i f).engines = d.engines := rfl
@[simp] theorem Dev.modStack_cores (d : Dev) (i : Nat) (f : StackState → StackState) : (d.modStack i f).cores = d.cores := rfl
@[simp] theorem Dev.modStack_parts (d : Dev) (i : Nat) (f : StackState → StackState) : (d.modStack i f).parts = d.parts := rfl
@[simp] theorem Dev.modStack_cmds (d : Dev) (i : Nat) (f : StackState → StackState) : (d.modStack i f).cmds = d.cmds := rfl
@[simp] theorem Dev.modStack_nextUid (d : Dev) (i : Nat) (f : StackState → StackState) : (d.modStack i f).nextUid = d.nextUid := rfl
@[simp] theorem Dev.modStack_records (d : Dev) (i : Nat) (f : StackState → StackState) : (d.modStack i f).records = d.records := rfl
@[simp] theorem Dev.modStack_plans (d : Dev) (i : Nat) (f : StackState → StackState) : (d.modStack i f).plans = d.plans := rfl
@[simp] theorem Dev.modStack_saved (d : Dev) (i : Nat) (f : StackState → StackState) : (d.modStack i f).saved = d.saved := rfl
@[simp] theorem Dev.modStack_reef (d : Dev) (i : Nat) (f : StackState → StackState) : (d.modStack i f).reef = d.reef := rfl
@[simp] theorem Dev.modStack_sessions (d : Dev) (i : Nat) (f : StackState → StackState) : (d.modStack i f).sessions = d.sessions := rfl
@[simp] theorem Dev.modStack_jobs (d : Dev) (i : Nat) (f : StackState → StackState) : (d.modStack i f).jobs = d.jobs := rfl
@[simp] theorem Dev.modStack_txFlows (d : Dev) (i : Nat) (f : StackState → StackState) : (d.modStack i f).txFlows = d.txFlows := rfl
@[simp] theorem Dev.modStack_rxFlows (d : Dev) (i : Nat) (f : StackState → StackState) : (d.modStack i f).rxFlows = d.rxFlows := rfl
@[simp] theorem Dev.modStack_nextFlow (d : Dev) (i : Nat) (f : StackState → StackState) : (d.modStack i f).nextFlow = d.nextFlow := rfl
@[simp] theorem Dev.modStack_received (d : Dev) (i : Nat) (f : StackState → StackState) : (d.modStack i f).received = d.received := rfl
@[simp] theorem Dev.modStack_rig (d : Dev) (i : Nat) (f : StackState → StackState) : (d.modStack i f).rig = d.rig := rfl
@[simp] theorem Dev.modStack_rigQueue (d : Dev) (i : Nat) (f : StackState → StackState) : (d.modStack i f).rigQueue = d.rigQueue := rfl
@[simp] theorem Dev.modStack_inbox (d : Dev) (i : Nat) (f : StackState → StackState) : (d.modStack i f).inbox = d.inbox := rfl
@[simp] theorem Dev.modStack_reducers (d : Dev) (i : Nat) (f : StackState → StackState) : (d.modStack i f).reducers = d.reducers := rfl
@[simp] theorem Dev.modStack_ports (d : Dev) (i : Nat) (f : StackState → StackState) : (d.modStack i f).ports = d.ports := rfl
@[simp] theorem Dev.modStack_streams (d : Dev) (i : Nat) (f : StackState → StackState) : (d.modStack i f).streams = d.streams := rfl
@[simp] theorem Dev.modStack_ingest (d : Dev) (i : Nat) (f : StackState → StackState) : (d.modStack i f).ingest = d.ingest := rfl
@[simp] theorem Dev.modStack_elog (d : Dev) (i : Nat) (f : StackState → StackState) : (d.modStack i f).elog = d.elog := rfl
@[simp] theorem Dev.modStack_elogSeq (d : Dev) (i : Nat) (f : StackState → StackState) : (d.modStack i f).elogSeq = d.elogSeq := rfl
@[simp] theorem Dev.modStack_elogRing (d : Dev) (i : Nat) (f : StackState → StackState) : (d.modStack i f).elogRing = d.elogRing := rfl
@[simp] theorem Dev.modStack_flashLog (d : Dev) (i : Nat) (f : StackState → StackState) : (d.modStack i f).flashLog = d.flashLog := rfl
@[simp] theorem Dev.modStack_pci (d : Dev) (i : Nat) (f : StackState → StackState) : (d.modStack i f).pci = d.pci := rfl
@[simp] theorem Dev.modStack_atomicOld (d : Dev) (i : Nat) (f : StackState → StackState) : (d.modStack i f).atomicOld = d.atomicOld := rfl
@[simp] theorem Dev.modStack_sent (d : Dev) (i : Nat) (f : StackState → StackState) : (d.modStack i f).sent = d.sent := rfl

@[simp] theorem Dev.setTag_now (d : Dev) (n i : Nat) (x : SlotTag) : (d.setTag n i x).now = d.now := rfl
@[simp] theorem Dev.setTag_fresh (d : Dev) (n i : Nat) (x : SlotTag) : (d.setTag n i x).fresh = d.fresh := rfl
@[simp] theorem Dev.setTag_regs (d : Dev) (n i : Nat) (x : SlotTag) : (d.setTag n i x).regs = d.regs := rfl
@[simp] theorem Dev.setTag_commits (d : Dev) (n i : Nat) (x : SlotTag) : (d.setTag n i x).commits = d.commits := rfl
@[simp] theorem Dev.setTag_tick (d : Dev) (n i : Nat) (x : SlotTag) : (d.setTag n i x).tick = d.tick := rfl
@[simp] theorem Dev.setTag_hbm (d : Dev) (n i : Nat) (x : SlotTag) : (d.setTag n i x).hbm = d.hbm := rfl
@[simp] theorem Dev.setTag_host (d : Dev) (n i : Nat) (x : SlotTag) : (d.setTag n i x).host = d.host := rfl
@[simp] theorem Dev.setTag_spd (d : Dev) (n i : Nat) (x : SlotTag) : (d.setTag n i x).spd = d.spd := rfl
@[simp] theorem Dev.setTag_lines (d : Dev) (n i : Nat) (x : SlotTag) : (d.setTag n i x).lines = d.lines := rfl
@[simp] theorem Dev.setTag_flushing (d : Dev) (n i : Nat) (x : SlotTag) : (d.setTag n i x).flushing = d.flushing := rfl
@[simp] theorem Dev.setTag_arrays (d : Dev) (n i : Nat) (x : SlotTag) : (d.setTag n i x).arrays = d.arrays := rfl
@[simp] theorem Dev.setTag_engines (d : Dev) (n i : Nat) (x : SlotTag) : (d.setTag n i x).engines = d.engines := rfl
@[simp] theorem Dev.setTag_cores (d : Dev) (n i : Nat) (x : SlotTag) : (d.setTag n i x).cores = d.cores := rfl
@[simp] theorem Dev.setTag_stackUnits (d : Dev) (n i : Nat) (x : SlotTag) : (d.setTag n i x).stackUnits = d.stackUnits := rfl
@[simp] theorem Dev.setTag_parts (d : Dev) (n i : Nat) (x : SlotTag) : (d.setTag n i x).parts = d.parts := rfl
@[simp] theorem Dev.setTag_cmds (d : Dev) (n i : Nat) (x : SlotTag) : (d.setTag n i x).cmds = d.cmds := rfl
@[simp] theorem Dev.setTag_nextUid (d : Dev) (n i : Nat) (x : SlotTag) : (d.setTag n i x).nextUid = d.nextUid := rfl
@[simp] theorem Dev.setTag_records (d : Dev) (n i : Nat) (x : SlotTag) : (d.setTag n i x).records = d.records := rfl
@[simp] theorem Dev.setTag_plans (d : Dev) (n i : Nat) (x : SlotTag) : (d.setTag n i x).plans = d.plans := rfl
@[simp] theorem Dev.setTag_saved (d : Dev) (n i : Nat) (x : SlotTag) : (d.setTag n i x).saved = d.saved := rfl
@[simp] theorem Dev.setTag_reef (d : Dev) (n i : Nat) (x : SlotTag) : (d.setTag n i x).reef = d.reef := rfl
@[simp] theorem Dev.setTag_sessions (d : Dev) (n i : Nat) (x : SlotTag) : (d.setTag n i x).sessions = d.sessions := rfl
@[simp] theorem Dev.setTag_jobs (d : Dev) (n i : Nat) (x : SlotTag) : (d.setTag n i x).jobs = d.jobs := rfl
@[simp] theorem Dev.setTag_txFlows (d : Dev) (n i : Nat) (x : SlotTag) : (d.setTag n i x).txFlows = d.txFlows := rfl
@[simp] theorem Dev.setTag_rxFlows (d : Dev) (n i : Nat) (x : SlotTag) : (d.setTag n i x).rxFlows = d.rxFlows := rfl
@[simp] theorem Dev.setTag_nextFlow (d : Dev) (n i : Nat) (x : SlotTag) : (d.setTag n i x).nextFlow = d.nextFlow := rfl
@[simp] theorem Dev.setTag_received (d : Dev) (n i : Nat) (x : SlotTag) : (d.setTag n i x).received = d.received := rfl
@[simp] theorem Dev.setTag_rig (d : Dev) (n i : Nat) (x : SlotTag) : (d.setTag n i x).rig = d.rig := rfl
@[simp] theorem Dev.setTag_rigQueue (d : Dev) (n i : Nat) (x : SlotTag) : (d.setTag n i x).rigQueue = d.rigQueue := rfl
@[simp] theorem Dev.setTag_inbox (d : Dev) (n i : Nat) (x : SlotTag) : (d.setTag n i x).inbox = d.inbox := rfl
@[simp] theorem Dev.setTag_reducers (d : Dev) (n i : Nat) (x : SlotTag) : (d.setTag n i x).reducers = d.reducers := rfl
@[simp] theorem Dev.setTag_ports (d : Dev) (n i : Nat) (x : SlotTag) : (d.setTag n i x).ports = d.ports := rfl
@[simp] theorem Dev.setTag_streams (d : Dev) (n i : Nat) (x : SlotTag) : (d.setTag n i x).streams = d.streams := rfl
@[simp] theorem Dev.setTag_ingest (d : Dev) (n i : Nat) (x : SlotTag) : (d.setTag n i x).ingest = d.ingest := rfl
@[simp] theorem Dev.setTag_elog (d : Dev) (n i : Nat) (x : SlotTag) : (d.setTag n i x).elog = d.elog := rfl
@[simp] theorem Dev.setTag_elogSeq (d : Dev) (n i : Nat) (x : SlotTag) : (d.setTag n i x).elogSeq = d.elogSeq := rfl
@[simp] theorem Dev.setTag_elogRing (d : Dev) (n i : Nat) (x : SlotTag) : (d.setTag n i x).elogRing = d.elogRing := rfl
@[simp] theorem Dev.setTag_flashLog (d : Dev) (n i : Nat) (x : SlotTag) : (d.setTag n i x).flashLog = d.flashLog := rfl
@[simp] theorem Dev.setTag_pci (d : Dev) (n i : Nat) (x : SlotTag) : (d.setTag n i x).pci = d.pci := rfl
@[simp] theorem Dev.setTag_atomicOld (d : Dev) (n i : Nat) (x : SlotTag) : (d.setTag n i x).atomicOld = d.atomicOld := rfl
@[simp] theorem Dev.setTag_sent (d : Dev) (n i : Nat) (x : SlotTag) : (d.setTag n i x).sent = d.sent := rfl

@[simp] theorem Dev.setStream_now (d : Dev) (x : Stream) : (d.setStream x).now = d.now := rfl
@[simp] theorem Dev.setStream_fresh (d : Dev) (x : Stream) : (d.setStream x).fresh = d.fresh := rfl
@[simp] theorem Dev.setStream_regs (d : Dev) (x : Stream) : (d.setStream x).regs = d.regs := rfl
@[simp] theorem Dev.setStream_commits (d : Dev) (x : Stream) : (d.setStream x).commits = d.commits := rfl
@[simp] theorem Dev.setStream_tick (d : Dev) (x : Stream) : (d.setStream x).tick = d.tick := rfl
@[simp] theorem Dev.setStream_hbm (d : Dev) (x : Stream) : (d.setStream x).hbm = d.hbm := rfl
@[simp] theorem Dev.setStream_host (d : Dev) (x : Stream) : (d.setStream x).host = d.host := rfl
@[simp] theorem Dev.setStream_spd (d : Dev) (x : Stream) : (d.setStream x).spd = d.spd := rfl
@[simp] theorem Dev.setStream_tags (d : Dev) (x : Stream) : (d.setStream x).tags = d.tags := rfl
@[simp] theorem Dev.setStream_lines (d : Dev) (x : Stream) : (d.setStream x).lines = d.lines := rfl
@[simp] theorem Dev.setStream_flushing (d : Dev) (x : Stream) : (d.setStream x).flushing = d.flushing := rfl
@[simp] theorem Dev.setStream_arrays (d : Dev) (x : Stream) : (d.setStream x).arrays = d.arrays := rfl
@[simp] theorem Dev.setStream_engines (d : Dev) (x : Stream) : (d.setStream x).engines = d.engines := rfl
@[simp] theorem Dev.setStream_cores (d : Dev) (x : Stream) : (d.setStream x).cores = d.cores := rfl
@[simp] theorem Dev.setStream_stackUnits (d : Dev) (x : Stream) : (d.setStream x).stackUnits = d.stackUnits := rfl
@[simp] theorem Dev.setStream_parts (d : Dev) (x : Stream) : (d.setStream x).parts = d.parts := rfl
@[simp] theorem Dev.setStream_cmds (d : Dev) (x : Stream) : (d.setStream x).cmds = d.cmds := rfl
@[simp] theorem Dev.setStream_nextUid (d : Dev) (x : Stream) : (d.setStream x).nextUid = d.nextUid := rfl
@[simp] theorem Dev.setStream_records (d : Dev) (x : Stream) : (d.setStream x).records = d.records := rfl
@[simp] theorem Dev.setStream_plans (d : Dev) (x : Stream) : (d.setStream x).plans = d.plans := rfl
@[simp] theorem Dev.setStream_saved (d : Dev) (x : Stream) : (d.setStream x).saved = d.saved := rfl
@[simp] theorem Dev.setStream_reef (d : Dev) (x : Stream) : (d.setStream x).reef = d.reef := rfl
@[simp] theorem Dev.setStream_sessions (d : Dev) (x : Stream) : (d.setStream x).sessions = d.sessions := rfl
@[simp] theorem Dev.setStream_jobs (d : Dev) (x : Stream) : (d.setStream x).jobs = d.jobs := rfl
@[simp] theorem Dev.setStream_txFlows (d : Dev) (x : Stream) : (d.setStream x).txFlows = d.txFlows := rfl
@[simp] theorem Dev.setStream_rxFlows (d : Dev) (x : Stream) : (d.setStream x).rxFlows = d.rxFlows := rfl
@[simp] theorem Dev.setStream_nextFlow (d : Dev) (x : Stream) : (d.setStream x).nextFlow = d.nextFlow := rfl
@[simp] theorem Dev.setStream_received (d : Dev) (x : Stream) : (d.setStream x).received = d.received := rfl
@[simp] theorem Dev.setStream_rig (d : Dev) (x : Stream) : (d.setStream x).rig = d.rig := rfl
@[simp] theorem Dev.setStream_rigQueue (d : Dev) (x : Stream) : (d.setStream x).rigQueue = d.rigQueue := rfl
@[simp] theorem Dev.setStream_inbox (d : Dev) (x : Stream) : (d.setStream x).inbox = d.inbox := rfl
@[simp] theorem Dev.setStream_reducers (d : Dev) (x : Stream) : (d.setStream x).reducers = d.reducers := rfl
@[simp] theorem Dev.setStream_ports (d : Dev) (x : Stream) : (d.setStream x).ports = d.ports := rfl
@[simp] theorem Dev.setStream_ingest (d : Dev) (x : Stream) : (d.setStream x).ingest = d.ingest := rfl
@[simp] theorem Dev.setStream_elog (d : Dev) (x : Stream) : (d.setStream x).elog = d.elog := rfl
@[simp] theorem Dev.setStream_elogSeq (d : Dev) (x : Stream) : (d.setStream x).elogSeq = d.elogSeq := rfl
@[simp] theorem Dev.setStream_elogRing (d : Dev) (x : Stream) : (d.setStream x).elogRing = d.elogRing := rfl
@[simp] theorem Dev.setStream_flashLog (d : Dev) (x : Stream) : (d.setStream x).flashLog = d.flashLog := rfl
@[simp] theorem Dev.setStream_pci (d : Dev) (x : Stream) : (d.setStream x).pci = d.pci := rfl
@[simp] theorem Dev.setStream_atomicOld (d : Dev) (x : Stream) : (d.setStream x).atomicOld = d.atomicOld := rfl
@[simp] theorem Dev.setStream_sent (d : Dev) (x : Stream) : (d.setStream x).sent = d.sent := rfl

@[simp] theorem Dev.modJob_now (d : Dev) (id : Nat) (f : Job → Job) : (d.modJob id f).now = d.now := rfl
@[simp] theorem Dev.modJob_fresh (d : Dev) (id : Nat) (f : Job → Job) : (d.modJob id f).fresh = d.fresh := rfl
@[simp] theorem Dev.modJob_regs (d : Dev) (id : Nat) (f : Job → Job) : (d.modJob id f).regs = d.regs := rfl
@[simp] theorem Dev.modJob_commits (d : Dev) (id : Nat) (f : Job → Job) : (d.modJob id f).commits = d.commits := rfl
@[simp] theorem Dev.modJob_tick (d : Dev) (id : Nat) (f : Job → Job) : (d.modJob id f).tick = d.tick := rfl
@[simp] theorem Dev.modJob_hbm (d : Dev) (id : Nat) (f : Job → Job) : (d.modJob id f).hbm = d.hbm := rfl
@[simp] theorem Dev.modJob_host (d : Dev) (id : Nat) (f : Job → Job) : (d.modJob id f).host = d.host := rfl
@[simp] theorem Dev.modJob_spd (d : Dev) (id : Nat) (f : Job → Job) : (d.modJob id f).spd = d.spd := rfl
@[simp] theorem Dev.modJob_tags (d : Dev) (id : Nat) (f : Job → Job) : (d.modJob id f).tags = d.tags := rfl
@[simp] theorem Dev.modJob_lines (d : Dev) (id : Nat) (f : Job → Job) : (d.modJob id f).lines = d.lines := rfl
@[simp] theorem Dev.modJob_flushing (d : Dev) (id : Nat) (f : Job → Job) : (d.modJob id f).flushing = d.flushing := rfl
@[simp] theorem Dev.modJob_arrays (d : Dev) (id : Nat) (f : Job → Job) : (d.modJob id f).arrays = d.arrays := rfl
@[simp] theorem Dev.modJob_engines (d : Dev) (id : Nat) (f : Job → Job) : (d.modJob id f).engines = d.engines := rfl
@[simp] theorem Dev.modJob_cores (d : Dev) (id : Nat) (f : Job → Job) : (d.modJob id f).cores = d.cores := rfl
@[simp] theorem Dev.modJob_stackUnits (d : Dev) (id : Nat) (f : Job → Job) : (d.modJob id f).stackUnits = d.stackUnits := rfl
@[simp] theorem Dev.modJob_parts (d : Dev) (id : Nat) (f : Job → Job) : (d.modJob id f).parts = d.parts := rfl
@[simp] theorem Dev.modJob_cmds (d : Dev) (id : Nat) (f : Job → Job) : (d.modJob id f).cmds = d.cmds := rfl
@[simp] theorem Dev.modJob_nextUid (d : Dev) (id : Nat) (f : Job → Job) : (d.modJob id f).nextUid = d.nextUid := rfl
@[simp] theorem Dev.modJob_records (d : Dev) (id : Nat) (f : Job → Job) : (d.modJob id f).records = d.records := rfl
@[simp] theorem Dev.modJob_plans (d : Dev) (id : Nat) (f : Job → Job) : (d.modJob id f).plans = d.plans := rfl
@[simp] theorem Dev.modJob_saved (d : Dev) (id : Nat) (f : Job → Job) : (d.modJob id f).saved = d.saved := rfl
@[simp] theorem Dev.modJob_reef (d : Dev) (id : Nat) (f : Job → Job) : (d.modJob id f).reef = d.reef := rfl
@[simp] theorem Dev.modJob_sessions (d : Dev) (id : Nat) (f : Job → Job) : (d.modJob id f).sessions = d.sessions := rfl
@[simp] theorem Dev.modJob_txFlows (d : Dev) (id : Nat) (f : Job → Job) : (d.modJob id f).txFlows = d.txFlows := rfl
@[simp] theorem Dev.modJob_rxFlows (d : Dev) (id : Nat) (f : Job → Job) : (d.modJob id f).rxFlows = d.rxFlows := rfl
@[simp] theorem Dev.modJob_nextFlow (d : Dev) (id : Nat) (f : Job → Job) : (d.modJob id f).nextFlow = d.nextFlow := rfl
@[simp] theorem Dev.modJob_received (d : Dev) (id : Nat) (f : Job → Job) : (d.modJob id f).received = d.received := rfl
@[simp] theorem Dev.modJob_rig (d : Dev) (id : Nat) (f : Job → Job) : (d.modJob id f).rig = d.rig := rfl
@[simp] theorem Dev.modJob_rigQueue (d : Dev) (id : Nat) (f : Job → Job) : (d.modJob id f).rigQueue = d.rigQueue := rfl
@[simp] theorem Dev.modJob_inbox (d : Dev) (id : Nat) (f : Job → Job) : (d.modJob id f).inbox = d.inbox := rfl
@[simp] theorem Dev.modJob_reducers (d : Dev) (id : Nat) (f : Job → Job) : (d.modJob id f).reducers = d.reducers := rfl
@[simp] theorem Dev.modJob_ports (d : Dev) (id : Nat) (f : Job → Job) : (d.modJob id f).ports = d.ports := rfl
@[simp] theorem Dev.modJob_streams (d : Dev) (id : Nat) (f : Job → Job) : (d.modJob id f).streams = d.streams := rfl
@[simp] theorem Dev.modJob_ingest (d : Dev) (id : Nat) (f : Job → Job) : (d.modJob id f).ingest = d.ingest := rfl
@[simp] theorem Dev.modJob_elog (d : Dev) (id : Nat) (f : Job → Job) : (d.modJob id f).elog = d.elog := rfl
@[simp] theorem Dev.modJob_elogSeq (d : Dev) (id : Nat) (f : Job → Job) : (d.modJob id f).elogSeq = d.elogSeq := rfl
@[simp] theorem Dev.modJob_elogRing (d : Dev) (id : Nat) (f : Job → Job) : (d.modJob id f).elogRing = d.elogRing := rfl
@[simp] theorem Dev.modJob_flashLog (d : Dev) (id : Nat) (f : Job → Job) : (d.modJob id f).flashLog = d.flashLog := rfl
@[simp] theorem Dev.modJob_pci (d : Dev) (id : Nat) (f : Job → Job) : (d.modJob id f).pci = d.pci := rfl
@[simp] theorem Dev.modJob_atomicOld (d : Dev) (id : Nat) (f : Job → Job) : (d.modJob id f).atomicOld = d.atomicOld := rfl
@[simp] theorem Dev.modJob_sent (d : Dev) (id : Nat) (f : Job → Job) : (d.modJob id f).sent = d.sent := rfl

@[simp] theorem Dev.setTx_now (d : Dev) (f : TxFlow) : (d.setTx f).now = d.now := rfl
@[simp] theorem Dev.setTx_fresh (d : Dev) (f : TxFlow) : (d.setTx f).fresh = d.fresh := rfl
@[simp] theorem Dev.setTx_regs (d : Dev) (f : TxFlow) : (d.setTx f).regs = d.regs := rfl
@[simp] theorem Dev.setTx_commits (d : Dev) (f : TxFlow) : (d.setTx f).commits = d.commits := rfl
@[simp] theorem Dev.setTx_tick (d : Dev) (f : TxFlow) : (d.setTx f).tick = d.tick := rfl
@[simp] theorem Dev.setTx_hbm (d : Dev) (f : TxFlow) : (d.setTx f).hbm = d.hbm := rfl
@[simp] theorem Dev.setTx_host (d : Dev) (f : TxFlow) : (d.setTx f).host = d.host := rfl
@[simp] theorem Dev.setTx_spd (d : Dev) (f : TxFlow) : (d.setTx f).spd = d.spd := rfl
@[simp] theorem Dev.setTx_tags (d : Dev) (f : TxFlow) : (d.setTx f).tags = d.tags := rfl
@[simp] theorem Dev.setTx_lines (d : Dev) (f : TxFlow) : (d.setTx f).lines = d.lines := rfl
@[simp] theorem Dev.setTx_flushing (d : Dev) (f : TxFlow) : (d.setTx f).flushing = d.flushing := rfl
@[simp] theorem Dev.setTx_arrays (d : Dev) (f : TxFlow) : (d.setTx f).arrays = d.arrays := rfl
@[simp] theorem Dev.setTx_engines (d : Dev) (f : TxFlow) : (d.setTx f).engines = d.engines := rfl
@[simp] theorem Dev.setTx_cores (d : Dev) (f : TxFlow) : (d.setTx f).cores = d.cores := rfl
@[simp] theorem Dev.setTx_stackUnits (d : Dev) (f : TxFlow) : (d.setTx f).stackUnits = d.stackUnits := rfl
@[simp] theorem Dev.setTx_parts (d : Dev) (f : TxFlow) : (d.setTx f).parts = d.parts := rfl
@[simp] theorem Dev.setTx_cmds (d : Dev) (f : TxFlow) : (d.setTx f).cmds = d.cmds := rfl
@[simp] theorem Dev.setTx_nextUid (d : Dev) (f : TxFlow) : (d.setTx f).nextUid = d.nextUid := rfl
@[simp] theorem Dev.setTx_records (d : Dev) (f : TxFlow) : (d.setTx f).records = d.records := rfl
@[simp] theorem Dev.setTx_plans (d : Dev) (f : TxFlow) : (d.setTx f).plans = d.plans := rfl
@[simp] theorem Dev.setTx_saved (d : Dev) (f : TxFlow) : (d.setTx f).saved = d.saved := rfl
@[simp] theorem Dev.setTx_reef (d : Dev) (f : TxFlow) : (d.setTx f).reef = d.reef := rfl
@[simp] theorem Dev.setTx_sessions (d : Dev) (f : TxFlow) : (d.setTx f).sessions = d.sessions := rfl
@[simp] theorem Dev.setTx_jobs (d : Dev) (f : TxFlow) : (d.setTx f).jobs = d.jobs := rfl
@[simp] theorem Dev.setTx_rxFlows (d : Dev) (f : TxFlow) : (d.setTx f).rxFlows = d.rxFlows := rfl
@[simp] theorem Dev.setTx_nextFlow (d : Dev) (f : TxFlow) : (d.setTx f).nextFlow = d.nextFlow := rfl
@[simp] theorem Dev.setTx_received (d : Dev) (f : TxFlow) : (d.setTx f).received = d.received := rfl
@[simp] theorem Dev.setTx_rig (d : Dev) (f : TxFlow) : (d.setTx f).rig = d.rig := rfl
@[simp] theorem Dev.setTx_rigQueue (d : Dev) (f : TxFlow) : (d.setTx f).rigQueue = d.rigQueue := rfl
@[simp] theorem Dev.setTx_inbox (d : Dev) (f : TxFlow) : (d.setTx f).inbox = d.inbox := rfl
@[simp] theorem Dev.setTx_reducers (d : Dev) (f : TxFlow) : (d.setTx f).reducers = d.reducers := rfl
@[simp] theorem Dev.setTx_ports (d : Dev) (f : TxFlow) : (d.setTx f).ports = d.ports := rfl
@[simp] theorem Dev.setTx_streams (d : Dev) (f : TxFlow) : (d.setTx f).streams = d.streams := rfl
@[simp] theorem Dev.setTx_ingest (d : Dev) (f : TxFlow) : (d.setTx f).ingest = d.ingest := rfl
@[simp] theorem Dev.setTx_elog (d : Dev) (f : TxFlow) : (d.setTx f).elog = d.elog := rfl
@[simp] theorem Dev.setTx_elogSeq (d : Dev) (f : TxFlow) : (d.setTx f).elogSeq = d.elogSeq := rfl
@[simp] theorem Dev.setTx_elogRing (d : Dev) (f : TxFlow) : (d.setTx f).elogRing = d.elogRing := rfl
@[simp] theorem Dev.setTx_flashLog (d : Dev) (f : TxFlow) : (d.setTx f).flashLog = d.flashLog := rfl
@[simp] theorem Dev.setTx_pci (d : Dev) (f : TxFlow) : (d.setTx f).pci = d.pci := rfl
@[simp] theorem Dev.setTx_atomicOld (d : Dev) (f : TxFlow) : (d.setTx f).atomicOld = d.atomicOld := rfl
@[simp] theorem Dev.setTx_sent (d : Dev) (f : TxFlow) : (d.setTx f).sent = d.sent := rfl

@[simp] theorem Dev.setRx_now (d : Dev) (f : RxFlow) : (d.setRx f).now = d.now := rfl
@[simp] theorem Dev.setRx_fresh (d : Dev) (f : RxFlow) : (d.setRx f).fresh = d.fresh := rfl
@[simp] theorem Dev.setRx_regs (d : Dev) (f : RxFlow) : (d.setRx f).regs = d.regs := rfl
@[simp] theorem Dev.setRx_commits (d : Dev) (f : RxFlow) : (d.setRx f).commits = d.commits := rfl
@[simp] theorem Dev.setRx_tick (d : Dev) (f : RxFlow) : (d.setRx f).tick = d.tick := rfl
@[simp] theorem Dev.setRx_hbm (d : Dev) (f : RxFlow) : (d.setRx f).hbm = d.hbm := rfl
@[simp] theorem Dev.setRx_host (d : Dev) (f : RxFlow) : (d.setRx f).host = d.host := rfl
@[simp] theorem Dev.setRx_spd (d : Dev) (f : RxFlow) : (d.setRx f).spd = d.spd := rfl
@[simp] theorem Dev.setRx_tags (d : Dev) (f : RxFlow) : (d.setRx f).tags = d.tags := rfl
@[simp] theorem Dev.setRx_lines (d : Dev) (f : RxFlow) : (d.setRx f).lines = d.lines := rfl
@[simp] theorem Dev.setRx_flushing (d : Dev) (f : RxFlow) : (d.setRx f).flushing = d.flushing := rfl
@[simp] theorem Dev.setRx_arrays (d : Dev) (f : RxFlow) : (d.setRx f).arrays = d.arrays := rfl
@[simp] theorem Dev.setRx_engines (d : Dev) (f : RxFlow) : (d.setRx f).engines = d.engines := rfl
@[simp] theorem Dev.setRx_cores (d : Dev) (f : RxFlow) : (d.setRx f).cores = d.cores := rfl
@[simp] theorem Dev.setRx_stackUnits (d : Dev) (f : RxFlow) : (d.setRx f).stackUnits = d.stackUnits := rfl
@[simp] theorem Dev.setRx_parts (d : Dev) (f : RxFlow) : (d.setRx f).parts = d.parts := rfl
@[simp] theorem Dev.setRx_cmds (d : Dev) (f : RxFlow) : (d.setRx f).cmds = d.cmds := rfl
@[simp] theorem Dev.setRx_nextUid (d : Dev) (f : RxFlow) : (d.setRx f).nextUid = d.nextUid := rfl
@[simp] theorem Dev.setRx_records (d : Dev) (f : RxFlow) : (d.setRx f).records = d.records := rfl
@[simp] theorem Dev.setRx_plans (d : Dev) (f : RxFlow) : (d.setRx f).plans = d.plans := rfl
@[simp] theorem Dev.setRx_saved (d : Dev) (f : RxFlow) : (d.setRx f).saved = d.saved := rfl
@[simp] theorem Dev.setRx_reef (d : Dev) (f : RxFlow) : (d.setRx f).reef = d.reef := rfl
@[simp] theorem Dev.setRx_sessions (d : Dev) (f : RxFlow) : (d.setRx f).sessions = d.sessions := rfl
@[simp] theorem Dev.setRx_jobs (d : Dev) (f : RxFlow) : (d.setRx f).jobs = d.jobs := rfl
@[simp] theorem Dev.setRx_txFlows (d : Dev) (f : RxFlow) : (d.setRx f).txFlows = d.txFlows := rfl
@[simp] theorem Dev.setRx_nextFlow (d : Dev) (f : RxFlow) : (d.setRx f).nextFlow = d.nextFlow := rfl
@[simp] theorem Dev.setRx_received (d : Dev) (f : RxFlow) : (d.setRx f).received = d.received := rfl
@[simp] theorem Dev.setRx_rig (d : Dev) (f : RxFlow) : (d.setRx f).rig = d.rig := rfl
@[simp] theorem Dev.setRx_rigQueue (d : Dev) (f : RxFlow) : (d.setRx f).rigQueue = d.rigQueue := rfl
@[simp] theorem Dev.setRx_inbox (d : Dev) (f : RxFlow) : (d.setRx f).inbox = d.inbox := rfl
@[simp] theorem Dev.setRx_reducers (d : Dev) (f : RxFlow) : (d.setRx f).reducers = d.reducers := rfl
@[simp] theorem Dev.setRx_ports (d : Dev) (f : RxFlow) : (d.setRx f).ports = d.ports := rfl
@[simp] theorem Dev.setRx_streams (d : Dev) (f : RxFlow) : (d.setRx f).streams = d.streams := rfl
@[simp] theorem Dev.setRx_ingest (d : Dev) (f : RxFlow) : (d.setRx f).ingest = d.ingest := rfl
@[simp] theorem Dev.setRx_elog (d : Dev) (f : RxFlow) : (d.setRx f).elog = d.elog := rfl
@[simp] theorem Dev.setRx_elogSeq (d : Dev) (f : RxFlow) : (d.setRx f).elogSeq = d.elogSeq := rfl
@[simp] theorem Dev.setRx_elogRing (d : Dev) (f : RxFlow) : (d.setRx f).elogRing = d.elogRing := rfl
@[simp] theorem Dev.setRx_flashLog (d : Dev) (f : RxFlow) : (d.setRx f).flashLog = d.flashLog := rfl
@[simp] theorem Dev.setRx_pci (d : Dev) (f : RxFlow) : (d.setRx f).pci = d.pci := rfl
@[simp] theorem Dev.setRx_atomicOld (d : Dev) (f : RxFlow) : (d.setRx f).atomicOld = d.atomicOld := rfl
@[simp] theorem Dev.setRx_sent (d : Dev) (f : RxFlow) : (d.setRx f).sent = d.sent := rfl

@[simp] theorem Dev.modFn_now (d : Dev) (f : Nat) (g : FnCfg → FnCfg) : (d.modFn f g).now = d.now := rfl
@[simp] theorem Dev.modFn_fresh (d : Dev) (f : Nat) (g : FnCfg → FnCfg) : (d.modFn f g).fresh = d.fresh := rfl
@[simp] theorem Dev.modFn_regs (d : Dev) (f : Nat) (g : FnCfg → FnCfg) : (d.modFn f g).regs = d.regs := rfl
@[simp] theorem Dev.modFn_commits (d : Dev) (f : Nat) (g : FnCfg → FnCfg) : (d.modFn f g).commits = d.commits := rfl
@[simp] theorem Dev.modFn_tick (d : Dev) (f : Nat) (g : FnCfg → FnCfg) : (d.modFn f g).tick = d.tick := rfl
@[simp] theorem Dev.modFn_hbm (d : Dev) (f : Nat) (g : FnCfg → FnCfg) : (d.modFn f g).hbm = d.hbm := rfl
@[simp] theorem Dev.modFn_host (d : Dev) (f : Nat) (g : FnCfg → FnCfg) : (d.modFn f g).host = d.host := rfl
@[simp] theorem Dev.modFn_spd (d : Dev) (f : Nat) (g : FnCfg → FnCfg) : (d.modFn f g).spd = d.spd := rfl
@[simp] theorem Dev.modFn_tags (d : Dev) (f : Nat) (g : FnCfg → FnCfg) : (d.modFn f g).tags = d.tags := rfl
@[simp] theorem Dev.modFn_lines (d : Dev) (f : Nat) (g : FnCfg → FnCfg) : (d.modFn f g).lines = d.lines := rfl
@[simp] theorem Dev.modFn_flushing (d : Dev) (f : Nat) (g : FnCfg → FnCfg) : (d.modFn f g).flushing = d.flushing := rfl
@[simp] theorem Dev.modFn_arrays (d : Dev) (f : Nat) (g : FnCfg → FnCfg) : (d.modFn f g).arrays = d.arrays := rfl
@[simp] theorem Dev.modFn_engines (d : Dev) (f : Nat) (g : FnCfg → FnCfg) : (d.modFn f g).engines = d.engines := rfl
@[simp] theorem Dev.modFn_cores (d : Dev) (f : Nat) (g : FnCfg → FnCfg) : (d.modFn f g).cores = d.cores := rfl
@[simp] theorem Dev.modFn_stackUnits (d : Dev) (f : Nat) (g : FnCfg → FnCfg) : (d.modFn f g).stackUnits = d.stackUnits := rfl
@[simp] theorem Dev.modFn_parts (d : Dev) (f : Nat) (g : FnCfg → FnCfg) : (d.modFn f g).parts = d.parts := rfl
@[simp] theorem Dev.modFn_cmds (d : Dev) (f : Nat) (g : FnCfg → FnCfg) : (d.modFn f g).cmds = d.cmds := rfl
@[simp] theorem Dev.modFn_nextUid (d : Dev) (f : Nat) (g : FnCfg → FnCfg) : (d.modFn f g).nextUid = d.nextUid := rfl
@[simp] theorem Dev.modFn_records (d : Dev) (f : Nat) (g : FnCfg → FnCfg) : (d.modFn f g).records = d.records := rfl
@[simp] theorem Dev.modFn_plans (d : Dev) (f : Nat) (g : FnCfg → FnCfg) : (d.modFn f g).plans = d.plans := rfl
@[simp] theorem Dev.modFn_saved (d : Dev) (f : Nat) (g : FnCfg → FnCfg) : (d.modFn f g).saved = d.saved := rfl
@[simp] theorem Dev.modFn_reef (d : Dev) (f : Nat) (g : FnCfg → FnCfg) : (d.modFn f g).reef = d.reef := rfl
@[simp] theorem Dev.modFn_sessions (d : Dev) (f : Nat) (g : FnCfg → FnCfg) : (d.modFn f g).sessions = d.sessions := rfl
@[simp] theorem Dev.modFn_jobs (d : Dev) (f : Nat) (g : FnCfg → FnCfg) : (d.modFn f g).jobs = d.jobs := rfl
@[simp] theorem Dev.modFn_txFlows (d : Dev) (f : Nat) (g : FnCfg → FnCfg) : (d.modFn f g).txFlows = d.txFlows := rfl
@[simp] theorem Dev.modFn_rxFlows (d : Dev) (f : Nat) (g : FnCfg → FnCfg) : (d.modFn f g).rxFlows = d.rxFlows := rfl
@[simp] theorem Dev.modFn_nextFlow (d : Dev) (f : Nat) (g : FnCfg → FnCfg) : (d.modFn f g).nextFlow = d.nextFlow := rfl
@[simp] theorem Dev.modFn_received (d : Dev) (f : Nat) (g : FnCfg → FnCfg) : (d.modFn f g).received = d.received := rfl
@[simp] theorem Dev.modFn_rig (d : Dev) (f : Nat) (g : FnCfg → FnCfg) : (d.modFn f g).rig = d.rig := rfl
@[simp] theorem Dev.modFn_rigQueue (d : Dev) (f : Nat) (g : FnCfg → FnCfg) : (d.modFn f g).rigQueue = d.rigQueue := rfl
@[simp] theorem Dev.modFn_inbox (d : Dev) (f : Nat) (g : FnCfg → FnCfg) : (d.modFn f g).inbox = d.inbox := rfl
@[simp] theorem Dev.modFn_reducers (d : Dev) (f : Nat) (g : FnCfg → FnCfg) : (d.modFn f g).reducers = d.reducers := rfl
@[simp] theorem Dev.modFn_ports (d : Dev) (f : Nat) (g : FnCfg → FnCfg) : (d.modFn f g).ports = d.ports := rfl
@[simp] theorem Dev.modFn_streams (d : Dev) (f : Nat) (g : FnCfg → FnCfg) : (d.modFn f g).streams = d.streams := rfl
@[simp] theorem Dev.modFn_ingest (d : Dev) (f : Nat) (g : FnCfg → FnCfg) : (d.modFn f g).ingest = d.ingest := rfl
@[simp] theorem Dev.modFn_elog (d : Dev) (f : Nat) (g : FnCfg → FnCfg) : (d.modFn f g).elog = d.elog := rfl
@[simp] theorem Dev.modFn_elogSeq (d : Dev) (f : Nat) (g : FnCfg → FnCfg) : (d.modFn f g).elogSeq = d.elogSeq := rfl
@[simp] theorem Dev.modFn_elogRing (d : Dev) (f : Nat) (g : FnCfg → FnCfg) : (d.modFn f g).elogRing = d.elogRing := rfl
@[simp] theorem Dev.modFn_flashLog (d : Dev) (f : Nat) (g : FnCfg → FnCfg) : (d.modFn f g).flashLog = d.flashLog := rfl
@[simp] theorem Dev.modFn_atomicOld (d : Dev) (f : Nat) (g : FnCfg → FnCfg) : (d.modFn f g).atomicOld = d.atomicOld := rfl
@[simp] theorem Dev.modFn_sent (d : Dev) (f : Nat) (g : FnCfg → FnCfg) : (d.modFn f g).sent = d.sent := rfl

@[simp] theorem Dev.putBlock_now (d : Dev) (j b : Nat) (x : Bytes) : (d.putBlock j b x).now = d.now := rfl
@[simp] theorem Dev.putBlock_fresh (d : Dev) (j b : Nat) (x : Bytes) : (d.putBlock j b x).fresh = d.fresh := rfl
@[simp] theorem Dev.putBlock_regs (d : Dev) (j b : Nat) (x : Bytes) : (d.putBlock j b x).regs = d.regs := rfl
@[simp] theorem Dev.putBlock_commits (d : Dev) (j b : Nat) (x : Bytes) : (d.putBlock j b x).commits = d.commits := rfl
@[simp] theorem Dev.putBlock_tick (d : Dev) (j b : Nat) (x : Bytes) : (d.putBlock j b x).tick = d.tick := rfl
@[simp] theorem Dev.putBlock_host (d : Dev) (j b : Nat) (x : Bytes) : (d.putBlock j b x).host = d.host := rfl
@[simp] theorem Dev.putBlock_spd (d : Dev) (j b : Nat) (x : Bytes) : (d.putBlock j b x).spd = d.spd := rfl
@[simp] theorem Dev.putBlock_tags (d : Dev) (j b : Nat) (x : Bytes) : (d.putBlock j b x).tags = d.tags := rfl
@[simp] theorem Dev.putBlock_lines (d : Dev) (j b : Nat) (x : Bytes) : (d.putBlock j b x).lines = d.lines := rfl
@[simp] theorem Dev.putBlock_flushing (d : Dev) (j b : Nat) (x : Bytes) : (d.putBlock j b x).flushing = d.flushing := rfl
@[simp] theorem Dev.putBlock_arrays (d : Dev) (j b : Nat) (x : Bytes) : (d.putBlock j b x).arrays = d.arrays := rfl
@[simp] theorem Dev.putBlock_engines (d : Dev) (j b : Nat) (x : Bytes) : (d.putBlock j b x).engines = d.engines := rfl
@[simp] theorem Dev.putBlock_cores (d : Dev) (j b : Nat) (x : Bytes) : (d.putBlock j b x).cores = d.cores := rfl
@[simp] theorem Dev.putBlock_stackUnits (d : Dev) (j b : Nat) (x : Bytes) : (d.putBlock j b x).stackUnits = d.stackUnits := rfl
@[simp] theorem Dev.putBlock_parts (d : Dev) (j b : Nat) (x : Bytes) : (d.putBlock j b x).parts = d.parts := rfl
@[simp] theorem Dev.putBlock_cmds (d : Dev) (j b : Nat) (x : Bytes) : (d.putBlock j b x).cmds = d.cmds := rfl
@[simp] theorem Dev.putBlock_nextUid (d : Dev) (j b : Nat) (x : Bytes) : (d.putBlock j b x).nextUid = d.nextUid := rfl
@[simp] theorem Dev.putBlock_records (d : Dev) (j b : Nat) (x : Bytes) : (d.putBlock j b x).records = d.records := rfl
@[simp] theorem Dev.putBlock_plans (d : Dev) (j b : Nat) (x : Bytes) : (d.putBlock j b x).plans = d.plans := rfl
@[simp] theorem Dev.putBlock_saved (d : Dev) (j b : Nat) (x : Bytes) : (d.putBlock j b x).saved = d.saved := rfl
@[simp] theorem Dev.putBlock_reef (d : Dev) (j b : Nat) (x : Bytes) : (d.putBlock j b x).reef = d.reef := rfl
@[simp] theorem Dev.putBlock_sessions (d : Dev) (j b : Nat) (x : Bytes) : (d.putBlock j b x).sessions = d.sessions := rfl
@[simp] theorem Dev.putBlock_jobs (d : Dev) (j b : Nat) (x : Bytes) : (d.putBlock j b x).jobs = d.jobs := rfl
@[simp] theorem Dev.putBlock_txFlows (d : Dev) (j b : Nat) (x : Bytes) : (d.putBlock j b x).txFlows = d.txFlows := rfl
@[simp] theorem Dev.putBlock_rxFlows (d : Dev) (j b : Nat) (x : Bytes) : (d.putBlock j b x).rxFlows = d.rxFlows := rfl
@[simp] theorem Dev.putBlock_nextFlow (d : Dev) (j b : Nat) (x : Bytes) : (d.putBlock j b x).nextFlow = d.nextFlow := rfl
@[simp] theorem Dev.putBlock_received (d : Dev) (j b : Nat) (x : Bytes) : (d.putBlock j b x).received = d.received := rfl
@[simp] theorem Dev.putBlock_rig (d : Dev) (j b : Nat) (x : Bytes) : (d.putBlock j b x).rig = d.rig := rfl
@[simp] theorem Dev.putBlock_rigQueue (d : Dev) (j b : Nat) (x : Bytes) : (d.putBlock j b x).rigQueue = d.rigQueue := rfl
@[simp] theorem Dev.putBlock_inbox (d : Dev) (j b : Nat) (x : Bytes) : (d.putBlock j b x).inbox = d.inbox := rfl
@[simp] theorem Dev.putBlock_reducers (d : Dev) (j b : Nat) (x : Bytes) : (d.putBlock j b x).reducers = d.reducers := rfl
@[simp] theorem Dev.putBlock_ports (d : Dev) (j b : Nat) (x : Bytes) : (d.putBlock j b x).ports = d.ports := rfl
@[simp] theorem Dev.putBlock_streams (d : Dev) (j b : Nat) (x : Bytes) : (d.putBlock j b x).streams = d.streams := rfl
@[simp] theorem Dev.putBlock_ingest (d : Dev) (j b : Nat) (x : Bytes) : (d.putBlock j b x).ingest = d.ingest := rfl
@[simp] theorem Dev.putBlock_elog (d : Dev) (j b : Nat) (x : Bytes) : (d.putBlock j b x).elog = d.elog := rfl
@[simp] theorem Dev.putBlock_elogSeq (d : Dev) (j b : Nat) (x : Bytes) : (d.putBlock j b x).elogSeq = d.elogSeq := rfl
@[simp] theorem Dev.putBlock_elogRing (d : Dev) (j b : Nat) (x : Bytes) : (d.putBlock j b x).elogRing = d.elogRing := rfl
@[simp] theorem Dev.putBlock_flashLog (d : Dev) (j b : Nat) (x : Bytes) : (d.putBlock j b x).flashLog = d.flashLog := rfl
@[simp] theorem Dev.putBlock_pci (d : Dev) (j b : Nat) (x : Bytes) : (d.putBlock j b x).pci = d.pci := rfl
@[simp] theorem Dev.putBlock_atomicOld (d : Dev) (j b : Nat) (x : Bytes) : (d.putBlock j b x).atomicOld = d.atomicOld := rfl
@[simp] theorem Dev.putBlock_sent (d : Dev) (j b : Nat) (x : Bytes) : (d.putBlock j b x).sent = d.sent := rfl

/-! ### Interrupts: INT_STAT, and a message sent or left pending -/

theorem Dev.sendVector_form (d : Dev) (f v : Nat) : ∃ x y, d.sendVector f v = { d with pci := x, sent := y } := by
  unfold Dev.sendVector
  split
  · exact ⟨d.pci, _, rfl⟩
  · split
    · exact ⟨d.pci, d.sent, rfl⟩
    · exact ⟨_, d.sent, rfl⟩

theorem Dev.sendPageIrq_form (d : Dev) (page : Nat) : ∃ x y, d.sendPageIrq page = { d with pci := x, sent := y } := by
  unfold Dev.sendPageIrq Dev.eventVector
  repeat' split
  all_goals exact Dev.sendVector_form _ _ _

/-- What setting bits of INT_STAT can do: the register, and the interface's pending vectors or messages. -/
theorem Dev.raiseBits_form (d : Dev) (page : Nat) (v : Word) :
    ∃ x y, d.raiseBits page v = { d.setReg page oIntStat (d.reg page oIntStat ||| v) with pci := x, sent := y } := by
  unfold Dev.raiseBits Dev.withIrqEdge
  dsimp only
  split
  · obtain ⟨x, y, h⟩ := Dev.sendPageIrq_form (d.setReg page oIntStat (d.reg page oIntStat ||| v)) page
    exact ⟨x, y, h⟩
  · exact ⟨_, _, rfl⟩

theorem Dev.raise_form (d : Dev) (page i : Nat) :
    ∃ x y, d.raise page i = { d.setReg page oIntStat (d.reg page oIntStat ||| BitVec.ofNat 32 (1 <<< i)) with pci := x, sent := y } :=
  d.raiseBits_form page _

@[simp] theorem Dev.raise_now (d : Dev) (page i : Nat) : (d.raise page i).now = d.now := by obtain ⟨x, y, h⟩ := d.raise_form page i; rw [h]; rfl
@[simp] theorem Dev.raise_fresh (d : Dev) (page i : Nat) : (d.raise page i).fresh = d.fresh := by obtain ⟨x, y, h⟩ := d.raise_form page i; rw [h]; rfl
@[simp] theorem Dev.raise_regs (d : Dev) (page i : Nat) : (d.raise page i).regs =
    (d.setReg page oIntStat (d.reg page oIntStat ||| BitVec.ofNat 32 (1 <<< i))).regs := by obtain ⟨x, y, h⟩ := d.raise_form page i; rw [h]
@[simp] theorem Dev.raise_commits (d : Dev) (page i : Nat) : (d.raise page i).commits = d.commits := by obtain ⟨x, y, h⟩ := d.raise_form page i; rw [h]; rfl
@[simp] theorem Dev.raise_tick (d : Dev) (page i : Nat) : (d.raise page i).tick = d.tick := by obtain ⟨x, y, h⟩ := d.raise_form page i; rw [h]; rfl
@[simp] theorem Dev.raise_hbm (d : Dev) (page i : Nat) : (d.raise page i).hbm = d.hbm := by obtain ⟨x, y, h⟩ := d.raise_form page i; rw [h]; rfl
@[simp] theorem Dev.raise_host (d : Dev) (page i : Nat) : (d.raise page i).host = d.host := by obtain ⟨x, y, h⟩ := d.raise_form page i; rw [h]; rfl
@[simp] theorem Dev.raise_spd (d : Dev) (page i : Nat) : (d.raise page i).spd = d.spd := by obtain ⟨x, y, h⟩ := d.raise_form page i; rw [h]; rfl
@[simp] theorem Dev.raise_tags (d : Dev) (page i : Nat) : (d.raise page i).tags = d.tags := by obtain ⟨x, y, h⟩ := d.raise_form page i; rw [h]; rfl
@[simp] theorem Dev.raise_lines (d : Dev) (page i : Nat) : (d.raise page i).lines = d.lines := by obtain ⟨x, y, h⟩ := d.raise_form page i; rw [h]; rfl
@[simp] theorem Dev.raise_flushing (d : Dev) (page i : Nat) : (d.raise page i).flushing = d.flushing := by obtain ⟨x, y, h⟩ := d.raise_form page i; rw [h]; rfl
@[simp] theorem Dev.raise_arrays (d : Dev) (page i : Nat) : (d.raise page i).arrays = d.arrays := by obtain ⟨x, y, h⟩ := d.raise_form page i; rw [h]; rfl
@[simp] theorem Dev.raise_engines (d : Dev) (page i : Nat) : (d.raise page i).engines = d.engines := by obtain ⟨x, y, h⟩ := d.raise_form page i; rw [h]; rfl
@[simp] theorem Dev.raise_cores (d : Dev) (page i : Nat) : (d.raise page i).cores = d.cores := by obtain ⟨x, y, h⟩ := d.raise_form page i; rw [h]; rfl
@[simp] theorem Dev.raise_stackUnits (d : Dev) (page i : Nat) : (d.raise page i).stackUnits = d.stackUnits := by obtain ⟨x, y, h⟩ := d.raise_form page i; rw [h]; rfl
@[simp] theorem Dev.raise_parts (d : Dev) (page i : Nat) : (d.raise page i).parts = d.parts := by obtain ⟨x, y, h⟩ := d.raise_form page i; rw [h]; rfl
@[simp] theorem Dev.raise_cmds (d : Dev) (page i : Nat) : (d.raise page i).cmds = d.cmds := by obtain ⟨x, y, h⟩ := d.raise_form page i; rw [h]; rfl
@[simp] theorem Dev.raise_nextUid (d : Dev) (page i : Nat) : (d.raise page i).nextUid = d.nextUid := by obtain ⟨x, y, h⟩ := d.raise_form page i; rw [h]; rfl
@[simp] theorem Dev.raise_records (d : Dev) (page i : Nat) : (d.raise page i).records = d.records := by obtain ⟨x, y, h⟩ := d.raise_form page i; rw [h]; rfl
@[simp] theorem Dev.raise_plans (d : Dev) (page i : Nat) : (d.raise page i).plans = d.plans := by obtain ⟨x, y, h⟩ := d.raise_form page i; rw [h]; rfl
@[simp] theorem Dev.raise_saved (d : Dev) (page i : Nat) : (d.raise page i).saved = d.saved := by obtain ⟨x, y, h⟩ := d.raise_form page i; rw [h]; rfl
@[simp] theorem Dev.raise_reef (d : Dev) (page i : Nat) : (d.raise page i).reef = d.reef := by obtain ⟨x, y, h⟩ := d.raise_form page i; rw [h]; rfl
@[simp] theorem Dev.raise_sessions (d : Dev) (page i : Nat) : (d.raise page i).sessions = d.sessions := by obtain ⟨x, y, h⟩ := d.raise_form page i; rw [h]; rfl
@[simp] theorem Dev.raise_jobs (d : Dev) (page i : Nat) : (d.raise page i).jobs = d.jobs := by obtain ⟨x, y, h⟩ := d.raise_form page i; rw [h]; rfl
@[simp] theorem Dev.raise_txFlows (d : Dev) (page i : Nat) : (d.raise page i).txFlows = d.txFlows := by obtain ⟨x, y, h⟩ := d.raise_form page i; rw [h]; rfl
@[simp] theorem Dev.raise_rxFlows (d : Dev) (page i : Nat) : (d.raise page i).rxFlows = d.rxFlows := by obtain ⟨x, y, h⟩ := d.raise_form page i; rw [h]; rfl
@[simp] theorem Dev.raise_nextFlow (d : Dev) (page i : Nat) : (d.raise page i).nextFlow = d.nextFlow := by obtain ⟨x, y, h⟩ := d.raise_form page i; rw [h]; rfl
@[simp] theorem Dev.raise_received (d : Dev) (page i : Nat) : (d.raise page i).received = d.received := by obtain ⟨x, y, h⟩ := d.raise_form page i; rw [h]; rfl
@[simp] theorem Dev.raise_rig (d : Dev) (page i : Nat) : (d.raise page i).rig = d.rig := by obtain ⟨x, y, h⟩ := d.raise_form page i; rw [h]; rfl
@[simp] theorem Dev.raise_rigQueue (d : Dev) (page i : Nat) : (d.raise page i).rigQueue = d.rigQueue := by obtain ⟨x, y, h⟩ := d.raise_form page i; rw [h]; rfl
@[simp] theorem Dev.raise_inbox (d : Dev) (page i : Nat) : (d.raise page i).inbox = d.inbox := by obtain ⟨x, y, h⟩ := d.raise_form page i; rw [h]; rfl
@[simp] theorem Dev.raise_reducers (d : Dev) (page i : Nat) : (d.raise page i).reducers = d.reducers := by obtain ⟨x, y, h⟩ := d.raise_form page i; rw [h]; rfl
@[simp] theorem Dev.raise_ports (d : Dev) (page i : Nat) : (d.raise page i).ports = d.ports := by obtain ⟨x, y, h⟩ := d.raise_form page i; rw [h]; rfl
@[simp] theorem Dev.raise_streams (d : Dev) (page i : Nat) : (d.raise page i).streams = d.streams := by obtain ⟨x, y, h⟩ := d.raise_form page i; rw [h]; rfl
@[simp] theorem Dev.raise_ingest (d : Dev) (page i : Nat) : (d.raise page i).ingest = d.ingest := by obtain ⟨x, y, h⟩ := d.raise_form page i; rw [h]; rfl
@[simp] theorem Dev.raise_elog (d : Dev) (page i : Nat) : (d.raise page i).elog = d.elog := by obtain ⟨x, y, h⟩ := d.raise_form page i; rw [h]; rfl
@[simp] theorem Dev.raise_elogSeq (d : Dev) (page i : Nat) : (d.raise page i).elogSeq = d.elogSeq := by obtain ⟨x, y, h⟩ := d.raise_form page i; rw [h]; rfl
@[simp] theorem Dev.raise_elogRing (d : Dev) (page i : Nat) : (d.raise page i).elogRing = d.elogRing := by obtain ⟨x, y, h⟩ := d.raise_form page i; rw [h]; rfl
@[simp] theorem Dev.raise_flashLog (d : Dev) (page i : Nat) : (d.raise page i).flashLog = d.flashLog := by obtain ⟨x, y, h⟩ := d.raise_form page i; rw [h]; rfl
@[simp] theorem Dev.raise_atomicOld (d : Dev) (page i : Nat) : (d.raise page i).atomicOld = d.atomicOld := by obtain ⟨x, y, h⟩ := d.raise_form page i; rw [h]; rfl

/-! ### The error log -/

/-- What a log entry can change: the log, its copy in flash, and MGT's registers with the interrupt that follows. -/
theorem Dev.log_form (d : Dev) (e : LogEntry) :
    ∃ a b c r x y, d.log e = { d with elog := a, elogSeq := b, flashLog := c, regs := r, pci := x, sent := y } := by
  unfold Dev.log
  dsimp only
  split
  · exact ⟨_, _, _, _, _, _, rfl⟩
  · obtain ⟨x, y, h⟩ := Dev.raise_form { d with
        elog := lastN (if d.elogRing then 4096 else 64) (d.elog ++ [{ e with tick := d.tick.count, seq := d.elogSeq }]),
        elogSeq := (d.elogSeq + 1) % 2 ^ 32,
        flashLog := if e.severity ≥ 4 then lastN 256 (d.flashLog ++ [{ e with tick := d.tick.count, seq := d.elogSeq }]) else d.flashLog } pgMGT 2
    exact ⟨_, _, _, _, x, y, h⟩

@[simp] theorem Dev.log_now (d : Dev) (e : LogEntry) : (d.log e).now = d.now := by obtain ⟨_, _, _, _, _, _, h⟩ := d.log_form e; rw [h]
@[simp] theorem Dev.log_fresh (d : Dev) (e : LogEntry) : (d.log e).fresh = d.fresh := by obtain ⟨_, _, _, _, _, _, h⟩ := d.log_form e; rw [h]
@[simp] theorem Dev.log_commits (d : Dev) (e : LogEntry) : (d.log e).commits = d.commits := by obtain ⟨_, _, _, _, _, _, h⟩ := d.log_form e; rw [h]
@[simp] theorem Dev.log_tick (d : Dev) (e : LogEntry) : (d.log e).tick = d.tick := by obtain ⟨_, _, _, _, _, _, h⟩ := d.log_form e; rw [h]
@[simp] theorem Dev.log_hbm (d : Dev) (e : LogEntry) : (d.log e).hbm = d.hbm := by obtain ⟨_, _, _, _, _, _, h⟩ := d.log_form e; rw [h]
@[simp] theorem Dev.log_host (d : Dev) (e : LogEntry) : (d.log e).host = d.host := by obtain ⟨_, _, _, _, _, _, h⟩ := d.log_form e; rw [h]
@[simp] theorem Dev.log_spd (d : Dev) (e : LogEntry) : (d.log e).spd = d.spd := by obtain ⟨_, _, _, _, _, _, h⟩ := d.log_form e; rw [h]
@[simp] theorem Dev.log_tags (d : Dev) (e : LogEntry) : (d.log e).tags = d.tags := by obtain ⟨_, _, _, _, _, _, h⟩ := d.log_form e; rw [h]
@[simp] theorem Dev.log_lines (d : Dev) (e : LogEntry) : (d.log e).lines = d.lines := by obtain ⟨_, _, _, _, _, _, h⟩ := d.log_form e; rw [h]
@[simp] theorem Dev.log_flushing (d : Dev) (e : LogEntry) : (d.log e).flushing = d.flushing := by obtain ⟨_, _, _, _, _, _, h⟩ := d.log_form e; rw [h]
@[simp] theorem Dev.log_arrays (d : Dev) (e : LogEntry) : (d.log e).arrays = d.arrays := by obtain ⟨_, _, _, _, _, _, h⟩ := d.log_form e; rw [h]
@[simp] theorem Dev.log_engines (d : Dev) (e : LogEntry) : (d.log e).engines = d.engines := by obtain ⟨_, _, _, _, _, _, h⟩ := d.log_form e; rw [h]
@[simp] theorem Dev.log_cores (d : Dev) (e : LogEntry) : (d.log e).cores = d.cores := by obtain ⟨_, _, _, _, _, _, h⟩ := d.log_form e; rw [h]
@[simp] theorem Dev.log_stackUnits (d : Dev) (e : LogEntry) : (d.log e).stackUnits = d.stackUnits := by obtain ⟨_, _, _, _, _, _, h⟩ := d.log_form e; rw [h]
@[simp] theorem Dev.log_parts (d : Dev) (e : LogEntry) : (d.log e).parts = d.parts := by obtain ⟨_, _, _, _, _, _, h⟩ := d.log_form e; rw [h]
@[simp] theorem Dev.log_cmds (d : Dev) (e : LogEntry) : (d.log e).cmds = d.cmds := by obtain ⟨_, _, _, _, _, _, h⟩ := d.log_form e; rw [h]
@[simp] theorem Dev.log_nextUid (d : Dev) (e : LogEntry) : (d.log e).nextUid = d.nextUid := by obtain ⟨_, _, _, _, _, _, h⟩ := d.log_form e; rw [h]
@[simp] theorem Dev.log_records (d : Dev) (e : LogEntry) : (d.log e).records = d.records := by obtain ⟨_, _, _, _, _, _, h⟩ := d.log_form e; rw [h]
@[simp] theorem Dev.log_plans (d : Dev) (e : LogEntry) : (d.log e).plans = d.plans := by obtain ⟨_, _, _, _, _, _, h⟩ := d.log_form e; rw [h]
@[simp] theorem Dev.log_saved (d : Dev) (e : LogEntry) : (d.log e).saved = d.saved := by obtain ⟨_, _, _, _, _, _, h⟩ := d.log_form e; rw [h]
@[simp] theorem Dev.log_reef (d : Dev) (e : LogEntry) : (d.log e).reef = d.reef := by obtain ⟨_, _, _, _, _, _, h⟩ := d.log_form e; rw [h]
@[simp] theorem Dev.log_sessions (d : Dev) (e : LogEntry) : (d.log e).sessions = d.sessions := by obtain ⟨_, _, _, _, _, _, h⟩ := d.log_form e; rw [h]
@[simp] theorem Dev.log_jobs (d : Dev) (e : LogEntry) : (d.log e).jobs = d.jobs := by obtain ⟨_, _, _, _, _, _, h⟩ := d.log_form e; rw [h]
@[simp] theorem Dev.log_txFlows (d : Dev) (e : LogEntry) : (d.log e).txFlows = d.txFlows := by obtain ⟨_, _, _, _, _, _, h⟩ := d.log_form e; rw [h]
@[simp] theorem Dev.log_rxFlows (d : Dev) (e : LogEntry) : (d.log e).rxFlows = d.rxFlows := by obtain ⟨_, _, _, _, _, _, h⟩ := d.log_form e; rw [h]
@[simp] theorem Dev.log_nextFlow (d : Dev) (e : LogEntry) : (d.log e).nextFlow = d.nextFlow := by obtain ⟨_, _, _, _, _, _, h⟩ := d.log_form e; rw [h]
@[simp] theorem Dev.log_received (d : Dev) (e : LogEntry) : (d.log e).received = d.received := by obtain ⟨_, _, _, _, _, _, h⟩ := d.log_form e; rw [h]
@[simp] theorem Dev.log_rig (d : Dev) (e : LogEntry) : (d.log e).rig = d.rig := by obtain ⟨_, _, _, _, _, _, h⟩ := d.log_form e; rw [h]
@[simp] theorem Dev.log_rigQueue (d : Dev) (e : LogEntry) : (d.log e).rigQueue = d.rigQueue := by obtain ⟨_, _, _, _, _, _, h⟩ := d.log_form e; rw [h]
@[simp] theorem Dev.log_inbox (d : Dev) (e : LogEntry) : (d.log e).inbox = d.inbox := by obtain ⟨_, _, _, _, _, _, h⟩ := d.log_form e; rw [h]
@[simp] theorem Dev.log_reducers (d : Dev) (e : LogEntry) : (d.log e).reducers = d.reducers := by obtain ⟨_, _, _, _, _, _, h⟩ := d.log_form e; rw [h]
@[simp] theorem Dev.log_ports (d : Dev) (e : LogEntry) : (d.log e).ports = d.ports := by obtain ⟨_, _, _, _, _, _, h⟩ := d.log_form e; rw [h]
@[simp] theorem Dev.log_streams (d : Dev) (e : LogEntry) : (d.log e).streams = d.streams := by obtain ⟨_, _, _, _, _, _, h⟩ := d.log_form e; rw [h]
@[simp] theorem Dev.log_ingest (d : Dev) (e : LogEntry) : (d.log e).ingest = d.ingest := by obtain ⟨_, _, _, _, _, _, h⟩ := d.log_form e; rw [h]
@[simp] theorem Dev.log_elogRing (d : Dev) (e : LogEntry) : (d.log e).elogRing = d.elogRing := by obtain ⟨_, _, _, _, _, _, h⟩ := d.log_form e; rw [h]
@[simp] theorem Dev.log_atomicOld (d : Dev) (e : LogEntry) : (d.log e).atomicOld = d.atomicOld := by obtain ⟨_, _, _, _, _, _, h⟩ := d.log_form e; rw [h]

/-! ### Registers -/

@[simp] theorem Dev.reg_setReg_same (d : Dev) (page off : Nat) (v : Word) : (d.setReg page off v).reg page off = v :=
  assocGet_set_same ..

/-- Every register with another BAR0 offset reads as before. -/
theorem Dev.reg_setReg_other (d : Dev) {page off pg o : Nat} (v : Word) (h : regKey pg o ≠ regKey page off) :
    (d.setReg page off v).reg pg o = d.reg pg o := assocGet_set_other _ _ _ _ h

theorem Dev.reg_congr {d e : Dev} (h : d.regs = e.regs) (page off : Nat) : d.reg page off = e.reg page off := by simp [Dev.reg, h]

/-- Raising bit i of a page's INT_STAT sets it and keeps the page's other bits. -/
theorem Dev.reg_raise_same (d : Dev) (page i : Nat) :
    (d.raise page i).reg page oIntStat = d.reg page oIntStat ||| BitVec.ofNat 32 (1 <<< i) := by
  rw [Dev.reg_congr (d.raise_regs page i)]; exact d.reg_setReg_same ..

/-- Raising keeps every other register. -/
theorem Dev.reg_raise_other (d : Dev) {page pg o : Nat} (i : Nat) (h : regKey pg o ≠ regKey page oIntStat) :
    (d.raise page i).reg pg o = d.reg pg o := by
  rw [Dev.reg_congr (d.raise_regs page i)]; exact d.reg_setReg_other _ h

end Sys2Proof.Machine
end

