-- ==== Sys2Proof/Laws/Frames.lean ====
section
/-! SUPPORT. What each operation of the whole machine can change: the parts of the state it leaves alone. -/

namespace Sys2Proof.Machine

/-- Only the device proper and Masthead differ. -/
def State.DevMgmt (s t : State) : Prop := ∃ d m, t = { s with dev := d, mgmt := m }

theorem State.DevMgmt.refl (s : State) : s.DevMgmt s := ⟨s.dev, s.mgmt, rfl⟩
theorem State.DevMgmt.of (s : State) (d : Dev) (m : Mgmt) : s.DevMgmt { s with dev := d, mgmt := m } := ⟨d, m, rfl⟩
theorem State.DevMgmt.trans {s t u : State} (h : s.DevMgmt t) (k : t.DevMgmt u) : s.DevMgmt u := by
  obtain ⟨d, m, rfl⟩ := h
  obtain ⟨d', m', rfl⟩ := k
  exact ⟨d', m', rfl⟩

theorem State.onDev_devMgmt (s : State) (f : Dev → Dev) : s.DevMgmt (s.onDev f) := by unfold State.onDev; split <;> exact ⟨_, _, rfl⟩
theorem State.send_devMgmt (s : State) (x : Sent) : s.DevMgmt (s.send x) := ⟨_, _, rfl⟩
theorem State.refreshAlert_devMgmt (s : State) : s.DevMgmt s.refreshAlert := by
  unfold State.refreshAlert; dsimp only; split <;> exact ⟨_, _, rfl⟩
theorem State.heat_devMgmt (s : State) : s.DevMgmt s.heat :=
  (State.DevMgmt.of s s.dev.noteHeat.emergencyCheck s.mgmt).trans (State.refreshAlert_devMgmt _)
theorem State.powerReading_devMgmt (s : State) (w : Nat) : s.DevMgmt (s.powerReading w) := ⟨_, _, rfl⟩
theorem State.monitorSample_devMgmt (s : State) (die : Nat) (x : MonSample) : s.DevMgmt (s.monitorSample die x) := by
  unfold State.monitorSample
  dsimp only
  split
  · exact State.DevMgmt.refl s
  · refine State.DevMgmt.trans ?_ (State.heat_devMgmt _)
    split
    · exact (State.DevMgmt.of s _ _).trans ((State.DevMgmt.of _ _ _).trans (State.powerReading_devMgmt _ _))
    · exact ⟨_, _, rfl⟩
theorem State.stackReading_devMgmt (s : State) (i : Nat) (c : Int) : s.DevMgmt (s.stackReading i c) := by
  unfold State.stackReading
  split
  · exact State.DevMgmt.refl s
  · exact (State.DevMgmt.of s _ s.mgmt).trans (State.heat_devMgmt _)
theorem State.powerExcess_devMgmt (s : State) (w : Nat) : s.DevMgmt (s.powerExcess w) := by
  unfold State.powerExcess
  split
  · exact (State.powerReading_devMgmt s w).trans (State.refreshAlert_devMgmt _)
  · exact State.DevMgmt.refl s
theorem State.avsAdjust_devMgmt (s : State) (die : Nat) (up : Bool) : s.DevMgmt (s.avsAdjust die up) := by
  unfold State.avsAdjust
  split
  · exact State.DevMgmt.refl s
  · exact ⟨_, _, rfl⟩
theorem State.reefDecision_devMgmt (s : State) : s.DevMgmt s.reefDecision := by
  unfold State.reefDecision
  split
  · exact State.DevMgmt.refl s
  · exact (State.DevMgmt.of s _ s.mgmt).trans (State.refreshAlert_devMgmt _)
theorem State.refuseImage_devMgmt (s : State) (c v : Nat) : s.DevMgmt (s.refuseImage c v) := ⟨_, _, rfl⟩
theorem State.DevMgmt.ite {s a b : State} {c : Prop} [Decidable c] (h : s.DevMgmt a) (k : s.DevMgmt b) : s.DevMgmt (if c then a else b) := by
  split <;> assumption
theorem State.refuseHost_devMgmt (s : State) (d : Dev) (c v : Nat) : s.DevMgmt (State.refuseImage { s with dev := d } c v) := ⟨_, _, rfl⟩
theorem State.stage_devMgmt (s : State) (c : Nat) (env : Env) : s.DevMgmt (s.stage c env) := by
  unfold State.stage
  refine State.DevMgmt.ite (State.DevMgmt.refl s) (State.DevMgmt.ite (State.refuseImage_devMgmt s _ _) ?_)
  split
  · exact State.refuseHost_devMgmt s _ _ _
  · exact ⟨_, _, rfl⟩
theorem State.activate_devMgmt (s : State) (c : Nat) : s.DevMgmt (s.activate c) := by
  unfold State.activate
  dsimp only
  repeat' split
  all_goals exact ⟨_, _, rfl⟩
theorem State.handoverStart_devMgmt (s : State) : s.DevMgmt s.handoverStart := by
  unfold State.handoverStart
  repeat' split
  all_goals exact ⟨_, _, rfl⟩
theorem State.tickEdge_devMgmt (s : State) (env : Env) : s.DevMgmt (s.tickEdge env) := by
  unfold State.tickEdge
  split
  · exact State.DevMgmt.refl s
  · exact ((State.DevMgmt.of s _ s.mgmt).trans (State.handoverStart_devMgmt _)).trans (State.refreshAlert_devMgmt _)
theorem State.handoverSlice_devMgmt (s : State) (n : Nat) (ok : Bool) : s.DevMgmt (s.handoverSlice n ok) := by
  unfold State.handoverSlice
  dsimp only
  repeat' split
  all_goals exact ⟨_, _, rfl⟩
theorem State.watchdogExpiry_devMgmt (s : State) : s.DevMgmt s.watchdogExpiry := by
  unfold State.watchdogExpiry
  split
  · exact (State.DevMgmt.of s s.dev _).trans (State.refreshAlert_devMgmt _)
  · exact State.DevMgmt.refl s
theorem State.mastheadRestart_devMgmt (s : State) : s.DevMgmt s.mastheadRestart := by
  unfold State.mastheadRestart
  dsimp only
  split
  · exact State.DevMgmt.refl s
  · exact (State.DevMgmt.of s _ _).trans (State.refreshAlert_devMgmt _)
theorem State.i3cAssign_devMgmt (s : State) (a : Nat) : s.DevMgmt (s.i3cAssign a) := by
  unfold State.i3cAssign
  split <;> exact ⟨_, _, rfl⟩
theorem State.readWord_devMgmt (s : State) (page off : Nat) : s.DevMgmt (s.readWord page off).1 := by
  unfold State.readWord
  dsimp only
  repeat' split
  all_goals exact ⟨_, _, rfl⟩
theorem State.readWords_devMgmt (s : State) (o n : Nat) : s.DevMgmt (s.readWords o n).1 := by
  induction n generalizing s o with
  | zero => exact State.DevMgmt.refl s
  | succ n ih => exact (State.readWord_devMgmt s _ _).trans (ih _ _)

/-- Only the device proper, Masthead and flash differ, and of flash only rollback counters, each the same or higher. -/
def State.DevMgmtSvn (s t : State) : Prop :=
  ∃ d m l, t = { s with dev := d, mgmt := m, flash := { s.flash with counters := l } } ∧ ∀ c, s.flash.counters.getD c 0 ≤ l.getD c 0

theorem State.DevMgmt.svn {s t : State} (h : s.DevMgmt t) : s.DevMgmtSvn t := by
  obtain ⟨d, m, rfl⟩ := h
  exact ⟨d, m, s.flash.counters, rfl, fun _ => Nat.le_refl _⟩
theorem State.DevMgmtSvn.trans {s t u : State} (h : s.DevMgmtSvn t) (k : t.DevMgmtSvn u) : s.DevMgmtSvn u := by
  obtain ⟨d, m, l, rfl, hl⟩ := h
  obtain ⟨d', m', l', rfl, hk⟩ := k
  exact ⟨d', m', l', rfl, fun c => Nat.le_trans (hl c) (hk c)⟩

theorem getD_set_max (l : List Nat) (i v c : Nat) : l.getD c 0 ≤ (l.set i (max (l.getD i 0) v)).getD c 0 := by
  simp only [List.getD_eq_getElem?_getD, List.getElem?_set]
  split
  · rename_i h
    subst h
    split
    · exact Nat.le_max_left _ _
    · exact Nat.le_of_eq (congrArg (fun o => o.getD 0) (List.getElem?_eq_none (by omega)))
  · exact Nat.le_refl _

theorem State.commitSvn_form (s : State) (c : Nat) : s.DevMgmtSvn (s.commitSvn c) := by
  unfold State.commitSvn
  dsimp only
  split
  · exact (State.DevMgmt.refl s).svn
  · exact ⟨s.dev, s.mgmt, _, rfl, fun k => getD_set_max _ _ _ _⟩
theorem State.fwCtl_form (s : State) (v : Nat) : s.DevMgmtSvn (s.fwCtl v) := by
  unfold State.fwCtl
  dsimp only
  have h1 : s.DevMgmtSvn (if bit v 0 then s.stage (bits v 8 2) [] else s) := by
    split
    · exact (State.stage_devMgmt s _ _).svn
    · exact (State.DevMgmt.refl s).svn
  generalize (if bit v 0 then s.stage (bits v 8 2) [] else s) = s1 at h1 ⊢
  have h2 : s.DevMgmtSvn (if bit v 1 then s1.activate (bits v 8 2) else s1) := by
    split
    · exact h1.trans (State.activate_devMgmt _ _).svn
    · exact h1
  generalize (if bit v 1 then s1.activate (bits v 8 2) else s1) = s2 at h2 ⊢
  split
  · exact h2.trans (State.commitSvn_form _ _)
  · exact h2
theorem State.write_form (s : State) (src : Src) (page off : Nat) (v : Word) : s.DevMgmtSvn (s.write src page off v) := by
  unfold State.write
  split
  · exact State.fwCtl_form s _
  · exact (State.DevMgmt.of s _ s.mgmt).svn
theorem State.writeReg_form (s : State) (src : Src) (page off : Nat) (v : Word) : s.DevMgmtSvn (s.writeReg src page off v) := by
  unfold State.writeReg
  split
  · exact State.write_form ..
  · exact (State.DevMgmt.refl s).svn
theorem State.registerWrite_form (s : State) (src : Src) (o w v : Nat) : s.DevMgmtSvn (s.registerWrite src o w v) := by
  unfold State.registerWrite
  dsimp only
  repeat' split
  · exact (State.DevMgmt.refl s).svn
  · exact (State.write_form ..).trans (State.write_form ..)
  · exact State.write_form ..
  · exact (State.DevMgmt.of s _ s.mgmt).svn
theorem State.writeWords_form (s : State) (o : Nat) (l : List Word) : s.DevMgmtSvn (s.writeWords o l) := by
  induction l generalizing s o with
  | nil => exact (State.DevMgmt.refl s).svn
  | cons w r ih => exact (State.write_form s _ _ _ _).trans (ih _ _)
theorem State.message_form (s : State) (t : Nat) (m : MgmtMessage) : s.DevMgmtSvn (s.message t m) := by
  unfold State.message
  dsimp only
  repeat' split
  · exact (State.DevMgmt.refl s).svn
  · exact (State.send_devMgmt s _).svn
  · exact ((State.readWords_devMgmt s _ _).trans (State.send_devMgmt _ _)).svn
  · exact (State.writeWords_form s _ _).trans (State.send_devMgmt _ _).svn

/-- A write of a page that is not MGT's, or of a register other than FW_CTL, is the device proper's. -/
theorem State.writeReg_dev (s : State) (src : Src) (page off : Nat) (v : Word) (h : page ≠ pgMGT ∨ off ≠ 0xC0C) :
    ∃ d, s.writeReg src page off v = { s with dev := d } := by
  unfold State.writeReg State.write
  split
  · rw [if_neg (by rcases h with h | h <;> simp [h])]
    exact ⟨_, rfl⟩
  · exact ⟨_, rfl⟩

theorem State.fromSrc_dev (s : State) (src : Src) (f : Dev → Dev) : ∃ d, s.fromSrc src f = { s with dev := d } := by
  unfold State.fromSrc; split <;> exact ⟨_, rfl⟩
theorem State.onDev_form (s : State) (f : Dev → Dev) : ∃ d, s.onDev f = { s with dev := d } := by
  unfold State.onDev; split <;> exact ⟨_, rfl⟩
theorem State.onFabric_form (s : State) (f : Dev → Dev) : ∃ d, s.onFabric f = { s with dev := d } := by
  unfold State.onFabric; split
  · exact State.onDev_form s f
  · exact ⟨_, rfl⟩
theorem State.forHost_form (s : State) (f : Nat) (g : Dev → Dev) : ∃ d, s.forHost f g = { s with dev := d } := by
  unfold State.forHost; split <;> exact ⟨_, rfl⟩
theorem State.forAperture_form (s : State) (f : Nat) (g : Dev → Dev) : ∃ d, s.forAperture f g = { s with dev := d } := by
  unfold State.forAperture; split
  · exact State.forHost_form s f g
  · exact ⟨_, rfl⟩
theorem State.forConfig_form (s : State) (f : Nat) (g : Dev → Dev) : ∃ d, s.forConfig f g = { s with dev := d } := by
  unfold State.forConfig; repeat' split
  all_goals exact ⟨_, rfl⟩
theorem State.admitNext_form (s : State) (p q : Nat) (env : Env) : ∃ d, s.admitNext p q env = { s with dev := d } := by
  unfold State.admitNext; dsimp only; repeat' split
  all_goals exact ⟨_, rfl⟩

end Sys2Proof.Machine
end

