-- ==== Sys2Proof/Laws/Complete.lean ====
section
/-! SUPPORT. Writes through a partition's addresses, and what the end of a command leaves: its status, its record, and everything it does not touch. -/

namespace Sys2Proof.Machine

/-! ### Memory writes through addresses -/

theorem Dev.setByteIn_form (d : Dev) (p space a : Nat) (b : Byte) :
    ∃ x y z, d.setByteIn p space a b = { d with hbm := x, host := y, spd := z } := by
  unfold Dev.setByteIn Dev.setSpdByte Dev.setDevByte
  repeat' split
  all_goals exact ⟨_, _, _, rfl⟩

/-- A string of bytes changes memory and nothing else. -/
theorem Dev.putBytesIn_form (d : Dev) (p space a : Nat) (bs : Bytes) :
    ∃ x y z, d.putBytesIn p space a bs = { d with hbm := x, host := y, spd := z } := by
  induction bs generalizing d a with
  | nil => exact ⟨_, _, _, rfl⟩
  | cons b bs ih =>
    obtain ⟨x, y, z, h⟩ := d.setByteIn_form p space a b
    obtain ⟨x', y', z', h'⟩ := ih (d.setByteIn p space a b) (a + 1)
    exact ⟨x', y', z', by rw [Dev.putBytesIn, h', h]⟩

theorem Dev.applyWrites_form (d : Dev) (p : Nat) (ws : List ElemWrite) :
    ∃ x y z, d.applyWrites p ws = { d with hbm := x, host := y, spd := z } := by
  unfold Dev.applyWrites
  induction ws generalizing d with
  | nil => exact ⟨_, _, _, rfl⟩
  | cons w ws ih =>
    obtain ⟨x, y, z, h⟩ := d.putBytesIn_form p w.space (w.bitAddr / 8)
      (toLe ((w.bitAddr % 8 + w.width + 7) / 8) (setBits (leNat (d.bytesIn p w.space (w.bitAddr / 8) ((w.bitAddr % 8 + w.width + 7) / 8))) (w.bitAddr % 8) w.width w.code))
    obtain ⟨x', y', z', h'⟩ := ih (d.putCode p w)
    exact ⟨x', y', z', by rw [List.foldl_cons, h']; simp only [Dev.putCode, h]⟩

/-! ### The end of a command -/

/-- Memory and registers, and nothing else. -/
def Dev.MemRegs (d e : Dev) : Prop := ∃ x y z r, e = { d with hbm := x, host := y, spd := z, regs := r }

theorem Dev.MemRegs.refl (d : Dev) : d.MemRegs d := ⟨_, _, _, _, rfl⟩
theorem Dev.MemRegs.trans {d e f : Dev} (h : d.MemRegs e) (k : e.MemRegs f) : d.MemRegs f := by
  obtain ⟨x, y, z, r, rfl⟩ := h
  obtain ⟨x', y', z', r', rfl⟩ := k
  exact ⟨x', y', z', r', rfl⟩
theorem Dev.MemRegs.fold {α : Type} {f : Dev → α → Dev} (h : ∀ (d : Dev) (x : α), d.MemRegs (f d x)) (l : List α) {d e : Dev}
    (k : d.MemRegs e) : d.MemRegs (l.foldl f e) := by
  induction l generalizing e with
  | nil => exact k
  | cons x l ih => exact ih (k.trans (h e x))

theorem Dev.modKvEntry_memRegs (d : Dev) (p n : Nat) (f : KvEntry → KvEntry) : d.MemRegs (d.modKvEntry p n f) := by
  obtain ⟨x, y, z, h⟩ := d.putBytesIn_form p 0 ((d.kvPool p).entryAddr n) ((d.kvPool p).entryBytes n (f (d.kvEntry p n)))
  exact ⟨x, y, z, d.regs, h⟩
theorem Dev.kvSettle_memRegs (d : Dev) (p n : Nat) : d.MemRegs (d.kvSettle p n) := by
  unfold Dev.kvSettle
  dsimp only
  split
  · obtain ⟨x, y, z, h⟩ := d.putBytesIn_form p 0 ((d.kvPool p).entryAddr n) ((d.kvPool p).entryBytes n { free := true })
    refine Dev.MemRegs.trans ⟨x, y, z, d.regs, h⟩ ⟨_, _, _, _, rfl⟩
  · exact Dev.MemRegs.refl d
theorem Dev.kvRelease_memRegs (d : Dev) (c : Cmd) : d.MemRegs (d.kvRelease c) := by
  unfold Dev.kvRelease
  refine Dev.MemRegs.fold (fun d n => d.kvSettle_memRegs _ _) _
    (Dev.MemRegs.fold (fun d n => d.modKvEntry_memRegs _ _ _) _ (Dev.MemRegs.fold (fun d t => ?_) _ (Dev.MemRegs.refl d)))
  split
  · exact d.modKvEntry_memRegs _ _ _
  · exact Dev.MemRegs.refl d

/-- Everything that the end of a command cannot change but for the memory of its KV pages. -/
theorem Dev.stopOnError_form (d : Dev) (c : Cmd) :
    ∃ x r y z, d.stopOnError c = { d with parts := x, regs := r, pci := y, sent := z } := by
  unfold Dev.stopOnError
  dsimp only
  split
  · obtain ⟨y, z, h⟩ := Dev.raise_form (d.modQueue c.part c.queue (fun q => { q with state := 2 })) (pgPART c.part) 7
    exact ⟨_, _, y, z, h⟩
  · exact ⟨_, _, _, _, rfl⟩

theorem Dev.finish_form (d : Dev) (c : Cmd) (st det : Nat) :
    ∃ ps cs rs r u v, d.finish c st det = { d with parts := ps, cmds := cs, records := rs, regs := r, pci := u, sent := v } := by
  obtain ⟨x, r, y, z, h⟩ := (d.tellEnd (c.endedAs st det d.tick.count)).stopOnError_form (c.endedAs st det d.tick.count)
  exact ⟨_, _, _, _, _, _, h⟩

theorem Dev.givesBack_form (d : Dev) (c : Cmd) (ran : Bool) :
    ∃ ps x y z r, d.givesBack c ran = { d with parts := ps, hbm := x, host := y, spd := z, regs := r } := by
  unfold Dev.givesBack
  have hq : ∃ ps, (if ran then d.accountCommit c else d).settleKeeps c ran = { d with parts := ps } := by
    unfold Dev.settleKeeps
    split <;> exact ⟨_, rfl⟩
  obtain ⟨ps, hq⟩ := hq
  rw [hq]
  dsimp only
  split
  · exact ⟨_, _, _, _, _, rfl⟩
  · obtain ⟨x, y, z, r, h⟩ := Dev.kvRelease_memRegs ({ d with parts := ps } : Dev) c
    exact ⟨_, _, _, _, _, h⟩

/-- A command without pinned pages or pages it writes leaves memory alone at its end. -/
theorem Dev.givesBack_noPages (d : Dev) (c : Cmd) (ran : Bool) (hp : c.pins = []) (ht : c.kvTargets = []) :
    ∃ ps, d.givesBack c ran = { d with parts := ps } := by
  unfold Dev.givesBack
  rw [hp, ht]
  unfold Dev.settleKeeps
  split <;> exact ⟨_, rfl⟩

/-- What ending a command with a status changes: the partitions' accounts and queues, the commands, the records, memory of KV pages, registers and
interrupts. -/
theorem Dev.complete_form (d : Dev) (c : Cmd) (st det : Nat) :
    ∃ ps cs rs x y z r u v, d.complete c st det =
      { d with parts := ps, cmds := cs, records := rs, hbm := x, host := y, spd := z, regs := r, pci := u, sent := v } := by
  obtain ⟨ps, x, y, z, r, h⟩ := d.givesBack_form c (ranToEnd (c.endStatus st det).1 (c.endStatus st det).2)
  obtain ⟨ps', cs, rs, r', u, v, h'⟩ := Dev.finish_form (d.givesBack c (ranToEnd (c.endStatus st det).1 (c.endStatus st det).2)) c
    (c.endStatus st det).1 (c.endStatus st det).2
  exact ⟨ps', cs, rs, x, y, z, r', u, v, by unfold Dev.complete; dsimp only; rw [h', h]⟩

/-- The same without pages: no memory. -/
theorem Dev.complete_form_noPages (d : Dev) (c : Cmd) (st det : Nat) (hp : c.pins = []) (ht : c.kvTargets = []) :
    ∃ ps cs rs r u v, d.complete c st det = { d with parts := ps, cmds := cs, records := rs, regs := r, pci := u, sent := v } := by
  obtain ⟨ps, h⟩ := d.givesBack_noPages c (ranToEnd (c.endStatus st det).1 (c.endStatus st det).2) hp ht
  obtain ⟨ps', cs, rs, r', u, v, h'⟩ := Dev.finish_form (d.givesBack c (ranToEnd (c.endStatus st det).1 (c.endStatus st det).2)) c
    (c.endStatus st det).1 (c.endStatus st det).2
  exact ⟨ps', cs, rs, r', u, v, by unfold Dev.complete; dsimp only; rw [h', h]⟩

/-- A command found by its number. -/
theorem Dev.cmd?_uid {d : Dev} {u : Nat} {c : Cmd} (h : d.cmd? u = some c) : c.uid = u := by
  simpa using List.find?_some h

/-- R116: a started command whose copies are in force runs in the device as it stands. -/
theorem Dev.asStarted_here {d : Dev} {u : Nat} {c : Cmd} (f : Dev → Dev) (h : d.cmd? u = some c) (hc : c.copy = d.copyNow) : d.asStarted u f = f d := by
  unfold Dev.asStarted
  rw [h]
  simp [hc]

/-- Telling that a command has ended puts it in its place. -/
theorem Dev.tellEnd_cmd (d : Dev) (e : Cmd) (h : (d.cmd? e.uid).isSome = true) :
    (d.tellEnd e).cmd? e.uid = some (e.hears e.uid (hasFailed e.status e.detail) e.id) := by
  obtain ⟨o, ho⟩ := Option.isSome_iff_exists.mp h
  have hou := Dev.cmd?_uid ho
  show ((d.cmds.map (fun (x : Cmd) => if x.uid = e.uid then e else x)).map (Cmd.hears e.uid (hasFailed e.status e.detail) e.id)).find?
    (fun c => c.uid == e.uid) = _
  rw [List.find?_map, List.find?_map]
  have hf : ((fun (c : Cmd) => c.uid == e.uid) ∘ (Cmd.hears e.uid (hasFailed e.status e.detail) e.id)) ∘
      (fun (x : Cmd) => if x.uid = e.uid then e else x) = fun (x : Cmd) => x.uid == e.uid := by
    funext x
    simp only [Function.comp, Cmd.hears]
    split
    · rename_i hx; rw [hx]
    · rfl
  rw [hf]
  have ho' : d.cmds.find? (fun x => x.uid == e.uid) = some o := ho
  simp [ho', hou]

theorem Dev.tellEnd_records (d : Dev) (e : Cmd) : (d.tellEnd e).records = d.records ++ [⟨e.part, e.queue, e.uid, e.record, e.irq⟩] := rfl

/-- Ending a command settles it wherever it stands: it is live no more, has the status and DETAIL, and its record is the last of those waiting. -/
theorem Dev.complete_hasEnded (d : Dev) (c : Cmd) (st det : Nat) (h : (d.cmd? c.uid).isSome = true) :
    (d.complete c st det).HasEnded c.uid (c.endStatus st det) := by
  obtain ⟨ps, x, y, z, r, hb⟩ := d.givesBack_form c (ranToEnd (c.endStatus st det).1 (c.endStatus st det).2)
  unfold Dev.complete
  dsimp only
  generalize hq : d.givesBack c (ranToEnd (c.endStatus st det).1 (c.endStatus st det).2) = q at hb
  have hc : (q.cmd? c.uid).isSome = true := by rw [hb]; exact h
  generalize c.endStatus st det = e
  unfold Dev.finish
  dsimp only
  obtain ⟨a, b, f, g, hs⟩ := (q.tellEnd (c.endedAs e.1 e.2 q.tick.count)).stopOnError_form (c.endedAs e.1 e.2 q.tick.count)
  rw [hs]
  refine ⟨⟨_, q.tellEnd_cmd (c.endedAs e.1 e.2 q.tick.count) hc, rfl, rfl, rfl⟩, ⟨c.part, c.queue, c.uid, (c.endedAs e.1 e.2 q.tick.count).record, (c.endedAs e.1 e.2 q.tick.count).irq⟩, ?_, rfl⟩
  show _ ∈ (q.tellEnd (c.endedAs e.1 e.2 q.tick.count)).records
  rw [q.tellEnd_records]
  exact List.mem_append_right _ (List.mem_singleton.mpr rfl)

/-- A command put back in its place is found there. -/
theorem Dev.setCmd_cmd (d : Dev) (c : Cmd) (h : (d.cmd? c.uid).isSome = true) : (d.setCmd c).cmd? c.uid = some c := by
  obtain ⟨o, ho⟩ := Option.isSome_iff_exists.mp h
  have hou := Dev.cmd?_uid ho
  show (d.cmds.map (fun (x : Cmd) => if x.uid = c.uid then c else x)).find? (fun x => x.uid == c.uid) = _
  rw [List.find?_map]
  have hf : (fun (x : Cmd) => x.uid == c.uid) ∘ (fun (x : Cmd) => if x.uid = c.uid then c else x) = fun (x : Cmd) => x.uid == c.uid := by
    funext x
    simp only [Function.comp]
    split
    · rename_i hx; rw [hx]
    · rfl
  rw [hf]
  have ho' : d.cmds.find? (fun x => x.uid == c.uid) = some o := ho
  simp [ho', hou]

/-- Every other command stays as it is. -/
theorem Dev.setCmd_other (d : Dev) (c : Cmd) {u : Nat} (h : u ≠ c.uid) : (d.setCmd c).cmd? u = d.cmd? u := by
  show (d.cmds.map (fun (x : Cmd) => if x.uid = c.uid then c else x)).find? (fun x => x.uid == u) = d.cmds.find? _
  induction d.cmds with
  | nil => rfl
  | cons x l ih =>
    rw [List.map_cons, List.find?_cons, List.find?_cons, ih]
    by_cases hx : x.uid = c.uid
    · simp [hx, beq_eq_false_iff_ne.mpr (Ne.symm h)]
    · simp [hx]

end Sys2Proof.Machine
end

