-- ==== Sys2Proof/Laws/Pages.lean ====
section
/-! SUPPORT. Register pages: the block of every page, and what one register write comes to once its page, its register and its source are known. -/

namespace Sys2Proof.Machine

/-! ### The block of a page (Table 4-1) -/

theorem blockOf_part {p : Nat} (h : p < 64) : blockOf (pgPART p) = some (.part, p) :=
  (by decide : ∀ p : Fin 64, blockOf (pgPART p) = some (.part, p.val)) ⟨p, h⟩
theorem blockOf_arr {a : Nat} (h : a < 128) : blockOf (pgARR a) = some (.arr, a) :=
  (by decide : ∀ p : Fin 128, blockOf (pgARR p) = some (.arr, p.val)) ⟨a, h⟩
theorem blockOf_spd {n : Nat} (h : n < 64) : blockOf (pgSPD n) = some (.spd, n) :=
  (by decide : ∀ p : Fin 64, blockOf (pgSPD p) = some (.spd, p.val)) ⟨n, h⟩
theorem blockOf_vec {n : Nat} (h : n < 64) : blockOf (pgVEC n) = some (.vec, n) :=
  (by decide : ∀ p : Fin 64, blockOf (pgVEC p) = some (.vec, p.val)) ⟨n, h⟩
theorem blockOf_hbm {i : Nat} (h : i < 12) : blockOf (pgHBM i) = some (.hbm, i) :=
  (by decide : ∀ p : Fin 12, blockOf (pgHBM p) = some (.hbm, p.val)) ⟨i, h⟩
theorem blockOf_red {i : Nat} (h : i < 4) : blockOf (pgRED i) = some (.red, i) :=
  (by decide : ∀ p : Fin 4, blockOf (pgRED p) = some (.red, p.val)) ⟨i, h⟩
theorem blockOf_shc {i : Nat} (h : i < 4) : blockOf (pgSHC i) = some (.shc, i) :=
  (by decide : ∀ p : Fin 4, blockOf (pgSHC p) = some (.shc, p.val)) ⟨i, h⟩
theorem blockOf_d2d {i : Nat} (h : i < 6) : blockOf (pgD2D i) = some (.d2d, i) :=
  (by decide : ∀ p : Fin 6, blockOf (pgD2D p) = some (.d2d, p.val)) ⟨i, h⟩
theorem blockOf_fab : blockOf pgFAB = some (.fab, 0) := by decide
theorem blockOf_mgt : blockOf pgMGT = some (.mgt, 0) := by decide

/-! ### One write -/

@[simp] theorem heldWrite_none (old v : Word) : heldWrite old v 0 = v := by
  have e : (~~~ BitVec.ofNat 32 0) = BitVec.allOnes 32 := rfl
  simp only [heldWrite, e, BitVec.and_allOnes]; simp

/-- A source that is not a virtual function is bound only by the security block's locks on the management page. -/
theorem Dev.heldBits_none (d : Dev) {src : Src} {page off : Nat} {r : RegSpec} (h : r.pf = 0 ∨ isVf src = false) (hp : page ≠ pgMGT) :
    d.heldBits src page off r = 0 := by
  unfold Dev.heldBits
  rcases h with h | h <;> simp [h, hp]

/-- The offsets of the header's writable registers. -/
def headerOffsets : List Nat := [0x008, 0x00C, 0x014, 0x018, 0x01C]

theorem Dev.write32_shadow (d : Dev) {src : Src} {page off : Nat} {v : Word} {b : Block} {i : Nat} {r : RegSpec}
    (hp : d.pagePresent src page = true) (hb : blockOf page = some (b, i)) (ho : 0x40 ≤ off) (hr : regSpec b off = some r)
    (ha : r.access = .rws) : d.write32 src page off v = d.writeShadow src page off r v := by
  unfold Dev.write32
  rw [if_neg (by simp [hp]), hb]
  dsimp only
  split <;> first | omega | skip
  rw [hr]; dsimp only; rw [ha]

theorem Dev.write32_sticky (d : Dev) {src : Src} {page off : Nat} {v : Word} {b : Block} {i : Nat} {r : RegSpec}
    (hp : d.pagePresent src page = true) (hb : blockOf page = some (b, i)) (ho : 0x40 ≤ off) (hr : regSpec b off = some r)
    (ha : r.access = .w1c) : d.write32 src page off v =
      if d.lockedTo src page then d.ignored page else d.setReg page off (d.reg page off &&& ~~~ v) := by
  unfold Dev.write32
  rw [if_neg (by simp [hp]), hb]
  dsimp only
  split <;> first | omega | skip
  rw [hr]; dsimp only; rw [ha]

theorem Dev.write32_readOnly (d : Dev) {src : Src} {page off : Nat} {v : Word} {b : Block} {i : Nat} {r : RegSpec}
    (hp : d.pagePresent src page = true) (hb : blockOf page = some (b, i)) (ho : 0x40 ≤ off) (hr : regSpec b off = some r)
    (ha : r.access = .ro) : d.write32 src page off v = d := by
  unfold Dev.write32
  rw [if_neg (by simp [hp]), hb]
  dsimp only
  split <;> first | omega | skip
  rw [hr]; dsimp only; rw [ha]

/-- A live register with no bit held from the source takes the write at once. -/
theorem Dev.write32_live (d : Dev) {src : Src} {page off : Nat} {v : Word} {b : Block} {i : Nat} {r : RegSpec}
    (hp : d.pagePresent src page = true) (hb : blockOf page = some (b, i)) (ho : 0x40 ≤ off) (hr : regSpec b off = some r)
    (ha : r.access = .l ∨ r.access = .wo) (hh : d.heldBits src page off r = 0) :
    d.write32 src page off v = d.writeLive b i page off (v &&& BitVec.ofNat 32 r.mask) := by
  unfold Dev.write32
  rw [if_neg (by simp [hp]), hb]
  dsimp only
  split <;> first | omega | skip
  rw [hr]; dsimp only
  rcases ha with ha | ha <;> rw [ha, hh] <;> simp

/-- A served write to any register but FW_CTL acts on the device proper. -/
theorem State.writeReg_served (s : State) {src : Src} {page off : Nat} {v : Word} (hs : s.srcOk src = true)
    (hf : page ≠ pgMGT ∨ off ≠ 0xC0C) : s.writeReg src page off v = { s with dev := s.dev.write32 src page off v } := by
  unfold State.writeReg State.write
  rw [if_pos hs, if_neg (by rcases hf with h | h <;> simp [h])]

theorem bySource_served (s : State) {has : Bool} {src : Src} {page off : Nat} {v : Word} (h : has = true) (hs : s.srcOk src = true)
    (hf : page ≠ pgMGT ∨ off ≠ 0xC0C) : bySource has s src page off v = .next { s with dev := s.dev.write32 src page off v } := by
  unfold bySource withUnit
  rw [h, State.writeReg_served s hs hf]; rfl

/-! ### Live registers of a partition's page -/

theorem Dev.live_sessionOpen (d : Dev) (p : Nat) (v : Word) : d.writePartLive p 0xC04 v = (d.setReg (pgPART p) 0xC04 v).modPart p
    (fun x => { x with sessionReq := x.sessionReq ++ [(d.setReg (pgPART p) 0xC04 v).liveAddr p 0xC00] }) := rfl
theorem Dev.live_jobOpen (d : Dev) (p : Nat) (v : Word) : d.writePartLive p 0xC2C v = (d.setReg (pgPART p) 0xC2C v).modPart p
    (fun x => { x with jobReq := x.jobReq ++ [(d.setReg (pgPART p) 0xC2C v).liveAddr p 0xC28] }) := rfl
theorem Dev.live_streamOpen (d : Dev) (p : Nat) (v : Word) : d.writePartLive p 0xC40 v = (d.setReg (pgPART p) 0xC40 v).modPart p
    (fun x => { x with streamReq := x.streamReq ++ [(d.setReg (pgPART p) 0xC40 v).liveAddr p 0xC3C] }) := rfl
theorem Dev.live_streamRekey (d : Dev) (p : Nat) (v : Word) : d.writePartLive p 0xC48 v =
    d.modPart p (fun x => { x with rekeyReq := x.rekeyReq ++ [bits v.toNat 0 10] }) := rfl
theorem Dev.live_mailSqTail (d : Dev) (p : Nat) (v : Word) : d.writePartLive p 0xC34 v = (d.setReg (pgPART p) 0xC34 v).modPart p
    (fun x => { x with mailSqTail := v.toNat % 65536 }) := rfl
theorem Dev.live_mailRqHead (d : Dev) (p : Nat) (v : Word) : d.writePartLive p 0xC38 v = (d.setReg (pgPART p) 0xC38 v).modPart p
    (fun x => { x with mailRqHead := v.toNat % 65536 }) := rfl
theorem Dev.live_sessionClose (d : Dev) (p : Nat) (v : Word) :
    d.writePartLive p 0xC08 v = (d.closeSession p (bits v.toNat 0 12)).getD d := rfl
theorem Dev.live_jobClose (d : Dev) (p : Nat) (v : Word) : d.writePartLive p 0xC30 v = d.closeJob p (v.toNat % 65536) := rfl
theorem Dev.live_streamClose (d : Dev) (p : Nat) (v : Word) : d.writePartLive p 0xC44 v = d.closeStream p (bits v.toNat 0 10) := rfl
theorem Dev.live_resync (d : Dev) (p : Nat) (v : Word) : d.writePartLive p 0xC10 v = d.resyncRequest p v.toNat := rfl
theorem Dev.live_queueAbort (d : Dev) (p : Nat) (v : Word) : d.writePartLive p 0xC1C v = d.queueAbort p v.toNat := rfl
theorem Dev.live_queueResume (d : Dev) (p : Nat) (v : Word) : d.writePartLive p 0xC20 v = d.queueResume p v.toNat := rfl
theorem Dev.live_countClear (d : Dev) (p : Nat) (v : Word) : d.writePartLive p 0xC24 v = d.clearCounters (pgPART p) 0x844 3 v.toNat := rfl

end Sys2Proof.Machine
end

