-- ==== Sys2Proof/Laws/Regs.lean ====
section
/-! SUPPORT. What counting, raising and logging do to the registers: one register changes, every other reads as before. -/

namespace Sys2Proof.Machine

theorem regKey_off_ne {pg pg' o o' : Nat} (h : o < 0x1000) (h' : o' < 0x1000) (hn : o ≠ o') : regKey pg o ≠ regKey pg' o' := by
  unfold regKey; omega

theorem regKey_page_ne {pg pg' o o' : Nat} (h : o < 0x1000) (h' : o' < 0x1000) (hn : pg ≠ pg') : regKey pg o ≠ regKey pg' o' := by
  unfold regKey; omega

/-- A saturating counter holds what it counts to, at most 2^32 - 1. -/
theorem Dev.regN_bump_same (d : Dev) (page off n : Nat) : (d.bump page off n).regN page off = min (d.regN page off + n) (2 ^ 32 - 1) := by
  unfold Dev.bump Dev.regN
  rw [Dev.reg_setReg_same]
  unfold satAdd
  rw [BitVec.toNat_ofNat]
  exact Nat.mod_eq_of_lt (by omega)

theorem Dev.reg_bump_other (d : Dev) {page off pg o : Nat} (n : Nat) (h : regKey pg o ≠ regKey page off) : (d.bump page off n).reg pg o = d.reg pg o :=
  d.reg_setReg_other _ h

theorem Dev.regN_bump_other (d : Dev) {page off pg o : Nat} (n : Nat) (h : regKey pg o ≠ regKey page off) : (d.bump page off n).regN pg o = d.regN pg o := by
  unfold Dev.regN; rw [Dev.reg_bump_other _ _ h]

theorem Dev.regN_setReg_same (d : Dev) (page off : Nat) (v : Word) : (d.setReg page off v).regN page off = v.toNat := by
  unfold Dev.regN; rw [Dev.reg_setReg_same]

theorem Dev.regN_setReg_other (d : Dev) {page off pg o : Nat} (v : Word) (h : regKey pg o ≠ regKey page off) : (d.setReg page off v).regN pg o = d.regN pg o := by
  unfold Dev.regN; rw [Dev.reg_setReg_other _ _ h]

theorem Dev.regN_raise_other (d : Dev) {page pg o : Nat} (i : Nat) (h : regKey pg o ≠ regKey page oIntStat) : (d.raise page i).regN pg o = d.regN pg o := by
  unfold Dev.regN; rw [Dev.reg_raise_other _ _ h]

/-- Raising bit i of INT_STAT sets it. -/
theorem Dev.bit_raise (d : Dev) (page : Nat) {i : Nat} (h : i < 32) : bit ((d.raise page i).regN page oIntStat) i = true := by
  unfold Dev.regN
  rw [Dev.reg_raise_same]
  show (d.reg page oIntStat ||| BitVec.ofNat 32 (1 <<< i)).getLsbD i = true
  rw [BitVec.getLsbD_or]
  simp [BitVec.getLsbD_ofNat, h, Nat.testBit_shiftLeft]

/-- An error-log entry changes no register but INT_STAT of MGT. -/
theorem Dev.reg_log_other (d : Dev) (e : LogEntry) {pg o : Nat} (h : regKey pg o ≠ regKey pgMGT oIntStat) : (d.log e).reg pg o = d.reg pg o := by
  unfold Dev.log
  dsimp only
  split
  · rfl
  · rw [Dev.reg_raise_other _ _ h]; rfl

theorem Dev.regN_log_other (d : Dev) (e : LogEntry) {pg o : Nat} (h : regKey pg o ≠ regKey pgMGT oIntStat) : (d.log e).regN pg o = d.regN pg o := by
  unfold Dev.regN; rw [Dev.reg_log_other _ _ h]

/-- An error-log entry keeps the bits of MGT's INT_STAT that are set. -/
theorem Dev.bit_log (d : Dev) (e : LogEntry) {pg i : Nat} (h : bit (d.regN pg oIntStat) i = true) : bit ((d.log e).regN pg oIntStat) i = true := by
  unfold Dev.log
  dsimp only
  split
  · exact h
  · by_cases hp : pg = pgMGT
    · subst hp
      unfold Dev.regN
      rw [Dev.reg_raise_same]
      show (_ ||| _ : BitVec 32).getLsbD i = true
      rw [BitVec.getLsbD_or]
      have : (d.reg pgMGT oIntStat).getLsbD i = true := h
      show ((d.reg pgMGT oIntStat).getLsbD i || _) = true
      rw [this]; rfl
    · rw [Dev.regN_raise_other _ _ (by unfold regKey oIntStat; omega)]; exact h

/-- One partition of the device changes and the others stay. -/
theorem Dev.part_setPart_same (d : Dev) (p : Nat) (x : Part) (h : p < d.parts.length) : (d.setPart p x).part p = x := by
  simp [Dev.part, Dev.setPart, List.getD_eq_getElem?_getD, h]

theorem Dev.part_setPart_other (d : Dev) {p q : Nat} (x : Part) (h : q ≠ p) : (d.setPart p x).part q = d.part q := by
  simp [Dev.part, Dev.setPart, List.getD_eq_getElem?_getD, Ne.symm h]

theorem Dev.part_modPart_same (d : Dev) (p : Nat) (f : Part → Part) (h : p < d.parts.length) : (d.modPart p f).part p = f (d.part p) :=
  d.part_setPart_same p _ h

theorem Dev.part_modPart_other (d : Dev) {p q : Nat} (f : Part → Part) (h : q ≠ p) : (d.modPart p f).part q = d.part q :=
  d.part_setPart_other _ h

/-- One queue of a partition changes and the others stay. -/
theorem Dev.queue_modQueue_same (d : Dev) (p q : Nat) (f : Queue → Queue) (hp : p < d.parts.length) (hq : q < (d.part p).queues.length) :
    (d.modQueue p q f).queue p q = f (d.queue p q) := by
  unfold Dev.modQueue Dev.modPart Dev.queue
  rw [Dev.part_setPart_same _ _ _ hp]
  simp [Part.queue, List.getD_eq_getElem?_getD, hq]

theorem Dev.queue_modQueue_other (d : Dev) (p : Nat) {q r : Nat} (f : Queue → Queue) (hp : p < d.parts.length) (hq : r ≠ q) :
    (d.modQueue p q f).queue p r = d.queue p r := by
  unfold Dev.modQueue Dev.modPart Dev.queue
  rw [Dev.part_setPart_same _ _ _ hp]
  simp [Part.queue, List.getD_eq_getElem?_getD, Ne.symm hq]

theorem Dev.part_modQueue_other (d : Dev) {p o : Nat} (q : Nat) (f : Queue → Queue) (h : o ≠ p) : (d.modQueue p q f).part o = d.part o :=
  d.part_modPart_other _ h

/-- A command of a running device acts on the device proper alone. -/
theorem State.onDev_running (s : State) (f : Dev → Dev) (h : s.running = true) : s.onDev f = { s with dev := f s.dev } := by
  unfold State.onDev; rw [if_pos h]

end Sys2Proof.Machine
end

