-- ==== Sys2Proof/Laws/Lists.lean ====
section
/-! SUPPORT. Lookups and updates of the lists that the state holds, and masks of words. -/

namespace Sys2Proof.Machine

/-- Offsets that differ name different registers of a page. -/
theorem regKey_same_page_ne {page off o : Nat} (h : o ≠ off) : regKey page o ≠ regKey page off := by unfold regKey; omega

/-- Setting one register leaves the others. -/
theorem Dev.RegsBut_setReg (d : Dev) (page off : Nat) (v : Word) : (d.setReg page off v).RegsBut d [regKey page off] := by
  intro pg o _ h; exact Dev.reg_setReg_other _ _ (by simpa using h)

/-- No partition has the page of MGT. -/
theorem pgPART_ne_pgMGT {p : Nat} : pgPART p ≠ pgMGT := by unfold pgPART pgMGT; omega

/-- A mask of the low 16 bits. -/
theorem and_low16 (v : Word) : (v &&& BitVec.ofNat 32 0xFFFF).toNat = v.toNat % 65536 := by
  rw [BitVec.toNat_and]; exact Nat.and_two_pow_sub_one_eq_mod v.toNat 16

/-- A mask of the low 10 bits. -/
theorem and_low10 (v : Word) : (v &&& BitVec.ofNat 32 0x3FF).toNat = v.toNat % 1024 := by
  rw [BitVec.toNat_and]; exact Nat.and_two_pow_sub_one_eq_mod v.toNat 10

/-- A mask of the low 12 bits. -/
theorem and_low12 (v : Word) : (v &&& BitVec.ofNat 32 0xFFF).toNat = v.toNat % 4096 := by
  rw [BitVec.toNat_and]; exact Nat.and_two_pow_sub_one_eq_mod v.toNat 12

/-- A field at bit 0 is a remainder. -/
theorem bits_zero (x n : Nat) : bits x 0 n = x % 2 ^ n := by simp [bits]

/-- A search through a map that keeps what is searched for. -/
theorem find_map_same {α : Type} (l : List α) (f : α → α) (P : α → Bool) (h : ∀ x, P (f x) = P x) : (l.map f).find? P = (l.find? P).map f := by
  rw [List.find?_map]; congr 1; congr 1; funext x; exact h x

/-- A map that leaves the sought elements alone. -/
theorem find_map_keep {α : Type} (l : List α) (f : α → α) (P : α → Bool) (h : ∀ x, P (f x) = P x) (g : ∀ x, P x = true → f x = x) : (l.map f).find? P =
    l.find? P := by
  rw [find_map_same l f P h]
  cases he : l.find? P with
  | none => rfl
  | some x => simp [g x (List.find?_some he)]

/-- Closing a session marks it. -/
theorem find_closed_session (l : List Session) (p id : Nat) (x : Session) (h : l.find? (fun s => s.part == p && s.id == id) = some x) :
   (l.map (fun s => if s.id = id then { s with closing := true } else s)).find? (fun s => s.part == p && s.id == id) = some { x with closing := true } := by
  rw [find_map_same _ _ _ (by intro x; split <;> rfl), h]
  have := List.find?_some h
  simp at this; simp [this.2]

/-- Closing a session leaves the others. -/
theorem find_other_session (l : List Session) (q id i : Nat) (hi : i ≠ id) :
   (l.map (fun s => if s.id = id then { s with closing := true } else s)).find? (fun s => s.part == q && s.id == i) = l.find? (fun s => s.part == q && s.id == i) := by
  refine find_map_keep _ _ _ (by intro x; split <;> rfl) (fun x hx => ?_)
  simp at hx; rw [if_neg (by omega)]

/-- Closing a job marks it. -/
theorem find_closed_job (l : List Job) (id : Nat) (x : Job) (h : l.find? (fun s => s.id == id) = some x) :
   (l.map (fun s => if s.id = id then { s with closing := true } else s)).find? (fun s => s.id == id) = some { x with closing := true } := by
  rw [find_map_same _ _ _ (by intro x; split <;> rfl), h]
  have := List.find?_some h
  simp at this; simp [this]

/-- Closing a job leaves the others. -/
theorem find_other_job (l : List Job) (id i : Nat) (hi : i ≠ id) :
   (l.map (fun s => if s.id = id then { s with closing := true } else s)).find? (fun s => s.id == i) = l.find? (fun s => s.id == i) := by
  refine find_map_keep _ _ _ (by intro x; split <;> rfl) (fun x hx => ?_)
  simp at hx; rw [if_neg (by omega)]

/-- A stream that is set. -/
theorem find_set_stream (l : List Stream) (id : Nat) (x y : Stream) (hy : y.id = id) (h : l.find? (fun s => s.id == id) = some x) :
   (l.map (fun s => if s.id = y.id then y else s)).find? (fun s => s.id == id) = some y := by
  rw [find_map_same _ _ _ (by intro x; split <;> rename_i h <;> simp [h]), h]
  have := List.find?_some h
  simp at this; simp [this, hy]

/-- Another stream than the one set. -/
theorem find_other_stream (l : List Stream) (id i : Nat) (y : Stream) (hy : y.id = id) (hi : i ≠ id) :
   (l.map (fun s => if s.id = y.id then y else s)).find? (fun s => s.id == i) = l.find? (fun s => s.id == i) := by
  refine find_map_keep _ _ _ (by intro x; split <;> rename_i h <;> simp [h]) (fun x hx => ?_)
  simp at hx; rw [if_neg (by omega)]

/-- One change made to several queues of a partition. -/
theorem Dev.modQueue_fold (p : Nat) (f : Queue → Queue) (l : List Nat) (d : Dev) (hp : p < d.parts.length) (hq : (d.part p).queues.length = 16) (hl : ∀ q ∈ l,
    q < 16) (hn : l.Nodup) :
   (∀ q, (l.foldl (fun d q => d.modQueue p q f) d).queue p q = if q ∈ l then f (d.queue p q) else d.queue p q) ∧
   (∀ q, q ≠ p → (l.foldl (fun d q => d.modQueue p q f) d).part q = d.part q) ∧
   (∃ ps, l.foldl (fun d q => d.modQueue p q f) d = { d with parts := ps }) := by
  induction l generalizing d with
  | nil => exact ⟨by simp, fun _ _ => rfl, d.parts, rfl⟩
  | cons a l ih =>
    simp only [List.foldl_cons]
    have hl2 : p < (d.modQueue p a f).parts.length := by simpa [Dev.modQueue, Dev.modPart, Dev.setPart] using hp
    have hq2 : ((d.modQueue p a f).part p).queues.length = 16 := by
      unfold Dev.modQueue Dev.modPart; rw [Dev.part_setPart_same _ _ _ hp]; simpa using hq
    obtain ⟨i1, i2, ps, i3⟩ := ih (d.modQueue p a f) hl2 hq2 (fun q h => hl q (by simp [h])) (List.nodup_cons.1 hn).2
    refine ⟨fun q => ?_, fun q h => ?_, ps, by rw [i3]; rfl⟩
    · rw [i1 q]
      have ha := (List.nodup_cons.1 hn).1
      by_cases h : q = a
      · subst h; rw [if_neg ha, if_pos (by simp), Dev.queue_modQueue_same _ _ _ _ hp (by rw [hq]; exact hl q (by simp))]
      · rw [Dev.queue_modQueue_other _ _ _ hp h]; simp [h]
    · rw [i2 q h]; unfold Dev.modQueue Dev.modPart; rw [Dev.part_setPart_other _ _ h]

/-- The bits set in a word. -/
theorem mem_setBitsOf (v : Word) (n k : Nat) : k ∈ setBitsOf v.toNat n ↔ k < n ∧ v.getLsbD k = true := by
  simp [setBitsOf, BitVec.getLsbD]

/-- Set bits are listed once. -/
theorem nodup_setBitsOf (v n : Nat) : (setBitsOf v n).Nodup := by unfold setBitsOf; exact (List.nodup_range).sublist List.filter_sublist

/-- A mask of 16 bits keeps each of them. -/
theorem getLsbD_and_low16 (v : Word) (q : Nat) (h : q < 16) : (v &&& BitVec.ofNat 32 0xFFFF).getLsbD q = v.getLsbD q := by
  rw [BitVec.getLsbD_and]
  have : (BitVec.ofNat 32 0xFFFF).getLsbD q = true := by
    have := (by decide : ∀ q : Fin 16, (BitVec.ofNat 32 0xFFFF).getLsbD q.val = true) ⟨q, h⟩
    exact this
  simp [this]

/-- A counter leaves the commands. -/
theorem Dev.cmd_bump (d : Dev) (pg o n u : Nat) : (d.bump pg o n).cmd? u = d.cmd? u := rfl

/-- Every page is in the view of the physical function and of Masthead. -/
theorem Dev.pagePresent_of_not_vf (d : Dev) {src : Src} (page : Nat) (h : isVf src = false) : d.pagePresent src page = true := by
  cases src with
  | masthead => rfl
  | fn f => cases f with
    | zero => simp [Dev.pagePresent]
    | succ n => simp [isVf] at h

/-- Numbers with the same bits are equal. -/
theorem eq_of_bits_eq (a b : Nat) (h : ∀ i, a.testBit i = b.testBit i) : a = b := Nat.eq_of_testBit_eq h

/-- A field that a mask keeps. -/
theorem bits_and_mask (v : Word) (m lo n : Nat) (hm : ∀ i < n, (BitVec.ofNat 32 m).getLsbD (lo + i) = true) : bits (v &&& BitVec.ofNat 32 m).toNat lo n = bits
    v.toNat lo n := by
  apply eq_of_bits_eq; intro i
  unfold bits
  simp only [Nat.testBit_mod_two_pow, Nat.testBit_shiftRight]
  by_cases h : i < n
  · have := hm i h
    simp only [h, decide_true, Bool.true_and]
    show (v &&& BitVec.ofNat 32 m).getLsbD (lo + i) = v.getLsbD (lo + i)
    rw [BitVec.getLsbD_and, this, Bool.and_true]
  · simp [h]

/-- A change of a queue is a change of the partitions alone. -/
theorem State.modQueue_parts (s : State) (p q : Nat) (f : Queue → Queue) : ({ s with dev := s.dev.modQueue p q f } : State) = { s with dev := { s.dev with
    parts := (s.dev.modQueue p q f).parts } } := rfl

/-- The stream that was set. -/
theorem Dev.stream_setStream_same (d : Dev) (x : Stream) (h : (d.stream? x.id).isSome = true) : (d.setStream x).stream? x.id = some x := by
  unfold Dev.setStream Dev.stream? at *
  dsimp only
  generalize d.streams = l at *
  induction l with
  | nil => simp at h
  | cons a l ih =>
    rw [List.map_cons, List.find?_cons]
    rw [List.find?_cons] at h
    by_cases ha : a.id = x.id
    · simp [ha]
    · rw [if_neg ha]; simp only [beq_eq_false_iff_ne.mpr ha] at h ⊢; exact ih h

/-- Another stream. -/
theorem Dev.stream_setStream_other (d : Dev) (x : Stream) {v : Nat} (h : v ≠ x.id) : (d.setStream x).stream? v = d.stream? v := by
  unfold Dev.setStream Dev.stream?
  dsimp only
  generalize d.streams = l
  induction l with
  | nil => rfl
  | cons a l ih =>
    rw [List.map_cons, List.find?_cons, List.find?_cons, ih]
    by_cases ha : a.id = x.id
    · rw [if_pos ha]; simp [ha, beq_eq_false_iff_ne.mpr (Ne.symm h)]
    · rw [if_neg ha]

/-- A stream found by an identity has it. -/
theorem Dev.stream_id {d : Dev} {v : Nat} {x : Stream} (h : d.stream? v = some x) : x.id = v := by simpa using List.find?_some h

/-- A command set under an identity is found there. -/
theorem Dev.cmd_setCmd_at (d : Dev) (u : Nat) (c x : Cmd) (hu : d.cmd? u = some c) (hx : x.uid = u) : (d.setCmd x).cmd? u = some x := by
  have := d.setCmd_cmd x (by rw [hx, hu]; rfl); rwa [hx] at this

/-- A quotient rounded up is no more than the dividend. -/
theorem ceilDiv_le (x n : Nat) (h : 1 ≤ n) : ceilDiv x n ≤ x := by
  unfold ceilDiv
  rw [if_neg (by omega)]
  rcases Nat.eq_zero_or_pos x with h0 | h0
  · subst h0; exact Nat.le_of_eq (Nat.div_eq_of_lt (by omega))
  · rw [Nat.div_le_iff_le_mul_add_pred (by omega)]
    have : n * 1 + x ≤ n * x + 1 := by
      obtain ⟨a, rfl⟩ : ∃ a, n = a + 1 := ⟨n - 1, by omega⟩
      obtain ⟨b, rfl⟩ : ∃ b, x = b + 1 := ⟨x - 1, by omega⟩
      simp only [Nat.mul_add, Nat.add_mul]; omega
    omega

/-- What one element of a list yields, whatever the flags before it. -/
theorem mapM_getElem {α β : Type} (g : α → Num β) : ∀ (l : List α) (f : NumFlags) (i : Nat) (a : α), l[i]? = some a →
    ∃ f1, ((l.mapM g).run f).1[i]? = some ((g a).run f1).1
  | [], _, _, _, h => by simp at h
  | x :: l, f, 0, a, h => by
    simp at h; subst h
    exact ⟨f, by simp [List.mapM_cons, StateT.run_bind]; rfl⟩
  | x :: l, f, i+1, a, h => by
    obtain ⟨f1, h1⟩ := mapM_getElem g l ((g x).run f).2 i a (by simpa using h)
    refine ⟨f1, ?_⟩
    rw [List.mapM_cons]
    exact h1

/-- Saturation to INT32 is a clamp, and says when it clamped. -/
theorem satInt32_run (x : Int) (f : NumFlags) : (satInt32 x).run f = (clampInt32 x, { f with saturated := f.saturated || decide (clampInt32 x ≠ x) }) := by
  unfold satInt32 clampInt32
  split
  · rename_i h
    have e : max (-2147483648) (min 2147483647 x) = -2147483648 := by omega
    rw [e]; simp [raiseSat]
    first | rfl | (have : ¬ (-2147483648 = x) := by omega
                   simp [this, raise, NumFlags.or, StateT.run_modify]; try rfl)
  · split
    · have e : max (-2147483648) (min 2147483647 x) = 2147483647 := by omega
      rw [e]; simp [raiseSat]
      first | rfl | (have : ¬ (2147483647 = x) := by omega
                     simp [this, raise, NumFlags.or, StateT.run_modify]; try rfl)
    · have e : max (-2147483648) (min 2147483647 x) = x := by omega
      rw [e]; simp; rfl

/-- A command that was set is found. -/
theorem Dev.cmd_setCmd_some (d : Dev) (x : Cmd) (c : Cmd) (h : d.cmd? x.uid = some c) : (d.setCmd x).cmd? x.uid = some x :=
  Dev.setCmd_cmd d x (by rw [h]; rfl)

/-- Putting copies in force changes registers only. -/
theorem Dev.withCopy_form (d : Dev) (l) : ∃ r, d.withCopy l = { d with regs := r } := ⟨_, rfl⟩

/-- An element at the end that alone is sought. -/
theorem find_append_last {α : Type} (p : α → Bool) (l : List α) (x : α) (h : ∀ y ∈ l, p y = false) (hx : p x = true) : (l ++ [x]).find? p = some x := by
  rw [List.find?_append, List.find?_eq_none.2 (by intro y hy; rw [h y hy]; simp)]
  simp [hx]

/-- Commands looked up by identity, each found as it is. -/
theorem Dev.filterMap_cmd_self (d : Dev) (l : List Cmd) (h : ∀ x ∈ l, d.cmd? x.uid = some x) : l.filterMap (fun x => d.cmd? x.uid) = l := by
  induction l with
  | nil => rfl
  | cons x l ih =>
    rw [List.filterMap_cons, h x (by simp)]
    simp only
    rw [ih (fun y hy => h y (by simp [hy]))]

/-- A wide counter leaves other registers. -/
theorem Dev.regN_bumpWide_other (d : Dev) {page off pg o : Nat} (n : Nat) (h : regKey pg o ≠ regKey page off) (h' : regKey pg o ≠ regKey page (wideKey off)) :
    (d.bumpWide page off n).regN pg o = d.regN pg o := by
  unfold Dev.bumpWide Dev.setWide
  rw [Dev.regN_setReg_other _ _ h', Dev.regN_setReg_other _ _ h]

/-- The array that was changed, and the others. -/
theorem Dev.array_modArray (d : Dev) (a : Nat) (f) (h : a < d.arrays.length) : (d.modArray a f).array a = f (d.array a) ∧ ∀ b, b ≠ a → (d.modArray a f).array
    b = d.array b := by
  unfold Dev.modArray Dev.array
  dsimp only
  refine ⟨?_, fun b hb => ?_⟩
  · simp [List.getD_eq_getElem?_getD, List.getElem?_set, h]
  · simp [List.getD_eq_getElem?_getD, List.getElem?_set, Ne.symm hb]

/-- Arrays read alike where the list is the same. -/
theorem Dev.array_congr {d e : Dev} (h : d.arrays = e.arrays) (b : Nat) : d.array b = e.array b := by unfold Dev.array; rw [h]

/-- A hoisted array is one of the device. -/
theorem Dev.hoisted_in_range (d : Dev) (a : Nat) (h : (d.array a).hoist = .hoisted) : a < d.arrays.length := by
  rcases Nat.lt_or_ge a d.arrays.length with hc | hc
  · exact hc
  · unfold Dev.array at h; rw [List.getD_eq_getElem?_getD, List.getElem?_eq_none hc] at h; exact absurd h (by decide)

end Sys2Proof.Machine
end

