-- ==== Sys2Proof/Laws/View.lean ====
section
/-! SUPPORT. What a command can see of memory, and which operations leave it: each operation's effect said once. -/

namespace Sys2Proof.Machine

/-- What a command can see of memory is the same in two states: cells, regions, cores, pools of pages and the counter of free words. -/
structure SameView (d e : Dev) : Prop where
  hbm : d.hbm = e.hbm
  host : d.host = e.host
  spd : d.spd = e.spd
  fresh : d.fresh = e.fresh
  regions : ∀ p, (d.parts.getD p {}).regions = (e.parts.getD p {}).regions
  cores : ∀ p, d.coresOf p = e.coresOf p
  pool : ∀ p, d.kvPool p = e.kvPool p

theorem SameView.refl (d : Dev) : SameView d d := ⟨rfl, rfl, rfl, rfl, fun _ => rfl, fun _ => rfl, fun _ => rfl⟩

theorem SameView.trans {d e f : Dev} (a : SameView d e) (b : SameView e f) : SameView d f :=
  ⟨a.1.trans b.1, a.2.trans b.2, a.3.trans b.3, a.4.trans b.4, fun p => (a.5 p).trans (b.5 p), fun p => (a.6 p).trans (b.6 p), fun p => (a.7 p).trans (b.7 p)⟩

theorem SameView.symm {d e : Dev} (a : SameView d e) : SameView e d :=
  ⟨a.1.symm, a.2.symm, a.3.symm, a.4.symm, fun p => (a.5 p).symm, fun p => (a.6 p).symm, fun p => (a.7 p).symm⟩

/-- The memories are the same. -/
theorem SameView.same {d e : Dev} (a : SameView d e) : d.SameMemory e := ⟨a.1, a.2, a.3⟩

/-- The region an address lies in. -/
theorem SameView.region {d e : Dev} (a : SameView d e) (p x : Nat) : d.regionOf p x = e.regionOf p x := by unfold Dev.regionOf; rw [a.regions]

/-- The cell of an address. -/
theorem SameView.cell {d e : Dev} (a : SameView d e) (p x : Nat) : d.cellOf p x = e.cellOf p x := by unfold Dev.cellOf; rw [a.region]

theorem SameView.held {d e : Dev} (a : SameView d e) (p x : Nat) : d.heldCell p x = e.heldCell p x := by
  unfold Dev.heldCell; rw [a.cell]; simp only [a.cell]

/-- Where a scratchpad offset lies. -/
theorem SameView.place {d e : Dev} (a : SameView d e) (p x : Nat) : d.spdPlace p x = e.spdPlace p x := by unfold Dev.spdPlace; dsimp only; rw [a.cores]

/-- Bytes read alike. -/
theorem SameView.byte {d e : Dev} (a : SameView d e) (p sp x : Nat) : d.byteIn p sp x = e.byteIn p sp x := by
  unfold Dev.byteIn Dev.spdByte Dev.devByte; rw [a.place, a.held, a.hbm, a.host, a.spd, a.fresh]

/-- Ranges of bytes read alike. -/
theorem SameView.bytes {d e : Dev} (a : SameView d e) (p sp x n : Nat) : d.bytesIn p sp x n = e.bytesIn p sp x n := by
  induction n generalizing x with
  | zero => rfl
  | succ n ih => simp only [Dev.bytesIn, a.byte, ih]

theorem SameView.upd {d e : Dev} (a : SameView d e) (x y z) : SameView { d with hbm := x, host := y, spd := z } { e with hbm := x, host := y, spd := z } :=
  ⟨rfl, rfl, rfl, a.4, a.5, a.6, a.7⟩

/-- A byte written in both. -/
theorem SameView.setByte {d e : Dev} (a : SameView d e) (p sp x : Nat) (b : Byte) : SameView (d.setByteIn p sp x b) (e.setByteIn p sp x b) := by
  unfold Dev.setByteIn Dev.setSpdByte Dev.setDevByte
  rw [a.place, a.held]
  split
  · split
    · rw [a.spd]; exact ⟨a.1, a.2, rfl, a.4, a.5, a.6, a.7⟩
    · exact a
  · split
    · rw [a.host]; exact ⟨a.1, rfl, a.3, a.4, a.5, a.6, a.7⟩
    · split
      · rw [a.hbm]; exact ⟨rfl, a.2, a.3, a.4, a.5, a.6, a.7⟩
      · exact a

/-- Bytes written in both. -/
theorem SameView.put {d e : Dev} (a : SameView d e) (p sp x : Nat) (bs : Bytes) : SameView (d.putBytesIn p sp x bs) (e.putBytesIn p sp x bs) := by
  induction bs generalizing d e x with
  | nil => exact a
  | cons b bs ih => exact ih (a.setByte p sp x b) (x + 1)

/-- An element written in both. -/
theorem SameView.code {d e : Dev} (a : SameView d e) (p : Nat) (w : ElemWrite) : SameView (d.putCode p w) (e.putCode p w) := by
  unfold Dev.putCode; dsimp only; rw [a.bytes]; exact a.put _ _ _ _

/-- A list of elements written in both. -/
theorem SameView.writes {d e : Dev} (a : SameView d e) (p : Nat) (ws : List ElemWrite) : SameView (d.applyWrites p ws) (e.applyWrites p ws) := by
  unfold Dev.applyWrites
  induction ws generalizing d e with
  | nil => exact a
  | cons w ws ih => exact ih (a.code p w)

/-- An offset of a page that is not the active copy of a register. -/
def outsideActive (o : Nat) : Prop := o < 0x1000 ∧ (o < 0x440 ∨ 0x800 ≤ o)

/-- A change outside the active copies is not seen. -/
theorem SameView.ofRegs {d e : Dev} (h1 : e.hbm = d.hbm) (h2 : e.host = d.host) (h3 : e.spd = d.spd) (h4 : e.fresh = d.fresh)
   (h5 : ∀ p, (e.parts.getD p {}).regions = (d.parts.getD p {}).regions) (h6 : ∀ page o,
       0x440 ≤ o → o < 0x800 → e.reg page o = d.reg page o) : SameView e d := by
  have ha : ∀ page off, 0x40 ≤ off → off < 0x400 → e.active page off = d.active page off := fun page off h h' => by
    unfold Dev.active Dev.regN; rw [h6 page (off + 0x400) (by omega) (by omega)]
  refine ⟨h1, h2, h3, h4, h5, fun p => ?_, fun p => ?_⟩
  · unfold Dev.coresOf; rw [ha _ _ (by decide) (by decide), ha _ _ (by decide) (by decide)]
  · unfold Dev.kvPool kvPoolOf
    dsimp only
    simp (disch := decide) only [ha]

theorem SameView.setReg (d : Dev) (pg o : Nat) (v : Word) (h : outsideActive o) : SameView (d.setReg pg o v) d :=
  SameView.ofRegs rfl rfl rfl rfl (fun _ => rfl) fun page o' h1 h2 => Dev.reg_setReg_other _ _ (regKey_off_ne (by omega) h.1 (by have := h.2; omega))

theorem SameView.bump (d : Dev) (pg o n : Nat) (h : outsideActive o) : SameView (d.bump pg o n) d := SameView.setReg d pg o _ h

theorem SameView.raise (d : Dev) (pg i : Nat) : SameView (d.raise pg i) d := by
  obtain ⟨x, y, h⟩ := d.raise_form pg i
  have := SameView.setReg d pg oIntStat (d.reg pg oIntStat ||| BitVec.ofNat 32 (1 <<< i)) (by unfold outsideActive; decide)
  rw [h]; exact ⟨this.1, this.2, this.3, this.4, this.5, this.6, this.7⟩

theorem SameView.wide (d : Dev) (pg o n : Nat) (h : outsideActive o) (h' : outsideActive (wideKey o)) : SameView (d.bumpWide pg o n) d := by
  unfold Dev.bumpWide Dev.setWide; exact (SameView.setReg _ _ _ _ h').trans (SameView.setReg _ _ _ _ h)

/-- A change of a partition that keeps its regions. -/
theorem SameView.modPart (d : Dev) (p : Nat) (f : Part → Part) (h : (f (d.part p)).regions = (d.part p).regions) : SameView (d.modPart p f) d := by
  refine SameView.ofRegs rfl rfl rfl rfl (fun q => ?_) (fun _ _ _ _ => rfl)
  show ((d.parts.set p (f (d.part p))).getD q {}).regions = _
  by_cases hq : p = q
  · subst hq
    by_cases hl : p < d.parts.length
    · simp [List.getD_eq_getElem?_getD, hl]; rw [h]; simp [Dev.part, List.getD_eq_getElem?_getD, hl]
    · simp [List.getD_eq_getElem?_getD, hl]
  · simp [List.getD_eq_getElem?_getD, List.getElem?_set, hq]

theorem SameView.fold {α : Type} {f : Dev → α → Dev} (h : ∀ (d : Dev) (x : α), SameView (f d x) d) (l : List α) (d : Dev) : SameView (l.foldl f d) d := by
  induction l generalizing d with
  | nil => exact SameView.refl d
  | cons x l ih => exact (ih (f d x)).trans (h d x)

theorem SameView.fold2 {α : Type} {f : Dev → α → Dev} (h : ∀ (d e : Dev) (x : α), SameView d e → SameView (f d x) (f e x)) (l : List α) {d e : Dev} (k :
    SameView d e) : SameView (l.foldl f d) (l.foldl f e) := by
  induction l generalizing d e with
  | nil => exact k
  | cons x l ih => exact ih (h d e x k)

theorem SameView.modQueue (d : Dev) (p q : Nat) (f : Queue → Queue) : SameView (d.modQueue p q f) d := SameView.modPart d p _ rfl

/-- Telling the waiting commands of an end is not seen. -/
theorem SameView.tellEnd (d : Dev) (e : Cmd) : SameView (d.tellEnd e) d := by
  unfold Dev.tellEnd
  have := SameView.modQueue ({ d with cmds := (d.cmds.map (fun (x : Cmd) => if x.uid = e.uid then e else x)).map (Cmd.hears e.uid (hasFailed e.status e.detail) e.id) } : Dev) e.part e.queue (fun q => { q with last := q.last.settle e.uid (hasFailed e.status e.detail) e.id })
  exact ⟨this.1, this.2, this.3, this.4, this.5, this.6, this.7⟩

theorem SameView.stop (d : Dev) (c : Cmd) : SameView (d.stopOnError c) d := by
  unfold Dev.stopOnError; dsimp only; split
  · exact (SameView.raise _ _ _).trans (SameView.modQueue _ _ _ _)
  · exact SameView.refl d

theorem SameView.finish (d : Dev) (c : Cmd) (a b : Nat) : SameView (d.finish c a b) d := (SameView.stop _ _).trans (SameView.tellEnd _ _)

theorem SameView.account (d : Dev) (c : Cmd) : SameView (d.accountCommit c) d := by
  first | (unfold Dev.accountCommit) | (unfold Dev.settleKeeps)
  exact SameView.modPart d _ _ rfl

theorem SameView.keeps (d : Dev) (c : Cmd) (r : Bool) : SameView (d.settleKeeps c r) d := by
  first | (unfold Dev.accountCommit) | (unfold Dev.settleKeeps)
  exact SameView.modPart d _ _ rfl

theorem SameView.setKv {d e : Dev} (a : SameView d e) (p n : Nat) (x : KvEntry) : SameView (d.setKvEntry p n x) (e.setKvEntry p n x) := by
  unfold Dev.setKvEntry; dsimp only; rw [a.pool]; exact a.put _ _ _ _

theorem SameView.entry {d e : Dev} (a : SameView d e) (p n : Nat) : d.kvEntry p n = e.kvEntry p n := by
  unfold Dev.kvEntry; dsimp only; rw [a.pool, a.bytes]

theorem SameView.modKv {d e : Dev} (a : SameView d e) (p n : Nat) (f : KvEntry → KvEntry) : SameView (d.modKvEntry p n f) (e.modKvEntry p n f) := by
  unfold Dev.modKvEntry; rw [a.entry]; exact a.setKv _ _ _

theorem SameView.settleKv {d e : Dev} (a : SameView d e) (p n : Nat) : SameView (d.kvSettle p n) (e.kvSettle p n) := by
  have hb : ∀ d : Dev, SameView (d.bump (pgKVP p) 0x820 1) d := fun d => SameView.bump d _ _ _ (by unfold outsideActive; decide)
  have hx : d.kvSettle p n = if ((d.kvEntry p n).ref = 0 && (d.kvEntry p n).pins = 0 && !(d.kvEntry p n).free) = true then (d.setKvEntry p n { free := true }).bump (pgKVP p) 0x820 1 else d := rfl
  have hy : e.kvSettle p n = if ((e.kvEntry p n).ref = 0 && (e.kvEntry p n).pins = 0 && !(e.kvEntry p n).free) = true then (e.setKvEntry p n { free := true }).bump (pgKVP p) 0x820 1 else e := rfl
  rw [hx, hy, a.entry]
  have h1 := hb (d.setKvEntry p n { free := true })
  have h2 := hb (e.setKvEntry p n { free := true })
  have h3 := a.setKv p n { free := true }
  have h5 := (h1.trans h3).trans h2.symm
  clear h1 h2 h3 hx hy hb
  generalize (d.setKvEntry p n { free := true }).bump (pgKVP p) 0x820 1 = x at h5 ⊢
  generalize (e.setKvEntry p n { free := true }).bump (pgKVP p) 0x820 1 = y at h5 ⊢
  generalize ((e.kvEntry p n).ref = 0 && (e.kvEntry p n).pins = 0 && !(e.kvEntry p n).free) = b
  cases b
  · exact a
  · exact h5

/-- Pages released in both. -/
theorem SameView.release {d e : Dev} (a : SameView d e) (c : Cmd) : SameView (d.kvRelease c) (e.kvRelease c) := by
  have s1 : SameView (c.kvTargets.foldl (fun d t => if t.held then d.modKvEntry c.part t.page (fun e => { e with held := false }) else d) d)
      (c.kvTargets.foldl (fun d t => if t.held then d.modKvEntry c.part t.page (fun e => { e with held := false }) else d) e) := by
    refine SameView.fold2 (fun d e x h => ?_) _ a
    split
    · exact h.modKv _ _ _
    · exact h
  have s2 := SameView.fold2 (f := fun d n => d.modKvEntry c.part n (fun e => { e with pins := e.pins - 1 })) (fun d e x h => h.modKv _ _ _) c.pins s1
  exact SameView.fold2 (f := fun d n => d.kvSettle c.part n) (fun d e x h => h.settleKv _ _) (c.pins ++ c.pages).eraseDups s2

theorem SameView.release_pins (d : Dev) (c c' : Cmd) (h1 : c.part = c'.part) (h2 : c.pins = c'.pins) (h3 : c.kvTargets = c'.kvTargets) (h4 : c.pages =
    c'.pages) : d.kvRelease c = d.kvRelease c' := by
  unfold Dev.kvRelease; rw [h1, h2, h3, h4]

theorem SameView.back (d : Dev) (c : Cmd) (r : Bool) : SameView (d.givesBack c r) (if c.pins.isEmpty && c.kvTargets.isEmpty then d else d.kvRelease c) := by
  unfold Dev.givesBack
  have h : SameView ((if r then d.accountCommit c else d).settleKeeps c r) d := by
    refine (SameView.keeps _ _ _).trans ?_
    split
    · exact SameView.account _ _
    · exact SameView.refl _
  dsimp only
  split
  · exact h
  · exact h.release c

/-- Completing a command is seen only where it gives pages back. -/
theorem SameView.complete (d : Dev) (c : Cmd) (a b : Nat) : SameView (d.complete c a b) (if c.pins.isEmpty && c.kvTargets.isEmpty then d else d.kvRelease c)
    :=
  (SameView.finish _ _ _ _).trans (SameView.back _ _ _)

/-- Completing a command that holds no page is not seen. -/
theorem SameView.complete0 (d : Dev) (c : Cmd) (a b : Nat) (h : c.pins = []) (h' : c.kvTargets = []) : SameView (d.complete c a b) d := by
  have := SameView.complete d c a b; rwa [h, h'] at this

theorem Dev.setTag_fold (l : List (Nat × Nat)) (f : Nat × Nat → SlotTag) (d : Dev) : ∃ t, l.foldl (fun d s => d.setTag s.1 s.2 (f s)) d = { d with tags := t }
    := by
  induction l generalizing d with
  | nil => exact ⟨_, rfl⟩
  | cons x l ih => obtain ⟨t, h⟩ := ih (d.setTag x.1 x.2 (f x)); exact ⟨t, by rw [List.foldl_cons, h]; rfl⟩

/-- Settling tags changes tags only. -/
theorem Dev.settleTags_form (d : Dev) (c : Cmd) : ∃ t, d.settleTags c = { d with tags := t } := by
  unfold Dev.settleTags
  obtain ⟨t, h⟩ := Dev.setTag_fold (d.taggedSlots c (d.opCheck c c.image).outputs) (fun _ => ⟨true, 0⟩) d
  dsimp only
  rw [h]
  obtain ⟨t', h'⟩ := Dev.setTag_fold (({ d with tags := t } : Dev).taggedSlots c (d.opCheck c c.image).inputs) (fun _ => {}) { d with tags := t }
  exact ⟨t', h'⟩

theorem SameView.tags (d : Dev) (t) : SameView { d with tags := t } d := ⟨rfl, rfl, rfl, rfl, fun _ => rfl, fun _ => rfl, fun _ => rfl⟩

theorem SameView.stk (d : Dev) (a b c e) : SameView (d.stkCount a b c e) d := by
  unfold Dev.stkCount
  dsimp only
  exact ((SameView.bump _ _ _ _ (by unfold outsideActive; decide)).trans (SameView.bump _ _ _ _ (by unfold outsideActive; decide))).trans ⟨rfl, rfl, rfl,
      rfl, fun _ => rfl, fun _ => rfl, fun _ => rfl⟩

theorem Dev.stkCount_cmd (d : Dev) (a b c e u) : (d.stkCount a b c e).cmd? u = d.cmd? u := rfl

/-- Counting the stacks of a COPY is not seen. -/
theorem Dev.countStacks_effect (d : Dev) (c : Cmd) : SameView (d.countStacks c) d ∧ (d.countStacks c).cmds = d.cmds := by
  unfold Dev.countStacks
  split
  · exact ⟨SameView.refl _, rfl⟩
  · dsimp only
    generalize List.range 12 = l
    generalize d.tensorBlocks c.part (c.tensor (if (c.cpMode == 4) = true then c.cpSrc else c.cpDst)) = bl
    have : ∀ e : Dev, SameView (l.foldl (fun d s => if ((bl.filter (fun b => stackOf b == s)).length * 256) = 0 then d else d.stkCount s (if (c.cpMode == 4) = true then 0 else ((bl.filter (fun b => stackOf b == s)).length * 256)) (if (c.cpMode == 4) = true then ((bl.filter (fun b => stackOf b == s)).length * 256) else 0) 0) e) e ∧ (l.foldl (fun d s => if ((bl.filter (fun b => stackOf b == s)).length * 256) = 0 then d else d.stkCount s (if (c.cpMode == 4) = true then 0 else ((bl.filter (fun b => stackOf b == s)).length * 256)) (if (c.cpMode == 4) = true then ((bl.filter (fun b => stackOf b == s)).length * 256) else 0) 0) e).cmds = e.cmds := by
      intro e
      induction l generalizing e with
      | nil => exact ⟨SameView.refl _, rfl⟩
      | cons x l ih =>
        simp only [List.foldl_cons]
        refine ⟨(ih _).1.trans ?_, (ih _).2.trans ?_⟩
        · split
          · exact SameView.refl _
          · exact SameView.stk _ _ _ _ _
        · split <;> rfl
    exact this d

theorem Dev.applyWrites_cmds (d : Dev) (p ws) : (d.applyWrites p ws).cmds = d.cmds := by obtain ⟨x, y, z, h⟩ := d.applyWrites_form p ws; rw [h]

/-- An undefined buffer is a change of HBM and one free word. -/
theorem Dev.undefineBuffer_form (d : Dev) (p : Nat) (t : TensorD) : ∃ x, d.undefineBuffer p t = { d with hbm := x, fresh := d.fresh + 1 } := by
  unfold Dev.undefineBuffer
  generalize List.range (t.dim 0) = l
  have : ∀ e : Dev, ∃ x, l.foldl (fun d i => match d.cellOf p (t.addr + i) with
    | some k => { d with hbm := d.hbm.undefine k 1 d.fresh }
    | none => d) e = { e with hbm := x } := by
    intro e
    induction l generalizing e with
    | nil => exact ⟨_, rfl⟩
    | cons a l ih =>
      rw [List.foldl_cons]
      split
      · obtain ⟨x, h⟩ := ih ({ e with hbm := e.hbm.undefine _ 1 e.fresh }); exact ⟨x, by rw [h]⟩
      · exact ih e
  exact this { d with fresh := d.fresh + 1 }

theorem Dev.raise_cmds_eq (d : Dev) (p i) : (d.raise p i).cmds = d.cmds := by simp

theorem SameView.pixels (d : Dev) (p u o n : Nat) (h : outsideActive o) (h' : outsideActive (wideKey o)) : SameView (d.countPixels p u o n) d := by
  unfold Dev.countPixels; exact (SameView.modPart _ _ _ rfl).trans (SameView.wide _ _ _ _ h h')

theorem SameView.reject (d : Dev) (r) : SameView (d.countReject r) d ∧ (d.countReject r).cmds = d.cmds := by
  unfold Dev.countReject
  dsimp only
  have h0 : SameView (((((d.bump (pgING r.2.2) 0x80C 1).setReg (pgING r.2.2) 0x810 (BitVec.ofNat 32 r.2.1)).setReg (pgING r.2.2) 0x814 (BitVec.ofNat 32 r.1))).raise (pgING r.2.2) 0) d :=
    (SameView.raise _ _ _).trans ((SameView.setReg _ _ _ _ (by unfold outsideActive; decide)).trans ((SameView.setReg _ _ _ _ (by unfold outsideActive; decide)).trans (SameView.bump _ _ _ _ (by unfold outsideActive; decide))))
  split
  · exact ⟨h0, by simp⟩
  · exact ⟨(SameView.raise _ _ _).trans ((SameView.bump _ _ _ _ (by unfold outsideActive; decide)).trans h0),
        by rw [Dev.raise_cmds_eq]; show (Dev.raise _ _ _).cmds = _; rw [Dev.raise_cmds_eq]; rfl⟩

theorem SameView.taken (d : Dev) (p r) : SameView (d.countTaken p r) d ∧ (d.countTaken p r).cmds = d.cmds := by
  unfold Dev.countTaken
  dsimp only
  split
  · have hp := SameView.pixels (d.bump (pgING r.1) 0x804 1) p r.1 0x80C (r.2.2.2.1 * r.2.2.2.2.1) (by unfold outsideActive; decide) (by unfold outsideActive wideKey; decide)
    have hb := SameView.bump d (pgING r.1) 0x804 1 (by unfold outsideActive; decide)
    refine ⟨SameView.trans ?_ (hp.trans hb), rfl⟩
    exact ⟨rfl, rfl, rfl, rfl, fun _ => rfl, fun _ => rfl, fun _ => rfl⟩
  · exact ⟨SameView.bump _ _ _ _ (by unfold outsideActive; decide), rfl⟩

theorem SameView.fold_cmds {α : Type} {f : Dev → α → Dev} (h : ∀ (d : Dev) (x : α), SameView (f d x) d ∧ (f d x).cmds = d.cmds) (l : List α) (d : Dev) :
    SameView (l.foldl f d) d ∧ (l.foldl f d).cmds = d.cmds := by
  induction l generalizing d with
  | nil => exact ⟨SameView.refl d, rfl⟩
  | cons x l ih => exact ⟨(ih (f d x)).1.trans (h d x).1, (ih (f d x)).2.trans (h d x).2⟩

/-- A state that differs from another in memory, registers, pending vectors and what is sent. -/
def MemRegsSent (d e : Dev) : Prop := ∃ x y z r u v, e = { d with hbm := x, host := y, spd := z, regs := r, pci := u, sent := v }

theorem MemRegsSent.refl (d : Dev) : MemRegsSent d d := ⟨_, _, _, _, _, _, rfl⟩

theorem MemRegsSent.trans {d e f : Dev} (h : MemRegsSent d e) (k : MemRegsSent e f) : MemRegsSent d f := by
  obtain ⟨x, y, z, r, a, b, rfl⟩ := h
  obtain ⟨x', y', z', r', a', b', rfl⟩ := k
  exact ⟨x', y', z', r', a', b', rfl⟩

theorem MemRegsSent.put (d : Dev) (p s a b) : MemRegsSent d (d.putBytesIn p s a b) := by
  obtain ⟨x, y, z, h⟩ := d.putBytesIn_form p s a b; rw [h]; exact ⟨_, _, _, _, _, _, rfl⟩

theorem MemRegsSent.memRegs {d e : Dev} (h : d.MemRegs e) : MemRegsSent d e := by obtain ⟨x, y, z, r, rfl⟩ := h; exact ⟨_, _, _, _, _, _, rfl⟩

/-- The flags run through a bind. -/
theorem num_run_bind {α β : Type} (x : Num α) (f : α → Num β) (s : NumFlags) : (x >>= f).run s = (f (x.run s).1).run (x.run s).2 := rfl

theorem MemRegsSent.rowGo (c : Cmd) (pg sl tt : Nat) (k : KvPool) (v : TensorD) (l : List Nat) (d : Dev) (f : NumFlags) : MemRegsSent d ((Dev.kvPutRow.go c pg
    sl tt k v d l).run f).1 := by
  induction l generalizing d f with
  | nil => exact MemRegsSent.refl d
  | cons h r ih =>
    unfold Dev.kvPutRow.go
    rw [num_run_bind]
    exact ((MemRegsSent.put _ _ _ _ _).trans (MemRegsSent.put _ _ _ _ _)).trans (ih _ _)

theorem MemRegsSent.row (d : Dev) (c : Cmd) (a b e : Nat) (f : NumFlags) : MemRegsSent d ((d.kvPutRow c a b e).run f).1 := MemRegsSent.rowGo ..

theorem MemRegsSent.rows (c : Cmd) (x : KvTarget) (l : List Nat) (d : Dev) (f : NumFlags) : MemRegsSent d ((Dev.kvWriteTarget.rows c x d l).run f).1 := by
  induction l generalizing d f with
  | nil => exact MemRegsSent.refl d
  | cons h r ih =>
    unfold Dev.kvWriteTarget.rows
    rw [num_run_bind]
    exact (MemRegsSent.row _ _ _ _ _ _).trans (ih _ _)

theorem MemRegsSent.target (d : Dev) (c : Cmd) (x : KvTarget) (f : NumFlags) : MemRegsSent d ((d.kvWriteTarget c x).run f).1 := by
  unfold Dev.kvWriteTarget
  dsimp only
  rw [num_run_bind, num_run_bind]
  generalize hE : (if x.copied = true then _ else d) = e
  have h0 : MemRegsSent d e := by
    rw [← hE]
    split
    · split
      · exact MemRegsSent.put _ _ _ _ _
      · exact MemRegsSent.refl _
    · exact MemRegsSent.refl _
  have h1 := h0.trans (MemRegsSent.rows c x (List.range x.count) e f)
  generalize (Dev.kvWriteTarget.rows c x e (List.range x.count)).run f = q at h1 ⊢
  have h2 := (h1.trans (MemRegsSent.put q.1 c.part 0 ((d.kvPool c.part).sumAddr x.page) ((q.1.kvSummary c x.page (x.fill + x.count)).run q.2).1))
  generalize q.1.putBytesIn c.part 0 _ _ = g at h2 ⊢
  clear h1
  generalize hw : g.modKvEntry c.part x.page _ = w
  have h3 : MemRegsSent g w := by subst hw; exact MemRegsSent.memRegs (Dev.modKvEntry_memRegs _ _ _ _)
  have h4 := h2.trans h3
  cases x.old with
  | none => exact h4
  | some o => exact h4.trans (MemRegsSent.memRegs (w.modKvEntry_memRegs c.part o (fun e => { e with ref := e.ref - 1 })))

theorem MemRegsSent.go (c : Cmd) (l : List KvTarget) (d : Dev) (f : NumFlags) : MemRegsSent d ((Dev.akStored.go c d l).run f).1 := by
  induction l generalizing d f with
  | nil => exact MemRegsSent.refl d
  | cons h r ih =>
    unfold Dev.akStored.go
    rw [num_run_bind]
    exact (MemRegsSent.target _ _ _ _).trans (ih _ _)

theorem MemRegsSent.fold {α : Type} {f : Dev → α → Dev} (h : ∀ d x, MemRegsSent d (f d x)) (l : List α) (d : Dev) : MemRegsSent d (l.foldl f d) := by
  induction l generalizing d with
  | nil => exact MemRegsSent.refl d
  | cons x l ih => exact (h d x).trans (ih _)

theorem MemRegsSent.reg (d : Dev) (a b v) : MemRegsSent d (d.setReg a b v) := ⟨_, _, _, _, _, _, rfl⟩

theorem MemRegsSent.copies (d : Dev) (c : Cmd) : MemRegsSent d (d.kvCountCopies c) := by
  unfold Dev.kvCountCopies
  refine MemRegsSent.fold (fun d x => ?_) _ _
  split
  · dsimp only; split <;> exact MemRegsSent.reg _ _ _ _
  · exact MemRegsSent.refl _

/-- Storing keys and values. -/
theorem MemRegsSent.stored (d : Dev) (c : Cmd) : MemRegsSent d (d.akStored c).1 := by
  unfold Dev.akStored
  dsimp only
  exact ((MemRegsSent.go c c.kvTargets d {}).trans (MemRegsSent.copies _ c)).trans (MemRegsSent.put _ _ _ _ _)

/-- Releasing pages. -/
theorem MemRegsSent.acted (d : Dev) (c : Cmd) : MemRegsSent d (d.prActed c) := by
  unfold Dev.prActed
  have h := MemRegsSent.fold (f := fun d n => d.modKvEntry c.part n (KvEntry.act c.prMode)) (fun d x => MemRegsSent.memRegs (d.modKvEntry_memRegs _ _ _)) c.pages d
  dsimp only
  split
  · exact h.trans (MemRegsSent.put _ _ _ _ _)
  · exact h

/-- What such a state keeps. -/
theorem MemRegsSent.cmds {d e : Dev} (h : MemRegsSent d e) : e.cmds = d.cmds ∧ e.jobs = d.jobs ∧ e.streams = d.streams ∧ e.arrays = d.arrays ∧ e.now = d.now
    := by
  obtain ⟨x, y, z, r, u, v, rfl⟩ := h; exact ⟨rfl, rfl, rfl, rfl, rfl⟩

theorem SameView.elemCode {d e : Dev} (a : SameView d e) (p : Nat) (t : TensorD) (c : List Nat) : d.elemCode p t c = e.elemCode p t c := by
  unfold Dev.elemCode Dev.codeAt; simp only [a.bytes]

theorem SameView.packRange {d e : Dev} (a : SameView d e) (c : Cmd) (ti lo n : Nat) : d.packRange c ti lo n = e.packRange c ti lo n := by
  unfold Dev.packRange; simp only [SameView.elemCode a]

theorem SameView.coWrites {d e : Dev} (a : SameView d e) (c : Cmd) (j : Job) (l) : d.coWrites c j l = e.coWrites c j l := by
  have h : d.packRange c c.coSrc = e.packRange c c.coSrc := by funext x y; exact SameView.packRange a ..
  unfold Dev.coWrites; rw [h]

theorem SameView.coSends {d e : Dev} (a : SameView d e) (c : Cmd) (j : Job) (l) : d.coSends c j l = e.coSends c j l := by
  have h : d.packRange c c.coSrc = e.packRange c c.coSrc := by funext x y; exact SameView.packRange a ..
  unfold Dev.coSends; rw [h]

theorem SameView.reds (d : Dev) (r) : SameView { d with reducers := r } d := ⟨rfl, rfl, rfl, rfl, fun _ => rfl, fun _ => rfl, fun _ => rfl⟩

/-- Alerts change registers of MGT and what is sent. -/
theorem State.refreshAlert_effect (s : State) : ∃ d, s.refreshAlert.dev = d ∧ SameView d s.dev ∧ d.cmds = s.dev.cmds ∧ d.reducers = s.dev.reducers ∧ ∀ pg o,
    pg ≠ pgMGT → o < 4096 → d.reg pg o = s.dev.reg pg o := by
  refine ⟨_, rfl, ?_⟩
  unfold State.refreshAlert
  dsimp only
  split
  · exact ⟨SameView.refl _, rfl, rfl, fun _ _ _ _ => rfl⟩
  · dsimp only
    split
    · obtain ⟨x, y, h⟩ := Dev.raise_form ({ s.dev with sent := .pin .alertN (!s.alerted) :: s.dev.sent } : Dev) pgMGT 4
      have hm := SameView.raise ({ s.dev with sent := .pin .alertN (!s.alerted) :: s.dev.sent } : Dev) pgMGT 4
      refine ⟨hm.trans ⟨rfl, rfl, rfl, rfl, fun _ => rfl, fun _ => rfl, fun _ => rfl⟩, by simp, by simp, fun pg o hp ho => ?_⟩
      rw [h]
      show (Dev.setReg _ _ _ _).reg pg o = _
      rw [Dev.reg_setReg_other _ _ (by unfold regKey; unfold oIntStat; omega)]; rfl
    · exact ⟨⟨rfl, rfl, rfl, rfl, fun _ => rfl, fun _ => rfl, fun _ => rfl⟩, rfl, rfl, fun _ _ _ _ => rfl⟩

/-- A log entry changes the log and registers of MGT. -/
theorem Dev.log_effect (d : Dev) (e : LogEntry) : SameView (d.log e) d ∧ (d.log e).cmds = d.cmds ∧ (d.log e).reducers = d.reducers ∧ ∀ pg o, pg ≠ pgMGT → o <
    4096 → (d.log e).reg pg o = d.reg pg o := by
  unfold Dev.log
  dsimp only
  split
  · exact ⟨⟨rfl, rfl, rfl, rfl, fun _ => rfl, fun _ => rfl, fun _ => rfl⟩, rfl, rfl, fun _ _ _ _ => rfl⟩
  · generalize hE : Dev.raise _ _ _ = z
    obtain ⟨x, y, h⟩ := Dev.raise_form _ pgMGT 2
    rw [hE] at h
    refine ⟨?_, by rw [h]; rfl, by rw [h]; rfl, fun pg o hp ho => ?_⟩
    · rw [← hE]; exact (SameView.raise _ _ _).trans ⟨rfl, rfl, rfl, rfl, fun _ => rfl, fun _ => rfl, fun _ => rfl⟩
    · rw [h]
      show (Dev.setReg _ _ _ _).reg pg o = _
      rw [Dev.reg_setReg_other _ _ (by unfold regKey; unfold oIntStat; omega)]; rfl

theorem Dev.sticky_effect (d : Dev) (p i : Nat) (on : Bool) (hi : i < 4) : SameView (d.sticky p i on) d ∧ (d.sticky p i on).cmds = d.cmds ∧ (d.sticky p i
    on).now = d.now := by
  unfold Dev.sticky
  split
  · dsimp only
    have hb : SameView (Dev.bump (d.setReg (pgNUM p) 0x800 (d.reg (pgNUM p) 0x800 ||| BitVec.ofNat 32 (1 <<< i))) (pgNUM p) (0x804 + 4 * i) 1) d :=
      (SameView.bump _ _ _ _ (by unfold outsideActive; omega)).trans (SameView.setReg _ _ _ _ (by unfold outsideActive; decide))
    split
    · exact ⟨hb, rfl, rfl⟩
    · exact ⟨(SameView.raise _ _ _).trans hb, by rw [Dev.raise_cmds_eq]; rfl, by simp⟩
  · exact ⟨SameView.refl _, rfl, rfl⟩

theorem Dev.countRandom_effect (d : Dev) (c : Cmd) : SameView (d.countRandom c) d ∧ (d.countRandom c).cmds = d.cmds ∧ (d.countRandom c).now = d.now := by
  unfold Dev.countRandom
  split
  · exact ⟨SameView.bump _ _ _ _ (by unfold outsideActive; decide), rfl, rfl⟩
  · split
    · dsimp only
      have hb : SameView ((d.bump (pgRNG c.part) 0x88C c.saRows).bump (pgRNG c.part) 0x890 c.detail) d :=
        (SameView.bump _ _ _ _ (by unfold outsideActive; decide)).trans (SameView.bump _ _ _ _ (by unfold outsideActive; decide))
      split
      · exact ⟨hb, rfl, rfl⟩
      · exact ⟨(SameView.raise _ _ _).trans hb, by rw [Dev.raise_cmds_eq]; rfl, by simp⟩
    · exact ⟨SameView.refl _, rfl, rfl⟩

theorem Dev.countCommit_effect (d : Dev) (t : TileSpace) (id : TileId) (e : Engine) : SameView (d.countCommit t id e) d ∧ (d.countCommit t id e).cmds = d.cmds
    ∧ (d.countCommit t id e).now = d.now := by
  unfold Dev.countCommit
  have hb : ∀ (d : Dev) (pg o n : Nat), outsideActive o → SameView (d.bump pg o n) d ∧ (d.bump pg o n).cmds = d.cmds ∧ (d.bump pg o n).now = d.now := fun d pg o n h => ⟨SameView.bump _ _ _ _ h, rfl, rfl⟩
  have tr : ∀ {a b c : Dev}, (SameView a b ∧ a.cmds = b.cmds ∧ a.now = b.now) → (SameView b c ∧ b.cmds = c.cmds ∧ b.now = c.now) → (SameView a c ∧ a.cmds = c.cmds ∧ a.now = c.now) :=
    fun h k => ⟨h.1.trans k.1, h.2.1.trans k.2.1, h.2.2.trans k.2.2⟩
  cases e with
  | vec n => exact hb _ _ _ _ (by unfold outsideActive; decide)
  | arr a =>
    dsimp only
    have h0 : SameView (d.modArray a (fun x => { x with failRun := 0 })) d ∧ (d.modArray a (fun x => { x with failRun := 0 })).cmds = d.cmds ∧ (d.modArray a (fun x => { x with failRun := 0 })).now = d.now :=
      ⟨⟨rfl, rfl, rfl, rfl, fun _ => rfl, fun _ => rfl, fun _ => rfl⟩, rfl, rfl⟩
    generalize d.modArray a (fun x => { x with failRun := 0 }) = d0 at h0 ⊢
    have h1 := tr (hb (d0.bump (pgARR a) 0x804 1) (pgHAL (Engine.arr a).die) 0x808 1 (by unfold outsideActive; decide)) (tr (hb d0 (pgARR a) 0x804 1 (by unfold outsideActive; decide)) h0)
    generalize (d0.bump (pgARR a) 0x804 1).bump (pgHAL (Engine.arr a).die) 0x808 1 = d1 at h1 ⊢
    have hi : ∀ (b : Bool) (d e : Dev) (pg o : Nat), outsideActive o → (SameView d e ∧ d.cmds = e.cmds ∧ d.now = e.now) → (SameView (if b = true then d.bump pg o 1 else d) e ∧ (if b = true then d.bump pg o 1 else d).cmds = e.cmds ∧ (if b = true then d.bump pg o 1 else d).now = e.now) := by
      intro b d e pg o ho h
      split
      · exact tr (hb _ _ _ _ ho) h
      · exact h
    exact hi _ _ _ _ _ (by unfold outsideActive; decide) (hi _ _ _ _ _ (by unfold outsideActive; decide) h1)

/-- A state that differs from another in registers, pending vectors and what is sent. -/
def RegsSent (d e : Dev) : Prop := ∃ g u w, e = { d with regs := g, pci := u, sent := w }

theorem RegsSent.refl (d : Dev) : RegsSent d d := ⟨_, _, _, rfl⟩

theorem RegsSent.trans {d e f : Dev} (h : RegsSent d e) (k : RegsSent e f) : RegsSent d f := by
  obtain ⟨_, _, _, rfl⟩ := h; obtain ⟨_, _, _, rfl⟩ := k; exact ⟨_, _, _, rfl⟩

theorem RegsSent.set (d : Dev) (a b v) : RegsSent d (d.setReg a b v) := ⟨_, _, _, rfl⟩

theorem RegsSent.bump (d : Dev) (a b n) : RegsSent d (d.bump a b n) := ⟨_, _, _, rfl⟩

theorem RegsSent.raise (d : Dev) (a i) : RegsSent d (d.raise a i) := by obtain ⟨x, y, h⟩ := d.raise_form a i; rw [h]; exact ⟨_, _, _, rfl⟩

theorem RegsSent.vec (d : Dev) (p v) : RegsSent d (d.eventVector p v) := by
  have h : ∀ f v, RegsSent d (d.sendVector f v) := fun f v => by obtain ⟨x, y, h⟩ := d.sendVector_form f v; rw [h]; exact ⟨_, _, _, rfl⟩
  unfold Dev.eventVector; (repeat' split) <;> exact h _ _

theorem RegsSent.ite {d a b : Dev} {c : Prop} [Decidable c] (h : RegsSent d a) (k : RegsSent d b) : RegsSent d (if c then a else b) := by
  split; exact h; exact k

theorem RegsSent.sticky (d : Dev) (p i b) : RegsSent d (d.sticky p i b) := by
  unfold Dev.sticky
  split
  · exact RegsSent.ite ((RegsSent.set _ _ _ _).trans (RegsSent.bump _ _ _ _)) (((RegsSent.set _ _ _ _).trans (RegsSent.bump _ _ _ _)).trans (RegsSent.raise _ _ _))
  · exact RegsSent.refl _

theorem RegsSent.fold {α : Type} {f : Dev → α → Dev} (h : ∀ d x, RegsSent d (f d x)) (l : List α) (d : Dev) : RegsSent d (l.foldl f d) := by
  induction l generalizing d with
  | nil => exact RegsSent.refl _
  | cons x l ih => exact (h d x).trans (ih _)

theorem RegsSent.off {d e : Dev} (h : RegsSent d e) : MemRegsSent d e := by obtain ⟨_, _, _, rfl⟩ := h; exact ⟨_, _, _, _, _, _, rfl⟩

/-- Memory and commands are kept. -/
theorem RegsSent.same {d e : Dev} (h : RegsSent d e) : e.SameMemory d ∧ e.cmds = d.cmds := by obtain ⟨_, _, _, rfl⟩ := h; exact ⟨⟨rfl, rfl, rfl⟩, rfl⟩

/-- A change of an array is not seen. -/
theorem Dev.modArray_effect (d : Dev) (a : Nat) (f) : SameView (d.modArray a f) d ∧ (d.modArray a f).cmds = d.cmds ∧ (d.modArray a f).regs = d.regs ∧
    (d.modArray a f).arrays.length = d.arrays.length := by
  unfold Dev.modArray; exact ⟨⟨rfl, rfl, rfl, rfl, fun _ => rfl, fun _ => rfl, fun _ => rfl⟩, rfl, rfl, by simp⟩

end Sys2Proof.Machine
end

