-- ==== Sys2Proof/Laws/Clock.lean ====
section
/-! SUPPORT. Which operations leave the clock: the cycle count, and the count, the cycle and the last edge of the tick. -/

namespace Sys2Proof.Machine

/-- The clocks of two states agree. -/
structure SameClock (d e : Dev) : Prop where
  now : d.now = e.now
  count : d.tick.count = e.tick.count
  edgeAt : d.tick.edgeAt = e.tick.edgeAt
  lastEdge : d.tick.lastEdge = e.tick.lastEdge

theorem SameClock.refl (d : Dev) : SameClock d d := ⟨rfl, rfl, rfl, rfl⟩
theorem SameClock.trans {d e f : Dev} (h : SameClock d e) (k : SameClock e f) : SameClock d f :=
  ⟨h.1.trans k.1, h.2.trans k.2, h.3.trans k.3, h.4.trans k.4⟩
theorem SameClock.of {d e : Dev} (h : d.now = e.now) (k : d.tick = e.tick) : SameClock d e := ⟨h, by rw [k], by rw [k], by rw [k]⟩
theorem SameClock.ite {d a b : Dev} {c : Prop} [Decidable c] (h : SameClock a d) (k : SameClock b d) : SameClock (if c then a else b) d := by
  split
  · exact h
  · exact k
theorem SameClock.fold {α : Type} {f : Dev → α → Dev} (h : ∀ (d : Dev) (x : α), SameClock (f d x) d) (l : List α) (d : Dev) :
    SameClock (l.foldl f d) d := by
  induction l generalizing d with
  | nil => exact .refl _
  | cons x l ih => exact (ih _).trans (h d x)

/-! ### Registers, the log, memory -/

theorem SameClock.raise (d : Dev) (page i : Nat) : SameClock (d.raise page i) d := .of (by simp) (by simp)
theorem SameClock.log (d : Dev) (e : LogEntry) : SameClock (d.log e) d := .of (by simp) (by simp)
theorem SameClock.put (d : Dev) (p s a : Nat) (b : Bytes) : SameClock (d.putBytesIn p s a b) d := by
  obtain ⟨_, _, _, h⟩ := d.putBytesIn_form p s a b; rw [h]; exact ⟨rfl, rfl, rfl, rfl⟩
theorem SameClock.writes (d : Dev) (p : Nat) (ws : List ElemWrite) : SameClock (d.applyWrites p ws) d := by
  obtain ⟨_, _, _, h⟩ := d.applyWrites_form p ws; rw [h]; exact ⟨rfl, rfl, rfl, rfl⟩
theorem SameClock.modPart (d : Dev) (p : Nat) (f : Part → Part) : SameClock (d.modPart p f) d := ⟨rfl, rfl, rfl, rfl⟩
theorem SameClock.sticky (d : Dev) (p i : Nat) (on : Bool) : SameClock (d.sticky p i on) d := by
  unfold Dev.sticky
  dsimp only
  split
  · split
    · exact ⟨rfl, rfl, rfl, rfl⟩
    · exact (SameClock.raise _ _ _).trans ⟨rfl, rfl, rfl, rfl⟩
  · exact .refl _

/-! ### Commands -/

theorem SameClock.complete (d : Dev) (c : Cmd) (st det : Nat) : SameClock (d.complete c st det) d := by
  obtain ⟨_, _, _, _, _, _, _, _, _, h⟩ := d.complete_form c st det; rw [h]; exact ⟨rfl, rfl, rfl, rfl⟩
theorem SameClock.countKill (d : Dev) (e : Engine) (b : Bool) : SameClock (d.countKill e b) d := by
  unfold Dev.countKill; split <;> exact ⟨rfl, rfl, rfl, rfl⟩
theorem SameClock.killCopy (d : Dev) (u : Nat) (x : Copy) (b : Bool) : SameClock (d.killCopy u x b) d := by
  unfold Dev.killCopy
  split
  · exact .refl _
  · exact (SameClock.countKill _ _ _).trans ⟨rfl, rfl, rfl, rfl⟩
theorem SameClock.replayCopy (d : Dev) (u : Nat) (x : Copy) (b : Bool) : SameClock (d.replayCopy u x b) d := by
  unfold Dev.replayCopy
  dsimp only
  split
  · exact .killCopy _ _ _ _
  · exact SameClock.trans (e := d.killCopy u x b) ⟨rfl, rfl, rfl, rfl⟩ (.killCopy _ _ _ _)
theorem SameClock.settleTags (d : Dev) (c : Cmd) : SameClock (d.settleTags c) d := by
  obtain ⟨_, h⟩ := Dev.settleTags_form d c; rw [h]; exact ⟨rfl, rfl, rfl, rfl⟩
theorem SameClock.countRandom (d : Dev) (c : Cmd) : SameClock (d.countRandom c) d := by
  unfold Dev.countRandom
  dsimp only
  (repeat' split) <;> first | exact ⟨rfl, rfl, rfl, rfl⟩ | exact (SameClock.raise _ _ _).trans ⟨rfl, rfl, rfl, rfl⟩
theorem SameClock.commitCmd (d : Dev) (c : Cmd) : SameClock (d.commitCmd c) d := by
  unfold Dev.commitCmd
  dsimp only
  refine (SameClock.complete _ _ _ _).trans ?_
  split
  · exact (SameClock.sticky _ _ _ _).trans ((SameClock.countRandom _ _).trans (.settleTags _ _))
  · exact (SameClock.countRandom _ _).trans (.settleTags _ _)
theorem SameClock.countCommit (d : Dev) (t : TileSpace) (id : TileId) (e : Engine) : SameClock (d.countCommit t id e) d := by
  unfold Dev.countCommit
  split
  · exact ⟨rfl, rfl, rfl, rfl⟩
  · extract_lets d1 d2 d3
    have h2 : SameClock d2 d := ⟨rfl, rfl, rfl, rfl⟩
    have h3 : SameClock d3 d2 := SameClock.ite ⟨rfl, rfl, rfl, rfl⟩ (.refl _)
    split
    · exact SameClock.trans (e := d3) ⟨rfl, rfl, rfl, rfl⟩ (h3.trans h2)
    · exact h3.trans h2
theorem SameClock.makeDue (d : Dev) (c : Cmd) (t : TileSpace) (id : TileId) (n : Nat) : SameClock (d.makeDue c t id n).1 d := by
  unfold Dev.makeDue
  dsimp only
  (repeat' split) <;> exact ⟨rfl, rfl, rfl, rfl⟩
theorem SameClock.handSends (d : Dev) (c : Cmd) (r : TileResult) : SameClock (d.handSends c r) d := by
  unfold Dev.handSends
  (repeat' split) <;> exact ⟨rfl, rfl, rfl, rfl⟩
theorem SameClock.overrunIf (d : Dev) (u : Nat) (f : Cmd → Cmd) : SameClock (d.overrunIf u f) d := by
  unfold Dev.overrunIf
  (repeat' split) <;> first | exact .refl _ | exact (SameClock.raise _ _ _).trans ⟨rfl, rfl, rfl, rfl⟩
theorem SameClock.tileDone (d : Dev) (u : Nat) (id : TileId) (e : Engine) (r : TileResult) (f : NumFlags) : SameClock (d.tileDone u id e r f) d := by
  unfold Dev.tileDone
  split
  · exact .refl _
  · extract_lets t w w1 c d1 m c1 d2
    have h : SameClock d2 d := (SameClock.overrunIf _ _ _).trans ((SameClock.handSends _ _ _).trans (SameClock.trans (e := m.1) ⟨rfl, rfl, rfl, rfl⟩
      ((SameClock.makeDue _ _ _ _ _).trans ((SameClock.countCommit _ _ _ _).trans ⟨rfl, rfl, rfl, rfl⟩))))
    split
    · cases d2.cmd? u with
      | none => exact h
      | some x => exact (SameClock.commitCmd _ _).trans h
    · exact h
theorem SameClock.countBalu (d : Dev) (n k : Nat) : SameClock (d.countBalu n k) d := by
  unfold Dev.countBalu
  dsimp only
  split <;> exact ⟨rfl, rfl, rfl, rfl⟩
theorem SameClock.combineSlot {d e : Dev} {ftz : Bool} {n l : Nat} {o : CombineOp} {f : NumFlags} (h : d.combineSlot ftz n l o = some (e, f)) :
    SameClock e d := by
  unfold Dev.combineSlot at h
  dsimp only at h
  split at h
  · cases h
  · cases h; exact (SameClock.countBalu _ _ _).trans ⟨rfl, rfl, rfl, rfl⟩
theorem SameClock.combineAll (p : Nat) (ftz : Bool) (l : List CombineOp) (d : Dev) : SameClock (d.combineAll p ftz l).1 d := by
  induction l generalizing d with
  | nil => exact .refl _
  | cons o r ih =>
    unfold Dev.combineAll
    split
    · exact ih d
    · rename_i e f h
      cases hp : d.spdPlace p o.off with
      | none => rw [hp] at h; cases h
      | some q => rw [hp] at h; exact (ih e).trans (SameClock.combineSlot h)
theorem SameClock.fillSlots (d : Dev) (l : List ((Nat × Nat) × Bool)) : SameClock (d.fillSlots l) d :=
  SameClock.fold (fun d s => by split <;> exact ⟨rfl, rfl, rfl, rfl⟩) l d
theorem SameClock.commitResult (d : Dev) (u : Nat) (id : TileId) (e : Engine) (r : TileResult) : SameClock (d.commitResult u id e r).1 d := by
  unfold Dev.commitResult
  split
  · exact .refl _
  · dsimp only
    split
    · exact .refl _
    · rename_i c _ _
      have hx : SameClock (d.combineAll c.part c.ftz r.combines).1 d := SameClock.combineAll _ _ _ d
      split
      · exact SameClock.trans (e := (d.combineAll c.part c.ftz r.combines).1) ⟨rfl, rfl, rfl, rfl⟩ hx
      · dsimp only
        refine (SameClock.tileDone _ _ _ _ _ _).trans ((SameClock.ite ?_ (.refl _)).trans
          ((SameClock.fillSlots _ _).trans ((SameClock.writes _ _ _).trans hx)))
        refine SameClock.fold (fun d s => ?_) _ _
        exact ⟨rfl, rfl, rfl, rfl⟩
theorem SameClock.finishClaims (d : Dev) (u : Nat) : SameClock (d.finishClaims u) d := by
  unfold Dev.finishClaims
  split
  · exact .refl _
  · refine SameClock.fold (fun d x => ?_) _ _
    (repeat' split) <;> first | exact .refl _ | exact .commitResult _ _ _ _ _
theorem SameClock.endCmd (d : Dev) (u st det : Nat) : SameClock (d.endCmd u st det) d := by
  unfold Dev.endCmd
  dsimp only
  split
  · exact .finishClaims _ _
  · split
    · exact .finishClaims _ _
    · refine (SameClock.complete _ _ _ _).trans (SameClock.trans (e := d.finishClaims u) ?_ (.finishClaims _ _))
      exact SameClock.trans (e := List.foldl _ _ _) ⟨rfl, rfl, rfl, rfl⟩
        (SameClock.fold (fun d (x : Copy) => SameClock.countKill d x.unit false) _ _)
theorem SameClock.failAll (d : Dev) (us : List Nat) (e : LogEntry) : SameClock (d.failAll us e) d := by
  unfold Dev.failAll
  dsimp only
  refine (SameClock.fold (fun d u => ?_) _ _).trans (.log _ _)
  (repeat' split) <;> first | exact .refl _ | exact .complete _ _ _ _

/-! ### Sessions, host requests -/

theorem SameClock.missFrame (d : Dev) (s : Session) (f : Nat) : SameClock (d.missFrame s f) d := by
  unfold Dev.missFrame
  dsimp only
  split
  · exact .refl _
  · exact (SameClock.log _ _).trans (SameClock.trans (e := ((d.modSession s.id _).bump (pgPART s.part) 0x828 1).raise (pgPART s.part) 1) ⟨rfl, rfl, rfl, rfl⟩
      ((SameClock.raise _ _ _).trans ⟨rfl, rfl, rfl, rfl⟩))
theorem SameClock.missSession (d : Dev) (s : Session) : SameClock (d.missSession s) d := by
  unfold Dev.missSession
  extract_lets d1 l d2
  have h1 : SameClock d1 d := SameClock.fold (fun d (c : Cmd) => SameClock.finishClaims d c.uid) _ _
  have h2 : SameClock d2 d1 := SameClock.fold (fun d f => by split <;> first | exact .missFrame _ _ _ | exact .refl _) _ _
  refine (SameClock.fold (fun d c => ?_) _ _).trans (h2.trans h1)
  (repeat' split) <;> first | exact .endCmd _ _ _ _ | exact ⟨rfl, rfl, rfl, rfl⟩
theorem SameClock.hostRefused (d : Dev) (p : Nat) (e : ReadFail) : SameClock (d.hostRefused p e) d := by
  unfold Dev.hostRefused
  split
  · exact .raise _ _ _
  · exact (SameClock.raise _ _ _).trans ((SameClock.raise _ _ _).trans ⟨rfl, rfl, rfl, rfl⟩)
  · exact .refl _
theorem SameClock.logHost (d : Dev) (p a s : Nat) (e : ReadFail) : SameClock (d.logHost p a s e) d := by
  unfold Dev.logHost; exact (SameClock.log _ _).trans (.hostRefused _ _ _)
theorem SameClock.atcFill (d : Dev) (f a n : Nat) : SameClock (d.atcFill f a n) d := by
  unfold Dev.atcFill
  dsimp only
  split <;> exact ⟨rfl, rfl, rfl, rfl⟩
theorem SameClock.writeOut (d : Dev) (env : Env) (p a : Nat) (b : Bytes) : SameClock (d.writeOut env p a b).1 d := by
  unfold Dev.writeOut
  split
  · split
    · exact (SameClock.put _ _ _ _ _).trans (.atcFill _ _ _ _)
    · exact .logHost _ _ _ _ _
  · exact .put _ _ _ _ _
theorem SameClock.doorbellRead (d : Dev) (env : Env) (p a al n : Nat) : SameClock (d.doorbellRead env p a al n).1 d := by
  unfold Dev.doorbellRead
  split
  · exact .raise _ _ _
  · split
    · dsimp only; exact SameClock.ite (.atcFill _ _ _ _) (.refl _)
    · exact .raise _ _ _
    · exact (SameClock.raise _ _ _).trans (.logHost _ _ _ _ _)
theorem SameClock.loadPlan {d e : Dev} {env : Env} {p a : Nat} {r : PlanRec} (h : d.loadPlan env p a = .ok (e, r)) : SameClock e d := by
  unfold Dev.loadPlan at h
  revert h
  dsimp only
  (repeat' split) <;> intro h <;> first | (cases h; done) | (cases h; exact ⟨rfl, rfl, rfl, rfl⟩) | (injection h with h; cases h; exact ⟨rfl, rfl, rfl, rfl⟩)
theorem SameClock.sessionPlan (d : Dev) (env : Env) (s : Session) : SameClock (d.sessionPlan env s).1 d := by
  unfold Dev.sessionPlan
  dsimp only
  split
  · exact .refl _
  · exact .logHost _ _ _ _ _
  · exact .refl _
  · rename_i h
    split
    · exact .loadPlan h
    · exact .refl _
theorem SameClock.openSession (d : Dev) (env : Env) (p a : Nat) : SameClock (d.openSession env p a) d := by
  unfold Dev.openSession
  have h0 := SameClock.doorbellRead d env p a 64 64
  split
  · rename_i h; rw [h] at h0; exact h0
  · rename_i d1 b h
    rw [h] at h0
    extract_lets s pl d2 answer
    have h2 : SameClock d2 d := (SameClock.sessionPlan _ _ _).trans h0
    have ha : ∀ (e : Dev) c r sl x, SameClock (answer e c r sl x) e := fun e c r sl x => (SameClock.raise _ _ _).trans (.writeOut _ _ _ _ _)
    split
    · exact (ha _ _ _ _ _).trans h2
    · split
      · exact (ha _ _ _ _ _).trans h2
      · exact (ha _ _ _ _ _).trans (SameClock.trans (e := d2) ⟨rfl, rfl, rfl, rfl⟩ h2)

/-! ### Flows and mail -/

theorem SameClock.emit (d : Dev) (f : TxFlow) (p : FlowPacket) : SameClock (d.emit f p) d := by
  unfold Dev.emit
  dsimp only
  split <;> exact ⟨rfl, rfl, rfl, rfl⟩
theorem SameClock.pump (n : Nat) (d : Dev) (f : TxFlow) : SameClock (Dev.pump n d f) d := by
  induction n generalizing d f with
  | zero => exact ⟨rfl, rfl, rfl, rfl⟩
  | succ n ih =>
    unfold Dev.pump
    split
    · exact ⟨rfl, rfl, rfl, rfl⟩
    · split
      · exact ⟨rfl, rfl, rfl, rfl⟩
      · exact (ih _ _).trans (.emit _ _ _)
theorem SameClock.mailBack (d : Dev) (p : Nat) (m : Bytes) (st u : Nat) : SameClock (d.mailBack p m st u) d := by
  unfold Dev.mailBack
  dsimp only
  split
  · exact ⟨rfl, rfl, rfl, rfl⟩
  · exact (SameClock.log _ _).trans ((SameClock.raise _ _ _).trans ⟨rfl, rfl, rfl, rfl⟩)
theorem SameClock.failFlow (d : Dev) (f : TxFlow) (k : Nat) : SameClock (d.failFlow f k) d := by
  unfold Dev.failFlow
  extract_lets d1 d2 d3
  have h2 : SameClock d2 d := (SameClock.raise _ _ _).trans ⟨rfl, rfl, rfl, rfl⟩
  split
  · unfold Dev.failJob; exact (SameClock.failAll _ _ _).trans (SameClock.trans (e := d2) ⟨rfl, rfl, rfl, rfl⟩ h2)
  · refine (SameClock.fold (fun d p => ?_) _ _).trans ((SameClock.log _ _).trans h2)
    exact SameClock.ite (.mailBack _ _ _ _ _) (.refl _)
theorem SameClock.txFlow (d : Dev) (p dst j die : Nat) : SameClock (d.txFlow p dst j die).1 d := by
  unfold Dev.txFlow
  dsimp only
  split <;> exact ⟨rfl, rfl, rfl, rfl⟩
theorem SameClock.sendTransfer (d : Dev) (p dst j die k e u : Nat) (b : Bytes) : SameClock (d.sendTransfer p dst j die k e u b) d := by
  unfold Dev.sendTransfer
  extract_lets r d1 f ps pk f1 d2
  have h2 : SameClock d2 d := SameClock.trans (e := d1) ⟨rfl, rfl, rfl, rfl⟩ (.txFlow _ _ _ _ _)
  split
  · exact (SameClock.failFlow _ _ _).trans h2
  · exact (SameClock.pump _ _ _).trans h2
theorem SameClock.mailFails (d : Dev) (n p : Nat) (m : Bytes) : SameClock (d.mailFails n p m) d := by
  unfold Dev.mailFails
  dsimp only
  split
  · exact .mailBack _ _ _ _ _
  · exact .sendTransfer _ _ _ _ _ _ _ _ _
theorem SameClock.rigApply (d : Dev) : SameClock d.rigApply d := by
  unfold Dev.rigApply
  extract_lets t d1 bad d2
  exact (SameClock.fold (fun d m => SameClock.mailFails d _ _ _) _ _).trans ⟨rfl, rfl, rfl, rfl⟩
theorem SameClock.rigLosses (d : Dev) : SameClock d.rigLosses d := by
  unfold Dev.rigLosses
  refine SameClock.fold (fun d p => ?_) _ _
  dsimp only
  split
  · exact SameClock.trans (e := Dev.rigApply _) ⟨rfl, rfl, rfl, rfl⟩ ((SameClock.rigApply _).trans ⟨rfl, rfl, rfl, rfl⟩)
  · exact .refl _

/-! ### Commits of pages -/

theorem SameClock.ignored (d : Dev) (g : Nat) : SameClock (d.ignored g) d := by
  unfold Dev.ignored; split <;> exact ⟨rfl, rfl, rfl, rfl⟩
theorem SameClock.requestCommit (d : Dev) (g : Nat) : SameClock (d.requestCommit g) d := by
  unfold Dev.requestCommit
  dsimp only
  split
  · exact .ignored _ _
  · exact ⟨rfl, rfl, rfl, rfl⟩
theorem SameClock.capacityFell (old d : Dev) (p : Nat) (rs : List Nat) : SameClock (old.capacityFell d p rs) d := by
  unfold Dev.capacityFell; exact SameClock.ite (.raise _ _ _) (.refl _)
theorem SameClock.linkDown (d : Dev) (e : Nat) : SameClock (d.linkDown e) d := by
  unfold Dev.linkDown
  dsimp only
  split
  · exact (SameClock.raise _ _ _).trans ((SameClock.raise _ _ _).trans ⟨rfl, rfl, rfl, rfl⟩)
  · exact .refl _
theorem SameClock.rerankCmd (old d : Dev) (l : List Nat) (c : Cmd) : SameClock (old.rerankCmd d l c) d := by
  unfold Dev.rerankCmd
  dsimp only
  split
  · exact ⟨rfl, rfl, rfl, rfl⟩
  · exact SameClock.fold (fun d x => SameClock.killCopy d _ _ _) _ _
theorem SameClock.maskChanged (old d : Dev) (p : Nat) : SameClock (old.maskChanged d p) d := by
  unfold Dev.maskChanged
  dsimp only
  refine (SameClock.fold (fun d c => SameClock.rerankCmd old d _ c) _ _).trans (SameClock.fold (fun d n => ?_) _ _)
  exact ⟨rfl, rfl, rfl, rfl⟩
theorem SameClock.setRegions (d : Dev) (p : Nat) (rs : List Region) : SameClock (d.setRegions p rs) d := by
  unfold Dev.setRegions
  dsimp only
  refine (SameClock.fold (fun d r => ?_) _ _).trans ⟨rfl, rfl, rfl, rfl⟩
  exact ⟨rfl, rfl, rfl, rfl⟩
theorem SameClock.partApplied (old d : Dev) (env : Env) (p : Nat) : SameClock (old.partApplied d env p) d := by
  unfold Dev.partApplied
  extract_lets pg was now turned d1 d2 d3 d4 d5 d6
  have h1 : SameClock d1 d := SameClock.ite (.maskChanged _ _ _) (.refl _)
  have h2 : SameClock d2 d1 := SameClock.ite ⟨rfl, rfl, rfl, rfl⟩ (.refl _)
  have h3 : SameClock d3 d2 := SameClock.ite (.capacityFell _ _ _ _) (.refl _)
  have h4 : SameClock d4 d3 := SameClock.ite ⟨rfl, rfl, rfl, rfl⟩ (.refl _)
  have h5 : SameClock d5 d4 := by
    refine SameClock.ite ?_ (.refl _)
    split
    · exact .setRegions _ _ _
    · exact .refl _
  have h6 : SameClock d6 d5 := SameClock.ite ⟨rfl, rfl, rfl, rfl⟩ (.refl _)
  refine (SameClock.fold (fun d q => ?_) _ _).trans (h6.trans (h5.trans (h4.trans (h3.trans (h2.trans h1)))))
  dsimp only
  exact SameClock.ite ⟨rfl, rfl, rfl, rfl⟩ (.refl _)
theorem SameClock.applied (old d : Dev) (env : Env) (g : Nat) : SameClock (old.applied d env g) d := by
  unfold Dev.applied
  split
  · exact .partApplied _ _ _ _
  · exact ⟨rfl, rfl, rfl, rfl⟩
  · unfold Dev.kvpApplied; exact SameClock.ite ⟨rfl, rfl, rfl, rfl⟩ (.refl _)
  · unfold Dev.spdApplied
    dsimp only
    refine SameClock.ite ?_ (.refl _)
    refine SameClock.trans (e := List.foldl _ _ _) ⟨rfl, rfl, rfl, rfl⟩ (SameClock.fold (fun d i => ?_) _ _)
    exact ⟨rfl, rfl, rfl, rfl⟩
  · unfold Dev.fabApplied
    refine SameClock.fold (fun d g => SameClock.ite (.refl _) (SameClock.fold (fun d k => SameClock.ite (.linkDown _ _) (.refl _)) _ _)) _ _
  · unfold Dev.tickApplied
    dsimp only
    exact SameClock.ite (.refl _) ⟨rfl, rfl, rfl, rfl⟩
  · exact .refl _
theorem SameClock.copyShadow (d : Dev) (g : Nat) (b : Bool) : SameClock (d.copyShadow g b) d := by
  unfold Dev.copyShadow
  split
  · exact .refl _
  · exact SameClock.fold (fun d o => by split <;> exact ⟨rfl, rfl, rfl, rfl⟩) _ _
theorem SameClock.setReg (d : Dev) (g o : Nat) (v : Word) : SameClock (d.setReg g o v) d := ⟨rfl, rfl, rfl, rfl⟩
theorem SameClock.setStat (d : Dev) (g i : Nat) : SameClock (d.setStat g i) d := .setReg _ _ _ _
theorem SameClock.clearStat (d : Dev) (g i : Nat) : SameClock (d.clearStat g i) d := .setReg _ _ _ _
theorem SameClock.setReject (d : Dev) (g r w : Nat) : SameClock (d.setReject g r w) d := .setReg _ _ _ _
theorem SameClock.settleCommit (d : Dev) (env : Env) (g : Nat) : SameClock (d.settleCommit env g) d := by
  unfold Dev.settleCommit
  extract_lets d0 d1 d2
  have h0 : SameClock d0 d := ⟨rfl, rfl, rfl, rfl⟩
  clear_value d0
  split
  · exact (SameClock.raise _ _ _).trans ((SameClock.setReject _ _ _ _).trans ((SameClock.setStat _ _ _).trans h0))
  · have h1 : SameClock d1 d := (SameClock.setReg _ _ _ _).trans ((SameClock.copyShadow _ _ _).trans h0)
    have h2 : SameClock d2 d := (SameClock.setReject _ _ _ _).trans ((SameClock.clearStat _ _ _).trans h1)
    exact (SameClock.raise _ _ _).trans ((SameClock.applied _ _ _ _).trans h2)
theorem SameClock.settleTick (d : Dev) (env : Env) (o : Outside) : SameClock (d.settleTick env o) d := by
  unfold Dev.settleTick
  dsimp only
  refine SameClock.fold (fun d g => ?_) _ _
  split
  · exact SameClock.ite (.settleCommit _ _ _) (.refl _)
  · exact .refl _
theorem SameClock.commandCommit (d : Dev) (g : Nat) (o : Outside) : SameClock (d.commandCommit g o) d := by
  unfold Dev.commandCommit
  split
  · exact .refl _
  · refine SameClock.ite (.refl _) ((SameClock.settleCommit _ _ _).trans (SameClock.fold (fun d p => ?_) _ _))
    unfold Dev.countWait; exact SameClock.ite ⟨rfl, rfl, rfl, rfl⟩ (.refl _)
theorem SameClock.settleCommand (d : Dev) (o : Outside) : SameClock (d.settleCommand o) d := by
  unfold Dev.settleCommand
  exact SameClock.fold (fun d g => SameClock.ite (.commandCommit _ _ _) (.refl _)) _ _

/-! ### The edge -/

theorem SameClock.autoCommits (d : Dev) : SameClock d.autoCommits d := by
  unfold Dev.autoCommits
  dsimp only
  exact SameClock.fold (fun d g => SameClock.ite (.requestCommit _ _) (.refl _)) _ _
theorem SameClock.reefApply (d : Dev) : SameClock d.reefApply d := by
  unfold Dev.reefApply
  split
  · exact .refl _
  · dsimp only
    refine (SameClock.raise _ _ _).trans ?_
    exact SameClock.trans (e := { d with reef := { d.reef with step := _, decided := none } })
      (SameClock.fold (fun x p => SameClock.capacityFell _ x p _) _ _) ⟨rfl, rfl, rfl, rfl⟩
theorem SameClock.closeWindow (d : Dev) (p w s r : Nat) (b : Bool) : SameClock (d.closeWindow p w s r b) d := by
  unfold Dev.closeWindow
  extract_lets pg x src w1 slow th n run itf d1 d2 rec'
  have h2 : SameClock d2 d := (SameClock.ite (.raise _ _ _) (.refl _)).trans (SameClock.trans (e := d1) (.refl _) ⟨rfl, rfl, rfl, rfl⟩)
  exact SameClock.trans (e := d2) ⟨rfl, rfl, rfl, rfl⟩ h2
theorem SameClock.closeWindows (old d : Dev) : SameClock (old.closeWindows d) d := by
  unfold Dev.closeWindows
  dsimp only
  refine SameClock.fold (fun d p => ?_) _ _
  split
  · exact ⟨rfl, rfl, rfl, rfl⟩
  · exact .closeWindow _ _ _ _ _ _
theorem SameClock.edgeCloses (d : Dev) : SameClock d.edgeCloses d := by
  unfold Dev.edgeCloses
  have h := SameClock.fold SameClock.missSession d.sessions d
  revert h
  dsimp only
  generalize List.foldl _ d d.sessions = e
  exact fun h => SameClock.trans (e := e) ⟨rfl, rfl, rfl, rfl⟩ h
theorem SameClock.tickWaits (d : Dev) : SameClock d.tickWaits d := by
  unfold Dev.tickWaits
  refine SameClock.fold (fun d c => ?_) _ _
  unfold Dev.tickWaitRun
  split
  · exact SameClock.ite (.complete _ _ _ _) (.refl _)
  · exact .refl _
theorem SameClock.listRead (d : Dev) (p a : Nat) (l : Except ReadFail Bytes) :
    SameClock (match l with
      | .error .invalid => d
      | .error e => d.logHost p a 0 e
      | .ok _ => d) d := by
  split
  · exact .refl _
  · exact .logHost _ _ _ _ _
  · exact .refl _
theorem SameClock.openJob (d : Dev) (env : Env) (p a : Nat) : SameClock (d.openJob env p a) d := by
  unfold Dev.openJob
  have h0 := SameClock.doorbellRead d env p a 64 64
  split
  · rename_i h; rw [h] at h0; exact h0
  · rename_i d1 b h
    rw [h] at h0
    extract_lets n list members d2 j code d3
    have h2 : SameClock d2 d1 := .listRead _ _ _ _
    have h3 : SameClock d3 d2 := SameClock.ite ⟨rfl, rfl, rfl, rfl⟩ (.refl _)
    exact (SameClock.raise _ _ _).trans ((SameClock.writeOut _ _ _ _ _).trans (h3.trans (h2.trans h0)))
theorem SameClock.readKeys (d : Dev) (env : Env) (s : Stream) : SameClock (d.readKeys env s).1 d := by
  unfold Dev.readKeys
  (repeat' split) <;> first | exact .refl _ | exact .logHost _ _ _ _ _
theorem SameClock.openStream (d : Dev) (env : Env) (p a : Nat) : SameClock (d.openStream env p a) d := by
  unfold Dev.openStream
  have h0 := SameClock.doorbellRead d env p a 64 128
  split
  · rename_i h; rw [h] at h0; exact h0
  · rename_i d1 b h
    rw [h] at h0
    extract_lets s answer code
    have ha : ∀ (e : Dev) c sl x, SameClock (answer e c sl x) e := fun e c sl x => (SameClock.raise _ _ _).trans (.writeOut _ _ _ _ _)
    split
    · exact (ha _ _ _ _).trans h0
    · split
      · exact (ha _ _ _ _).trans h0
      · have hk := SameClock.readKeys d1 env s
        split
        · rename_i h; rw [h] at hk; exact (ha _ _ _ _).trans (hk.trans h0)
        · rename_i e _ h; rw [h] at hk; exact (ha _ _ _ _).trans (SameClock.trans (e := e) ⟨rfl, rfl, rfl, rfl⟩ (hk.trans h0))
theorem SameClock.rekey (d : Dev) (env : Env) (p id : Nat) : SameClock (d.rekey env p id) d := by
  unfold Dev.rekey
  split
  · exact .refl _
  · rename_i s _
    have hk := SameClock.readKeys d env s
    split
    · exact .refl _
    · split
      · rename_i e _ h; rw [h] at hk; exact SameClock.trans (e := e) ⟨rfl, rfl, rfl, rfl⟩ hk
      · rename_i h; rw [h] at hk; exact hk
theorem SameClock.resync (d : Dev) (env : Env) (o : Outside) (p : Nat) : SameClock (d.resync env o p) d := by
  unfold Dev.resync
  extract_lets pg a size r image d1 n d2
  split
  · exact .refl _
  · split
    · exact .refl _
    · have h1 : SameClock d1 d := SameClock.modPart d p _
      have h2 : SameClock d2 d := SameClock.trans (e := d1) (SameClock.setReg d1 pg _ _) h1
      clear_value d2
      have hw := SameClock.writeOut d2 env p a image
      split
      · rename_i h; rw [h] at hw; exact (SameClock.raise _ _ _).trans (hw.trans h2)
      · rename_i h; rw [h] at hw; exact hw.trans h2
theorem SameClock.openAllSessions (d : Dev) (env : Env) (o : Outside) (p : Nat) : SameClock (d.openAllSessions env o p) d := by
  unfold Dev.openAllSessions
  extract_lets l go d1
  exact (SameClock.fold (fun d a => SameClock.openSession d env p a) _ _).trans (SameClock.modPart d p _)
theorem SameClock.openAllJobs (d : Dev) (env : Env) (o : Outside) (p : Nat) : SameClock (d.openAllJobs env o p) d := by
  unfold Dev.openAllJobs
  extract_lets l go d1
  exact (SameClock.fold (fun d a => SameClock.openJob d env p a) _ _).trans (SameClock.modPart d p _)
theorem SameClock.openAllStreams (d : Dev) (env : Env) (o : Outside) (p : Nat) : SameClock (d.openAllStreams env o p) d := by
  unfold Dev.openAllStreams
  extract_lets l go d1
  exact (SameClock.fold (fun d a => SameClock.openStream d env p a) _ _).trans (SameClock.modPart d p _)
theorem SameClock.rekeyAll (d : Dev) (env : Env) (p : Nat) : SameClock (d.rekeyAll env p) d := by
  unfold Dev.rekeyAll
  extract_lets l d1
  exact (SameClock.fold (fun d id => SameClock.rekey d env p id) _ _).trans (SameClock.modPart d p _)
theorem SameClock.edgeOpens (d : Dev) (env : Env) (o : Outside) : SameClock (d.edgeOpens env o) d := by
  unfold Dev.edgeOpens
  extract_lets parts compute d1 d2 d3
  have h1 : SameClock d1 d := SameClock.ite (SameClock.fold (fun d p => SameClock.openAllSessions d env o p) _ _) (.refl _)
  have h2 : SameClock d2 d1 := SameClock.ite (SameClock.fold (fun d p => SameClock.openAllJobs d env o p) _ _) (.refl _)
  have h3 : SameClock d3 d2 :=
    SameClock.ite (SameClock.fold (fun d p => (SameClock.rekeyAll _ env p).trans (SameClock.openAllStreams d env o p)) _ _) (.refl _)
  exact (SameClock.ite (SameClock.fold (fun d p => SameClock.resync d env o p) _ _) (.refl _)).trans (h3.trans (h2.trans h1))
theorem SameClock.publishSplit (d : Dev) (s : Nat) : SameClock (d.publishSplit s) d := by
  unfold Dev.publishSplit
  refine SameClock.fold (fun d die => ?_) _ _
  extract_lets u dem free d1
  have h : SameClock d1 d := (SameClock.setReg _ _ _ _).trans (SameClock.setReg _ _ _ _)
  clear_value d1
  exact SameClock.trans (e := d1) ⟨rfl, rfl, rfl, rfl⟩ h

theorem SameClock.setPermits (d : Dev) : SameClock d.setPermits d := by
  unfold Dev.setPermits
  exact ⟨rfl, rfl, rfl, rfl⟩
theorem SameClock.newWaits (d : Dev) : SameClock d.newWaits d := by
  unfold Dev.newWaits
  exact ⟨rfl, rfl, rfl, rfl⟩
theorem SameClock.withParts (d : Dev) (ps : List Part) : SameClock { d with parts := ps } d := ⟨rfl, rfl, rfl, rfl⟩

/-- R28, R29: after an edge the clock stands where the next edge puts it. -/
theorem SameClock.tickEdge (d : Dev) (env : Env) (o : Outside) : SameClock (d.tickEdge env o) d.nextEdge := by
  unfold Dev.tickEdge
  extract_lets old d1 new d2 d3 d4 d5 d6 d7 d8
  have h1 : SameClock d1 d.nextEdge := .autoCommits _
  have h2 : SameClock d2 d1 := .reefApply _
  have h3 : SameClock d3 d2 := (SameClock.settleCommand _ _).trans (.settleTick _ _ _)
  have h4 : SameClock d4 d3 := .setPermits _
  have h5 : SameClock d5 d4 := (SameClock.closeWindows _ _).trans ((SameClock.tickWaits _).trans (.edgeCloses _))
  have h6 : SameClock d6 d5 := (SameClock.rigLosses _).trans (SameClock.ite (.rigApply _) (.refl _))
  have h7 : SameClock d7 d6 := .edgeOpens _ _ _
  have h8 : SameClock d8 d7 := (SameClock.publishSplit _ _).trans (.newWaits _)
  have h : SameClock d8 d.nextEdge := h8.trans (h7.trans (h6.trans (h5.trans (h4.trans (h3.trans (h2.trans h1))))))
  exact SameClock.ite ((SameClock.withParts d8 _).trans h) h

/-! ### Alerts and handovers -/

theorem SameClock.refreshAlert (s : State) : SameClock s.refreshAlert.dev s.dev := by
  unfold State.refreshAlert
  dsimp only
  split
  · exact .refl _
  · dsimp only
    split
    · exact (SameClock.raise _ _ _).trans ⟨rfl, rfl, rfl, rfl⟩
    · exact ⟨rfl, rfl, rfl, rfl⟩
theorem SameClock.handoverStart (s : State) : SameClock s.handoverStart.dev s.dev := by
  unfold State.handoverStart
  split
  · split
    · refine SameClock.trans (e := s.dev.handoverKills) ⟨rfl, rfl, rfl, rfl⟩ ?_
      unfold Dev.handoverKills
      exact SameClock.fold (fun d (x : Nat × Copy) => SameClock.replayCopy d x.1 x.2 false) _ _
    · exact .refl _
  · split
    · exact ⟨rfl, rfl, rfl, rfl⟩
    · exact .refl _

end Sys2Proof.Machine
end

