-- ==== Sys2Proof/Laws/PerInstr.lean ====
section
/-! SUPPORT. What holds of every command as syntax, one lemma per constructor: how far it reaches. -/

namespace Sys2Proof.Laws.Reach

/-- A command that removes power is one of those that reset the device, and one that resets the device reaches beyond the device proper. -/
def Statement (i : Instr) : Prop := (i.cutsPower ≠ none → i.resets = true) ∧ (i.resets = true → i.reachesBeyond = true)

/-- Commands that reset nothing and leave power on. -/
theorem of_neither {i : Instr} (hc : i.cutsPower = none) (hr : i.resets = false) : Statement i :=
  ⟨fun h => absurd hc h, fun h => by rw [hr] at h; cases h⟩

/-- Commands that reset the device. -/
theorem of_resets {i : Instr} (hr : i.resets = true) : Statement i :=
  ⟨fun _ => hr, fun _ => by simp [Instr.reachesBeyond, hr]⟩

theorem matmul (u : Nat) (env : Env) : Statement (.matmul u env) := of_neither rfl rfl
theorem conv (u : Nat) (env : Env) : Statement (.conv u env) := of_neither rfl rfl
theorem attend (u : Nat) (env : Env) : Statement (.attend u env) := of_neither rfl rfl
theorem vprog (u : Nat) (env : Env) : Statement (.vprog u env) := of_neither rfl rfl
theorem convert (u : Nat) (env : Env) : Statement (.convert u env) := of_neither rfl rfl
theorem copy (u : Nat) (env : Env) : Statement (.copy u env) := of_neither rfl rfl
theorem fillRandom (u : Nat) (env : Env) : Statement (.fillRandom u env) := of_neither rfl rfl
theorem sample (u : Nat) (env : Env) : Statement (.sample u env) := of_neither rfl rfl
theorem appendKv (u : Nat) (env : Env) : Statement (.appendKv u env) := of_neither rfl rfl
theorem pageRelease (u : Nat) (env : Env) : Statement (.pageRelease u env) := of_neither rfl rfl
theorem collective (u : Nat) (peers : List Contribution) (env : Env) : Statement (.collective u peers env) := of_neither rfl rfl
theorem mediaDecode (u : Nat) (env : Env) : Statement (.mediaDecode u env) := of_neither rfl rfl
theorem mediaEncode (u : Nat) (env : Env) : Statement (.mediaEncode u env) := of_neither rfl rfl
theorem ingest (u : Nat) (env : Env) : Statement (.ingest u env) := of_neither rfl rfl
theorem fence (u : Nat) : Statement (.fence u) := of_neither rfl rfl
theorem tickWait (u : Nat) : Statement (.tickWait u) := of_neither rfl rfl
theorem ctxSave (u : Nat) (env : Env) : Statement (.ctxSave u env) := of_neither rfl rfl
theorem ctxRestore (u : Nat) : Statement (.ctxRestore u) := of_neither rfl rfl
theorem sqTailDoorbell (src : Src) (p q : Nat) (v : Word) : Statement (.sqTailDoorbell src p q v) := of_neither rfl rfl
theorem cqHeadDoorbell (src : Src) (p q : Nat) (v : Word) : Statement (.cqHeadDoorbell src p q v) := of_neither rfl rfl
theorem commandAdmit (p q : Nat) (env : Env) : Statement (.commandAdmit p q env) := of_neither rfl rfl
theorem commandStart (u : Nat) : Statement (.commandStart u) := of_neither rfl rfl
theorem tack (p : Nat) : Statement (.tack p) := of_neither rfl rfl
theorem tackSave (n : Nat) : Statement (.tackSave n) := of_neither rfl rfl
theorem commandResume (p : Nat) : Statement (.commandResume p) := of_neither rfl rfl
theorem overrun (u : Nat) : Statement (.overrun u) := of_neither rfl rfl
theorem takeWork (e : Engine) : Statement (.takeWork e) := of_neither rfl rfl
theorem hoistRaise (a : Nat) : Statement (.hoistRaise a) := of_neither rfl rfl
theorem hoistLower (a : Nat) : Statement (.hoistLower a) := of_neither rfl rfl
theorem tileResultOnChip (e : Engine) (env : Env) : Statement (.tileResultOnChip e env) := of_neither rfl rfl
theorem tileCommit (e : Engine) (env : Env) : Statement (.tileCommit e env) := of_neither rfl rfl
theorem completionWrite (p q : Nat) (env : Env) : Statement (.completionWrite p q env) := of_neither rfl rfl
theorem leaseScan (die : Nat) : Statement (.leaseScan die) := of_neither rfl rfl
theorem groupTileAbandon (p : Nat) : Statement (.groupTileAbandon p) := of_neither rfl rfl
theorem arrayCheckFail (a : Nat) (kind : ArrayError) (row column : Nat) (both : Bool) : Statement (.arrayCheckFail a kind row column both) := of_neither rfl rfl
theorem scratchpadEccError (n bank row word : Nat) (uncorrectable : Bool) (reader : Option Engine) : Statement (.scratchpadEccError n bank row word uncorrectable reader) := of_neither rfl rfl
theorem scrubRead (n : Nat) (error : Option EccError) : Statement (.scrubRead n error) := of_neither rfl rfl
theorem taggedAccess (n slot : Nat) (access : TagAccess) : Statement (.taggedAccess n slot access) := of_neither rfl rfl
theorem tagWaitTimeout (u n slot : Nat) : Statement (.tagWaitTimeout u n slot) := of_neither rfl rfl
theorem bankOpWrite (u : Option Nat) (p off : Nat) (op : BankOp) : Statement (.bankOpWrite u p off op) := of_neither rfl rfl
theorem atomic (p addr : Nat) (op : AtomicOp) : Statement (.atomic p addr op) := of_neither rfl rfl
theorem stkScore (j : Nat) (cmd : StkScore) : Statement (.stkScore j cmd) := of_neither rfl rfl
theorem stkCopy (j src dst count : Nat) : Statement (.stkCopy j src dst count) := of_neither rfl rfl
theorem stkFill (j dst count : Nat) (pattern : Word) : Statement (.stkFill j dst count pattern) := of_neither rfl rfl
theorem stkGather (j : Nat) (srcs : List Nat) (dst : Nat) : Statement (.stkGather j srcs dst) := of_neither rfl rfl
theorem stkCompact (j src : Nat) (mask : List Nat) (dst : Nat) : Statement (.stkCompact j src mask dst) := of_neither rfl rfl
theorem stkCrc (j src count : Nat) : Statement (.stkCrc j src count) := of_neither rfl rfl
theorem hbmTempReading (j : Nat) (celsius : Int) : Statement (.hbmTempReading j celsius) := of_neither rfl rfl
theorem patrolRead (j channel block : Nat) (error : Option EccError) : Statement (.patrolRead j channel block error) := of_neither rfl rfl
theorem hbmUncorrectableRead (j channel block : Nat) (symbol codeword : Nat) (retryOk : Bool) (u : Option Nat) : Statement (.hbmUncorrectableRead j channel block symbol codeword retryOk u) := of_neither rfl rfl
theorem tickEdge (env : Env) : Statement (.tickEdge env) := of_neither rfl rfl
theorem acctRecordWrite (p : Nat) (env : Env) : Statement (.acctRecordWrite p env) := of_neither rfl rfl
theorem commandCommitApply (page : Nat) : Statement (.commandCommitApply page) := of_neither rfl rfl
theorem commitWaitLimit (p : Nat) : Statement (.commitWaitLimit p) := of_neither rfl rfl
theorem zeroingDone (n : Nat) : Statement (.zeroingDone n) := of_neither rfl rfl
theorem commit (src : Src) (page : Nat) : Statement (.commit src page) := of_neither rfl rfl
theorem discard (src : Src) (page : Nat) (withCommit : Bool) : Statement (.discard src page withCommit) := of_neither rfl rfl
theorem lock (src : Src) (page : Nat) (on : Bool) : Statement (.lock src page on) := of_neither rfl rfl
theorem intForce (src : Src) (page : Nat) (v : Word) : Statement (.intForce src page v) := of_neither rfl rfl
theorem countClear (src : Src) (page : Nat) (v : Word) : Statement (.countClear src page v) := of_neither rfl rfl
theorem registerWrite (src : Src) (offset width : Nat) (v : Nat) : Statement (.registerWrite src offset width v) := of_neither rfl rfl
theorem sessionOpenDoorbell (src : Src) (p : Nat) (v : Word) : Statement (.sessionOpenDoorbell src p v) := of_neither rfl rfl
theorem sessionClose (src : Src) (p : Nat) (v : Word) : Statement (.sessionClose src p v) := of_neither rfl rfl
theorem resync (src : Src) (p : Nat) (v : Word) : Statement (.resync src p v) := of_neither rfl rfl
theorem queueAbort (src : Src) (p : Nat) (v : Word) : Statement (.queueAbort src p v) := of_neither rfl rfl
theorem queueResume (src : Src) (p : Nat) (v : Word) : Statement (.queueResume src p v) := of_neither rfl rfl
theorem jobOpenDoorbell (src : Src) (p : Nat) (v : Word) : Statement (.jobOpenDoorbell src p v) := of_neither rfl rfl
theorem jobClose (src : Src) (p : Nat) (v : Word) : Statement (.jobClose src p v) := of_neither rfl rfl
theorem streamOpenDoorbell (src : Src) (p : Nat) (v : Word) : Statement (.streamOpenDoorbell src p v) := of_neither rfl rfl
theorem streamClose (src : Src) (p : Nat) (v : Word) : Statement (.streamClose src p v) := of_neither rfl rfl
theorem streamRekey (src : Src) (p : Nat) (v : Word) : Statement (.streamRekey src p v) := of_neither rfl rfl
theorem mailSqTail (src : Src) (p : Nat) (v : Word) : Statement (.mailSqTail src p v) := of_neither rfl rfl
theorem mailRqHead (src : Src) (p : Nat) (v : Word) : Statement (.mailRqHead src p v) := of_neither rfl rfl
theorem mailSend (p : Nat) (env : Env) : Statement (.mailSend p env) := of_neither rfl rfl
theorem mailDeliver (env : Env) : Statement (.mailDeliver env) := of_neither rfl rfl
theorem rigSet (src : Src) (v : Word) : Statement (.rigSet src v) := of_neither rfl rfl
theorem arrInject (src : Src) (a : Nat) (v : Word) : Statement (.arrInject src a v) := of_neither rfl rfl
theorem spdEccInject (src : Src) (n : Nat) (v : Word) : Statement (.spdEccInject src n v) := of_neither rfl rfl
theorem vecInject (src : Src) (n : Nat) (v : Word) : Statement (.vecInject src n v) := of_neither rfl rfl
theorem hbmEccInject (src : Src) (j : Nat) (v : Word) : Statement (.hbmEccInject src j v) := of_neither rfl rfl
theorem redInject (src : Src) (d : Nat) (v : Word) : Statement (.redInject src d v) := of_neither rfl rfl
theorem flush (src : Src) (d : Nat) (v : Word) : Statement (.flush src d v) := of_neither rfl rfl
theorem flushDone (d : Nat) : Statement (.flushDone d) := of_neither rfl rfl
theorem retrain (src : Src) (j : Nat) (v : Word) : Statement (.retrain src j v) := of_neither rfl rfl
theorem d2dRetrain (j : Nat) (crcErrors : Nat) (lostLock : Bool) : Statement (.d2dRetrain j crcErrors lostLock) := of_neither rfl rfl
theorem stage (src : Src) (component : Nat) (env : Env) : Statement (.stage src component env) := of_neither rfl rfl
theorem fwStageComplete : Statement (.fwStageComplete) := of_neither rfl rfl
theorem activate (src : Src) (component : Nat) : Statement (.activate src component) := of_neither rfl rfl
theorem handoverSlice (cycles : Nat) (selfCheckOk : Bool) : Statement (.handoverSlice cycles selfCheckOk) := of_neither rfl rfl
theorem handoverEnd : Statement (.handoverEnd) := of_neither rfl rfl
theorem commitSvn (src : Src) (component : Nat) : Statement (.commitSvn src component) := of_neither rfl rfl
theorem elogRead (src : Src) (v : Word) : Statement (.elogRead src v) := of_neither rfl rfl
theorem monitorSample (d : Nat) (sample : MonSample) : Statement (.monitorSample d sample) := of_neither rfl rfl
theorem reefDecision : Statement (.reefDecision) := of_neither rfl rfl
theorem thermalTrip (d sensor : Nat) : Statement (.thermalTrip d sensor) := of_resets rfl
theorem powerExcess (watts : Nat) : Statement (.powerExcess watts) := of_neither rfl rfl
theorem avsAdjust (d : Nat) (up : Bool) : Statement (.avsAdjust d up) := of_neither rfl rfl
theorem watchdogExpiry : Statement (.watchdogExpiry) := of_neither rfl rfl
theorem mastheadRestart : Statement (.mastheadRestart) := of_neither rfl rfl
theorem managementMessage (transport : Nat) (msg : MgmtMessage) : Statement (.managementMessage transport msg) := of_neither rfl rfl
theorem spdmRequest (transport : Nat) (request : Bytes) : Statement (.spdmRequest transport request) := of_neither rfl rfl
theorem i3cAddressAssign (address : Nat) : Statement (.i3cAddressAssign address) := of_neither rfl rfl
theorem tickSourceLost : Statement (.tickSourceLost) := of_neither rfl rfl
theorem tickLocked (offsetNs : Int) : Statement (.tickLocked offsetNs) := of_neither rfl rfl
theorem tickInEdge (offsetNs : Int) : Statement (.tickInEdge offsetNs) := of_neither rfl rfl
theorem ppsInEdge (offsetNs : Int) : Statement (.ppsInEdge offsetNs) := of_neither rfl rfl
theorem bftDataReceive (pkt : BftData) : Statement (.bftDataReceive pkt) := of_neither rfl rfl
theorem bftAckReceive (pkt : BftAck) : Statement (.bftAckReceive pkt) := of_neither rfl rfl
theorem ackDelayExpiry (flow : Nat) : Statement (.ackDelayExpiry flow) := of_neither rfl rfl
theorem rtoExpiry (flow psn : Nat) : Statement (.rtoExpiry flow psn) := of_neither rfl rfl
theorem jobWaitExpiry (flow : Nat) : Statement (.jobWaitExpiry flow) := of_neither rfl rfl
theorem flowRateUpdate (flow : Nat) : Statement (.flowRateUpdate flow) := of_neither rfl rfl
theorem mailPacketReceive (pkt : BftMail) : Statement (.mailPacketReceive pkt) := of_neither rfl rfl
theorem reducerChunk (d : Nat) (error : Bool) : Statement (.reducerChunk d error) := of_neither rfl rfl
theorem ethLinkDown (e : Nat) : Statement (.ethLinkDown e) := of_neither rfl rfl
theorem ethLinkUp (e : Nat) : Statement (.ethLinkUp e) := of_neither rfl rfl
theorem rtpReceive (pkt : UdpPacket) : Statement (.rtpReceive pkt) := of_neither rfl rfl
theorem rtcpReceive (pkt : UdpPacket) : Statement (.rtcpReceive pkt) := of_neither rfl rfl
theorem pliTimer (stream : Nat) : Statement (.pliTimer stream) := of_neither rfl rfl
theorem rtcpReportTimer (stream : Nat) : Statement (.rtcpReportTimer stream) := of_neither rfl rfl
theorem hostLinkUp (speed width : Nat) (flit : Bool) : Statement (.hostLinkUp speed width flit) := of_neither rfl rfl
theorem hotReset (linkDown : Bool) : Statement (.hotReset linkDown) := of_neither rfl rfl
theorem configSpaceWrite (f : Nat) (change : ConfigChange) : Statement (.configSpaceWrite f change) := of_neither rfl rfl
theorem functionLevelReset (f : Nat) : Statement (.functionLevelReset f) := of_neither rfl rfl
theorem apertureRead (f offset length : Nat) : Statement (.apertureRead f offset length) := of_neither rfl rfl
theorem apertureWrite (f offset : Nat) (data : Bytes) : Statement (.apertureWrite f offset data) := of_neither rfl rfl
theorem atomicop (f offset : Nat) (op : PcieAtomic) : Statement (.atomicop f offset op) := of_neither rfl rfl
theorem msixUnmask (f vector : Nat) : Statement (.msixUnmask f vector) := of_neither rfl rfl
theorem atsInvalidate (f addr length : Nat) : Statement (.atsInvalidate f addr length) := of_neither rfl rfl
theorem doeObject (vendor kind : Nat) (length : Nat) (payload : Bytes) : Statement (.doeObject vendor kind length payload) := of_neither rfl rfl
theorem doeAbort : Statement (.doeAbort) := of_neither rfl rfl
theorem ideFailure (stream : Nat) : Statement (.ideFailure stream) := of_neither rfl rfl
theorem inputApplied (millivolts : Nat) : Statement (.inputApplied millivolts) := of_resets rfl
theorem modPwrEnAssert (lowMs : Nat) : Statement (.modPwrEnAssert lowMs) := of_resets rfl
theorem modPwrEnDeassert : Statement (.modPwrEnDeassert) := of_resets rfl
theorem underVoltage (millivolts : Nat) : Statement (.underVoltage millivolts) := of_resets rfl
theorem overVoltage (millivolts : Nat) : Statement (.overVoltage millivolts) := of_resets rfl
theorem overCurrent (milliamps : Nat) : Statement (.overCurrent milliamps) := of_resets rfl
theorem railFault (d rail : Nat) : Statement (.railFault d rail) := of_resets rfl
theorem modPerstNAssert : Statement (.modPerstNAssert) := of_resets rfl
theorem modPerstNRelease : Statement (.modPerstNRelease) := of_resets rfl
theorem bringupStageEnd (j : Nat) (ok : Bool) (detail : Nat) : Statement (.bringupStageEnd j ok detail) := of_neither rfl rfl
theorem hbmInitChunk (errors : List (Nat × Nat × Nat × EccError)) : Statement (.hbmInitChunk errors) := of_neither rfl rfl
theorem hoistRaiseEnd (a : Nat) : Statement (.hoistRaiseEnd a) := of_neither rfl rfl
theorem hoistLowerEnd (a : Nat) : Statement (.hoistLowerEnd a) := of_neither rfl rfl
theorem refclkEthChange (present : Bool) : Statement (.refclkEthChange present) := of_neither rfl rfl
theorem ptpMessage (port domain : Nat) (seconds nanoseconds : Nat) (offsetNs : Int) : Statement (.ptpMessage port domain seconds nanoseconds offsetNs) := of_neither rfl rfl
theorem kvpInitDone (p : Nat) : Statement (.kvpInitDone p) := of_neither rfl rfl
theorem flrBusyClear (f : Nat) : Statement (.flrBusyClear f) := of_neither rfl rfl
theorem vectorCheckFail (n : Nat) (parity : Bool) (lane reg : Nat) : Statement (.vectorCheckFail n parity lane reg) := of_neither rfl rfl
theorem inputInRange (millivolts : Nat) : Statement (.inputInRange millivolts) := of_resets rfl
theorem delayedRestart : Statement (.delayedRestart) := of_resets rfl

end Sys2Proof.Laws.Reach
end

