-- ==== Sys2Proof/Laws/Units.lean ====
section
/-! SUPPORT. Commands of a unit on a running device, and what detected errors do. -/

namespace Sys2Proof.Machine

/-- A live register of a partition is written. -/
theorem partWrite_live (s : State) {src p off m} {v : Word} (hc : s.canWrite src (pgPART p)) (hp : p < 64) (ho : 0x40 ≤ off)
    (hr : regSpec .part off = some ⟨off, 4, 1, .l, 0, m, 0⟩) (hca : Block.clearAt .part ≠ some off) :
    partWrite src p off v s = .next { s with dev := s.dev.writePartLive p off (v &&& BitVec.ofNat 32 m) } := by
  unfold partWrite
  rw [bySource_served s (by simp [hc.1, partOk, hp]) hc.2.1 (.inl pgPART_ne_pgMGT)]
  rw [Dev.write32_live _ hc.2.2 (blockOf_part hp) ho hr (.inl rfl) (Dev.heldBits_none _ (.inl rfl) pgPART_ne_pgMGT)]
  unfold Dev.writeLive
  rw [if_neg hca, if_neg (by simp [Block.injectAt])]

/-- A live register of a unit is written. -/
theorem injection_write (s : State) {src : Src} {page off k m : Nat} {b : Block} {i : Nat} {has : Bool} {pf : Nat} (hv : isVf src = false) (hs : s.srcOk src =
    true) (hh : has = true)
   (hb : blockOf page = some (b, i)) (ho : 0x40 ≤ off) (hr : regSpec b off = some ⟨off, 4, 1, .l, 0, m, pf⟩) (hm : page ≠ pgMGT)
   (hca : b.clearAt ≠ some off) (hi : b.injectAt = some off) (hk : b.armed ((BitVec.ofNat 32 k) &&& BitVec.ofNat 32 m).toNat = some k) (hk4 : k < 5) :
   ∃ t, bySource has s src page off (BitVec.ofNat 32 k) = .next t ∧ s.OnlyRegs t ∧ t.dev.regN page off = k ∧ t.dev.RegsBut s.dev [regKey page off] := by
  refine ⟨_, by rw [bySource_served s hh hs (.inl hm)], ?_⟩
  rw [Dev.write32_live _ (Dev.pagePresent_of_not_vf _ _ hv) hb ho hr (.inl rfl) (Dev.heldBits_none _ (.inr hv) hm)]
  unfold Dev.writeLive
  rw [if_neg hca, if_pos hi, hk]
  dsimp only
  refine ⟨rfl, ?_, Dev.RegsBut_setReg _ _ _ _⟩
  unfold Dev.regN; rw [Dev.reg_setReg_same]; simp; omega

/-- Requests of a function depend on the link and the active copies. -/
theorem Dev.mayRequest_congr (d e : Dev) (p : Nat) (h : e.pci = d.pci) (hr : ∀ page o, 0x440 ≤ o → o < 0x800 → e.reg page o = d.reg page o) : e.mayRequest p =
    d.mayRequest p := by
  unfold Dev.mayRequest Dev.active Dev.regN
  rw [h, hr _ _ (by decide) (by decide), hr _ _ (by decide) (by decide)]

theorem Dev.writeFails_congr (d e : Dev) (env : Env) (c : Cmd) (ws) (h : e.pci = d.pci) (hr : ∀ page o, 0x440 ≤ o → o < 0x800 → e.reg page o = d.reg page o) :
    e.writeFails env c ws = d.writeFails env c ws := by
  unfold Dev.writeFails Dev.hostRequest; simp only [Dev.mayRequest_congr d e _ h hr]

/-- A link retrains while no command is in flight. -/
theorem Dev.linkRetrain_effect (d : Dev) (i n cause : Nat) (hi : i < 6) (hc : d.cmds = []) :
   (d.linkRetrain i n cause).regN (pgD2D i) 0x804 = min (d.regN (pgD2D i) 0x804 + 1) (2 ^ 32 - 1) ∧ bit ((d.linkRetrain i n cause).regN (pgD2D i) oIntStat) 0 = true ∧
   (d.linkRetrain i n cause).SameMemory d ∧ (d.linkRetrain i n cause).cmds = [] := by
  have hl : ∀ e : Dev, e.cmds = [] → e.linkReplay i = e := by
    intro e he; unfold Dev.linkReplay; rw [he]; rfl
  unfold Dev.linkRetrain
  dsimp only
  rw [hl _ (by simpa [Dev.bump] using hc)]
  have hp : pgD2D i ≠ pgMGT := by unfold pgD2D pgMGT; omega
  refine ⟨?_, ?_, ?_, ?_⟩
  · rw [Dev.regN_log_other _ _ (by unfold regKey oIntStat; omega), Dev.regN_raise_other _ _ (by unfold regKey oIntStat; omega),
        Dev.regN_bump_other _ _ (by unfold regKey; omega), Dev.regN_bump_other _ _ (by unfold regKey; omega), Dev.regN_bump_same]
  · exact Dev.bit_log _ _ (Dev.bit_raise _ _ (by omega))
  · refine ⟨by simp, by simp, by simp⟩
  · simp [hc]

/-- Once all of HBM is initialised. -/
theorem Dev.usable_all (d : Dev) (o : Outside) (p a n : Nat) (h : bit o.flags 5 = true) : d.usable o p a n = true := by unfold Dev.usable; rw [h]; rfl

/-- A command of a unit on a running device. -/
theorem onUnit_running (s : State) (f : Dev → Dev) (h : s.running = true) {has : Bool} (hh : has = true) : onUnit has s f = .next { s with dev := f s.dev } :=
    by
  unfold onUnit withUnit; rw [if_pos hh, State.onDev_running _ _ h]

/-- A command of a running device. -/
theorem onDevice_running (s : State) (f : Dev → Dev) (h : s.running = true) : onDevice s f = .next { s with dev := f s.dev } := by
  unfold onDevice; rw [State.onDev_running _ _ h]

/-- A command of a unit after which the alerts are refreshed. -/
theorem onUnitAlert_running (s : State) (f : Dev → Dev) (h : s.running = true) {has : Bool} (hh : has = true) :
    ∃ t, onUnitAlert has s f = .next t ∧ SameView t.dev (f s.dev) ∧ t.dev.cmds = (f s.dev).cmds ∧ t.dev.now = (f s.dev).now ∧ t.dev.arrays = (f s.dev).arrays ∧
     (∀ pg o, pg ≠ pgMGT → o < 4096 → t.dev.reg pg o = (f s.dev).reg pg o) := by
  unfold onUnitAlert withUnit
  rw [if_pos hh, State.onDev_running _ _ h]
  obtain ⟨d, e1, e2, e3, e4, e5⟩ := State.refreshAlert_effect { s with dev := f s.dev }
  refine ⟨_, rfl, by rw [e1]; exact e2, by rw [e1]; exact e3, ?_, ?_, fun pg o hp ho => by rw [e1]; exact e5 pg o hp ho⟩
  · unfold State.refreshAlert; dsimp only; split
    · rfl
    · dsimp only; split
      · simp
      · rfl
  · unfold State.refreshAlert; dsimp only; split
    · rfl
    · dsimp only; split
      · simp
      · rfl

/-- The same, by the registers. -/
theorem onUnitAlert_regs (s : State) (f : Dev → Dev) (h : s.running = true) {has : Bool} (hh : has = true) :
    ∃ t, onUnitAlert has s f = .next t ∧ SameView t.dev (f s.dev) ∧ t.dev.cmds = (f s.dev).cmds ∧ t.dev.arrays = (f s.dev).arrays ∧
     (∀ pg o, pg ≠ pgMGT → o < 4096 → t.dev.regN pg o = (f s.dev).regN pg o) := by
  obtain ⟨t, t1, t2, t3, t4, t5, t6⟩ := onUnitAlert_running s f h hh
  exact ⟨t, t1, t2, t3, t5, fun pg o a b => by unfold Dev.regN; rw [t6 pg o a b]⟩

/-- What every detected error does first: a count, a description, an interrupt flag and a log entry. -/
theorem Dev.error_head (d : Dev) (pg o o2 : Nat) (v : Word) (i : Nat) (e : LogEntry) (hp : pg ≠ pgMGT) (h1 : outsideActive o) (h2 : outsideActive o2) (hn : o
    ≠ o2) (hk : o ≠ oIntStat) (hk2 : o2 ≠ oIntStat) :
    SameView ((((d.bump pg o 1).setReg pg o2 v).raise pg i).log e) d ∧ ((((d.bump pg o 1).setReg pg o2 v).raise pg i).log e).cmds = d.cmds ∧
    ((((d.bump pg o 1).setReg pg o2 v).raise pg i).log e).arrays = d.arrays ∧ ((((d.bump pg o 1).setReg pg o2 v).raise pg i).log e).regN pg o2 = v.toNat ∧
    ((((d.bump pg o 1).setReg pg o2 v).raise pg i).log e).regN pg o = min (d.regN pg o + 1) (2^32-1) := by
  have lk := Dev.log_effect (((d.bump pg o 1).setReg pg o2 v).raise pg i) e
  have k1 : regKey pg o2 ≠ regKey pgMGT oIntStat := regKey_off_ne (by unfold outsideActive at h2; omega) (by decide) hk2
  have k2 : regKey pg o ≠ regKey pgMGT oIntStat := regKey_off_ne (by unfold outsideActive at h1; omega) (by decide) hk
  refine ⟨lk.1.trans ((SameView.raise _ _ _).trans ((SameView.setReg _ _ _ _ h2).trans (SameView.bump _ _ _ _ h1))), by rw [lk.2.1]; simp, by simp, ?_, ?_⟩
  · rw [Dev.regN_log_other _ _ k1, Dev.regN_raise_other _ _ (regKey_same_page_ne hk2), Dev.regN_setReg_same]
  · rw [Dev.regN_log_other _ _ k2, Dev.regN_raise_other _ _ (regKey_same_page_ne hk), Dev.regN_setReg_other _ _ (regKey_same_page_ne hn), Dev.regN_bump_same]

/-- An array out of service. -/
theorem Dev.retire_effect (d : Dev) (a : Nat) (ha : a < d.arrays.length) : ((d.retire a).array a).outOfService = true ∧ ((d.retire a).array a).permit = false
    ∧ (d.retire a).SameMemory d := by
  unfold Dev.retire
  extract_lets d1 d2 d3 back d4
  have h3 : d3.array a = { d.array a with outOfService := true, permit := false, hoist := .lowered } := by
    rw [← (Dev.array_modArray d a (fun x => { x with outOfService := true, permit := false, hoist := .lowered }) ha).1]
    exact Dev.array_congr (by simp [d3, d2, d1]) a
  have m3 : d3.SameMemory d := ((Dev.log_effect _ _).1.trans ((SameView.raise _ _ _).trans (Dev.modArray_effect _ _ _).1)).same
  have hf : ∀ (l : List Cmd) (x : Dev), (l.foldl (fun d c => if c.live && c.started && tiledOp c.opcode && !c.onVector then back d c else d) x).arrays = x.arrays ∧
      (l.foldl (fun d c => if c.live && c.started && tiledOp c.opcode && !c.onVector then back d c else d) x).SameMemory x := by
    intro l
    induction l with
    | nil => intro x; exact ⟨rfl, rfl, rfl, rfl⟩
    | cons c r ih =>
      intro x
      rw [List.foldl_cons]
      refine ⟨(ih _).1.trans ?_, ?_⟩
      · split <;> rfl
      · have := (ih (if (c.live && c.started && tiledOp c.opcode && !c.onVector) = true then back x c else x)).2
        refine ⟨this.1.trans ?_, this.2.1.trans ?_, this.2.2.trans ?_⟩ <;> split <;> rfl
  have h4 : d4.array a = d3.array a := Dev.array_congr (hf _ _).1 a
  have m4 : d4.SameMemory d := ⟨(hf _ _).2.1.trans m3.1, (hf _ _).2.2.1.trans m3.2.1, (hf _ _).2.2.2.trans m3.2.2⟩
  split
  · rename_i p _
    have e1 : (d4.raise (pgPART p) 5).array a = d4.array a := Dev.array_congr (by simp) a
    have := (SameView.raise d4 (pgPART p) 5).same
    exact ⟨by rw [e1, h4, h3], by rw [e1, h4, h3], this.1.trans m4.1, this.2.1.trans m4.2.1, this.2.2.trans m4.2.2⟩
  · exact ⟨by rw [h4, h3], by rw [h4, h3], m4⟩

theorem Dev.scrubPos_effect (d : Dev) (n nx : Nat) (hl : n < d.cores.length) (e : Dev) (h : e = if nx = 0 then (d.modCore n (fun x => { x with scrubPos := nx
    })).bump (pgSPD n) 0x80C 1 else d.modCore n (fun x => { x with scrubPos := nx })) :
    (e.core n).scrubPos = nx ∧ (∀ m, m ≠ n → e.core m = d.core m) ∧ e.cmds = d.cmds ∧ e.tags = d.tags ∧ e.SameMemory d := by
  subst h
  have hcm : ∀ f, (d.modCore n f).core n = f (d.core n) := fun f => by unfold Dev.modCore Dev.core; simp [List.getD_eq_getElem?_getD, List.getElem?_set, hl]
  have hco : ∀ f m, m ≠ n → (d.modCore n f).core m = d.core m := fun f m h => by unfold Dev.modCore Dev.core; simp [List.getD_eq_getElem?_getD,
      List.getElem?_set, Ne.symm h]
  have bc : ∀ (d : Dev) a b c m, (d.bump a b c).core m = d.core m := fun _ _ _ _ _ => rfl
  split
  · refine ⟨by rw [bc, hcm], fun m h => by rw [bc, hco _ m h], rfl, rfl, rfl, rfl, rfl⟩
  · refine ⟨by rw [hcm], fun m h => hco _ m h, rfl, rfl, rfl, rfl, rfl⟩

/-- A scrub read without an error moves on. -/
theorem Dev.scrubRead_effect (d : Dev) (n : Nat) (hl : n < d.cores.length) :
    ((d.scrubRead n none).core n).scrubPos = ((d.core n).scrubPos + 1) % coreWords ∧ (∀ m, m ≠ n → (d.scrubRead n none).core m = d.core m) ∧
      (d.scrubRead n none).cmds = d.cmds ∧ (d.scrubRead n none).tags = d.tags ∧ (d.scrubRead n none).SameMemory d := by
  apply Dev.scrubPos_effect d n _ hl
  unfold Dev.scrubRead
  rfl

theorem spdLast_lt (k b r w : Nat) (hk : k ≤ 2) (hb : b < 32) (hr : r < 12288) (hw : w < 8) : k + b * 16 + r * 512 + w * 8388608 < 4294967296 := by omega

theorem spdLast_value (unc : Bool) (bank row word : Nat) (hb : bank < 32) (hw : row < 12288) :
    (BitVec.ofNat 32 ((if unc = true then 2 else 1) + 4 * b2n false + 8 * b2n false + bank % 32 * 16 + row % 16384 * 512 + word % 8 * 2 ^ 23)).toNat =
      (if unc = true then 2 else 1) + bank * 16 + row * 512 + word % 8 * 2 ^ 23 := by
  have h2 : row % 16384 = row := Nat.mod_eq_of_lt (Nat.lt_trans hw (by omega))
  have h1 : bank % 32 = bank := Nat.mod_eq_of_lt hb
  have h0 : 4 * b2n false = 0 := rfl
  have h3 : 8 * b2n false = 0 := rfl
  rw [BitVec.toNat_ofNat, h1, h2, h0, h3]
  simp only [Nat.add_zero]
  refine Nat.mod_eq_of_lt ?_
  have hk : (if unc = true then 2 else 1) ≤ 2 := by split <;> omega
  generalize (if unc = true then 2 else 1) = k at hk
  have := spdLast_lt k bank row (word % 8) hk hb hw (Nat.mod_lt _ (by omega))
  have e1 : (2 : Nat) ^ 23 = 8388608 := by decide
  have e2 : (2 : Nat) ^ 32 = 4294967296 := by decide
  rw [e1, e2]; exact this

/-- A scratchpad error without a reader. -/
theorem Dev.spdEccError_effect (d : Dev) (n bank row word : Nat) (unc : Bool) (hn : n < 64) (hb : bank < 32) (hw : row < 12288) :
    (d.spdEccError n bank row word unc none).regN (pgSPD n) 0x828 = (if unc then 2 else 1) + bank * 16 + row * 512 + word % 8 * 2 ^ 23 ∧ (d.spdEccError n bank row word unc none).cmds = d.cmds ∧ (d.spdEccError n bank row word unc none).SameMemory d := by
  unfold Dev.spdEccError
  simp only [Option.any_none, Bool.false_eq_true, if_false, Option.bind_none]
  unfold Dev.spdReader Dev.noteSpdError
  extract_lets k last d1
  have hne : pgSPD n ≠ pgMGT := by unfold pgSPD pgMGT; omega
  have hk : k = 1 ∨ k = 2 := by simp only [k]; cases unc <;> simp
  have hd := Dev.error_head d (pgSPD n) (0x800 + 4 * k) 0x828 (BitVec.ofNat 32 last) (k - 1) ((d1.naming none
  { cls := 1, severity := if !unc then 1 else 2, source := pgSPD n, part := (d1.ownerOf n).getD 0xFF,
    space := 2, addr := (row * 32 + bank) * 64 + word * 8, detail := toLe 4 last })) hne (by unfold outsideActive; omega) (by unfold outsideActive; decide) (by omega) (by unfold oIntStat; omega) (by decide)
  refine ⟨?_, hd.2.1, hd.1.same⟩
  refine hd.2.2.2.1.trans ?_
  exact spdLast_value unc bank row word hb hw

theorem arrLast_lt (k r c b : Nat) (hk : k ≤ 4) (hr : r < 1024) (hc : c < 1024) (hb : b ≤ 1) : k + 8 + r * 16 + c * 16384 + b * 2 ^ 24 < 2 ^ 32 := by omega

theorem vecLast_lt (k l r : Nat) (hk : k ≤ 2) (hl : l < 512) (hr : r < 32) : k + 4 * b2n false + l * 16 + r * 8192 < 2 ^ 32 := by
  have : 4 * b2n false = 0 := rfl
  rw [this]; omega

theorem arrayErrorCode_range (k : ArrayError) : arrayErrorCode k ≤ 4 ∧ 1 ≤ arrayErrorCode k := by cases k <;> decide

theorem arrayErrorCode_ne (k : ArrayError) (h : k ≠ .accCorrected) : arrayErrorCode k ≠ 3 := by cases k <;> first | decide | exact absurd rfl h

theorem arrayErrorCode_eq (k : ArrayError) (h : arrayErrorCode k = 3) : k = .accCorrected := by cases k <;> first | rfl | exact absurd h (by decide)

end Sys2Proof.Machine
end

