-- ==== Sys2Proof/Laws/Work.lean ====
section
/-! SUPPORT. Commands in flight: starting, tiles, commits, ends, kills. -/

namespace Sys2Proof.Machine

/-- Nothing to finish where nothing is claimed. -/
theorem Dev.finishClaims_none (d : Dev) (u : Nat) (c : Cmd) (h : d.cmd? u = some c) (hc : c.work.copies.all (fun x => !x.claimed) = true) : d.finishClaims u =
    d := by
  unfold Dev.finishClaims; rw [h]; dsimp only
  have : c.work.copies.filter (·.claimed) = [] := by
    rw [List.filter_eq_nil_iff]; intro x hx; have := List.all_eq_true.1 hc x hx; simpa using this
  rw [this]; rfl

theorem Dev.countKill_fold_cmd (l : List Copy) (d : Dev) (u : Nat) : (l.foldl (fun d x => d.countKill x.unit false) d).cmd? u = d.cmd? u := by
  induction l generalizing d with
  | nil => rfl
  | cons a l ih => rw [List.foldl_cons, ih]; unfold Dev.countKill; split <;> rfl

/-- A live command without claims ends. -/
theorem Dev.endCmd_ended (d : Dev) (u st det : Nat) (c : Cmd) (h : d.cmd? u = some c) (hl : c.live = true) (hc : c.work.copies.all (fun x => !x.claimed) =
    true) :
   (d.endCmd u st det).HasEnded u (c.endStatus st det) := by
  unfold Dev.endCmd
  rw [Dev.finishClaims_none d u c h hc]
  dsimp only
  rw [h]
  dsimp only
  rw [if_neg (by simp [hl])]
  have hu := Dev.cmd?_uid h
  have e := Dev.complete_hasEnded ((c.work.copies.foldl (fun d x => d.countKill x.unit false) d).setCmd { c with work := { c.work with copies := [], runs := [] } }) { c with work := { c.work with copies := [], runs := [] } } st det (by
    rw [Dev.setCmd_cmd]; rfl
    show ((c.work.copies.foldl (fun d x => d.countKill x.unit false) d).cmd? c.uid).isSome = true
    rw [Dev.countKill_fold_cmd, hu, h]; rfl)
  rw [← hu]; exact e

/-- A command without tiles that has what it waits for runs; its tags settle. -/
theorem Dev.runUntiled_form {d : Dev} {env u op c} (f : Dev → Cmd → Dev) (h : d.OnHand env u op c) : ∃ t, d.runUntiled op u env f = { f d c with tags := t }
    := by
  obtain ⟨h1, h2, h3, h4, -, h5, h6, h7, h8, h9⟩ := h
  unfold Dev.runUntiled
  rw [h1]; dsimp only
  rw [if_neg (by simp [h2, h3, h4, h5, h6, h7])]
  rw [h8, h9]; dsimp only
  split
  · exact Dev.settleTags_form _ _
  · exact ⟨_, rfl⟩

theorem Dev.HasEnded_tags {d : Dev} {t u e} (h : d.HasEnded u e) : ({ d with tags := t } : Dev).HasEnded u e := h

/-- A completed command has ended. -/
theorem Dev.complete_ended {d : Dev} {u : Nat} {c : Cmd} (st det : Nat) (c' : Cmd) (h : (d.cmd? c'.uid).isSome = true) (hu : c'.uid = u) (he : c'.endStatus st
    det = c.endStatus st det) : (d.complete c' st det).HasEnded u (c.endStatus st det) := by
  rw [← hu, ← he]; exact d.complete_hasEnded c' st det h

theorem Dev.cmd_isSome_of_cmds {d e : Dev} {u : Nat} {c : Cmd} (h : e.cmds = d.cmds) (hc : d.cmd? u = some c) : (e.cmd? c.uid).isSome = true := by
  rw [Dev.cmd?_uid hc]; unfold Dev.cmd? at *; rw [h, hc]; rfl

theorem Dev.complete_ended_memory (e e1 : Dev) {d : Dev} {c' : Cmd} (c : Cmd) (t) (u st det : Nat) (hu : c.uid = u) (hu' : c'.uid = u) (hc : d.cmd? u = some
    c) (hd : e.cmds = d.cmds) (hp : c'.pins = []) (ht : c'.kvTargets = [])
   (he : c'.endStatus st det = c.endStatus st det) (h1 : SameView e e1) :
   ({ e.complete c' st det with tags := t } : Dev).HasEnded u (c.endStatus st det) ∧ ({ e.complete c' st det with tags := t } : Dev).SameMemory e1 := by
  refine ⟨Dev.HasEnded_tags (Dev.complete_ended st det c' ?_ hu' he), ((SameView.tags _ t).trans ((SameView.complete0 _ _ _ _ hp ht).trans h1)).same⟩
  rw [hu', ← hu]; exact Dev.cmd_isSome_of_cmds hd hc

theorem Dev.complete_stream (d : Dev) (c : Cmd) (a b v : Nat) : (d.complete c a b).stream? v = d.stream? v := by
  obtain ⟨ps, cs, rs, x, y, z, r, w, q, h⟩ := d.complete_form c a b; rw [h]; rfl

theorem Dev.sendPli_cmds (d : Dev) (x) : (d.sendPli x).cmds = d.cmds := rfl

/-- A live decode completes OK or STALE. -/
theorem Dev.liveDecode_form (d : Dev) (c : Cmd) (x : Stream) : ∃ (f : Dev) (c' : Cmd) (st : Nat), (st = stOK ∨ st = stSTALE) ∧ f.cmds = d.cmds ∧ c'.uid =
    c.uid ∧ c'.endStatus st 0 = c.endStatus st 0 ∧ d.liveDecode c x = f.complete c' st 0 := by
  unfold Dev.liveDecode
  dsimp only
  refine ⟨_, _, _, ?_, ?_, ?_, ?_, rfl⟩
  · have : ∀ b : Bool, (if b = true then stSTALE else stOK) = stOK ∨ (if b = true then stSTALE else stOK) = stSTALE := by decide
    exact this _
  · have p0 : ∀ (b : Bool) (d : Dev) (y : Stream), (if b = true then d.sendPli y else d).cmds = d.cmds := fun b d y => by split <;> rfl
    have p1 : ∀ (b : Bool) (d : Dev) (pg o : Nat), (if b = true then d.bump pg o 1 else d).cmds = d.cmds := fun b d y _ => by split <;> rfl
    have p2 : ∀ (b : Bool) (d : Dev) (pg o i : Nat), (if b = true then (d.bump pg o 1).raise pg i else d).cmds = d.cmds := fun b d y _ _ => by
      split
      · rw [Dev.raise_cmds_eq]; rfl
      · rfl
    rw [p0, p1, p2]
    exact Dev.applyWrites_cmds _ _ _
  · rfl
  · rfl

theorem Dev.complete_ended_kept (e : Dev) {d : Dev} {c' : Cmd} (c : Cmd) (t) (u st det : Nat) (hu : c.uid = u) (hu' : c'.uid = u) (hc : d.cmd? u = some c) (hd
    : e.cmds = d.cmds)
   (hpin : c'.pins = c.pins) (hpart : c'.part = c.part) (hk : c'.kvTargets = c.kvTargets) (hpg : c'.pages = c.pages)
   (he : c'.endStatus st det = c.endStatus st det) :
   ({ e.complete c' st det with tags := t } : Dev).HasEnded u (c.endStatus st det) ∧ (c.pins ≠ [] → ({ e.complete c' st det with tags := t } : Dev).SameMemory (e.kvRelease c)) := by
  refine ⟨Dev.HasEnded_tags (Dev.complete_ended st det c' ?_ hu' he), fun hp => ?_⟩
  · rw [hu', ← hu]; exact Dev.cmd_isSome_of_cmds hd hc
  · have h := SameView.complete e c' st det
    rw [hpin, if_neg (by simp [hp]), SameView.release_pins e c' c hpart hpin hk hpg] at h
    exact ((SameView.tags _ t).trans h).same

/-- What a completion leaves. -/
theorem Dev.complete_rest (d : Dev) (c : Cmd) (a b : Nat) : (d.complete c a b).jobs = d.jobs ∧ (d.complete c a b).streams = d.streams ∧ (d.complete c a
    b).arrays = d.arrays ∧ (d.complete c a b).now = d.now := by
  obtain ⟨ps, cs, rs, x, y, z, r, w, q, h⟩ := d.complete_form c a b; rw [h]; exact ⟨rfl, rfl, rfl, rfl⟩

theorem Cmd.arrive_form (c : Cmd) (ps : List Contribution) : ∃ a, c.arrive ps = { c with arrived := a } := by
  unfold Cmd.arrive
  induction ps generalizing c with
  | nil => exact ⟨_, rfl⟩
  | cons p l ih =>
    rw [List.foldl_cons]
    dsimp only
    split
    · obtain ⟨a, h⟩ := ih { c with arrived := (p.rank, p.data) :: c.arrived.filter (fun x => x.1 != p.rank) }
      exact ⟨a, by rw [h]⟩
    · exact ih c

theorem Cmd.hears_keep (x : Cmd) (a b d) : (x.hears a b d).pins = x.pins ∧ (x.hears a b d).kvTargets = x.kvTargets ∧ (x.hears a b d).missed = x.missed := by
  unfold Cmd.hears; exact ⟨rfl, rfl, rfl⟩

theorem Dev.complete_cmd (d : Dev) (c : Cmd) (st det : Nat) (h : (d.cmd? c.uid).isSome = true) (hk : c.kvTargets = []) :
   ∃ x, (d.complete c st det).cmd? c.uid = some x ∧ x.pins = [] ∧ x.kvTargets = [] ∧ x.missed = c.missed := by
  obtain ⟨ps, x, y, z, r, hb⟩ := d.givesBack_form c (ranToEnd (c.endStatus st det).1 (c.endStatus st det).2)
  unfold Dev.complete
  dsimp only
  generalize hq : d.givesBack c (ranToEnd (c.endStatus st det).1 (c.endStatus st det).2) = q at hb
  have hc : (q.cmd? c.uid).isSome = true := by rw [hb]; exact h
  generalize c.endStatus st det = e
  unfold Dev.finish
  dsimp only
  obtain ⟨a, b, f, g, hs⟩ := (q.tellEnd (c.endedAs e.1 e.2 q.tick.count)).stopOnError_form (c.endedAs e.1 e.2 q.tick.count)
  rw [hs]
  refine ⟨_, q.tellEnd_cmd (c.endedAs e.1 e.2 q.tick.count) hc, ?_⟩
  obtain ⟨h1, h2,
      h3⟩ := Cmd.hears_keep (c.endedAs e.1 e.2 q.tick.count) (c.endedAs e.1 e.2 q.tick.count).uid (hasFailed (c.endedAs e.1 e.2 q.tick.count).status (c.endedAs e.1 e.2 q.tick.count).detail) (c.endedAs e.1 e.2 q.tick.count).id
  exact ⟨h1, h2.trans hk, h3⟩

theorem Dev.settle_fold (u : Nat) (m : Bool) (l : List Cmd) (hl : ∀ x ∈ l, x.uid = u) (hn : l ≠ []) (d : Dev) (x : Cmd) (hx : d.cmd? u = some x) (hp : x.pins
    = []) (ht : x.kvTargets = []) (hm : x.missed = m) :
   (l.foldl (fun d c => match d.cmd? c.uid with | some x => d.complete x stOK 0 | none => d) d).HasEnded u (if m then (stMISS, 1) else (stOK, 0)) ∧
   SameView (l.foldl (fun d c => match d.cmd? c.uid with | some x => d.complete x stOK 0 | none => d) d) d ∧
   (l.foldl (fun d c => match d.cmd? c.uid with | some x => d.complete x stOK 0 | none => d) d).jobs = d.jobs := by
  induction l generalizing d x with
  | nil => exact absurd rfl hn
  | cons a l ih =>
    rw [List.foldl_cons]
    have ha : a.uid = u := hl a (by simp)
    rw [ha, hx]; dsimp only
    have hu := Dev.cmd?_uid hx
    have h1 := SameView.complete0 d x stOK 0 hp ht
    have hj : (d.complete x stOK 0).jobs = d.jobs := (Dev.complete_rest d x stOK 0).1
    have he : (d.complete x stOK 0).HasEnded u (if m then (stMISS, 1) else (stOK, 0)) := by
      have := d.complete_hasEnded x stOK 0 (by rw [hu, hx]; rfl)
      rw [hu] at this
      have h2 : x.endStatus stOK 0 = (if m then (stMISS, 1) else (stOK, 0)) := by unfold Cmd.endStatus; rw [hm]; simp
      rwa [h2] at this
    obtain ⟨y, hy, y1, y2, y3⟩ := Dev.complete_cmd d x stOK 0 (by rw [hu, hx]; rfl) ht
    rw [hu] at hy
    by_cases hnil : l = []
    · subst hnil; exact ⟨he, h1, hj⟩
    · obtain ⟨i1, i2, i3⟩ := ih (fun x hx => hl x (by simp [hx])) hnil _ y hy y1 y2 (y3.trans hm)
      exact ⟨i1, i2.trans h1, i3.trans hj⟩

/-- A shipped command whose bytes are all acknowledged ends. -/
theorem Dev.settleSent_one (d : Dev) (u : Nat) (m : Bool) (ho : ∀ x ∈ d.cmds, x.uid ≠ u → x.shipped = false) (x : Cmd) (hx : d.cmd? u = some x) (hl : x.live =
    true) (hs : x.shipped = true) (hp : x.pins = []) (ht : x.kvTargets = []) (hm : x.missed = m) (htx : d.txFlows = []) :
   d.settleSent.HasEnded u (if m then (stMISS, 1) else (stOK, 0)) ∧ SameView d.settleSent d ∧ d.settleSent.jobs = d.jobs := by
  unfold Dev.settleSent
  rw [htx]
  dsimp only
  refine Dev.settle_fold u m _ ?_ ?_ d x hx hp ht hm
  · intro y hy
    by_cases h : y.uid = u
    · exact h
    · have h2 := List.mem_filter.1 hy
      have := ho y h2.1 h
      simp [this] at h2
  · intro hn
    have hmem : x ∈ d.cmds := List.mem_of_find?_eq_some hx
    have : x ∈ d.cmds.filter (fun c => c.live && c.shipped && !(([] : List TxFlow).flatMap (fun f => (f.unacked ++ f.waiting).map (·.uid))).contains c.uid) := by
      rw [List.mem_filter]; simp [hmem, hl, hs]
    rw [hn] at this; simp at this

/-- A command commits. -/
theorem Dev.commitCmd_ended (d : Dev) (u : Nat) (x : Cmd) (m : Bool) (hx : d.cmd? u = some x) (hm : x.missed = m) :
    (d.commitCmd x).HasEnded u (if m then (stMISS, 1) else (stOK,
        0)) ∧ (d.commitCmd x).now = d.now ∧ (x.pins = [] → x.kvTargets = [] → SameView (d.commitCmd x) d) := by
  unfold Dev.commitCmd
  dsimp only
  obtain ⟨t, ht⟩ := Dev.settleTags_form d x
  have h1 := Dev.countRandom_effect (d.settleTags x) x
  generalize hq : (if x.arrival = true then ((d.settleTags x).countRandom x).sticky x.part 3 true else (d.settleTags x).countRandom x) = q
  have h2 : SameView q ((d.settleTags x).countRandom x) ∧ q.cmds = ((d.settleTags x).countRandom x).cmds ∧ q.now = ((d.settleTags x).countRandom x).now := by
    rw [← hq]; split
    · exact Dev.sticky_effect _ _ _ _ (by decide)
    · exact ⟨SameView.refl _, rfl, rfl⟩
  have hu := Dev.cmd?_uid hx
  have hc : (q.cmd? x.uid).isSome = true := by
    rw [hu]; unfold Dev.cmd?; rw [h2.2.1, h1.2.1, ht]; unfold Dev.cmd? at hx; simp [hx]
  refine ⟨?_, ?_, fun hp hk => ?_⟩
  · have := q.complete_hasEnded x stOK 0 hc
    rw [hu] at this
    have h3 : x.endStatus stOK 0 = (if m then (stMISS, 1) else (stOK, 0)) := by unfold Cmd.endStatus; rw [hm]; simp
    rwa [h3] at this
  · rw [(Dev.complete_rest q x stOK 0).2.2.2, h2.2.2, h1.2.2, ht]
  · exact (SameView.complete0 q x stOK 0 hp hk).trans (h2.1.trans (h1.1.trans (by rw [ht]; exact SameView.tags _ _)))

theorem Dev.occupied_keep (d : Dev) (c : Cmd) (l) : (d.occupied c l).uid = c.uid ∧ (d.occupied c l).pins = c.pins ∧ (d.occupied c l).kvTargets = c.kvTargets ∧
    (d.occupied c l).missed = c.missed := by
  unfold Dev.occupied; dsimp only; split <;> exact ⟨rfl, rfl, rfl, rfl⟩

/-- What of a command the commit of a tile keeps. -/
structure CmdKept (x c : Cmd) : Prop where
  uid : x.uid = c.uid
  pins : x.pins = c.pins
  kv : x.kvTargets = c.kvTargets
  missed : x.missed = c.missed

theorem CmdKept.refl (x : Cmd) : CmdKept x x := ⟨rfl, rfl, rfl, rfl⟩

theorem CmdKept.trans {x y z : Cmd} (a : CmdKept x y) (b : CmdKept y z) : CmdKept x z := ⟨a.1.trans b.1, a.2.trans b.2, a.3.trans b.3, a.4.trans b.4⟩

theorem Dev.handSends_effect (d : Dev) (u : Nat) (c1 k : Cmd) (r : TileResult) (hu : d.cmd? u = some c1) :
    SameView (d.handSends k r) d ∧ (d.handSends k r).now = d.now ∧ ∃ y, (d.handSends k r).cmd? u = some y ∧ CmdKept y c1 := by
  unfold Dev.handSends
  split
  · exact ⟨SameView.refl _, rfl, c1, hu, CmdKept.refl _⟩
  · split
    · split
      · rename_i x hx
        refine ⟨⟨rfl, rfl, rfl, rfl, fun _ => rfl, fun _ => rfl, fun _ => rfl⟩, rfl, ?_⟩
        by_cases hxu : x.uid = u
        · refine ⟨_, Dev.cmd_setCmd_at d u c1 _ hu hxu, ?_⟩
          obtain ⟨v, hv, hv2⟩ := Option.bind_eq_some_iff.1 hx
          have hvx := Dev.cmd?_uid hv2
          have : x = c1 := by rw [← hvx, hxu, hu] at hv2; exact (Option.some.inj hv2).symm
          subst this; exact ⟨rfl, rfl, rfl, rfl⟩
        · exact ⟨c1, (Dev.setCmd_other d _ (by intro h; exact hxu h.symm)).trans hu, CmdKept.refl _⟩
      · exact ⟨SameView.refl _, rfl, c1, hu, CmdKept.refl _⟩
    · exact ⟨⟨rfl, rfl, rfl, rfl, fun _ => rfl, fun _ => rfl, fun _ => rfl⟩, rfl, c1, hu, CmdKept.refl _⟩

theorem Dev.overrunIf_effect (d : Dev) (u : Nat) (c1 : Cmd) (f : Cmd → Cmd) (hu : d.cmd? u = some c1) :
    SameView (d.overrunIf u f) d ∧ (d.overrunIf u f).now = d.now ∧ ∃ y, (d.overrunIf u f).cmd? u = some y ∧ CmdKept y c1 := by
  unfold Dev.overrunIf
  rw [hu]; dsimp only
  split
  · refine ⟨(SameView.raise _ _ _).trans ((SameView.bump _ _ _ _ (by unfold outsideActive; decide)).trans ⟨rfl, rfl, rfl, rfl, fun _ => rfl, fun _ => rfl,
        fun _ => rfl⟩), by simp, { c1 with throughput := true }, ?_, ⟨rfl, rfl, rfl, rfl⟩⟩
    unfold Dev.cmd?; rw [Dev.raise_cmds_eq]
    exact Dev.cmd_setCmd_at d u c1 { c1 with throughput := true } hu (show c1.uid = u from Dev.cmd?_uid hu)
  · exact ⟨SameView.refl _, rfl, c1, hu, CmdKept.refl _⟩

theorem Dev.makeDue_effect (d : Dev) (c : Cmd) (t : TileSpace) (id : TileId) (n : Nat) : SameView (d.makeDue c t id n).1 d ∧ (d.makeDue c t id n).1.cmds =
    d.cmds ∧ (d.makeDue c t id n).1.now = d.now := by
  unfold Dev.makeDue
  have r : SameView d d ∧ d.cmds = d.cmds ∧ d.now = d.now := ⟨SameView.refl _, rfl, rfl⟩
  dsimp only
  split
  · exact r
  · split
    · split <;> exact r
    · split
      · exact r
      · split
        · dsimp only
          split
          · exact ⟨SameView.bump _ _ _ _ (by unfold outsideActive; decide), rfl, rfl⟩
          · exact r
        · exact r

/-- The last tile ends its command. -/
theorem Dev.tileDone_last (d : Dev) (u : Nat) (id : TileId) (e : Engine) (r : TileResult) (fl : NumFlags) (c : Cmd) (hc : d.cmd? u = some c) (hcom :
    c.work.committed + 1 = c.work.total) :
    (d.tileDone u id e r fl).HasEnded u (if c.missed then (stMISS, 1) else (stOK,
        0)) ∧ (d.tileDone u id e r fl).now = d.now ∧ (c.pins = [] → c.kvTargets = [] → SameView (d.tileDone u id e r fl) d) := by
  unfold Dev.tileDone
  rw [hc]; dsimp only
  rw [if_pos (by exact hcom)]
  generalize hO : d.occupied _ _ = o
  have ho : CmdKept o c := by
    rw [← hO]; obtain ⟨a, b, x, y⟩ := Dev.occupied_keep d { c with work := _, flags := _, detail := _ } (d.spansWith c id e); exact ⟨a, b, x, y⟩
  generalize hP : d.modPart o.part _ = p
  have hp : SameView p d ∧ p.cmds = d.cmds ∧ p.now = d.now := by
    rw [← hP]; exact ⟨SameView.modPart _ _ _ rfl, rfl, rfl⟩
  have h1 := Dev.countCommit_effect p (d.opSpace c) id e
  have h2 := Dev.makeDue_effect (p.countCommit (d.opSpace c) id e) o (d.opSpace c) id e.core
  generalize (p.countCommit (d.opSpace c) id e).makeDue o (d.opSpace c) id e.core = md at h2 ⊢
  have hm : md.1.cmd? u = some c := by unfold Dev.cmd? at hc ⊢; rw [h2.2.1, h1.2.1, hp.2.1]; exact hc
  have hku : ({ o with work := md.2 } : Cmd).uid = u := ho.uid.trans (Dev.cmd?_uid hc)
  have h3 := Dev.cmd_setCmd_at md.1 u c _ hm hku
  obtain ⟨a1, a2, y, hy, ky⟩ := Dev.handSends_effect (md.1.setCmd { o with work := md.2 }) u _ { o with work := md.2 } r h3
  obtain ⟨b1, b2, z, hz, kz⟩ := Dev.overrunIf_effect _ u y (fun x => x) hy
  erw [hz]
  dsimp only [Option.elim]
  have ko : CmdKept ({ o with work := md.2 } : Cmd) o := ⟨rfl, rfl, rfl, rfl⟩
  have kk : CmdKept z c := kz.trans (ky.trans (ko.trans ho))
  obtain ⟨c1, c2, c3⟩ := Dev.commitCmd_ended _ u z c.missed hz kk.missed
  refine ⟨c1, ?_, fun hpn hkv => ?_⟩
  · rw [c2, b2, a2]; exact (h2.2.2.trans h1.2.2).trans hp.2.2
  · have hs : SameView (md.1.setCmd { o with work := md.2 }) md.1 := ⟨rfl, rfl, rfl, rfl, fun _ => rfl, fun _ => rfl, fun _ => rfl⟩
    exact (c3 (kk.pins.trans hpn) (kk.kv.trans hkv)).trans (b1.trans (a1.trans (hs.trans (h2.1.trans (h1.1.trans hp.1)))))

theorem Dev.taggedSlots_none (d : Dev) (c : Cmd) (l : List Nat) (h : ∀ j, (c.tensor j).tagged = false) : d.taggedSlots c l = [] := by
  unfold Dev.taggedSlots; simp [h]

/-- The last result commits its command. -/
theorem Dev.commitResult_last (d : Dev) (u : Nat) (id : TileId) (e : Engine) (r : TileResult) (c : Cmd) (hc : d.cmd? u = some c) (hcom : c.work.committed + 1
    = c.work.total)
   (ht : ∀ j, (c.tensor j).tagged = false) (hr : r.combines = []) :
    (d.commitResult u id e r).1.HasEnded u (if c.missed then (stMISS, 1) else (stOK, 0)) ∧ (d.commitResult u id e r).1.now = d.now ∧
    (c.pins = [] → c.kvTargets = [] → SameView (d.commitResult u id e r).1 (d.applyWrites c.part r.writes)) := by
  unfold Dev.commitResult
  rw [hc]; dsimp only
  have h1 : d.tagWrites c r.writes = [] := by
    unfold Dev.tagWrites; rw [Dev.taggedSlots_none _ _ _ ht]; rfl
  rw [h1, hr]
  rw [if_neg (by simp [Dev.writesOpen])]
  unfold Dev.combineAll
  dsimp only
  rw [if_neg (by simp)]
  dsimp only
  have hf : (d.applyWrites c.part r.writes).fillSlots [] = d.applyWrites c.part r.writes := rfl
  rw [hf]
  have hw := Dev.applyWrites_cmds d c.part r.writes
  have hn : (d.applyWrites c.part r.writes).now = d.now := by obtain ⟨x, y, z, h⟩ := d.applyWrites_form c.part r.writes; rw [h]
  generalize d.applyWrites c.part r.writes = f at hw hn ⊢
  have key : ∀ (b : Bool) (l : List (Nat × Nat)), ∃ t, (if b = true then l.foldl (fun d s => d.setTag s.1 s.2 {}) f else f) = { f with tags := t } := by
    intro b l; split
    · exact Dev.setTag_fold _ (fun _ => {}) f
    · exact ⟨_, rfl⟩
  generalize hq : @ite Dev (c.opcode = 1 && (f.opSpace c).splits > 0 && id.sub = (f.opSpace c).splits) _ _ f = q
  have hqq : ∃ t, q = { f with tags := t } := by rw [← hq]; exact key _ _
  obtain ⟨tg, hqq⟩ := hqq
  have hcq : q.cmd? u = some c := by
    rw [hqq]; unfold Dev.cmd? at hc ⊢; show f.cmds.find? _ = _; rw [hw]; exact hc
  obtain ⟨a1, a2, a3⟩ := Dev.tileDone_last q u id e r {} c hcq hcom
  refine ⟨a1, ?_, fun hp hk => ?_⟩
  · rw [a2, hqq]; exact hn
  · exact (a3 hp hk).trans (by rw [hqq]; exact SameView.tags _ _)

theorem Dev.loadProgram_effect (d : Dev) (c : Cmd) (e : Engine) : SameView (d.loadProgram c e) d ∧ (d.loadProgram c e).cmds = d.cmds ∧ (d.loadProgram c e).now
    = d.now ∧ (d.loadProgram c e).pci = d.pci ∧ ∀ page o, 0x440 ≤ o → o < 0x800 → (d.loadProgram c e).reg page o = d.reg page o := by
  have r : SameView d d ∧ d.cmds = d.cmds ∧ d.now = d.now ∧ d.pci = d.pci ∧ ∀ page o, 0x440 ≤ o → o < 0x800 → d.reg page o = d.reg page o := ⟨SameView.refl _, rfl, rfl, rfl, fun _ _ _ _ => rfl⟩
  unfold Dev.loadProgram
  cases e with
  | arr a => exact r
  | vec n =>
    dsimp only
    split
    · exact r
    · split
      · exact r
      · refine ⟨(SameView.bump _ _ _ _ (by unfold outsideActive; decide)).trans ⟨rfl, rfl, rfl, rfl, fun _ => rfl, fun _ => rfl, fun _ => rfl⟩, rfl, rfl,
            rfl, fun page o h h' => ?_⟩
        unfold Dev.bump
        rw [Dev.reg_setReg_other _ _ (regKey_off_ne (by omega) (by decide) (by omega))]; rfl

/-- The last tile runs and its command ends. -/
theorem Dev.runTile_last (d : Dev) (u : Nat) (env : Env) (id : TileId) (k : Cmd) (r : TileResult) (hk : d.cmd? u = some k) (hl : k.live = true) (hcl : k.work.cleatOf id = none) (hm : k.work.mayRun (d.opSpace k) id = true)
   (hr : r = d.opTile k id) (hwt : r.flags.waits = false) (hcb : r.combines = []) (hwf : d.writeFails env k r.writes = none) (ht : ∀ j, (k.tensor j).tagged = false) (hcom : k.work.committed + 1 = k.work.total) :
   (d.runTileNow u env 0 id).HasEnded u (if k.missed then (stMISS, 1) else (stOK, 0)) ∧ (d.runTileNow u env 0 id).now = d.now ∧
    (k.pins = [] → k.kvTargets = [] → SameView (d.runTileNow u env 0 id) (({ d with fresh := d.fresh + 1 } : Dev).applyWrites k.part r.writes)) := by
  unfold Dev.runTileNow
  rw [hk]; dsimp only
  rw [← hr]
  rw [if_neg (by simp [hl, hcl, hm, hwt])]
  generalize d.turnUnit k 0 = e
  have h1 := Dev.loadProgram_effect ({ d with fresh := d.fresh + 1 } : Dev) k e
  generalize hf : Dev.loadProgram _ k e = f
  rw [show ({ d with fresh := d.fresh + 1 } : Dev).loadProgram k e = f from hf] at h1
  have h2 : SameView (f.bump (pgCORE e.core) 0x804 1) f := SameView.bump _ _ _ _ (by unfold outsideActive; decide)
  have r2 : ∀ page o, 0x440 ≤ o → o < 0x800 → (f.bump (pgCORE e.core) 0x804 1).reg page o = f.reg page o := fun page o h h' => by
    unfold Dev.bump; rw [Dev.reg_setReg_other _ _ (regKey_off_ne (by omega) (by decide) (by omega))]
  have c2 : (f.bump (pgCORE e.core) 0x804 1).cmds = f.cmds ∧ (f.bump (pgCORE e.core) 0x804 1).now = f.now ∧ (f.bump (pgCORE e.core) 0x804 1).pci = f.pci := ⟨rfl, rfl, rfl⟩
  generalize f.bump (pgCORE e.core) 0x804 1 = g at h2 r2 c2 ⊢
  have tail : ∀ q : Dev, (SameView q g ∧ q.cmds = g.cmds ∧ q.now = g.now ∧ q.pci = g.pci ∧ ∀ page o, 0x440 ≤ o → o < 0x800 → q.reg page o = g.reg page o) →
      (match q.writeFails env k r.writes with
        | some (a, er) => q.loseHost u a er
        | none => (q.commitResult u id e r).1).HasEnded u (if k.missed then (stMISS, 1) else (stOK, 0)) ∧
      (match q.writeFails env k r.writes with
        | some (a, er) => q.loseHost u a er
        | none => (q.commitResult u id e r).1).now = d.now ∧
      (k.pins = [] → k.kvTargets = [] → SameView (match q.writeFails env k r.writes with
        | some (a, er) => q.loseHost u a er
        | none => (q.commitResult u id e r).1) (({ d with fresh := d.fresh + 1 } : Dev).applyWrites k.part r.writes)) := by
    intro q h3
    have hall : SameView q ({ d with fresh := d.fresh + 1 } : Dev) := h3.1.trans (h2.trans h1.1)
    have hwq : q.writeFails env k r.writes = none := by
      rw [Dev.writeFails_congr d q env k r.writes (by rw [h3.2.2.2.1, c2.2.2, h1.2.2.2.1]) (fun page o h h' => by rw [h3.2.2.2.2 _ _ h h', r2 _ _ h h', h1.2.2.2.2 _ _ h h']; rfl)]; exact hwf
    rw [hwq]; dsimp only
    have hq : q.cmd? u = some k := by unfold Dev.cmd? at hk ⊢; rw [h3.2.1, c2.1, h1.2.1]; exact hk
    obtain ⟨a1, a2, a3⟩ := Dev.commitResult_last q u id e r k hq hcom ht hcb
    refine ⟨a1, ?_, fun hp hk => (a3 hp hk).trans (hall.writes _ _)⟩
    rw [a2, h3.2.2.1, c2.2.1, h1.2.2.1]
  cases e with
  | arr a =>
    have hw := SameView.wide (g.bump (pgHAL (Engine.arr a).die) 0x804 1) (pgARR a) 0x820 ((g.opSpace k).cycles id) (by unfold outsideActive; decide) (by unfold outsideActive wideKey; decide)
    have hb := SameView.bump g (pgHAL (Engine.arr a).die) 0x804 1 (by unfold outsideActive; decide)
    refine tail _ ⟨hw.trans hb, rfl, rfl, rfl, fun page o h h' => ?_⟩
    unfold Dev.bumpWide Dev.setWide Dev.bump
    rw [Dev.reg_setReg_other _ _ (regKey_off_ne (by omega) (by decide) (by unfold wideKey; omega)), Dev.reg_setReg_other _ _ (regKey_off_ne (by omega) (by decide) (by omega)), Dev.reg_setReg_other _ _ (regKey_off_ne (by omega) (by decide) (by omega))]
  | vec n =>
    have hw := SameView.wide g (pgVEC n) 0x818 ((g.opSpace k).cycles id) (by unfold outsideActive; decide) (by unfold outsideActive wideKey; decide)
    refine tail _ ⟨hw, rfl, rfl, rfl, fun page o h h' => ?_⟩
    unfold Dev.bumpWide Dev.setWide
    rw [Dev.reg_setReg_other _ _ (regKey_off_ne (by omega) (by decide) (by unfold wideKey; omega)), Dev.reg_setReg_other _ _ (regKey_off_ne (by omega) (by decide) (by omega))]

theorem Dev.runWhole_last (d : Dev) (u : Nat) (env : Env) (c : Cmd) (id : TileId) (hc : d.cmd? u = some c) (hl : c.live = true) (hs : c.started = true) (hst :
    c.state ≠ .preempted) (hsv : d.serving c ≠ [])
    (hin : d.inputFails env c = none) (hleft : d.tilesLeft c = [id]) (hcop : c.work.copies = []) :
   ((d.beginWhole c).runTileNow u env 0 id).HasEnded u (if c.missed then (stMISS, 1) else (stOK,
       0)) → d.runWhole u env = (d.beginWhole c).runTileNow u env 0 id := by
  intro he
  unfold Dev.runWhole
  have hfc : d.finishClaims u = d := by unfold Dev.finishClaims; rw [hc]; dsimp only; rw [hcop]; rfl
  simp only [hc, hfc, ite_self]
  rw [if_neg (by
    have : (d.serving c).isEmpty = false := by cases h : d.serving c with
      | nil => exact absurd h hsv
      | cons a l => rfl
    simp [hl, hs, hst, this])]
  rw [hin, hleft]; dsimp only
  have : (List.range [id].length).foldl (fun d i => d.runTileNow u env i ([id].getD i {})) (d.beginWhole c) = (d.beginWhole c).runTileNow u env 0 id := rfl
  rw [this]
  obtain ⟨⟨x, hx, hxl, _⟩, _⟩ := he
  rw [hx]; dsimp only
  rw [if_pos (by simp [hxl])]

theorem Dev.skipBoxes_none (d : Dev) (l : List Cmd) (h : ∀ x ∈ l, ∀ c, d.cmd? x.uid = some c → (c.live && c.started && tiledOp c.opcode && !c.boxes.isEmpty) =
    false) :
    l.foldl (fun d c => d.skipBoxes c.uid) d = d := by
  induction l with
  | nil => rfl
  | cons x l ih =>
    have : d.skipBoxes x.uid = d := by
      unfold Dev.skipBoxes
      cases hx : d.cmd? x.uid with
      | none => rfl
      | some c => dsimp only; rw [if_neg (by rw [h x (by simp) c hx]; simp)]
    rw [List.foldl_cons, this]
    exact ih (fun y hy => h y (by simp [hy]))

theorem isControlOp_ne {op : Nat} (h : isControlOp op = true) : tiledOp op = false ∧ op ≠ 0x0C ∧ op ≠ 0x03 ∧ op ≠ 0x06 ∧ isArrayOp op = false := by
  unfold isControlOp at h; simp at h
  have : op = 0x10 ∨ op = 0x11 ∨ op = 0x12 ∨ op = 0x13 := by omega
  rcases this with rfl | rfl | rfl | rfl <;> decide

theorem Dev.opCheck_control (d : Dev) (c : Cmd) (b : Bytes) (h : isControlOp c.opcode = true) : d.opCheck c b = c.controlCheck := by
  unfold isControlOp at h; simp at h
  have : c.opcode = 0x10 ∨ c.opcode = 0x11 ∨ c.opcode = 0x12 ∨ c.opcode = 0x13 := by omega
  unfold Dev.opCheck
  rcases this with h | h | h | h <;> simp only [h]

theorem Cmd.controlCheck_io (c : Cmd) : c.controlCheck.inputs = [] ∧ c.controlCheck.outputs = [] ∧ c.controlCheck.work = none := by
  exact ⟨rfl, rfl, rfl⟩

theorem Dev.chargeTraffic_control (d : Dev) (c : Cmd) (h : isControlOp c.opcode = true) : ∃ f : Part → Part, ∃ n, d.chargeTraffic c = (d.modPart c.part f, { c
    with hbmBytes := n }) := by
  have h1 := Dev.opCheck_control d c c.image h
  have h2 := Cmd.controlCheck_io c
  have h3 := isControlOp_ne h
  unfold Dev.chargeTraffic
  rw [h1]
  dsimp only
  rw [h2.1, h2.2.1]
  rw [if_neg (by simp [h3.2.2.2.1])]
  exact ⟨_, _, rfl⟩

theorem Dev.openWork_control (d : Dev) (c : Cmd) (h : isControlOp c.opcode = true) : d.openWork c = d := by
  unfold Dev.openWork
  rw [Dev.opCheck_control _ _ _ h, (Cmd.controlCheck_io _).2.2]

/-- A control command starts. -/
theorem Dev.startOne_control (d : Dev) (u : Nat) (c : Cmd) (h : isControlOp c.opcode = true) :
    ∃ (d' : Dev) (x : Cmd), (d'.cmds = d.cmds) ∧ d.startOne [u] c = d'.setCmd x ∧ x.uid = c.uid ∧ x.started = true ∧ x.state = .running ∧ x.startAt = d.now ∧ x.raw = c.raw ∧ x.copy = d.copyNow ∧ x.opcode = c.opcode := by
  have h3 := isControlOp_ne h
  generalize hg : d.startOne [u] c = g
  unfold Dev.startOne at hg
  lift_lets at hg
  extract_lets k c1 d1 past d2 ca cb cc m cd de at hg
  have e0 : isControlOp c1.opcode = true := h
  have e1 : tiledOp c1.opcode = false := h3.1
  have e2 : c1.opcode ≠ 0x0C := h3.2.1
  have e3 : c1.opcode ≠ 0x03 := h3.2.2.1
  have hd2 : d2.cmds = d.cmds := rfl
  have hc1 : c1.uid = c.uid ∧ c1.started = true ∧ c1.state = .running ∧ c1.startAt = d.now ∧ c1.raw = c.raw ∧ c1.copy = d.copyNow ∧ c1.opcode = c.opcode := ⟨rfl, rfl, rfl, rfl, rfl, rfl, rfl⟩
  rw [if_neg (show ¬ (k.empty && !isControlOp c1.opcode) = true by rw [e0]; simp)] at hg
  have hb : cb = c1 := if_neg (by rw [e1]; simp)
  have hcc : cc = cb := if_neg (by rw [hb]; exact e2)
  obtain ⟨f, n, hf⟩ := Dev.chargeTraffic_control d2 c1 e0
  have hm : m = (d2.modPart c1.part f, { c1 with hbmBytes := n }) := by show d2.chargeTraffic cc = _; rw [hcc, hb, hf]
  have hcd : cd = { c1 with hbmBytes := n } := by show m.2 = _; rw [hm]
  have hde : de = (d2.modPart c1.part f).setCmd { c1 with hbmBytes := n } := by
    show (m.1.setCmd cd).openWork cd = _
    rw [hm, hcd]; dsimp only
    exact Dev.openWork_control _ _ e0
  have hcdo : cd.opcode = c1.opcode := by rw [hcd]; rfl
  rw [if_neg (by rw [hcdo]; exact e3)] at hg
  exact ⟨d2.modPart c1.part f, { c1 with hbmBytes := n }, hd2, hg.symm.trans hde, hc1⟩

theorem State.running_dev (s : State) (f : Dev → Dev) (d : Dev) : ({ s with dev := d } : State).running = s.running := rfl

/-- A started command runs under the copies it started with (R116). -/
theorem onDevice_withCopy (s : State) (u : Nat) (c : Cmd) (f : Dev → Dev) (hc : s.dev.cmd? u = some c) (hs : c.started = true) (hn : c.copy ≠ s.dev.copyNow)
   (hw : (s.dev.withCopy c.copy).copyNow = c.copy) (hr : s.running = true) :
   ∃ t, onDevice ({ s with dev := s.dev.withCopy c.copy } : State) (fun d => d.asStarted u f) = .next t ∧
     onDevice s (fun d => d.asStarted u f) = .next { t with dev := t.dev.withCopy s.dev.copyNow } := by
  refine ⟨_, rfl, ?_⟩
  unfold onDevice
  rw [State.onDev_running _ _ hr, State.onDev_running _ _ (show ({ s with dev := s.dev.withCopy c.copy } : State).running = true from hr)]
  dsimp only
  rw [Dev.asStarted_here (d := s.dev.withCopy c.copy) (c := c) f hc hw.symm]
  unfold Dev.asStarted
  rw [hc]; dsimp only
  rw [if_neg (by simp [hs, hn])]

/-- What another command hears of an end. -/
theorem Dev.complete_other (d : Dev) (c : Cmd) (st det v : Nat) (h : v ≠ c.uid) : ∃ b i, (d.complete c st det).cmd? v = (d.cmd? v).map (Cmd.hears c.uid b i)
    := by
  obtain ⟨ps, x, y, z, r, hb⟩ := d.givesBack_form c (ranToEnd (c.endStatus st det).1 (c.endStatus st det).2)
  unfold Dev.complete
  dsimp only
  generalize hq : d.givesBack c (ranToEnd (c.endStatus st det).1 (c.endStatus st det).2) = q at hb
  generalize c.endStatus st det = e
  unfold Dev.finish
  dsimp only
  obtain ⟨a, b, f, g, hs⟩ := (q.tellEnd (c.endedAs e.1 e.2 q.tick.count)).stopOnError_form (c.endedAs e.1 e.2 q.tick.count)
  rw [hs]
  refine ⟨hasFailed (c.endedAs e.1 e.2 q.tick.count).status (c.endedAs e.1 e.2 q.tick.count).detail, (c.endedAs e.1 e.2 q.tick.count).id, ?_⟩
  have hqc : q.cmds = d.cmds := by rw [hb]
  show ((q.cmds.map (fun (x : Cmd) => if x.uid = (c.endedAs e.1 e.2 q.tick.count).uid then c.endedAs e.1 e.2 q.tick.count else x)).map (Cmd.hears _ _ _)).find? (fun c => c.uid == v) = _
  rw [hqc]
  unfold Dev.cmd?
  induction d.cmds with
  | nil => rfl
  | cons k l ih =>
    simp only [List.map_cons, List.find?_cons]
    by_cases hk : k.uid = c.uid
    · have e1 : k.uid = (c.endedAs e.1 e.2 q.tick.count).uid := hk
      rw [if_pos e1]
      have : (Cmd.hears (c.endedAs e.1 e.2 q.tick.count).uid (hasFailed (c.endedAs e.1 e.2 q.tick.count).status (c.endedAs e.1 e.2 q.tick.count).detail) (c.endedAs e.1 e.2 q.tick.count).id (c.endedAs e.1 e.2 q.tick.count)).uid = c.uid := rfl
      rw [this, show (c.uid == v) = false by simpa using Ne.symm h, show (k.uid == v) = false by rw [hk]; simpa using Ne.symm h]
      exact ih
    · have e1 : ¬ k.uid = (c.endedAs e.1 e.2 q.tick.count).uid := hk
      rw [if_neg e1]
      have : (Cmd.hears (c.endedAs e.1 e.2 q.tick.count).uid (hasFailed (c.endedAs e.1 e.2 q.tick.count).status (c.endedAs e.1 e.2 q.tick.count).detail) (c.endedAs e.1 e.2 q.tick.count).id k).uid = k.uid := rfl
      rw [this]
      cases hv : k.uid == v
      · exact ih
      · rfl

theorem Cmd.fence_kind (c : Cmd) (h : c.opcode = 0x10 ∨ c.opcode = 0x11) : c.usesKv = false ∧ isControlOp c.opcode = true ∧ c.opcode ≠ 4 ∧ tiledOp c.opcode =
    false ∧ c.opcode ≠ 0x12 ∧ c.opcode ≠ 0x13 ∧ c.opcode ≠ 7 ∧ c.opcode ≠ 0x0E ∧ c.opcode ≠ 0x0B ∧ c.opcode ≠ 1 := by
  unfold Cmd.usesKv
  rcases h with h | h <;> rw [h] <;> simp [isControlOp, tiledOp]

theorem Dev.descriptorBad_plan {d : Dev} {c : Cmd} (h : d.descriptorBad c = none) (hc : isControlOp c.opcode = true) (hs : c.sessionValid = false) :
    c.planAddr = 0 := by
  unfold Dev.descriptorBad at h
  dsimp only at h
  rw [List.findSome?_eq_none_iff] at h
  have := h (24, if isControlOp c.opcode && !c.sessionValid then c.planAddr == 0 else addrValid c.planAddr && c.planAddr % 64 == 0) (by simp)
  rw [hc, hs] at this
  simpa using this

theorem Dev.verdict_control (d : Dev) (env) (p q : Nat) (b : Bytes) (c : Cmd) (hc : c = d.parseCmd p q b) (ho : c.opcode = 0x10 ∨ c.opcode = 0x11) (hs :
    c.sessionValid = false)
    (h1 : d.descriptorBad c = none) (h2 : d.modeDenied c = false) (h3 : d.firstFailure c c.controlCheck [] = none) (h4 : d.bitsUsed ≤ 2 ^ 30) :
    d.verdict env p q b (Dev.ctxChecks env) = .admitted d { c with work := { total := 0 } } := by
  obtain ⟨k1, k2, k3, k4, k5, k6, k7, k8, k9, k10⟩ := Cmd.fence_kind c ho
  unfold Dev.verdict
  dsimp only
  rw [← hc, h1]; dsimp only
  rw [if_neg (by simp [h2])]
  have e1 : d.sessionBad c none = none := by unfold Dev.sessionBad; rw [hs]; rfl
  have e2 : d.admitPlan env c = .ok (d, c) := by unfold Dev.admitPlan; rw [if_pos (by simp [k2, hs])]
  have e3 : d.admitTensors env c = .ok c := by unfold Dev.admitTensors; rw [if_pos k2]
  have e4 : d.admitImage env c = .ok c := by unfold Dev.admitImage; rw [if_pos k3]
  have e5 : d.admitSeq env c = .ok (c, []) := by
    unfold Dev.admitSeq
    have : c.seqTensor = none := by unfold Cmd.seqTensor; rcases ho with h | h <;> simp [h]
    rw [this]
  have e6 : d.ctxChecks env c = none := by unfold Dev.ctxChecks; rw [if_neg k5, if_neg k6]
  rw [e1]; dsimp only
  rw [e2]; dsimp only
  rw [e3]; dsimp only
  rw [e4]; dsimp only
  rw [if_neg (by simp [k1]), e5]; dsimp only
  rw [Dev.opCheck_control _ _ _ k2]
  have e8 : d.pageListOf c [] = [] := by unfold Dev.pageListOf; rw [k1]; rfl
  rw [e8, e6, h3]
  have e7 : (if c.controlCheck.formed.isNone && isControlOp c.opcode then (none : Option Refused) else none) = none := by split <;> rfl
  rw [e7]; dsimp only
  rw [if_neg (show ¬ (if (tiledOp c.opcode && !c.controlCheck.empty) = true then (d.opSpace c).count else 0) > 4194304 by rw [k4]; simp)]
  have : (if (tiledOp c.opcode && !c.controlCheck.empty) = true then (d.opSpace c).count else 0) = 0 := by rw [k4]; simp
  rw [this, if_neg (by simp [k1]; omega)]
  have e9 : d.admitKv c [] [] = some (d, c) := by unfold Dev.admitKv; rw [k1]; rfl
  rw [e9]; dsimp only
  have e10 : d.admitBase c c.controlCheck.empty = (d, c) := by
    unfold Dev.admitBase; rw [if_neg (by simp [k7]), if_neg k8]
  rw [e10]

/-- An admitted control command waits in its queue. -/
theorem Dev.enter_control (d : Dev) (c : Cmd) (hs : c.sessionValid = false) (hu : c.uid = d.nextUid) (hl : c.live = true) (hst : c.started = false)
   (hp : c.part < d.parts.length) (hq : c.queue < 16) (hq16 : (d.part c.part).queues.length = 16) (hun : ∀ x ∈ d.cmds, x.uid ≠ d.nextUid) :
   (d.enter c).nextUid = d.nextUid + 1 ∧ ((d.enter c).queue c.part c.queue).sqHead = ((d.queue c.part c.queue).sqHead + 1) % d.ringSize c.part c.queue ∧
   (∃ x, (d.enter c).cmd? d.nextUid = some x ∧ x.live = true ∧ x.started = false ∧ x.raw = c.raw ∧ x.part = c.part ∧ x.queue = c.queue) ∧
   (d.enter c).SameMemory d ∧ (∃ x n, (d.enter c).cmds = d.cmds.map n ++ [x] ∧ x.planAddr = c.planAddr ∧ x.tensors = c.tensors ∧ x.raw = c.raw ∧ (∀ y,
       (n y).uid = y.uid)) := by
  unfold Dev.enter
  extract_lets late c1 next d1 d2 d3
  have e : d3.sessionOf c1 = none := by unfold Dev.sessionOf; rw [show c1.sessionValid = false from hs]; rfl
  rw [e]; dsimp only
  have hp1 : c.part < d1.parts.length := by simpa [d1, Dev.modPart, Dev.setPart] using hp
  have hd1q : (d1.part c.part).queues = (d.part c.part).queues := by
    show ((d.modPart c.part _).part c.part).queues = _
    rw [Dev.part_modPart_same _ _ _ hp]
  have hq2 : c.queue < (d2.part c.part).queues.length := by
    show c.queue < (d1.part c.part).queues.length
    rw [hd1q, hq16]; exact hq
  have hn : ∀ y, (next y).uid = y.uid := fun y => by show (if _ then _ else _ : Cmd).uid = _; split <;> rfl
  have hf : d2.cmd? d.nextUid = some c1 := by
    show (d.cmds.map next ++ [c1]).find? _ = _
    refine find_append_last _ _ _ (fun y hy => ?_) (by simpa using hu)
    obtain ⟨z, hz, rfl⟩ := List.mem_map.1 hy
    rw [hn]; simpa using hun z hz
  refine ⟨rfl, ?_, ⟨c1, hf, hl, hst, rfl, rfl, rfl⟩, ⟨rfl, rfl, rfl⟩, c1, next, rfl, rfl, rfl, rfl, hn⟩
  show ((d2.modQueue c.part c.queue _).queue c.part c.queue).sqHead = _
  rw [Dev.queue_modQueue_same d2 _ _ _ hp1 hq2]
  have : d2.queue c.part c.queue = d.queue c.part c.queue := by
    show (d1.part c.part).queue c.queue = (d.part c.part).queue c.queue
    unfold Part.queue; rw [hd1q]
  dsimp only
  rw [this]; rfl

/-- A refused command has ended. -/
theorem Dev.refuse_ended (d : Dev) (c : Cmd) (st det : Nat) (hu : c.uid = d.nextUid) (hun : ∀ x ∈ d.cmds, x.uid ≠ d.nextUid) :
   (d.refuse c (.inl (st, det))).HasEnded d.nextUid (st, det) ∧ (∃ e g, (d.refuse c (.inl (st,
       det))).cmds = d.cmds.map g ++ [e] ∧ e.live = false ∧ ∀ y ∈ d.cmds, (g y).uid = y.uid) := by
  unfold Dev.refuse
  extract_lets d1 d2
  have h1 : d2.cmds = d.cmds ++ [c] := rfl
  unfold Dev.finish
  dsimp only
  obtain ⟨a, b, f, g, hs⟩ := (d2.tellEnd (c.endedAs st det d2.tick.count)).stopOnError_form (c.endedAs st det d2.tick.count)
  rw [hs]
  have hsome : (d2.cmd? (c.endedAs st det d2.tick.count).uid).isSome = true := by
    unfold Dev.cmd?; rw [h1]
    rw [find_append_last _ d.cmds c (fun y hy => by
      have := hun y hy
      show (y.uid == c.uid) = false
      rw [hu]; simpa using this) (by show (c.uid == c.uid) = true; simp)]; rfl
  refine ⟨⟨⟨_, by rw [← hu]; exact d2.tellEnd_cmd (c.endedAs st det d2.tick.count) hsome, rfl, rfl, rfl⟩, ⟨c.part, c.queue, c.uid,
      (c.endedAs st det d2.tick.count).record, (c.endedAs st det d2.tick.count).irq⟩, ?_, hu⟩, ?_⟩
  · show _ ∈ (d2.tellEnd (c.endedAs st det d2.tick.count)).records
    rw [d2.tellEnd_records]
    exact List.mem_append_right _ (List.mem_singleton.mpr rfl)
  · let e := c.endedAs st det d2.tick.count
    let hh := Cmd.hears e.uid (hasFailed e.status e.detail) e.id
    refine ⟨hh e, fun y => hh y, ?_, rfl, fun y hy => rfl⟩
    show (d2.cmds.map (fun (x : Cmd) => if x.uid = e.uid then e else x)).map hh = _
    rw [h1]
    simp only [List.map_append, List.map_map, List.map_cons, List.map_nil]
    congr 1
    · apply List.map_congr_left
      intro y hy
      have : ¬ y.uid = e.uid := by show ¬ y.uid = c.uid; rw [hu]; exact hun y hy
      simp [this]
    · have : c.uid = e.uid := rfl
      simp [this]

/-- What killing copies of one command changes. -/
structure KillFrame (u : Nat) (c : Cmd) (d e : Dev) : Prop where
  form : ∃ cs rg, e = { d with cmds := cs, regs := rg }
  mv : SameView e d
  other : ∀ v, v ≠ u → e.cmd? v = d.cmd? v
  own : ∃ y, e.cmd? u = some y ∧ y.raw = c.raw ∧ ∀ z ∈ y.work.copies, z ∈ c.work.copies
  regs : ∀ pg o, o < 4096 → o ≠ 0x808 → o ≠ 0x80C → e.reg pg o = d.reg pg o

theorem Dev.reopen_keeps (d : Dev) (c : Cmd) (id : TileId) : (d.reopen c id).uid = c.uid ∧ (d.reopen c id).raw = c.raw ∧ (d.reopen c id).work.copies =
    c.work.copies ∧ (d.reopen c id).live = c.live := by
  unfold Dev.reopen
  dsimp only
  (repeat' split) <;> exact ⟨rfl, rfl, rfl, rfl⟩

theorem Work.unreserve_copies (w : Work) (x : Copy) : (w.unreserve x).copies = w.copies := by
  unfold Work.unreserve; (repeat' split) <;> rfl

/-- A copy is killed. -/
theorem Dev.killCopy_frame (d : Dev) (u : Nat) (x : Copy) (b : Bool) (c : Cmd) (h : d.cmd? u = some c) : KillFrame u c d (d.killCopy u x b) := by
  unfold Dev.killCopy
  split
  · rename_i h'; rw [h] at h'; cases h'
  rename_i c' h'
  rw [h] at h'; cases h'
  extract_lets src w c1 c2
  have hr := Dev.reopen_keeps d c1 x.tile
  have hcu := Dev.cmd?_uid h
  have hu : c2.uid = u := hr.1.trans hcu
  have hck : ∀ (e : Dev), ∃ rg, e.countKill x.unit b = { e with regs := rg } := fun e => by
    unfold Dev.countKill; split <;> exact ⟨_, rfl⟩
  have hmv : ∀ (e : Dev), SameView (e.countKill x.unit b) e := fun e => by
    unfold Dev.countKill; split
    · exact SameView.bump _ _ _ _ (by unfold outsideActive; split <;> omega)
    · exact SameView.refl _
  have hrg : ∀ (e : Dev) pg o, o < 4096 → o ≠ 0x808 → o ≠ 0x80C → (e.countKill x.unit b).reg pg o = e.reg pg o := fun e pg o h1 h2 h3 => by
    unfold Dev.countKill; split
    · exact Dev.reg_bump_other _ _ (regKey_off_ne h1 (by split <;> omega) (by split <;> omega))
    · rfl
  obtain ⟨rg, hrgs⟩ := hck (d.setCmd c2)
  have hcm : ∀ v, ((d.setCmd c2).countKill x.unit b).cmd? v = (d.setCmd c2).cmd? v := fun v => by rw [hrgs]; rfl
  refine ⟨⟨_, rg, hrgs⟩, (hmv _).trans ⟨rfl, rfl, rfl, rfl, fun _ => rfl, fun _ => rfl, fun _ => rfl⟩, fun v hv => ?_, ⟨c2, ?_, hr.2.1, ?_⟩,
      fun pg o h1 h2 h3 => hrg _ pg o h1 h2 h3⟩
  · rw [hcm, Dev.setCmd_other _ _ (by rw [hu]; exact hv)]
  · rw [hcm, ← hu]; exact Dev.cmd_setCmd_some d c2 c (by rw [hu]; exact h)
  · intro z hz
    rw [show c2.work.copies = c1.work.copies from hr.2.2.1, show c1.work.copies = w.copies from Work.unreserve_copies w x] at hz
    exact (List.mem_filter.1 hz).1

theorem KillFrame.trans {u : Nat} {c c' : Cmd} {d e f : Dev} (h : KillFrame u c d e) (k : KillFrame u c' e f) (hc : e.cmd? u = some c') : KillFrame u c d f :=
    by
  obtain ⟨⟨a, b, ha⟩, m1, o1, ⟨y, y1, y2, y3⟩, r1⟩ := h
  obtain ⟨⟨a', b', hb⟩, m2, o2, ⟨z, z1, z2, z3⟩, r2⟩ := k
  rw [y1] at hc; cases hc
  exact ⟨⟨a', b', by rw [hb, ha]⟩, m2.trans m1, fun v hv => (o2 v hv).trans (o1 v hv), ⟨z, z1, z2.trans y2, fun w hw => y3 w (z3 w hw)⟩,
      fun pg o h1 h2 h3 => (r2 pg o h1 h2 h3).trans (r1 pg o h1 h2 h3)⟩

theorem KillFrame.refl (u : Nat) (c : Cmd) (d : Dev) (h : d.cmd? u = some c) : KillFrame u c d d := ⟨⟨_, _, rfl⟩, SameView.refl _, fun _ _ => rfl, ⟨c, h, rfl,
    fun _ h => h⟩, fun _ _ _ _ _ => rfl⟩

theorem Dev.killCopies_frame (u : Nat) (l : List Copy) (b : Bool) (d : Dev) (c : Cmd) (h : d.cmd? u = some c) : KillFrame u c d (l.foldl (fun d x =>
    d.killCopy u x b) d) := by
  induction l generalizing d c with
  | nil => exact KillFrame.refl u c d h
  | cons x l ih =>
    have k := Dev.killCopy_frame d u x b c h
    obtain ⟨y, hy, -⟩ := k.own
    exact k.trans (ih _ y hy) hy

theorem Dev.reload_none (d : Dev) (p : Nat) (h : ∀ x ∈ d.saved, x.part ≠ p) : ∃ f : Part → Part, d.reload p = { d with saved := d.saved.filter (fun x =>
    x.part != p) }.modPart p f ∧ (∀ x, (f x).regions = x.regions) := by
  have e : d.saved.filter (fun s => s.part == p) = [] := by
    rw [List.filter_eq_nil_iff]; intro x hx; simpa using h x hx
  unfold Dev.reload
  dsimp only
  rw [e]
  exact ⟨_, rfl, fun _ => rfl⟩

theorem Dev.loadProgram_form (d : Dev) (c : Cmd) (e : Engine) : ∃ f r, d.loadProgram c e = { d with engines := f, regs := r } := by
  unfold Dev.loadProgram
  split
  · exact ⟨_, _, rfl⟩
  · split
    · exact ⟨_, _, rfl⟩
    · dsimp only
      split
      · exact ⟨_, _, rfl⟩
      · exact ⟨_, _, rfl⟩

theorem Work.cleatOf_setCleat (w : Work) (id : TileId) (v : Cleat) : (w.setCleat id v).cleatOf id = some v := by
  simp [Work.setCleat, Work.cleatOf]

theorem Dev.occupied_work (d : Dev) (c : Cmd) (l) : (d.occupied c l).work = c.work ∧ (d.occupied c l).uid = c.uid ∧ (d.occupied c l).raw = c.raw := by
  unfold Dev.occupied; dsimp only; split <;> exact ⟨rfl, rfl, rfl⟩

theorem Dev.makeDue_work (d : Dev) (c : Cmd) (t : TileSpace) (id : TileId) (n : Nat) : (d.makeDue c t id n).2.cleat = c.work.cleat ∧
    (d.makeDue c t id n).2.copies = c.work.copies ∧ (d.makeDue c t id n).2.committed = c.work.committed := by
  unfold Dev.makeDue; dsimp only
  (repeat' split) <;> exact ⟨rfl, rfl, rfl⟩

theorem Dev.overrunIf_work (d : Dev) (u : Nat) (c1 : Cmd) (f : Cmd → Cmd) (hu : d.cmd? u = some c1) :
    ∃ y, (d.overrunIf u f).cmd? u = some y ∧ y.work = c1.work := by
  unfold Dev.overrunIf
  rw [hu]; dsimp only
  split
  · refine ⟨{ c1 with throughput := true }, ?_, rfl⟩
    unfold Dev.cmd?; rw [Dev.raise_cmds_eq]
    exact Dev.cmd_setCmd_at d u c1 { c1 with throughput := true } hu (show c1.uid = u from Dev.cmd?_uid hu)
  · exact ⟨c1, hu, rfl⟩

/-- A tile that is not the last commits. -/
theorem Dev.tileDone_not_last (d : Dev) (u : Nat) (id : TileId) (e : Engine) (r : TileResult) (fl : NumFlags) (c : Cmd) (hc : d.cmd? u = some c) (hcom :
    c.work.committed + 1 ≠ c.work.total)
    (hs : r.sends = []) : SameView (d.tileDone u id e r fl) d ∧ ∃ k, (d.tileDone u id e r fl).cmd? u = some k ∧ k.work.cleatOf id = some .committed ∧ k.work.committed = c.work.committed + 1 ∧
      ∀ y ∈ k.work.copies, y.tile ≠ id := by
  unfold Dev.tileDone
  rw [hc]; dsimp only
  rw [if_neg (by exact hcom)]
  generalize hO : d.occupied _ _ = o
  have how : o.uid = c.uid ∧ o.work.cleat = (c.work.setCleat id .committed).cleat ∧ o.work.committed = c.work.committed + 1 ∧
      o.work.copies = c.work.copies.filter (fun x => !(x.tile == id)) := by
    rw [← hO]; obtain ⟨a, b, _⟩ := Dev.occupied_work d { c with work := _, flags := _, detail := _ } (d.spansWith c id e); rw [a, b]; exact ⟨rfl, rfl, rfl,
        rfl⟩
  generalize hP : d.modPart o.part _ = p
  have hp : SameView p d ∧ p.cmds = d.cmds ∧ p.now = d.now := by
    rw [← hP]; exact ⟨SameView.modPart _ _ _ rfl, rfl, rfl⟩
  have h1 := Dev.countCommit_effect p (d.opSpace c) id e
  have h2 := Dev.makeDue_effect (p.countCommit (d.opSpace c) id e) o (d.opSpace c) id e.core
  have h2w := Dev.makeDue_work (p.countCommit (d.opSpace c) id e) o (d.opSpace c) id e.core
  generalize (p.countCommit (d.opSpace c) id e).makeDue o (d.opSpace c) id e.core = md at h2 h2w ⊢
  have hm : md.1.cmd? u = some c := by unfold Dev.cmd? at hc ⊢; rw [h2.2.1, h1.2.1, hp.2.1]; exact hc
  have hku : ({ o with work := md.2 } : Cmd).uid = u := how.1.trans (Dev.cmd?_uid hc)
  have h3 := Dev.cmd_setCmd_at md.1 u c _ hm hku
  have hsn : (md.1.setCmd { o with work := md.2 }).handSends { o with work := md.2 } r = md.1.setCmd { o with work := md.2 } := by
    unfold Dev.handSends; rw [if_pos (by rw [hs]; rfl)]
  rw [hsn]
  obtain ⟨b1, _, _⟩ := Dev.overrunIf_effect _ u _ (fun x => x) h3
  obtain ⟨z, hz, kz⟩ := Dev.overrunIf_work _ u _ (fun x => x) h3
  have hs : SameView (md.1.setCmd { o with work := md.2 }) md.1 := ⟨rfl, rfl, rfl, rfl, fun _ => rfl, fun _ => rfl, fun _ => rfl⟩
  refine ⟨b1.trans (hs.trans (h2.1.trans (h1.1.trans hp.1))), z, hz, ?_, ?_, ?_⟩
  · rw [kz]; unfold Work.cleatOf; rw [h2w.1, how.2.1]; exact Work.cleatOf_setCleat c.work id .committed
  · rw [kz]; exact h2w.2.2.trans how.2.2.1
  · intro y hy; rw [kz] at hy; have : y ∈ o.work.copies := by rw [← h2w.2.1]; exact hy
    rw [how.2.2.2] at this; simpa using (List.mem_filter.1 this).2

theorem Dev.commitResult_not_last (d : Dev) (u : Nat) (id : TileId) (e : Engine) (r : TileResult) (c : Cmd) (hc : d.cmd? u = some c) (hcom : c.work.committed
    + 1 ≠ c.work.total)
   (ht : ∀ j, (c.tensor j).tagged = false) (hr : r.combines = []) (hs : r.sends = []) :
    SameView (d.commitResult u id e r).1 (d.applyWrites c.part r.writes) ∧ ∃ k, (d.commitResult u id e r).1.cmd? u = some k ∧ k.work.cleatOf id = some .committed ∧
      k.work.committed = c.work.committed + 1 ∧ ∀ y ∈ k.work.copies, y.tile ≠ id := by
  unfold Dev.commitResult
  rw [hc]; dsimp only
  have h1 : d.tagWrites c r.writes = [] := by
    unfold Dev.tagWrites; rw [Dev.taggedSlots_none _ _ _ ht]; rfl
  rw [h1, hr]
  rw [if_neg (by simp [Dev.writesOpen])]
  unfold Dev.combineAll
  dsimp only
  rw [if_neg (by simp)]
  dsimp only
  have hf : (d.applyWrites c.part r.writes).fillSlots [] = d.applyWrites c.part r.writes := rfl
  rw [hf]
  have hw := Dev.applyWrites_cmds d c.part r.writes
  generalize d.applyWrites c.part r.writes = f at hw ⊢
  have key : ∀ (b : Bool) (l : List (Nat × Nat)), ∃ t, (if b = true then l.foldl (fun d s => d.setTag s.1 s.2 {}) f else f) = { f with tags := t } := by
    intro b l; split
    · exact Dev.setTag_fold _ (fun _ => {}) f
    · exact ⟨_, rfl⟩
  generalize hq : @ite Dev (c.opcode = 1 && (f.opSpace c).splits > 0 && id.sub = (f.opSpace c).splits) _ _ f = q
  have hqq : ∃ t, q = { f with tags := t } := by rw [← hq]; exact key _ _
  obtain ⟨tg, hqq⟩ := hqq
  have hcq : q.cmd? u = some c := by
    rw [hqq]; unfold Dev.cmd? at hc ⊢; show f.cmds.find? _ = _; rw [hw]; exact hc
  obtain ⟨a1, a2⟩ := Dev.tileDone_not_last q u id e r {} c hcq hcom hs
  refine ⟨a1.trans ?_, a2⟩
  rw [hqq]; exact SameView.tags f tg

theorem Dev.asHolder_here (d : Dev) (l : List (Nat × Copy)) (u : Nat) (x : Copy) (c : Cmd) (f : Dev → Dev) (h : l.head? = some (u, x)) (hc : d.cmd? u = some
    c)
    (hk : c.copy = d.copyNow) : d.asHolder l f = f d := by
  unfold Dev.asHolder; rw [h]; dsimp only; unfold Dev.asStarted; rw [hc]; dsimp only; rw [if_pos (by simp [hk])]

/-- What a unit holds runs on it. -/
theorem Dev.holding_unit (d : Dev) (e : Engine) (u : Nat) (x : Copy) (h : (d.holding e).head? = some (u, x)) : x.unit = e := by
  have hm : (u, x) ∈ d.holding e := List.mem_of_head? h
  unfold Dev.holding at hm
  dsimp only at hm
  rw [List.mem_mergeSort] at hm
  obtain ⟨c, _, hm⟩ := List.mem_flatMap.1 hm
  obtain ⟨y, hy, e2⟩ := List.mem_map.1 hm
  cases e2
  have := (List.mem_filter.1 hy).2
  simp at this; exact this.1

theorem Dev.streamed_effect (d : Dev) (c : Cmd) (x : Copy) (due : Nat) : (d.streamed' c x due).cmds = d.cmds ∧ (d.streamed' c x due).now = max d.now due ∧
    (d.streamed' c x due).SameMemory d ∧ ∀ die, (d.streamed' c x due).regN (pgHAL die) 0x81C = d.regN (pgHAL die) 0x81C := by
  unfold Dev.streamed'
  dsimp only
  split
  · exact ⟨rfl, rfl, ⟨rfl, rfl, rfl⟩,
        fun die => Dev.regN_bumpWide_other _ _ (regKey_off_ne (by decide) (by decide) (by decide)) (regKey_off_ne (by decide) (by decide) (by decide))⟩
  · exact ⟨rfl, rfl, ⟨rfl, rfl, rfl⟩,
        fun die => Dev.regN_bumpWide_other _ _ (regKey_off_ne (by decide) (by decide) (by decide)) (regKey_off_ne (by decide) (by decide) (by decide))⟩

theorem Work.unreserve_cleat (w : Work) (x : Copy) : (w.unreserve x).cleat = w.cleat := by
  unfold Work.unreserve; (repeat' split) <;> rfl

/-- A duplicate is dropped. -/
theorem Dev.dropDup_effect (d : Dev) (u : Nat) (x : Copy) (c : Cmd) (h : d.cmd? u = some c) : (∃ k, (d.dropDup u x).cmd? u = some k ∧ x ∉ k.work.copies ∧
    k.work.cleat = c.work.cleat) ∧ (d.dropDup u x).regN (pgHAL x.unit.die) 0x81C = min (d.regN (pgHAL x.unit.die) 0x81C + 1) (2 ^ 32 - 1) ∧
    (d.dropDup u x).SameMemory d := by
  unfold Dev.dropDup
  rw [h]; dsimp only
  have hr := (RegsSent.trans (RegsSent.bump (d.setCmd { c with work := ({ c.work with copies := c.work.copies.filter (· != x) } : Work).unreserve x }) (pgHAL x.unit.die) 0x81C 1) (RegsSent.raise _ (pgHAL x.unit.die) 1)).same
  refine ⟨⟨{ c with work := ({ c.work with copies := c.work.copies.filter (· != x) } : Work).unreserve x }, ?_, ?_, ?_⟩, ?_, ?_⟩
  · unfold Dev.cmd?; rw [hr.2]; exact Dev.cmd_setCmd_at d u c _ h (by have := Dev.cmd?_uid h; exact this)
  · dsimp only; rw [Work.unreserve_copies]; simp
  · dsimp only; rw [Work.unreserve_cleat]
  · rw [Dev.regN_raise_other _ _ (regKey_off_ne (by decide) (by decide) (by decide)), Dev.regN_bump_same]; rfl
  · exact hr.1

end Sys2Proof.Machine
end

