-- ==== Sys2Proof/Tests/Slice0.lean ====
section
/-! SUPPORT. Tests: ill-formed commands of each kind, the manual's own examples, single steps, and for every statement states and operands that meet its hypotheses. -/

open Sys2Proof Sys2Proof.Machine

namespace Sys2Proof.Tests

set_option Elab.async false

/-- A running module with every ready flag set and Masthead started. -/
def up : State := { State.reset with boot := { Boot.reset with flags := 63 }, mgmt := { started := true } }

/-- The device proper right after reset, with some registers (page, offset, value); an active copy lies 0x400 above its register. -/
def devWith (l : List (Nat × Nat × Nat)) : Dev :=
  l.foldl (fun d x => d.setReg x.1 x.2.1 (BitVec.ofNat 32 x.2.2)) Dev.reset

/-- The running module with some state of the device proper. -/
def upWith (d : Dev) : State := { up with dev := d }

/-- The next state of a command, or the reset state where it stops. -/
def after (i : Instr) (s : State) : State :=
  match exec i s with
  | .next t => t
  | _ => State.reset

/-- A command of the partition 0 and queue 0 whose descriptor holds some bytes at some offsets. -/
def cmdOf (l : List (Nat × Bytes)) : Cmd :=
  { uid := 1, raw := l.foldl (fun b x => putAt b x.1 x.2) (List.replicate 128 0), started := true, state := .running }

/-! ### The statements' hypotheses are met -/

theorem witness_StepRunsTheFrontCommand : ({ up with pending := [.doeAbort] } : State).pending = .doeAbort :: [] := rfl

theorem witness_StepIdles : up.pending = [] ∧ up.running = true ∧
    ({ up with power := { held := true } } : State).pending = [] ∧ ({ up with power := { held := true } } : State).running = false := by decide +kernel

theorem witness_WellFormedCommandsAnswer : (Instr.tack 63).wellFormed = true ∧ (Instr.tack 64).wellFormed = false := by decide +kernel

theorem witness_CommandFrames : exec (.fence 1) up = .next up ∧ (Instr.fence 1).reachesBeyond = false := ⟨rfl, rfl⟩

theorem witness_StepsKeepRollbackCounters : step up = .next { up with dev := { up.dev with now := 1 } } := rfl

theorem witness_StepsKeepReadyFlags :
    up.pending.head?.all (fun i => !i.resets) = true ∧ step up = .next { up with dev := { up.dev with now := 1 } } := ⟨rfl, rfl⟩

theorem witness_StepsKeepTheBootInvariant : up.measuresZero 7 ∧ up.ctrlFirst ∧ up.waterOk ∧ up.heldWithoutPower ∧
    step up = .next { up with dev := { up.dev with now := 1 } } :=
  ⟨rfl, fun _ _ => rfl, ⟨rfl, by decide⟩, fun h => Bool.noConfusion h, rfl⟩

theorem witness_ShutdownsLoseVolatileState : up.power.good = true ∧
    Instr.modPwrEnDeassert.cutsPower = some 3 ∧ (Instr.underVoltage 46999).cutsPower = some 1 ∧ (Instr.overVoltage 61001).cutsPower = some 2 ∧
    (Instr.overCurrent 95001).cutsPower = some 4 ∧ (Instr.railFault 3 7).cutsPower = some 4 ∧ (Instr.railFault 3 7).wellFormed = true ∧
    (Instr.thermalTrip 3 15).cutsPower = some 4 ∧ (Instr.thermalTrip 3 15).wellFormed = true := by decide +kernel

theorem witness_ReadingsWithinLimitsKeepPower : 47000 ≤ 47000 ∧ 61000 ≤ 61000 ∧ 95000 ≤ 95000 := by decide

/-- A module that has lost its loads, with a restart condition. -/
def down (n : Nat) (enable ready delayed : Bool) : State :=
  { State.reset with power := { good := false, held := true, perstLow := true, enable := enable, ready := ready, delayed := delayed, restart := n } }

theorem witness_PowerUpConditions :
    ((down 0 false true false).power.good = false ∧ (down 0 false true false).power.perstLow = true ∧ (down 0 false true false).power.enable = false ∧
      (down 0 false true false).power.ready = true ∧ (down 0 false true false).power.delayed = false) ∧
    ((down 3 false true false).power.restart = 3 ∧ 20 ≤ 20) ∧ ((down 4 false true false).power.restart = 4 ∧ 1000 ≤ 1000) ∧
    ((down 2 true false false).power.enable = true ∧ (down 2 true false false).power.restart ≤ 2 ∧ 50000 ≤ 59500) ∧
    ((down 3 true true true).power.delayed = true ∧ (down 3 true true true).power.restart ≤ 3) ∧ (down 0 true false false).power.ready = false := by decide +kernel

theorem witness_FundamentalReset : up.power.good = true ∧ up.power.held = false ∧
    ({ up with power := { held := true } } : State).power.good = true ∧ ({ up with power := { held := true } } : State).power.held = true := by decide +kernel

/-- Bring-up with a stage that runs. -/
def staged (i : Nat) : State := { up with boot := { up.boot with stages := up.boot.stages.set i { result := 1 } } }

theorem witness_BringUpProgresses : (staged 12).running = true ∧ ((staged 12).boot.stage 12).result = 1 ∧ (staged 12).svnOk 12 0 = true ∧
    ((staged 0).boot.stage 0).result = 1 ∧ (staged 0).svnOk 0 0 = true ∧
    ((staged 13).boot.stage 13).result = 1 ∧ ({ staged 13 with boot := { (staged 13).boot with water := 8322048 } } : State).boot.water < 8323072 := by decide +kernel

/-- The module with array 127 in some state. -/
def arrayIn (x : ArrayState) : State := { up with dev := { up.dev with arrays := up.dev.arrays.set 127 x } }

theorem witness_ArraysRaise : (arrayIn { hoist := .waiting, permit := true }).running = true ∧
    ((arrayIn { hoist := .waiting, permit := true }).dev.array 127).hoist = .waiting ∧
    ((arrayIn { hoist := .waiting, permit := true }).dev.array 127).permit = true ∧
    ((arrayIn { hoist := .waiting, permit := true }).dev.array 127).outOfService = false ∧
    (((List.range 32).map (fun i => 32 * (127 / 32) + i)).filter
      (fun b => ((arrayIn { hoist := .waiting, permit := true }).dev.array b).hoist == .raising)).length < 8 ∧
    (∀ b < 127, ((arrayIn { hoist := .waiting, permit := true }).dev.array b).hoist ≠ .waiting) ∧
    ((arrayIn { hoist := .raising }).dev.array 127).hoist = .raising := by decide +kernel

theorem witness_ArraysLower : (arrayIn { hoist := .hoisted, permit := true }).dev.holding (.arr 127) = [] ∧
    ((arrayIn { hoist := .hoisted, permit := true }).dev.array 127).hoist = .hoisted ∧
    (arrayIn { hoist := .lowering }).dev.holding (.arr 127) = [] ∧
    ((arrayIn { hoist := .lowering }).dev.array 127).hoist = .lowering := by
  refine ⟨?_, ?_, ?_, ?_⟩ <;> first | decide +kernel | simp [Dev.holding, arrayIn, up, State.reset, Dev.reset]

theorem up_canWrite : up.canWrite (.fn 0) 2 ∧ up.canWrite (.fn 0) 0x23F ∧ up.canWrite .masthead 0x240 := by
  refine ⟨⟨?_, ?_, ?_⟩, ⟨?_, ?_, ?_⟩, ⟨?_, ?_, ?_⟩⟩ <;> decide +kernel

/-- The module with page 2 (TICK) locked by Masthead, and with a commit pending on it. -/
def tickLockedUp : State := upWith (devWith [(2, oCtl, 0x100), (2, oStat, 0x20)])
def tickPendingUp : State := upWith { Dev.reset with commits := [{ page := 2, since := 0 }] }

theorem witness_ShadowedRegistersTakeWrites : blockOf 2 = some (.tick, 0) ∧
    regSpec .tick 0x040 = some ⟨0x040, 4, 1, .rws, 0x404, 0x7FF, 0x0⟩ ∧
    up.dev.heldBits (.fn 0) 2 0x040 ⟨0x040, 4, 1, .rws, 0x404, 0x7FF, 0x0⟩ = 0 ∧ up.dev.lockedTo (.fn 0) 2 = false ∧ up.dev.commitPending 2 = false ∧
    tickLockedUp.canWrite (.fn 0) 2 ∧ tickLockedUp.dev.lockedTo (.fn 0) 2 = true ∧
    tickLockedUp.dev.heldBits (.fn 0) 2 0x040 ⟨0x040, 4, 1, .rws, 0x404, 0x7FF, 0x0⟩ = 0 ∧
    tickPendingUp.canWrite (.fn 0) 2 ∧ tickPendingUp.dev.commitPending 2 = true ∧
    tickPendingUp.dev.heldBits (.fn 0) 2 0x040 ⟨0x040, 4, 1, .rws, 0x404, 0x7FF, 0x0⟩ = 0 := by
  unfold State.canWrite
  decide +kernel

theorem witness_OtherRegistersTakeWrites : up.canWrite .masthead 0x240 ∧ blockOf 0x240 = some (.num, 0) ∧
    regSpec .num 0x800 = some ⟨0x800, 4, 1, .w1c, 0x0, 0xF, 0x0⟩ ∧ up.dev.lockedTo .masthead 0x240 = false ∧
    regSpec .num 0x814 = some ⟨0x814, 4, 1, .ro, 0x0, 0xFFFFFFFF, 0x0⟩ := by
  unfold State.canWrite
  decide +kernel

theorem witness_CommitDiscardLock : up.canWrite (.fn 0) 0x23F ∧ blockOf 0x23F = some (.part, 63) ∧ up.dev.lockedTo (.fn 0) 0x23F = false ∧
    up.dev.commitPending 0x23F = false ∧ isVf (.fn 0) = false ∧ up.dev.isLocked 0x23F = false ∧
    (upWith (devWith [(2, oCtl, 0x100), (2, oStat, 0x10)])).dev.isLocked 2 = true ∧
    (upWith (devWith [(2, oCtl, 0x100), (2, oStat, 0x10)])).dev.lockedTo (.fn 0) 2 = false := by
  unfold State.canWrite
  decide +kernel

theorem witness_InterruptsAreForced : up.canWrite (.fn 0) 2 ∧ blockOf 2 = some (.tick, 0) := by
  unfold State.canWrite
  decide +kernel

theorem witness_CountersAreCleared : up.canWrite .masthead 0x240 ∧ blockOf 0x240 = some (.num, 0) ∧ clearOffset 0x240 = some 0xC00 ∧
    up.canWrite (.fn 0) 0x23F ∧ blockOf 0x23F = some (.part, 63) ∧ clearOffset 0x23F = some 0xC24 := by
  unfold State.canWrite
  decide +kernel

theorem witness_RequestsAreQueued : up.canWrite (.fn 0) (pgPART 63) ∧ 63 < up.dev.parts.length := by
  unfold State.canWrite
  decide +kernel

/-- Partition 63 with an open session 4095, job 65535 and stream 1023. -/
def opened : State := upWith { Dev.reset with
  sessions := [{ id := 4095, part := 63, missDrop := false, noFold := false, interval := 1, deadline := 1, t0 := 0, planAddr := 0 }],
  jobs := [{ id := 65535, part := 63 }], streams := [{ id := 1023, part := 63, raw := List.replicate 256 0 }] }

theorem witness_ClosesAreRequested : opened.canWrite (.fn 0) (pgPART 63) ∧
    (opened.dev.session? 63 4095).map (·.closing) = some false ∧ (opened.dev.job? 65535).map (·.part) = some 63 ∧
    (opened.dev.stream? 1023).map (·.part) = some 63 ∧ (opened.dev.part 63).resyncPending = false ∧ 63 < opened.dev.parts.length ∧
    (1 : Word).getLsbD 0 = true ∧ (opened.dev.regN (pgPART 63) 0xC14 + opened.dev.regN (pgPART 63) 0xC18 % 65536 * 2 ^ 32) % 4096 = 0 ∧
    rangeValid (opened.dev.regN (pgPART 63) 0xC14 + opened.dev.regN (pgPART 63) 0xC18 % 65536 * 2 ^ 32)
      (4096 * bits ((1 : Word) &&& 0xFFFF01).toNat 8 16) = true := by
  unfold State.canWrite
  decide +kernel

/-- A started FENCE of partition 0 and queue 15. -/
def fenceCmd : Cmd := { cmdOf [(4, [0x10]), (64, [0, 0])] with queue := 15 }
def fenced : State := upWith { Dev.reset with cmds := [fenceCmd], nextUid := 2 }

theorem witness_QueuesStopAndResume : up.canWrite (.fn 0) (pgPART 0) ∧ (up.dev.part 0).queues.length = 16 ∧
    up.dev.cmds.filter (fun c => c.live && c.part == 0 && (0x8000 : Word).getLsbD c.queue) = [] ∧
    fenced.canWrite (.fn 0) (pgPART 0) ∧ (fenced.dev.part 0).queues.length = 16 ∧
    fenced.dev.cmds.filter (fun c => c.live && c.part == 0 && (0x8000 : Word).getLsbD c.queue) = [fenceCmd] ∧ fenced.dev.cmd? 1 = some fenceCmd ∧
    fenceCmd.queue < 16 ∧ fenceCmd.work.copies.all (fun x => !x.claimed) = true := by
  unfold State.canWrite
  decide +kernel

theorem witness_InjectionsAreArmed : isVf .masthead = false ∧ up.srcOk .masthead = true ∧ requesterOk .masthead = true ∧
    isVf (.fn 0) = false ∧ up.srcOk (.fn 0) = true ∧ requesterOk (.fn 0) = true := by decide +kernel

theorem witness_DeviceRequests : isVf .masthead = false ∧ up.srcOk .masthead = true ∧ requesterOk .masthead = true ∧
    (0x63 : Word).toNat % 128 < 100 ∧ (1 : Word).getLsbD 0 = true ∧ up.dev.flushing.contains 3 = false ∧ up.dev.isLocked pgSEC = false ∧
    up.dev.cmds = [] := by decide +kernel

/-- Partition 63, whose queue 15 is enabled with a ring of 2^1 entries and holds one entry. -/
def ringed : State := upWith (({ devWith [(pgPART 63, 0x6E0, 1)] with
    hbm := ({} : Mem).writeBytes 0 [] } : Dev).modQueue 63 15 (fun q => { q with state := 1, sqTail := 1 }))

theorem witness_DoorbellsMoveTheRing : doorbellOk (.fn 63) 63 15 = true ∧ doorbellOk (.fn 0) 63 15 = true ∧ ringed.srcOk (.fn 0) = true ∧
    63 < ringed.dev.parts.length ∧ (ringed.dev.part 63).queues.length = 16 ∧ ringed.dev.ringSize 63 15 = 2 := by decide +kernel

/-- Partition 0 with queue 15 enabled, a ring of two entries at HBM address 0, and one entry in it. -/
def ringWith (raw : Bytes) : State := upWith (({ devWith [(pgPART 0, 0x6E0, 1)] with
    hbm := (Dev.reset.putBytesIn 0 0 0 raw).hbm } : Dev).modQueue 0 15 (fun q => { q with state := 1, sqTail := 1 }))

/-- A FENCE outside a session, and one whose descriptor is ill formed at byte 5. -/
def fenceRaw : Bytes := (cmdOf [(4, [0x10]), (42, [0])]).raw
def badRaw : Bytes := (cmdOf [(4, [0x10]), (5, [3])]).raw

theorem witness_ControlCommandsAreAdmitted :
    (ringWith fenceRaw).running = true ∧ 0 < (ringWith fenceRaw).dev.parts.length ∧ ((ringWith fenceRaw).dev.part 0).queues.length = 16 ∧
    ((ringWith fenceRaw).flag 1 && (ringWith fenceRaw).flag 2 && (ringWith fenceRaw).flag 3 && (ringWith fenceRaw).flag 5) = true ∧
    ((ringWith fenceRaw).dev.queue 0 15).state = 1 ∧ ((ringWith fenceRaw).dev.queue 0 15).sqHead ≠ ((ringWith fenceRaw).dev.queue 0 15).sqTail ∧
    (ringWith fenceRaw).dev.slotFree 0 = true ∧
    ((ringWith fenceRaw).dev.readStruct [] 0 ((ringWith fenceRaw).dev.sqBase 0 15) 128).toOption = some fenceRaw ∧
    ((ringWith fenceRaw).dev.parseCmd 0 15 fenceRaw).opcode = 0x10 ∧ ((ringWith fenceRaw).dev.parseCmd 0 15 fenceRaw).sessionValid = false ∧
    (ringWith fenceRaw).dev.descriptorBad ((ringWith fenceRaw).dev.parseCmd 0 15 fenceRaw) = none ∧
    (ringWith fenceRaw).dev.modeDenied ((ringWith fenceRaw).dev.parseCmd 0 15 fenceRaw) = false ∧
    ((ringWith fenceRaw).dev.parseCmd 0 15 fenceRaw).controlCheck.formed = none ∧
    (ringWith fenceRaw).dev.firstFailure ((ringWith fenceRaw).dev.parseCmd 0 15 fenceRaw)
      ((ringWith fenceRaw).dev.parseCmd 0 15 fenceRaw).controlCheck [] = none ∧
    (ringWith fenceRaw).dev.bitsUsed ≤ 2 ^ 30 ∧
    (ringWith badRaw).dev.descriptorBad ((ringWith badRaw).dev.parseCmd 0 15 badRaw) = some 5 := by decide +kernel

/-- A device of partition 0 with array 0 permitted and one command. -/
def working (c : Cmd) : State := upWith { Dev.reset with arrays := Dev.reset.arrays.set 0 { permit := true }, cmds := [c], nextUid := 2 }

/-- A tensor of one element at an address. -/
def one (a fmt : Nat) : TensorD := { addr := a, fmt := fmt }

def tiledCmd (l : List (Nat × Bytes)) (ts : List TensorD) : Cmd := { cmdOf l with tensors := ts, work := { total := 1 } }

def matmulCmd : Cmd := tiledCmd [(4, [0x01]), (64, [0, 1, 2, 0xFF]), (71, [0xFF])] [one 0 2, one 4096 2, one 8192 1]

/-- What TiledCommandsRun asks of a state and a command, of its tile and of the state that runs it. -/
def readyTiled (s : State) (c : Cmd) (id : TileId) : Bool :=
  let d := s.dev.beginWhole c
  let k := s.dev.wholeCmd c
  let r := d.opTile k id
  s.running && s.dev.cmd? c.uid == some c && c.live && c.started && c.copy == s.dev.copyNow && c.state != .preempted && !(s.dev.serving c).isEmpty &&
  (s.dev.inputFails [] c).isNone && c.tensors.all (fun t => !t.tagged) && s.dev.tilesLeft c == [id] && (c.work.cleatOf id).isNone && c.work.copies.isEmpty &&
  c.work.committed + 1 == c.work.total && k.work.mayRun (d.opSpace k) id && !r.flags.waits && r.combines.isEmpty && (d.writeFails [] k r.writes).isNone

def convCmd : Cmd := tiledCmd [(4, [0x02]), (64, [0, 1, 2, 0xFF]), (69, [0x11, 0xFF, 0xFF])] [one 0 2, one 4096 2, one 8192 1]
def attendCmd : Cmd := tiledCmd [(4, [0x03]), (64, [0, 1, 2, 3, 0xFF]), (70, [0xFF, 0xFF]), (76, [2]), (84, [0, 0, 0x80, 0x3F])]
  [one 0 2, one 4096 2, one 4352 2, one 8192 1]
def convertCmd : Cmd := tiledCmd [(4, [0x05]), (64, [0, 1, 0xFF])] [one 0 2, one 8192 1]
def fillCmd : Cmd := tiledCmd [(4, [0x07])] [one 8192 0x12]
def sampleCmd : Cmd := tiledCmd [(4, [0x08]), (64, [0, 1])] [one 0 1, one 8192 0x10]
def vprogCmd : Cmd := tiledCmd [(4, [0x04]), (76, [1])] [one 0 1]

theorem witness_TiledCommandsRun : [matmulCmd, convCmd, attendCmd, vprogCmd, convertCmd, fillCmd, sampleCmd].all
    (fun c => readyTiled (working c) c ⟨0, 0⟩) = true ∧
    [matmulCmd, convCmd, attendCmd, vprogCmd, convertCmd, fillCmd, sampleCmd].map Cmd.opcode = [0x01, 0x02, 0x03, 0x04, 0x05, 0x07, 0x08] := by decide +kernel

/-- The command's operands in HBM: BF16 2.0 at 0, and BF16 3.0 at 4096 and at 4352. -/
def data (s : State) : State := { s with dev := ((s.dev.putBytesIn 0 0 0 [0x00, 0x40]).putBytesIn 0 0 4096 [0x40, 0x40]).putBytesIn 0 0 4352 [0x40, 0x40] }

/-- 2.0 times 3.0 is 6.0 in FP32. -/
theorem test_matmul : (after (.matmul 1 []) (data (working matmulCmd))).dev.bytesIn 0 0 8192 4 = [0x00, 0x00, 0xC0, 0x40] := by decide +kernel
theorem test_conv : (after (.conv 1 []) (data (working convCmd))).dev.bytesIn 0 0 8192 4 = [0x00, 0x00, 0xC0, 0x40] := by decide +kernel
/-- One key has the whole weight. -/
theorem test_attend : (after (.attend 1 []) (data (working attendCmd))).dev.bytesIn 0 0 8192 4 = [0x00, 0x00, 0x40, 0x40] := by decide +kernel
theorem test_convert : (after (.convert 1 []) (data (working convertCmd))).dev.bytesIn 0 0 8192 4 = [0x00, 0x00, 0x00, 0x40] := by decide +kernel
/-- The only category is drawn. -/
theorem test_sample : (after (.sample 1 []) (data (working sampleCmd))).dev.bytesIn 0 0 8192 4 = [0, 0, 0, 0] := by decide +kernel

/-- A FENCE that waits to start, and one that is skipped because command 7 failed. -/
def waitingFence : Cmd := { cmdOf [(4, [0x10])] with started := false, state := .waiting }
def skippedFence : Cmd := { cmdOf [(4, [0x10, 0x08])] with started := false, state := .waiting, dep := .ended true 7 }

/-- The active POLICY register of NUM[0] with a bit set since the command started. -/
def policyDev : Dev := devWith [(pgNUM 0, 0x440, 1)]

theorem witness_CommandsStart :
    ((working waitingFence).dev.cmd? 1 = some waitingFence ∧ (working waitingFence).dev.ready waitingFence = true ∧ waitingFence.skipsFor = none ∧
      (working waitingFence).dev.eligible waitingFence = true ∧ isControlOp waitingFence.opcode = true) ∧
    ((working skippedFence).dev.cmd? 1 = some skippedFence ∧ (working skippedFence).dev.ready skippedFence = true ∧ skippedFence.skipsFor = some 7) ∧
    ((upWith { policyDev with cmds := [fillCmd] }).dev.cmd? 1 = some fillCmd ∧ fillCmd.started = true ∧
      fillCmd.copy ≠ (upWith { policyDev with cmds := [fillCmd] }).dev.copyNow ∧
      ((upWith { policyDev with cmds := [fillCmd] }).dev.withCopy fillCmd.copy).copyNow = fillCmd.copy) := by decide +kernel

/-- Two started commands: a FENCE of queue 0 and, after it, a FENCE that waits for queue 0 or none, or a TICK_WAIT of tick 5. -/
def secondFence (mask : Nat) : Cmd := { cmdOf [(4, [0x10]), (64, [BitVec.ofNat 8 mask])] with uid := 2 }
def tickWait : Cmd := { cmdOf [(4, [0x11]), (64, [5])] with uid := 2 }
def behind (c : Cmd) (count : Nat) : State :=
  upWith { Dev.reset with cmds := [cmdOf [(4, [0x10])], c], nextUid := 3, tick := { count := count } }

theorem witness_FencesAndTickWaitsCommit :
    ((behind (secondFence 0xFE) 0).dev.cmd? 2 = some (secondFence 0xFE) ∧ (secondFence 0xFE).opcode = 0x10 ∧ (secondFence 0xFE).live = true ∧
      (∀ x ∈ (behind (secondFence 0xFE) 0).dev.cmds, x.live = true → x.part = 0 → x.uid < 2 → bit ((secondFence 0xFE).u16 64) x.queue = false)) ∧
    ((behind (secondFence 1) 0).dev.cmd? 2 = some (secondFence 1) ∧
      (∃ x ∈ (behind (secondFence 1) 0).dev.cmds, x.live = true ∧ x.part = 0 ∧ x.uid < 2 ∧ bit ((secondFence 1).u16 64) x.queue = true)) ∧
    ((behind tickWait 5).dev.cmd? 2 = some tickWait ∧ tickWait.opcode = 0x11 ∧ tickWait.waitTick ≤ (behind tickWait 5).dev.tick.count ∧
      (behind tickWait 4).dev.tick.count < tickWait.waitTick) := by decide +kernel

/-- A record of a finished FENCE waits for queue 15 of partition 0, whose completion ring lies at HBM address 4096 and has room or is full. -/
def recordOf : PendingRecord := { part := 0, queue := 15, uid := 1, bytes := fenceCmd.record, irq := false }
def recorded (head tail : Nat) : State := upWith (({ devWith [(pgPART 0, 0x6E0, 1), (pgPART 0, 0x6EC, 4096)] with
    records := [recordOf], cmds := [{ fenceCmd with state := .recordPending }] } : Dev).modQueue 0 15
  (fun q => { q with state := 1, cqHead := head, cqTail := tail }))

theorem witness_CompletionRecordsAreWritten :
    ((recorded 0 0).dev.part 0).queues.length = 16 ∧
    (recorded 0 0).dev.records.find? (fun r => r.part == 0 && r.queue == 15) = some recordOf ∧ ((recorded 0 0).dev.queue 0 15).state ≠ 2 ∧
    (recorded 0 0).dev.cqRoom 0 15 = true ∧ isHost ((recorded 0 0).dev.cqBase 0 15 + 32 * ((recorded 0 0).dev.queue 0 15).cqTail) = false ∧
    (recorded 0 1).dev.records.find? (fun r => r.part == 0 && r.queue == 15) = some recordOf ∧ (recorded 0 1).dev.cqRoom 0 15 = false := by decide +kernel

/-- A running throughput MATMUL with a copy on array 0, and a session FENCE that is eligible. -/
def busyMatmul : Cmd := { matmulCmd with work := { total := 1, copies := [{ tile := {}, unit := .arr 0, dealt := 0, lease := 9 }] } }
def sessionFence : Cmd := { waitingFence with uid := 2, throughput := false, raw := putAt waitingFence.raw 8 [0, 0x80] }
def contended : State := upWith { Dev.reset with
  cmds := [busyMatmul, sessionFence], nextUid := 3
  sessions := [{ id := 0, part := 0, missDrop := false, noFold := false, interval := 1, deadline := 1, t0 := 0, planAddr := 0 }] }

theorem witness_TackPreempts : 0 < contended.dev.parts.length ∧ sessionFence ∈ contended.dev.cmds ∧ sessionFence.part = 0 ∧
    sessionFence.throughput = false ∧ contended.dev.eligible sessionFence = true ∧ contended.dev.stoppable 0 = [busyMatmul] ∧
    contended.dev.cmd? 1 = some busyMatmul := by decide +kernel

/-- A pre-empted command that nothing holds back, in a partition whose core 63 is, or is not, still to be saved. -/
def stoppedMatmul : Cmd := { matmulCmd with state := .preempted }
def stopped (save : List Nat) : State :=
  upWith (({ devWith [(pgPART 0, 0x440, 0xFFFFFFFF), (pgPART 0, 0x444, 0xFFFFFFFF)] with cmds := [stoppedMatmul], nextUid := 2 } : Dev).modPart 0
    (fun x => { x with saveCores := save }))

theorem witness_TackSavesAndResumes :
    ((stopped [63]).dev.ownerOf 63 = some 0 ∧ ((stopped [63]).dev.part 0).saveCores.contains 63 = true ∧ (stopped [63]).dev.coreFree 0 63 = true) ∧
    ((stopped []).dev.preempted 0 = [stoppedMatmul] ∧ (stopped []).dev.cmd? 1 = some stoppedMatmul ∧ (stopped []).dev.eligibleOf 0 0 false = [] ∧
      (stopped []).dev.grainFree 0 = true ∧ (∀ x ∈ (stopped []).dev.saved, x.part ≠ 0) ∧ ((stopped []).dev.part 0).saveCores = [] ∧
      (stopped []).dev.maskPending 0 = false ∧ (stopped []).dev.waitsOnZeroing stoppedMatmul = false ∧ (stopped []).dev.heldBySave stoppedMatmul = false ∧
      stoppedMatmul.restart = false ∧ stoppedMatmul.work.committed ≠ stoppedMatmul.work.total) := by decide +kernel

/-- A session command beyond its worst case, and one within it. -/
def sessionMatmul (wc : Nat) : Cmd :=
  { matmulCmd with throughput := false, spans := [(0, 10)], entry := { wcArray := wc }, raw := putAt matmulCmd.raw 8 [0, 0x80] }

theorem witness_OverrunsAreDemoted :
    (working (sessionMatmul 9)).dev.cmd? 1 = some (sessionMatmul 9) ∧ (sessionMatmul 9).live = true ∧ (sessionMatmul 9).sessionValid = true ∧
    ((working (sessionMatmul 9)).dev.measured (sessionMatmul 9)).overruns = true ∧
    ((working (sessionMatmul 10)).dev.measured (sessionMatmul 10)).overruns = false := by decide +kernel

/-- A CTX_SAVE of queue 0 after a pre-empted MATMUL of that queue, and a CTX_RESTORE. -/
def saveCmd : Cmd := { cmdOf [(4, [0x12]), (64, [0, 0, 1]), (76, [1])] with uid := 2 }
def restoreCmd : Cmd := cmdOf [(4, [0x13])]
def saving : State := upWith { Dev.reset with cmds := [stoppedMatmul, saveCmd], nextUid := 3 }

theorem witness_ContextsAreSavedAndRestored :
    (saving.dev.cmd? 2 = some saveCmd ∧ saveCmd.live = true ∧ saveCmd.opcode = 0x12 ∧ saveCmd.u8 74 = 0 ∧ isHost (saveCmd.u48 64) = false ∧
      saveCmd.pins = [] ∧ saveCmd.kvTargets = [] ∧ saving.dev.ctxEarlier saveCmd = [stoppedMatmul] ∧ stoppedMatmul.savable = true ∧
      stoppedMatmul.state = .preempted ∧ stoppedMatmul.work.copies = [] ∧ saving.dev.cmd? 1 = some stoppedMatmul) ∧
    ((working restoreCmd).dev.cmd? 1 = some restoreCmd ∧ restoreCmd.opcode = 0x13 ∧ restoreCmd.live = true) := by decide +kernel

/-- What OnHand asks, as a test. -/
def onHand (s : State) (op : Nat) (c : Cmd) : Bool :=
  s.dev.cmd? 1 == some c && c.opcode == op && c.live && c.started && c.copy == s.dev.copyNow && c.state != .preempted && s.dev.inputsFull c &&
  s.dev.outputsOpen c && (s.dev.inputFails [] c).isNone && (s.dev.outputFails [] c).isNone

theorem onHand_sound (s : State) (op : Nat) (c : Cmd) (h : onHand s op c = true) : s.dev.OnHand [] 1 op c := by
  simpa [onHand, Dev.OnHand, and_assoc] using h

def copyCmd : Cmd := { cmdOf [(4, [0x06]), (64, [0, 0, 1, 0xFF])] with tensors := [one 0 2, one 8192 2] }
def ingestCmd : Cmd := { cmdOf [(4, [0x0E]), (65, [1, 2, 0xFF, 0xFF, 0xFF, 0, 0xFF, 3])] with
  tensors := [{ one 0 0x12 with shape := [0, 1, 1, 1, 1] }, one 4096 0x12, one 8192 1, one 65536 0x12] }
def encodeCmd : Cmd := { cmdOf [(4, [0x0D]), (65, [0xFF, 0x03])] with tensors := [one 0 1] }
def decodeCmd : Cmd := { cmdOf [(4, [0x0C]), (64, [1, 0, 1, 2]), (70, [1])] with tensors := [one 0 0x12, one 8192 1, one 65536 0x12] }
def liveCmd : Cmd := { decodeCmd with raw := putAt decodeCmd.raw 64 [0, 0, 1, 2, 0xFF, 0x03] }

/-- A command of partition 0 beside stream 1023, of 256 descriptor bytes. -/
def streaming (c : Cmd) : State :=
  upWith { Dev.reset with cmds := [c], nextUid := 2, streams := [{ id := 1023, part := 0, raw := List.replicate 256 0 }] }

theorem witness_MovesAndMediaRun :
    onHand (working copyCmd) 0x06 copyCmd = true ∧ onHand (working ingestCmd) 0x0E ingestCmd = true ∧
    (onHand (streaming encodeCmd) 0x0D encodeCmd = true ∧ ((streaming encodeCmd).dev.stream? encodeCmd.meStream).isSome = true) ∧
    (onHand (streaming decodeCmd) 0x0C decodeCmd = true ∧ decodeCmd.mdLive = false) ∧
    (onHand (streaming liveCmd) 0x0C liveCmd = true ∧ liveCmd.mdLive = true ∧ ((streaming liveCmd).dev.stream? liveCmd.mdStream).isSome = true) := by
  decide +kernel

def appendCmd : Cmd := { cmdOf [(4, [0x09]), (64, [0, 1, 2])] with tensors := [one 0 0x12, one 4096 2, one 8192 2] }
def releaseCmd : Cmd := { cmdOf [(4, [0x0A]), (64, [0, 0, 0xFF])] with tensors := [one 0 0x10] }

theorem witness_KvCommandsRun : onHand (working appendCmd) 0x09 appendCmd = true ∧ onHand (working releaseCmd) 0x0A releaseCmd = true ∧
    onHand (working { appendCmd with pins := [1] }) 0x09 { appendCmd with pins := [1] } = true ∧
    onHand (working { releaseCmd with pins := [1] }) 0x0A { releaseCmd with pins := [1] } = true ∧
    (upWith (devWith [(pgKVP 63, 0x800, 2)])).dev.kvBusy 63 = true ∧ up.dev.kvBusy 63 = false := by decide +kernel

/-- A broadcast of one FP32 element by member 1 of a job of two, received by member 0. -/
def broadcastCmd : Cmd := { cmdOf [(4, [0x0B]), (64, [3, 0xFF, 0, 0xFF]), (72, [1, 0])] with tensors := [one 8192 1] }
def twoMembers : Job := { id := 0, part := 0, members := [0, 1] }
def joined : State := upWith { Dev.reset with cmds := [broadcastCmd], nextUid := 2, jobs := [twoMembers] }
def part1 : List Contribution := [{ rank := 1, data := [0, 0, 0x80, 0x3F] }]

theorem witness_CollectivesRun : onHand joined 0x0B broadcastCmd = true ∧ broadcastCmd.pins = [] ∧ broadcastCmd.kvTargets = [] ∧
    broadcastCmd.coReduces = false ∧ broadcastCmd.coThin = 0 ∧ broadcastCmd.shipped = false ∧ joined.dev.job? broadcastCmd.coJob = some twoMembers ∧
    (∀ n ∈ (broadcastCmd.arrive part1).coNeeds twoMembers, ((broadcastCmd.arrive part1).partOf n.1).length = n.2) ∧
    (broadcastCmd.arrive part1).coNeeds twoMembers = [(1, 4)] ∧
    joined.dev.coSends (broadcastCmd.arrive part1) twoMembers [] = [] ∧ joined.dev.txFlows = [] ∧
    (∀ x ∈ joined.dev.cmds, x.uid ≠ 1 → x.shipped = false) ∧
    up.dev.reducers[3]? = some ({ } : Reducer) ∧ (upWith { Dev.reset with reducers := Dev.reset.reducers.set 3 { failRun := 2 } }).dev.reducers[3]? = some ({ failRun := 2 } : Reducer) ∧
    bit (up.dev.regN (pgRED 3) 0xC04) 0 = false ∧ (∀ x ∈ up.dev.cmds, x.opcode ≠ 0x0B) := by decide +kernel

/-- Partition 0 with all cores, array 0 permitted, and a MATMUL whose one tile stands in die 0's range. -/
def dealingCmd : Cmd := { matmulCmd with work := { total := 1, dies := [{ die := 0, first := 0, units := 1, back := 1 }] } }
def dealing : State := upWith { devWith [(pgPART 0, 0x440, 0xFFFFFFFF), (pgPART 0, 0x444, 0xFFFFFFFF)] with
  arrays := Dev.reset.arrays.set 0 { permit := true }
  cmds := [dealingCmd] }

theorem witness_UnitsTakeWork : dealing.dev.unitPart (.arr 0) = some 0 ∧ dealing.dev.mayWork (.arr 0) = true ∧ dealing.dev.holding (.arr 0) = [] ∧
    dealing.dev.dealingTo 0 (.arr 0) = [dealingCmd] ∧ dealing.dev.cmd? 1 = some dealingCmd ∧
    ((dealing.dev.takeFrom dealingCmd (.arr 0) true).map (·.1)) = some {} ∧
    up.dev.unitPart (.vec 63) = some 0 ∧ up.dev.mayWork (.vec 63) = true ∧ up.dev.holding (.vec 63) = [] ∧ up.dev.dealingTo 0 (.vec 63) = [] := by
  refine ⟨?_, ?_, ?_, ?_, ?_, ?_, ?_, ?_, ?_, ?_⟩ <;> first | decide +kernel | rfl

/-- A copy of the MATMUL's tile on the hoisted array 0, whose record is OPEN, or another's claim. -/
def tileCopy : Copy := { tile := {}, unit := .arr 0, dealt := 0, lease := 9 }
def tilingCmd (cleat : List (TileId × Cleat)) : Cmd := { matmulCmd with work := { total := 2, copies := [tileCopy], cleat := cleat } }
def tiling (c : Cmd) : State := upWith { Dev.reset with arrays := Dev.reset.arrays.set 0 { hoist := .hoisted, permit := true }, cmds := [c], nextUid := 2 }

/-- The same tile claimed, with its result. -/
def claimedCopy : Copy := { tileCopy with claimed := true, result := { writes := [⟨0, 65536, 32, 7⟩] } }
def claimedCmd : Cmd := { matmulCmd with work := { total := 2, copies := [claimedCopy], cleat := [({}, .claimed)] } }

theorem witness_TilesClaimAndCommit (cleat : List (TileId × Cleat)) (hc : cleat = [] ∨ cleat = [({}, .claimed)]) :
    (tiling (tilingCmd cleat)).dev.cmd? 1 = some (tilingCmd cleat) ∧ (tilingCmd cleat).copy = (tiling (tilingCmd cleat)).dev.copyNow ∧
    ((tiling (tilingCmd cleat)).dev.holding (.arr 0)).head? = some (1, tileCopy) ∧
    ((tiling (tilingCmd cleat)).dev.dueAt (tilingCmd cleat) tileCopy).isSome = true ∧
    ((tiling (tilingCmd cleat)).dev.opTile (tilingCmd cleat) {}).flags.waits = false ∧ (tiling (tilingCmd cleat)).dev.armed (.arr 0) = 0 ∧
    (tiling (tilingCmd cleat)).dev.regN (pgSPD 0) 0xC04 = 0 ∧
    ((tiling (tilingCmd cleat)).dev.streamed' (tilingCmd cleat) tileCopy
      (((tiling (tilingCmd cleat)).dev.dueAt (tilingCmd cleat) tileCopy).getD 0)).inputFails [] (tilingCmd cleat) = none ∧
    ((tilingCmd cleat).work.cleatOf {} = none ↔ cleat = []) ∧ tileCopy ∈ (tilingCmd cleat).work.copies ∧
    (∀ y ∈ (tilingCmd cleat).work.copies, y.tile = {} → y = tileCopy) ∧
    ((tiling claimedCmd).dev.claimedOn (.arr 0)).head? = some (1, claimedCopy) ∧ claimedCmd.tensors.all (fun t => !t.tagged) = true ∧
    claimedCopy.result.combines = [] ∧ claimedCopy.result.sends = [] ∧ (tiling claimedCmd).dev.writeFails [] claimedCmd claimedCopy.result.writes = none ∧
    claimedCmd.work.committed + 1 ≠ claimedCmd.work.total := by
  rcases hc with rfl | rfl <;>
    (refine ⟨?_, ?_, ?_, ?_, ?_, ?_, ?_, ?_, ?_, ?_, ?_, ?_, ?_, ?_, ?_, ?_, ?_⟩ <;> first | decide +kernel | rfl)

/-- A copy whose lease has run out, in a command of two tiles; and a group tile that waits for an earlier one. -/
def leasedCmd : Cmd := { matmulCmd with work := { total := 1, copies := [tileCopy], dies := [{ die := 0, first := 0, units := 1, back := 1, front := 1 }] } }
def leased : State := upWith { Dev.reset with now := 10, cmds := [leasedCmd], nextUid := 2 }

/-- A product split into three groups of 256, of which group 1 has claimed and group 0 is to be run again. -/
def groupCopy : Copy := { tileCopy with tile := ⟨0, 1⟩, claimed := true }
def groupCmd : Cmd :=
  { matmulCmd with tensors := [{ one 0 2 with rank := 2, shape := [768, 1, 1, 1, 1] }, { one 4096 2 with rank := 2, shape := [768, 1, 1, 1, 1] }, one 8192 1]
                   raw := putAt matmulCmd.raw 68 [1, 0]
                   work := { total := 4, copies := [groupCopy], cleat := [(⟨0, 1⟩, .claimed)],
                             dies := [{ die := 0, first := 0, units := 3, back := 3, front := 2, reissue := [⟨0, 0⟩] }] } }
def grouped : State := upWith { devWith [(pgPART 0, 0x440, 1), (pgPART 0, 0x444, 0)] with
  arrays := Dev.reset.arrays.set 0 { hoist := .hoisted, permit := true }
  cmds := [groupCmd] }

theorem witness_LeasesAndGroups :
    (∀ c ∈ up.dev.cmds, c.expired (roundUp up.dev.now 1024) 0 = []) ∧
    (leased.dev.cmds = [leasedCmd] ∧ leasedCmd.expired (roundUp leased.dev.now 1024) 0 = [tileCopy] ∧ tileCopy.tile.sub = 0 ∧
      (leased.dev.opSpace leasedCmd).splits = 0 ∧ (∀ y ∈ leasedCmd.work.due, y.1 ≠ tileCopy.tile) ∧ (∀ y ∈ leasedCmd.work.dies, tileCopy.tile ∉ y.reissue) ∧
      (∃ y ∈ leasedCmd.work.dies, y.die = leased.dev.tileDie leasedCmd (leased.dev.opSpace leasedCmd) tileCopy.tile)) ∧
    (((grouped.dev.arraysOf 0).map Engine.arr).filter grouped.dev.mayWork = [.arr 0] ∧ grouped.dev.stuckGroup (.arr 0) = some (1, groupCopy) ∧
      grouped.dev.cmd? 1 = some groupCmd ∧ groupCopy.claimed = true ∧
      (∃ y ∈ grouped.dev.cmds, y.part = 0 ∧ y.live = true ∧ ∃ z ∈ y.work.dies, z.reissue ≠ [])) ∧ up.dev.cmds = [] := by decide +kernel

theorem witness_DetectedErrors :
    ((arrayIn { hoist := .hoisted, failRun := 1 }).dev.inService 127 = true ∧
      ((arrayIn { hoist := .hoisted, failRun := 1 }).dev.array 127).hoist = .hoisted ∧ (arrayIn { hoist := .hoisted, failRun := 1 }).dev.holding (.arr 127) = [] ∧
      ((arrayIn { hoist := .hoisted, failRun := 1 }).dev.array 127).failRun < 2) ∧
    ((arrayIn { hoist := .hoisted, failRun := 2 }).dev.inService 127 = true ∧ (arrayIn { hoist := .hoisted, failRun := 2 }).dev.holding (.arr 127) = [] ∧
      ((arrayIn { hoist := .hoisted, failRun := 2 }).dev.array 127).failRun = 2) ∧
    up.dev.holding (.vec 63) = [] ∧ 63 < up.dev.cores.length := by
  refine ⟨⟨?_, ?_, ?_, ?_⟩, ⟨?_, ?_, ?_⟩, ?_, ?_⟩ <;> first | decide +kernel | rfl

/-- Slots 0 to 9 of core 63 are tagged; the slot 9 holds some tag. -/
def taggedDev (t : SlotTag) : Dev :=
  { devWith [(pgSPD 63, 0x448, 0x80000000), (pgSPD 63, 0x44C, 9), (pgPART 0, 0x440, 0), (pgPART 0, 0x444, 0x80000000)] with tags := if t = {} then [] else [(63 * 98304 + 9, t)] }
def taggedUp (t : SlotTag) : State := upWith (taggedDev t)

/-- A COPY that reads slot 9 of core 63, the partition's only core. -/
def slotCmd : Cmd := { copyCmd with tensors := [{ one 2304 2 with space := 1, tagged := true }, one 8192 2] }

theorem witness_TaggedAccesses :
    (taggedUp ⟨true, 0⟩).dev.inTagRegion 63 9 = true ∧ slotOk 9 = true ∧ slotOk 98303 = true ∧ ((taggedUp ⟨true, 0⟩).dev.tag 63 9).full = true ∧
    (taggedUp {}).dev.inTagRegion 63 9 = true ∧ (taggedUp {}).dev.tag 63 9 = {} ∧ ((taggedUp {}).dev.tag 63 9).full = false ∧
    (taggedUp ⟨false, 1⟩).dev.inTagRegion 63 9 = true ∧ (taggedUp ⟨false, 1⟩).dev.tag 63 9 ≠ {} ∧ (List.replicate 256 (0 : Byte)).length = 256 ∧
    (upWith { taggedDev {} with cmds := [slotCmd] }).dev.cmd? 1 = some slotCmd ∧ slotCmd.live = true ∧ tiledOp slotCmd.opcode = false ∧
    slotCmd.work.copies = [] ∧ (upWith { taggedDev {} with cmds := [slotCmd] }).dev.slotBlocks slotCmd 63 9 = true := by decide +kernel

def sixteen : List Word := List.replicate 16 0x3F800000

theorem witness_BankOpsAndAtomics :
    (taggedUp {}).dev.spdPlace 0 2304 = some (63, 2304) ∧
    ((taggedUp {}).dev.opBytes {} 63 2304 2304 (.acc false sixteen)).isSome = true ∧ ((taggedUp {}).dev.opBytes {} 63 2304 2304 (.scaleAdd 0x3F800000 0 sixteen)).isSome = true ∧
    ((taggedUp {}).dev.opBytes {} 63 2304 2304 (.max true sixteen)).isSome = true ∧ ((taggedUp {}).dev.opBytes {} 63 2304 2304 (.convert 2 0 sixteen)).isSome = true ∧
    2304 % 256 = 0 ∧ (List.replicate 64 (0 : Word)).length = 64 ∧ (taggedUp {}).dev.inTagRegion 63 (2304 / 256) = true ∧
    (taggedUp {}).dev.tag 63 (2304 / 256) = {} ∧ (1 ≤ 32767 ∧ 32767 ≤ 32767) ∧
    (up.dev.cellOf 0 8).isSome = true ∧ isHost 8 = false ∧ atomicSize (.fetchAdd 64 1) = 8 ∧ 8 % 8 = 0 ∧ up.dev.usable up.outside 0 8 8 = true := by decide +kernel

theorem witness_StackEnginesRun : 11 < up.dev.stackUnits.length ∧ stackBlocks = 268435456 ∧ 268435455 + 1 ≤ stackBlocks ∧ (∀ b ∈ [0, 268435455], b < stackBlocks) ∧
    stackHas 11 ([(7, 268435455)].flatMap (fun q => blockRun q.2 (ceilDiv (List.replicate 4 (0 : Byte)).length 256))) = true := by decide +kernel

theorem witness_HbmAndLinkEvents : channelOk 31 8388607 = true ∧ bit (up.dev.active (pgHBM 11) 0x040) 0 = true ∧ 11 < up.dev.stackUnits.length ∧
    ((0 : Int) ≤ 255 ∧ (255 : Int) ≤ 255) ∧ (upWith { Dev.reset with flushing := [3] }).dev.flushing.contains 3 = true ∧
    0 ≤ up.dev.active (pgD2D 5) 0x040 % 65536 ∧ up.dev.cmds = [] := by decide +kernel

theorem witness_TickEdges : up.running = true := by decide +kernel

/-- A completed window of partition 63 whose ring of 2^1 records at HBM address 0 has room, or is full. -/
def window : AcctWindow := { tick := 0, acct := {}, slowdown := 0, interference := false, reefStep := 0, reserved := 0 }
def accounting (tail : Nat) : State :=
  upWith ((devWith [(pgPART 63, 0x454, 1), (pgPART 63, 0xC0C, tail)]).modPart 63 (fun x => { x with acctQueue := [window] }))

/-- A commit of a page at its command boundary, as the register with the given value has it. -/
def committing (page off v : Nat) : State := upWith { devWith [(page, off, v)] with commits := [{ page := page, since := 0 }] }

/-- A session command that waits on the commit of its NUM page. -/
def sessionFill : Cmd := { fillCmd with started := false, state := .waiting, throughput := false, raw := putAt fillCmd.raw 8 [0, 0x80] }
def limited : State := upWith { Dev.reset with
  cmds := [sessionFill], commits := [{ page := pgNUM 0, since := 0 }]
  sessions := [{ id := 0, part := 0, missDrop := false, noFold := false, interval := 1, deadline := 1, t0 := 0, planAddr := 0 }] }

theorem witness_RecordsCommitsAndZeroing :
    (((accounting 0).dev.part 63).acctQueue = [window] ∧
      (((accounting 0).dev.regN (pgPART 63) 0x830 + 1) % 2 ^ bits ((accounting 0).dev.active (pgPART 63) 0x054) 0 5) = 1 ∧
      (accounting 0).dev.usable (accounting 0).outside 63 (addrOf ((accounting 0).dev.active (pgPART 63)) 0x058) 128 = true ∧
      (accounting 0).dev.regN (pgPART 63) 0xC0C ≠ 1 ∧ isHost (addrOf ((accounting 0).dev.active (pgPART 63)) 0x058) = false ∧
      (accounting 1).dev.regN (pgPART 63) 0xC0C = 1) ∧
    (blockOf (pgNUM 63) = some (.num, 63) ∧
      (committing (pgNUM 63) 0x040 8).dev.commits.find? (fun k => k.page == pgNUM 63) = some { page := pgNUM 63, since := 0 } ∧
      (committing (pgNUM 63) 0x040 8).dev.atBoundary (committing (pgNUM 63) 0x040 8).outside { page := pgNUM 63, since := 0 } = true ∧
      (committing (pgNUM 63) 0x040 8).dev.cmds = [] ∧
      ((committing (pgNUM 63) 0x040 8).dev.commitCheck [] (pgNUM 63)).any (fun r => decide (r.reason < 256)) = true ∧
      (committing (pgNUM 63) 0x040 7).dev.commitCheck [] (pgNUM 63) = none) ∧
    ((∀ k ∈ up.dev.commits, up.dev.sessionWaits 63 k = false) ∧ 63 < up.dev.parts.length ∧
      (∃ k ∈ limited.dev.commits, limited.dev.sessionWaits 0 k = true) ∧ (limited.dev.part 0).commitOpen = false) ∧
    ((up.dev.core 63).zeroing = false ∧
      ((upWith { Dev.reset with cores := Dev.reset.cores.set 63 { zeroing := true } }).dev.core 63).zeroing = true) := by decide +kernel

theorem no_session_waits : ∀ p, (committing (pgNUM 63) 0x040 8).dev.sessionWaits p { page := pgNUM 63, since := 0 } = false := by
  intro p
  simp [Dev.sessionWaits, committing, upWith, devWith, Dev.setReg, Dev.reset]

/-- The tick generator with a source, seen or not, in holdover or not. -/
def ticking (source : Nat) (seen holdover : Bool) : State := upWith { Dev.reset with tick := { source := source, seen := seen, holdover := holdover } }

theorem witness_TickSources : (ticking 3 true false).running = true ∧ (ticking 3 true false).dev.tick.source ≠ 0 ∧ (ticking 3 true false).dev.tick.seen = true ∧
    (ticking 3 true false).dev.tick.holdover = false ∧ (ticking 0 false false).dev.tick.source = 0 ∧ (ticking 3 true true).dev.tick.holdover = true ∧
    ((-1000 : Int) ≤ -1000 ∧ (1000 : Int) ≤ 1000 ∧ (1000 : Int) < 1001) ∧ (ticking 2 true true).dev.tick.source = 2 ∧
    (ticking 1 true true).dev.tick.source = 1 ∧ bits ((ticking 1 true true).dev.active pgTICK 0x044) 8 5 = 0 ∧
    bits ((ticking 1 true true).dev.active pgTICK 0x044) 0 8 = 0 ∧ 31 ≠ bits ((ticking 1 true true).dev.active pgTICK 0x044) 8 5 := by decide +kernel

/-- A message from partition 0 to the role 5 at this node, and to the same role of another epoch. -/
def mailMsg : Bytes := putAt (List.replicate 64 0) 2 [5, 0]

/-- Unit 99 holds role 5 and belongs to partition 0, whose mail rings are on: sending ring at HBM address 0, receiving ring at 4096; the
inbox of the unit holds n messages of partition 9 and node 3. -/
def mailing (n : Nat) : State := upWith (({ devWith [(pgPART 0, 0x474, 0x101), (pgPART 0, 0x480, 4096)] with
    hbm := (Dev.reset.putBytesIn 0 0 0 mailMsg).hbm, rig := Dev.reset.rig.set 99 { role := 5, owner := some 0 },
    inbox := List.replicate n ⟨99, 3, 9, mailMsg⟩ } : Dev).modPart 0 (fun x => { x with mailSqTail := 1 }))

theorem mailing_returns (n q : Nat) : ((mailing n).dev.part q).mailReturns = [] := by
  by_cases h : q < 64
  · have : ∀ q < 64, ((mailing 0).dev.part q).mailReturns = [] := by decide +kernel
    exact this q h
  · have : (mailing 0).dev.parts.length = 64 := by decide +kernel
    have : (mailing n).dev.parts.length = 64 := this
    simp [Dev.part, List.getD, this, h]

def sentMsg : Bytes := putAt mailMsg 8 (toLe 2 0 ++ toLe 1 0 ++ toLe 1 0)

/-- A mail packet and a return, as they reach the module. -/
def mailPacket (kind : Nat) : BftMail := { raw := putAt (List.replicate 32 0) 0 [BitVec.ofNat 8 (16 * kind)] ++ mailMsg }

theorem witness_Mail : (mailing 0).running = true ∧ (mailing 0).fabricReady = true ∧ 0 < (mailing 0).dev.parts.length ∧ (mailing 0).dev.mailOn 0 = true ∧
    ((mailing 0).dev.part 0).mailSqHead ≠ ((mailing 0).dev.part 0).mailSqTail ∧
    ((mailing 0).dev.readStruct [] 0 ((mailing 0).dev.addrPair (pgPART 0) 0x078 + 64 * ((mailing 0).dev.part 0).mailSqHead) 64).toOption = some mailMsg ∧
    (mailing 0).dev.node = 0 ∧ bits (fieldAt sentMsg 0 2) 0 14 = 0 ∧ (mailing 0).dev.mailTarget sentMsg = some 99 ∧ (mailing 15).dev.inboxRoom 99 = true ∧
    (mailing 16).dev.inboxRoom 99 = false ∧
    ((mailing 1).dev.mailNext = some ⟨99, 3, 9, mailMsg⟩ ∧ (mailing 1).dev.mailTarget mailMsg = some 99 ∧ ((mailing 1).dev.unit 99).owner = some 0 ∧
      isHost ((mailing 1).dev.addrPair (pgPART 0) 0x080 + 64 * ((mailing 1).dev.part 0).mailRqTail) = false ∧ (mailing 0).dev.mailNext = none) ∧
    (((mailing 0).dev.rxFlow (bftSource (mailPacket 2).raw) 0 (bits (fieldAt (mailPacket 2).raw 10 1) 0 2)).2.has (fieldAt (mailPacket 2).raw 12 4) = false ∧
      bits (fieldAt (mailPacket 2).raw 0 1) 4 4 ≠ 3 ∧ (mailing 0).dev.mailTarget (((mailPacket 2).raw.drop 32).take 64) = some 99 ∧
      bits (fieldAt (mailPacket 3).raw 0 1) 4 4 = 3 ∧
      ((({ (mailing 0).dev with rxFlows := [{ id := 0, src := 0, job := 0, die := 0, next := 1 }] } : Dev).rxFlow 0 0 0).2.has 0 = true)) := by decide +kernel

/-- A DATA packet of PSN 0 in the job 1, and a flow that has received it. -/
def dataPacket : BftData := { raw := putAt (List.replicate 64 0) 6 [1, 0] }
def receiving (flows : List RxFlow) : State := upWith { Dev.reset with jobs := [{ id := 1, part := 0 }], rxFlows := flows }
def ackPacket (status : Byte) : BftAck := { raw := putAt (List.replicate 64 0) 46 [status] }
def sendingFlow (tries : Nat) (since : Option Nat) : TxFlow :=
  { id := 7, dst := 0, job := 0, die := 0, unacked := [{ psn := 0, tries := tries }], notReadySince := since }
def sending (tries : Nat) (since : Option Nat) : State := upWith { devWith [(pgFAB, 0x454, 0x3000000)] with txFlows := [sendingFlow tries since] }

theorem witness_FabricPackets : up.fabricReady = true ∧ ((receiving []).dev.job? (fieldAt dataPacket.raw 6 2)).map (·.epoch) = some (fieldAt dataPacket.raw 8 2) ∧
    ((receiving []).dev.rxFlow (bftSource dataPacket.raw) 1 0).2.has (fieldAt dataPacket.raw 12 4) = false ∧
    ((receiving [{ id := 0, src := 0, job := 1, die := 0, next := 1 }]).dev.rxFlow (bftSource dataPacket.raw) 1 0).2.has (fieldAt dataPacket.raw 12 4) = true ∧
    ((sending 2 none).dev.txFlows.find? (fun g => g.dst == bits (fieldAt (ackPacket 0).raw 2 2) 0 14 && g.job == fieldAt (ackPacket 0).raw 6 2 &&
      g.die == bits (fieldAt (ackPacket 0).raw 10 1) 0 2)) = some (sendingFlow 2 none) ∧ fieldAt (ackPacket 0).raw 46 1 = 0 ∧ fieldAt (ackPacket 1).raw 46 1 = 1 ∧
    (sendingFlow 2 none).waiting = [] ∧ (∀ c ∈ (sending 2 none).dev.cmds, c.shipped = false) ∧
    (receiving [{ id := 3, src := 0, job := 1, die := 0, unacked := 1 }]).dev.rxFlows.find? (fun g => g.id == 3) = some { id := 3, src := 0, job := 1, die := 0, unacked := 1 } ∧
    (receiving [{ id := 3, src := 0, job := 1, die := 0 }]).dev.rxFlows.find? (fun g => g.id == 3) = some { id := 3, src := 0, job := 1, die := 0 } ∧
    (sending 2 none).dev.retryLimit = 3 ∧ (sending 3 none).dev.txFlows.find? (fun g => g.id == 7) = some (sendingFlow 3 none) ∧
    (sendingFlow 3 none).unacked.find? (fun q => q.psn == 0) = some { psn := 0, tries := 3 } ∧
    (sending 2 (some 4)).dev.txFlows.find? (fun g => g.id == 7) = some (sendingFlow 2 (some 4)) ∧ (sendingFlow 2 (some 4)).notReadySince = some 4 := by decide +kernel

/-- A receive stream 5 at port 15, UDP 4000, payload type 96 and SSRC 1, and its packets. -/
def rxStream (profile : Byte) : Stream :=
  { id := 5, part := 0, raw := putAt (putAt (putAt (List.replicate 256 0) 6 [15, 96, 0xA0, 0x0F]) 12 [1]) 41 [profile] }
def ports (l : List Stream) : State := upWith { devWith [(pgETH 15, 0x440, 1)] with
  streams := l, ports := Dev.reset.ports.set 14 { up := true } }
def rtpPacket : UdpPacket := { port := 15, src := 9, srcPort := 9, dst := 0, dstPort := 4000, data := [0x80, 96, 0, 1, 0, 0, 0, 0, 0, 0, 0, 1, 0xAB] }
def srPacket : UdpPacket :=
  { port := 15, src := 9, srcPort := 9, dst := 0, dstPort := 4001, data := [0x80, 200, 0, 6, 0, 0, 0, 1] ++ List.replicate 20 0 }

theorem witness_PortsAndStreams :
    (15 < (ports []).dev.ports.length ∧ ((ports []).dev.ports.getD 15 {}).up = false ∧ ((ports []).dev.ports.getD 14 {}).up = true ∧
      (ports []).flag fabricFlag = true ∧ (ports []).boot.refclkEth = true ∧ ((ports []).dev.portLanes 15).any (ports []).boot.badLanes.contains = false) ∧
    ((ports []).dev.portExists 12 = true ∧ bit ((upWith (devWith [(pgETH 12, 0x440, 1)])).dev.active (pgETH 12) 0x040) 0 = true ∧
      (upWith (devWith [(pgETH 12, 0x440, 1)])).dev.portExists 12 = true) ∧
    ((ports []).dev.rtpStream rtpPacket = none ∧ (ports []).dev.rtcpStream rtpPacket = none) ∧
    ((ports [{ rxStream 1 with seen := [65537] }]).dev.rtpStream rtpPacket = some { rxStream 1 with seen := [65537] } ∧
      ({ rxStream 1 with seen := [65537] } : Stream).fresh (extendSeq none 1) = false) ∧
    ((ports [rxStream 0]).dev.rtpStream rtpPacket = some (rxStream 0) ∧ (ports [rxStream 0]).dev.stream? 5 = some (rxStream 0) ∧ (rxStream 0).srtp = 0 ∧
      extendSeq (rxStream 0).highest (beNat ((rtpPacket.data.drop 2).take 2)) = 65537 ∧ bit (fieldAt rtpPacket.data 1 1) 7 = false ∧
      (rxStream 0).fresh 65537 = true ∧ (rxStream 0).packets = [] ∧ (rxStream 0).lastEnd = none) ∧
    ((ports [rxStream 0]).dev.rtcpStream srPacket = some (rxStream 0) ∧ srPacket.data.length = 28 ∧ fieldAt srPacket.data 1 1 = 200 ∧
      beNat ((srPacket.data.drop 2).take 2) = 6 ∧ (rxStream 0).isSend = false ∧ beNat ((srPacket.data.drop 4).take 4) = (rxStream 0).ssrc) ∧
    ((rxStream 0).needKey = false ∧ (ports [{ rxStream 0 with needKey := true }]).dev.stream? 5 = some { rxStream 0 with needKey := true } ∧
      (rxStream 0).closing = false) := by decide +kernel

/-- The link before CTRL, with bring-up stage 4 running; and functions that exist. -/
def linking (flags : Nat) (result : Nat) : State :=
  { up with boot := { up.boot with flags := flags, stages := up.boot.stages.set 4 { result := result } } }
def functions (c : FnCfg) (ide : List IdeStream) : State :=
  upWith { Dev.reset with pci := { vfEnable := true, numVfs := 63, fns := (List.replicate 64 ({ } : FnCfg)).set 63 c, ide := ide } }

theorem witness_HostLinkEvents : linkOk 7 8 = true ∧ linkOk 1 1 = true ∧ (linking 63 2).boot.stopped = false ∧ ((linking 63 2).boot.stage 4).result ≠ 1 ∧
    ((linking 0 1).boot.stage 4).result = 1 ∧ (linking 0 1).boot.stages.length = 14 ∧ (linking 0 1).flag ctrlFlag = false ∧ (functions {} []).flag ctrlFlag = true ∧
    (functions {} []).dev.pci.hasFn 63 = true ∧ 63 < (functions {} []).dev.pci.fns.length ∧ ((functions {} []).dev.fn 63).flrBusy = false ∧
    ((functions { flrBusy := true } []).dev.fn 63).flrBusy = true ∧ (∀ x ∈ (functions {} []).dev.pci.ide, x.id = 4 → x.secure = false) ∧
    (∃ x ∈ (functions {} [⟨4, true, [63]⟩]).dev.pci.ide, x.id = 4 ∧ x.secure = true) ∧ (functions {} []).hostOk 63 = true := by decide +kernel

/-- BAR4 of the physical function, whose aperture stands at an address, with every cell initialised or none. -/
def aperture (base flags : Nat) : State :=
  { upWith (devWith [(pgPART 0, 0x488, base % 2 ^ 32), (pgPART 0, 0x48C, base / 2 ^ 32)]) with boot := { Boot.reset with flags := flags } }

theorem witness_HostAccess : (aperture 0 63).flag basicFlag = true ∧ (aperture 0 63).hostOk 0 = true ∧ (aperture 0 63).dev.inBar4 0 0xFFFFFFFF8 8 = true ∧
    (aperture 0 63).dev.apertureAddr 0 0xFFFFFFFF8 = 0xFFFFFFFF8 ∧ (aperture 0 63).dev.apertureOk 0 0xFFFFFFFF8 8 true = true ∧
    (aperture 0xBE80000000 63).dev.inBar4 0 0 1 = true ∧ (aperture 0xBE80000000 63).dev.apertureOk 0 ((aperture 0xBE80000000 63).dev.apertureAddr 0 0) 1 true = false ∧
    (aperture 0xBE80000000 63).dev.apertureOk 0 ((aperture 0xBE80000000 63).dev.apertureAddr 0 0) 1 false = false ∧
    (∃ k ∈ (aperture 0 63).dev.apertureCells 0 0 1, k.any (cellReady (aperture 0 63).outside) = true) ∧
    (aperture 0 31).flag basicFlag = true ∧ (aperture 0 31).hostOk 0 = true ∧
    (∃ k ∈ (aperture 0 31).dev.apertureCells 0 0 1, k.any (fun c => !cellReady (aperture 0 31).outside c) = true) ∧
    atomicSize (pcieOp (.fetchAdd 64 1)) = 8 ∧ 0xFFFFFFFF8 % 8 = 0 ∧ ((aperture 0 63).dev.apertureCell 0 0xFFFFFFFF8).isSome = true ∧
    (aperture 0 63).dev.inBar4 0 0x1000000000 8 = false := by decide +kernel

/-- The physical function with vector 2047 masked, and pending or not. -/
def vectors (l : List (Nat × Nat)) (master : Bool) : State :=
  upWith { Dev.reset with pci := { msixPending := l, fns := (List.replicate 64 ({ } : FnCfg)).set 0 { busMaster := master } } }

theorem witness_MaskedVectors : up.dev.pci.unmasked.contains (0, 2047) = false ∧ (0, 2047) ∈ (vectors [(0, 2047)] true).dev.pci.msixPending ∧
    (vectors [(0, 2047)] true).hostOk 0 = true ∧ (vectors [(0, 2047)] true).dev.pci.msixPending.Nodup ∧
    (∀ x ∈ (vectors [(0, 2047)] true).dev.pci.msixPending, x.1 = 0 → x ∉ (vectors [(0, 2047)] true).dev.pci.unmasked) ∧
    (vectors [(0, 2047)] true).dev.mayRequest 0 = true ∧ (vectors [(0, 2047)] false).dev.mayRequest 0 = false ∧
    (0, 2047) ∉ (vectors [] true).dev.pci.msixPending := by decide +kernel

/-- Masthead with a staging, an activation or a handover in progress, and staged images. -/
def firmware (m : Mgmt) : State := { up with mgmt := { m with started := true }, flash := { staged := [(1, {}), (2, {})] } }

theorem witness_Firmware : (firmware {}).masthead = true ∧ requesterOk .masthead = true ∧ (firmware {}).srcOk .masthead = true ∧ isVf .masthead = false ∧
    (firmware {}).dev.heldBits .masthead pgMGT 0xC0C fwCtlSpec = 0 ∧ (firmware {}).mgmt.handover = none ∧
    (firmware {}).dev.stageAddr % 4096 = 0 ∧ rangeValid (firmware {}).dev.stageAddr (firmware {}).dev.stageLen = true ∧ isHost (firmware {}).dev.stageAddr = false ∧
    ({ firmware {} with dev := devWith [(pgMGT, 0xC00, 1)] } : State).dev.stageAddr % 4096 ≠ 0 ∧
    ({ firmware {} with dev := devWith [(pgMGT, 0xC00, 1)] } : State).dev.heldBits .masthead pgMGT 0xC0C fwCtlSpec = 0 ∧
    ((firmware {}).flash.stagedOf 1).isSome = true ∧ ((firmware {}).flash.stagedOf 2).isSome = true ∧ (firmware {}).mgmt.activate = none ∧
    (firmware { activate := some (1, 0) }).mgmt.activate ≠ none ∧ (firmware { activate := some (1, 0) }).srcOk .masthead = true ∧
    (firmware { staging := some (2, 0, 512, false) }).mgmt.staging = some (2, 0, 512, false) ∧ (firmware { staging := some (2, 0, 512, false) }).dev.usable up.outside 0 0 512 = true ∧
    (firmware { handover := some (2, 0) }).mgmt.handover = some (2, 0) ∧ (firmware { handover := some (2, 0) }).masthead = true ∧ 0 + 240000 ≤ 240000 := by
  decide +kernel

theorem witness_MonitorsAndReef : up.running = true ∧ up.mgmt.started = true ∧ up.masthead = true ∧ 4294967295 < 2 ^ 32 ∧
    ({ up with mgmt := { started := true, down := true } } : State).masthead = false := by decide +kernel

theorem witness_MastheadAnswers : up.masthead = true ∧ ({ up with mgmt := { started := true, down := true } } : State).running = true ∧
    ({ up with mgmt := { started := true, down := true } } : State).mgmt.down = true ∧
    (firmware { handover := some (2, 0) }).mgmt.handover.isSome = true ∧ (firmware { handover := some (2, 0) }).transportOk 0 = true ∧
    up.mgmt.handover = none ∧ up.transportOk 0 = true ∧
    ({ up with boot := { up.boot with stages := up.boot.stages.set 11 { result := 2 } }, sec := { sessions := [1] } } : State).transportOk 1 = true ∧
    ({ up with sec := { identityReady := true } } : State).sec.identityReady = true ∧ up.hostOk 0 = true ∧ 65536 < 65537 := by decide +kernel

/-- An INT8 product with and without a carry-in. -/
def intCmd (carry : Byte) : Cmd := { cmdOf [(4, [0x01]), (64, [0, 1, 2, carry])] with tensors := [one 0 0x11, one 4096 0x11, one 8192 0x10] }
def intConv (carry : Byte) : Cmd := { cmdOf [(4, [0x02]), (64, [0, 1, 2, carry])] with tensors := [one 0 0x11, one 4096 0x11, one 8192 0x10] }

theorem witness_IntegerChains : (intCmd 0xFF).mChain = .int 0 ∧ (intCmd 0xFF).mCarry = 0xFF ∧ (intCmd 2).mChain = .int 0 ∧ (intCmd 2).mCarry ≠ 0xFF ∧
    (intConv 0xFF).cvChain = .int 0 ∧ (intConv 0xFF).cvAux1 = 0xFF ∧ (intConv 2).cvChain = .int 0 ∧ (intConv 2).cvAux1 ≠ 0xFF ∧ (intConv 2).cvKind ≠ 1 := by decide +kernel

/-! ### Ill-formed commands are refused -/

theorem test_part_refused : (Instr.tack 63).wellFormed = true ∧ (Instr.tack 64).wellFormed = false := by decide +kernel
theorem test_queue_refused : (Instr.completionWrite 63 15 []).wellFormed = true ∧ (Instr.completionWrite 63 16 []).wellFormed = false := by decide +kernel
theorem test_doorbell_refused : (Instr.sqTailDoorbell (.fn 5) 5 2 0).wellFormed = true ∧ (Instr.sqTailDoorbell (.fn 5) 6 2 0).wellFormed = false ∧
    (Instr.cqHeadDoorbell .masthead 5 2 0).wellFormed = false := by decide +kernel
theorem test_core_refused : (Instr.zeroingDone 63).wellFormed = true ∧ (Instr.zeroingDone 64).wellFormed = false := by decide +kernel
theorem test_array_refused : (Instr.hoistRaise 127).wellFormed = true ∧ (Instr.hoistRaise 128).wellFormed = false := by decide +kernel
theorem test_engine_refused : (Instr.takeWork (.vec 63)).wellFormed = true ∧ (Instr.takeWork (.vec 64)).wellFormed = false ∧
    (Instr.takeWork (.arr 128)).wellFormed = false := by decide +kernel
theorem test_die_refused : (Instr.leaseScan 3).wellFormed = true ∧ (Instr.leaseScan 4).wellFormed = false := by decide +kernel
theorem test_bank_refused : (Instr.scratchpadEccError 0 31 12287 0 true none).wellFormed = true ∧
    (Instr.scratchpadEccError 0 32 0 0 true none).wellFormed = false ∧ (Instr.scratchpadEccError 0 0 12288 0 true none).wellFormed = false := by decide +kernel
theorem test_slot_refused : (Instr.taggedAccess 0 98303 .read).wellFormed = true ∧ (Instr.taggedAccess 0 98304 .read).wellFormed = false := by decide +kernel
theorem test_stack_refused : (Instr.hbmTempReading 11 40).wellFormed = true ∧ (Instr.hbmTempReading 12 40).wellFormed = false := by decide +kernel
theorem test_block_refused : (Instr.stkFill 0 268435455 1 0).wellFormed = true ∧ (Instr.stkFill 0 268435455 2 0).wellFormed = false ∧
    (Instr.stkCopy 0 268435456 0 1).wellFormed = false ∧ (Instr.stkGather 0 [268435456] 0).wellFormed = false ∧
    (Instr.stkCompact 0 0 [1, 1] 268435455).wellFormed = false ∧ (Instr.stkCrc 0 268435456 1).wellFormed = false ∧
    (Instr.stkScore 0 ⟨[(0, 268435456)], [0, 0], 1⟩).wellFormed = false := by decide +kernel
theorem test_channel_refused : (Instr.patrolRead 0 31 8388607 none).wellFormed = true ∧ (Instr.patrolRead 0 32 0 none).wellFormed = false ∧
    (Instr.patrolRead 0 0 8388608 none).wellFormed = false ∧ (Instr.hbmInitChunk [(12, 0, 0, ⟨true, 0, 0⟩)]).wellFormed = false := by decide +kernel
theorem test_page_refused : (Instr.commit (.fn 0) 0x2FF).wellFormed = true ∧ (Instr.commit (.fn 0) 0x400).wellFormed = false ∧
    (Instr.commandCommitApply 0x400).wellFormed = false := by decide +kernel
theorem test_source_refused : (Instr.commit (.fn 63) 0).wellFormed = true ∧ (Instr.commit (.fn 64) 0).wellFormed = false := by decide +kernel
theorem test_clear_refused : (Instr.countClear .masthead 0x240 0).wellFormed = true ∧ (Instr.countClear .masthead 0x3F0 0).wellFormed = false := by decide +kernel
theorem test_offset_refused : (Instr.registerWrite (.fn 0) 0x3FFFFC 32 0).wellFormed = true ∧ (Instr.registerWrite (.fn 0) 0x400000 32 0).wellFormed = false := by decide +kernel
theorem test_link_refused : (Instr.d2dRetrain 5 0 false).wellFormed = true ∧ (Instr.d2dRetrain 6 0 false).wellFormed = false := by decide +kernel
theorem test_port_refused : (Instr.ethLinkUp 15).wellFormed = true ∧ (Instr.ethLinkUp 16).wellFormed = false ∧ (Instr.rtpReceive ⟨16, 0, 0, 0, 0, []⟩).wellFormed = false ∧
    (Instr.ptpMessage 32 0 0 0 0).wellFormed = false := by decide +kernel
theorem test_component_refused : (Instr.activate .masthead 3).wellFormed = true ∧ (Instr.activate .masthead 4).wellFormed = false := by decide +kernel
theorem test_transport_refused : (Instr.spdmRequest 1 []).wellFormed = true ∧ (Instr.spdmRequest 2 []).wellFormed = false := by decide +kernel
theorem test_address_refused : (Instr.i3cAddressAssign 127).wellFormed = true ∧ (Instr.i3cAddressAssign 128).wellFormed = false := by decide +kernel
theorem test_stage_refused : (Instr.bringupStageEnd 13 true 0).wellFormed = true ∧ (Instr.bringupStageEnd 14 true 0).wellFormed = false := by decide +kernel
theorem test_vector_refused : (Instr.msixUnmask 0 2047).wellFormed = true ∧ (Instr.msixUnmask 0 2048).wellFormed = false ∧ (Instr.msixUnmask 1 32).wellFormed = false := by decide +kernel
theorem test_width_refused : (Instr.hostLinkUp 7 8 true).wellFormed = true ∧ (Instr.hostLinkUp 7 16 true).wellFormed = false ∧ (Instr.hostLinkUp 0 8 true).wellFormed = false := by decide +kernel
theorem test_sensor_refused : (Instr.thermalTrip 3 15).wellFormed = true ∧ (Instr.thermalTrip 3 16).wellFormed = false := by decide +kernel
theorem test_rail_refused : (Instr.railFault 3 7).wellFormed = true ∧ (Instr.railFault 3 8).wellFormed = false := by decide +kernel

/-! ### The manual's own examples -/

/-- Table 5-6: 2^24 and three times 1.0 against four times 1.0 leaves 2^24, each 1 being half of the last place. -/
def rowCmd : Cmd := { matmulCmd with tensors := [{ one 0 2 with shape := [4, 1, 1, 1, 1] }, { one 4096 2 with shape := [4, 1, 1, 1, 1] }, one 8192 1] }
theorem test_chain_order : (after (.matmul 1 []) (upWith (((working rowCmd).dev.putBytesIn 0 0 0 [0x80, 0x4B, 0x80, 0x3F, 0x80, 0x3F, 0x80, 0x3F]).putBytesIn 0 0 4096
    [0x80, 0x3F, 0x80, 0x3F, 0x80, 0x3F, 0x80, 0x3F]))).dev.bytesIn 0 0 8192 4 = [0, 0, 0x80, 0x4B] := by decide +kernel

/-- The block of chapter 5: 1,000.0, 3.0 and -0.01 become scale 0x80 and codes 0x7E, 0x3C and 0x83, with SATURATED. -/
def blockCmd : Cmd := { convertCmd with tensors := [{ one 0 1 with shape := [32, 1, 1, 1, 1] },
  { one 8192 8 with shape := [32, 1, 1, 1, 1], aux := 2 }, { one 12288 0x12 with shape := [1, 1, 1, 1, 1] }] }
def blockDone : State := after (.convert 1 []) (upWith ((working blockCmd).dev.putBytesIn 0 0 0 [0, 0, 0x7A, 0x44, 0, 0, 0x40, 0x40, 0x0A, 0xD7, 0x23, 0xBC]))
theorem test_mx_block : blockDone.dev.bytesIn 0 0 8192 4 = [0x7E, 0x3C, 0x83, 0x00] ∧ blockDone.dev.bytesIn 0 0 12288 1 = [0x80] ∧
    (blockDone.dev.cmd? 1).map (·.flags.saturated) = some true := by decide +kernel

/-- Chapter 8: two neighbouring blocks of the default region lie in channels 13 and 109. -/
theorem test_interleave : (up.dev.regionOf 0 0x1234567800).map (fun r => r.place 0x1234567800) = some (13, 795364) ∧
    (up.dev.regionOf 0 0x1234567900).map (fun r => (r.place 0x1234567900).1) = some 109 := by decide +kernel

/-- Table 7-4: group 2 is not accepted before group 1, and group 1 leaves 2^24 in a lane that held 2^24. -/
def groupOp (j : Nat) (v : Word) (s : State) : State := after (.bankOpWrite none 0 2304 (.combine false true j 3 (List.replicate 64 v))) s
theorem test_combine_waits : (groupOp 2 1 (taggedUp ⟨false, 1⟩)).dev.tag 63 9 = ⟨false, 1⟩ ∧ (groupOp 1 1 (taggedUp ⟨false, 1⟩)).dev.tag 63 9 = ⟨false, 2⟩ ∧
    (groupOp 2 1 (taggedUp ⟨false, 2⟩)).dev.tag 63 9 = ⟨true, 0⟩ := by decide +kernel
theorem test_combine_lane : ((accLane false false 0x4B800000 0x3F800000).run {}).1 = 0x4B800000 := by decide +kernel

/-- Table 6-3: a tile of six weight tiles and 1,024 rows, hoisted at cycle 48, has its result on chip at 6,736. -/
theorem test_tile_cycles : (({ hoist := .hoisted, since := 48 } : ArrayState).stream { rows := 1024, cols := 256, k := 1536, mt := 1024 } {} 0).1 = 6736 := by decide +kernel

/-- Table 9-2: the curve over four bands and three blocks. -/
theorem test_curve : ({ rows := 4096, cols := 768, k := 1024, mt := 1024, finish := false } : TileSpace).curve =
    [(0, 0), (1, 0), (1, 1), (0, 1), (0, 2), (1, 2), (2, 2), (3, 2), (3, 1), (2, 1), (2, 0), (3, 0)] := by decide +kernel

/-- Table 15-7: one element in each of the four shards. -/
def shardWords (r : Nat) : Word := if r = 0 then 0x4B800000 else 0x3F800000
theorem test_shards : (List.range 4).map (fun s => ((memberSum { id := 0, part := 0, members := [0, 1, 2, 3] } s shardWords).run {}).1) =
    [0x4B800002, 0x4B800002, 0x4B800000, 0x4B800000] := by decide +kernel

/-- Table 17-3: BAR4 + 0x8000 of function 5 is device address 0x0040_0000_8000. -/
theorem test_aperture : (devWith [(pgPART 5, 0x48C, 0x40)]).apertureAddr 5 0x8000 = 0x004000008000 := by decide +kernel

/-! ### Single steps -/

/-- R28: with N = 4 the first edge comes at cycle 2,000,000. -/
theorem test_tick_edge : up.dev.nextEdge.tick.count = 1 ∧ up.dev.nextEdge.now = 2000000 := by decide +kernel

/-- R103, R107: a 32-bit write changes the shadow alone; a write of 16 bits sets IGNORED_WRITE. -/
theorem test_register_write : (after (.registerWrite (.fn 0) 0x2040 32 0x405) up).dev.reg 2 0x040 = 0x405 ∧
    (after (.registerWrite (.fn 0) 0x2040 32 0x405) up).dev.reg 2 0x440 = 0x404 := by decide +kernel
theorem test_register_narrow : (after (.registerWrite (.fn 0) 0x2040 16 0x405) up).dev.reg 2 0x040 = 0x404 ∧
    bit ((after (.registerWrite (.fn 0) 0x2040 16 0x405) up).dev.regN 2 oStat) 2 = true := by decide +kernel

/-- R62: a tail inside the ring of two entries is taken, one outside sets DOORBELL_ERR. -/
theorem test_doorbell : ((after (.sqTailDoorbell (.fn 0) 63 15 1) ringed).dev.queue 63 15).sqTail = 1 ∧
    ((after (.sqTailDoorbell (.fn 0) 63 15 2) ringed).dev.queue 63 15).doorbellErr = true := by decide +kernel

/-- R62, R75: the entry of the ring joins the journal, and SQ_HEAD passes it. -/
theorem test_admit : ((after (.commandAdmit 0 15 []) (ringWith fenceRaw)).dev.cmd? 1).map (·.raw) = some fenceRaw ∧
    ((after (.commandAdmit 0 15 []) (ringWith fenceRaw)).dev.queue 0 15).sqHead = 1 := by decide +kernel

/-- R79: a FENCE waits for an earlier command of the queues it names. -/
theorem test_fence : ((after (.fence 2) (behind (secondFence 1) 0)).dev.cmd? 2).map (·.live) = some true ∧
    ((after (.fence 2) (behind (secondFence 0xFE) 0)).dev.cmd? 2).map (·.live) = some false := by decide +kernel

/-- R175: raising ends HOIST.CYCLES, 48, after it began. -/
theorem test_hoist : ((after (.hoistRaise 127) (arrayIn { hoist := .waiting, permit := true })).dev.array 127).hoist = .raising ∧
    (after (.hoistRaiseEnd 127) (arrayIn { hoist := .raising })).dev.now = 48 := by decide +kernel

/-- R275: the scan comes at the next multiple of 1,024 cycles and puts the tile on a reissue list. -/
theorem test_lease_scan : (after (.leaseScan 0) leased).dev.now = 1024 ∧
    ((after (.leaseScan 0) leased).dev.cmd? 1).map (fun c => c.work.dies.map (·.reissue)) = some [[{}]] := by decide +kernel

/-- R202: a read of an EMPTY slot waits, which TAG_WAITS counts. -/
theorem test_tag_wait : (after (.taggedAccess 63 9 .read) (taggedUp {})).dev.regN (pgSPD 63) 0x810 = 1 := by decide +kernel

/-- R222: a 64-bit fetch-and-add at address 8 returns what it finds. -/
theorem test_atomic : (after (.atomic 0 8 (.fetchAdd 64 5)) up).dev.bytesIn 0 0 8 8 = [5, 0, 0, 0, 0, 0, 0, 0] ∧
    (after (.atomic 0 8 (.fetchAdd 64 5)) up).dev.atomicOld = [0, 0, 0, 0, 0, 0, 0, 0] := by decide +kernel

/-- R440-R442: the message goes to its unit's inbox with its source, and then into the owner's receive ring. -/
theorem test_mail_send : (after (.mailSend 0 []) (mailing 0)).dev.inbox.map (·.target) = [99] := by decide +kernel
theorem test_mail_deliver : (after (.mailDeliver []) (mailing 1)).dev.inbox = [] ∧ ((after (.mailDeliver []) (mailing 1)).dev.part 0).mailRqTail = 1 := by decide +kernel

/-- R541: LINK_STATUS shows up, Gen 6 and eight lanes. -/
theorem test_link : (after (.hostLinkUp 6 8 false) up).dev.regN pgPCI 0x800 = 1 + 12 + 128 := by decide +kernel

/-- R533: 46,999 mV removes the loads, 47,000 mV does not. -/
theorem test_under_voltage : (after (.underVoltage 46999) up).power.good = false ∧ (after (.underVoltage 47000) up).power.good = true := by decide +kernel

/-- R544: a chunk raises the watermark by 1,024 blocks. -/
theorem test_chunk : (after (.hbmInitChunk []) (staged 13)).boot.water = 1024 := by decide +kernel

end Sys2Proof.Tests
end

section
/-! Monitors, supply, input power and Reef (R25, R495, R496, R499, R502): what each of Masthead's readings and decisions changes, and O58. -/

namespace Sys2Proof.Machine

/-! ### Registers that read as before -/

theorem Dev.RegsBut.refl (d : Dev) (keys : List Nat) : d.RegsBut d keys := fun _ _ _ _ => rfl

theorem Dev.RegsBut.trans {d e f : Dev} {keys : List Nat} (h : d.RegsBut e keys) (k : e.RegsBut f keys) : d.RegsBut f keys :=
  fun page off ho hk => (h page off ho hk).trans (k page off ho hk)

theorem Dev.RegsBut.mono {d e : Dev} {keys more : List Nat} (h : d.RegsBut e keys) (hs : keys ⊆ more) : d.RegsBut e more :=
  fun page off ho hk => h page off ho (fun hm => hk (hs hm))

theorem Dev.RegsBut_raise (d : Dev) (page i : Nat) : (d.raise page i).RegsBut d [regKey page oIntStat] :=
  fun _ _ _ h => d.reg_raise_other i (by simpa using h)

theorem Dev.RegsBut_log (d : Dev) (e : LogEntry) : (d.log e).RegsBut d [regKey pgMGT oIntStat] :=
  fun _ _ _ h => d.reg_log_other e (by simpa using h)

/-- A register outside the listed ones, as a number. -/
theorem Dev.RegsBut.regN {d e : Dev} {keys : List Nat} (h : d.RegsBut e keys) {page off : Nat} (ho : off < 0x1000) (hk : regKey page off ∉ keys) :
    d.regN page off = e.regN page off := by unfold Dev.regN; rw [h page off ho hk]

/-! ### What monitors and Reef can change at all -/

/-- Only registers, Reef's record, the error log, the host interface's pending vectors and what is sent differ. -/
def Dev.Recorded (e d : Dev) : Prop :=
  ∃ r f a b c x y, e = { d with regs := r, reef := f, elog := a, elogSeq := b, flashLog := c, pci := x, sent := y }

theorem Dev.Recorded.refl (d : Dev) : d.Recorded d := ⟨_, _, _, _, _, _, _, rfl⟩

theorem Dev.Recorded.trans {d e f : Dev} (h : d.Recorded e) (k : e.Recorded f) : d.Recorded f := by
  obtain ⟨_, _, _, _, _, _, _, rfl⟩ := h
  obtain ⟨_, _, _, _, _, _, _, rfl⟩ := k
  exact ⟨_, _, _, _, _, _, _, rfl⟩

theorem Dev.Recorded.setReg (d : Dev) (page off : Nat) (v : Word) : (d.setReg page off v).Recorded d := ⟨_, _, _, _, _, _, _, rfl⟩

theorem Dev.Recorded.raise (d : Dev) (page i : Nat) : (d.raise page i).Recorded d := by
  obtain ⟨x, y, h⟩ := d.raise_form page i
  exact ⟨_, _, _, _, _, _, _, h⟩

theorem Dev.Recorded.log (d : Dev) (e : LogEntry) : (d.log e).Recorded d := by
  obtain ⟨a, b, c, r, x, y, h⟩ := d.log_form e
  exact ⟨_, _, _, _, _, _, _, h⟩

theorem Dev.Recorded.now {d e : Dev} (h : d.Recorded e) : d.now = e.now := by obtain ⟨_, _, _, _, _, _, _, rfl⟩ := h; rfl

theorem Dev.Recorded.cmds {d e : Dev} (h : d.Recorded e) : d.cmds = e.cmds := by obtain ⟨_, _, _, _, _, _, _, rfl⟩ := h; rfl

theorem Dev.Recorded.same {d e : Dev} (h : d.Recorded e) : d.SameMemory e := by
  obtain ⟨_, _, _, _, _, _, _, rfl⟩ := h; exact ⟨rfl, rfl, rfl⟩

/-- As `Dev.Recorded`, and of the registers only the listed ones differ. -/
structure Dev.RecordedBut (e d : Dev) (keys : List Nat) : Prop where
  recorded : e.Recorded d
  regs : e.RegsBut d keys

theorem Dev.RecordedBut.refl (d : Dev) (keys : List Nat) : d.RecordedBut d keys := ⟨.refl d, .refl d keys⟩

theorem Dev.RecordedBut.trans {d e f : Dev} {keys : List Nat} (h : d.RecordedBut e keys) (k : e.RecordedBut f keys) : d.RecordedBut f keys :=
  ⟨h.recorded.trans k.recorded, h.regs.trans k.regs⟩

theorem Dev.RecordedBut.mono {d e : Dev} {keys more : List Nat} (h : d.RecordedBut e keys) (hs : keys ⊆ more) : d.RecordedBut e more :=
  ⟨h.recorded, h.regs.mono hs⟩

theorem Dev.RecordedBut.setReg (d : Dev) {page off : Nat} {keys : List Nat} (v : Word) (h : regKey page off ∈ keys) :
    (d.setReg page off v).RecordedBut d keys := ⟨.setReg d page off v, (Dev.RegsBut_setReg d page off v).mono (by simpa using h)⟩

theorem Dev.RecordedBut.raise (d : Dev) {page : Nat} {keys : List Nat} (i : Nat) (h : regKey page oIntStat ∈ keys) :
    (d.raise page i).RecordedBut d keys := ⟨.raise d page i, (d.RegsBut_raise page i).mono (by simpa using h)⟩

/-- As `Dev.Recorded`, with Reef's step and every register but MGT's INT_STAT as they were: what a log entry or an alert can change. -/
structure Dev.Notified (e d : Dev) : Prop extends Dev.RecordedBut e d [regKey pgMGT oIntStat] where
  step : e.reef.step = d.reef.step

theorem Dev.Notified.refl (d : Dev) : d.Notified d := ⟨.refl d _, rfl⟩

theorem Dev.Notified.trans {d e f : Dev} (h : d.Notified e) (k : e.Notified f) : d.Notified f :=
  ⟨h.toRecordedBut.trans k.toRecordedBut, h.step.trans k.step⟩

theorem Dev.Notified.log (d : Dev) (e : LogEntry) : (d.log e).Notified d := ⟨⟨.log d e, d.RegsBut_log e⟩, by simp⟩

theorem Dev.Notified.raise (d : Dev) (i : Nat) : (d.raise pgMGT i).Notified d := ⟨.raise d i (by simp), by simp⟩

theorem Dev.Notified.withReef (d : Dev) {r : Reef} (h : r.step = d.reef.step) : ({ d with reef := r } : Dev).Notified d :=
  ⟨⟨⟨_, _, _, _, _, _, _, rfl⟩, fun _ _ _ _ => rfl⟩, h⟩

theorem Dev.Notified.withSent (d : Dev) (x : List Sent) : ({ d with sent := x } : Dev).Notified d :=
  ⟨⟨⟨_, _, _, _, _, _, _, rfl⟩, fun _ _ _ _ => rfl⟩, rfl⟩

/-- Active copies of shadowed registers read as before. -/
theorem Dev.Notified.active {d e : Dev} (h : d.Notified e) {page off : Nat} (hl : 0x40 ≤ off) (ho : off < 0x400) : d.active page off = e.active page off :=
  h.regs.regN (by omega) (by rw [List.mem_singleton]; exact regKey_off_ne (by omega) (by decide) (by unfold oIntStat; omega))

/-! ### Thermal entries, the emergency and the alert pin (R494, R500) -/

theorem Dev.Notified.logThermal (d : Dev) (page sensor : Nat) (t : Int) : (d.logThermal page sensor t).Notified d := .log d _

theorem Dev.Notified.logStack (d : Dev) : d.logStack.Notified d := .logThermal d _ _ _

theorem Dev.Notified.logJunction (d : Dev) : d.logJunction.Notified d := by
  unfold Dev.logJunction
  split
  · exact .logThermal d _ _ _
  · exact .refl d

theorem Dev.logStack_reef (d : Dev) : d.logStack.reef = d.reef := d.log_reef _

theorem Dev.logJunction_reef (d : Dev) : d.logJunction.reef = d.reef := by
  unfold Dev.logJunction
  split
  · exact d.log_reef _
  · rfl

theorem Dev.Notified.emergencyCheck (d : Dev) : d.emergencyCheck.Notified d := by
  unfold Dev.emergencyCheck
  dsimp only
  split
  · exact .refl d
  · split
    · split
      · exact (Dev.Notified.logJunction _).trans (.withReef d rfl)
      · exact (Dev.Notified.logStack _).trans (.withReef d rfl)
    · exact .withReef d rfl

theorem State.refreshAlert_notified (s : State) : s.refreshAlert.dev.Notified s.dev := by
  unfold State.refreshAlert
  dsimp only
  split
  · exact .refl _
  · dsimp only
    split
    · exact (Dev.Notified.raise _ 4).trans (.withSent _ _)
    · exact .withSent _ _

theorem State.refreshAlert_reef (s : State) : s.refreshAlert.dev.reef = s.dev.reef := by
  unfold State.refreshAlert
  dsimp only
  split
  · rfl
  · dsimp only; split
    · simp
    · rfl

theorem State.refreshAlert_excess (s : State) : s.refreshAlert.mgmt.excess = s.mgmt.excess := by
  unfold State.refreshAlert
  dsimp only
  split <;> rfl

theorem State.heat_notified (s : State) : s.heat.dev.Notified s.dev :=
  (State.refreshAlert_notified _).trans ((Dev.Notified.emergencyCheck _).trans (.withReef s.dev rfl))

/-! ### The input power (R502) -/

/-- R502: a reading of the input power is kept; an entry of the log may follow. -/
theorem State.powerReading_notified (s : State) (w : Nat) : (s.powerReading w).dev.Notified (s.dev.setReg pgMGT 0x810 (BitVec.ofNat 32 w)) := by
  unfold State.powerReading
  dsimp only
  split
  · exact .log _ _
  · exact .refl _

theorem State.powerReading_reef (s : State) (w : Nat) : (s.powerReading w).dev.reef = s.dev.reef := by
  unfold State.powerReading
  dsimp only
  split
  · simp
  · rfl

/-- A reading's alert compares it with 110% of the step's power. -/
theorem State.powerReading_excess (s : State) (w : Nat) : (s.powerReading w).mgmt.excess = decide (11 * reefWatts s.dev.reef.step ≤ 10 * w) := rfl

/-- The command POWER_EXCESS while Masthead runs. -/
theorem State.powerExcess_effect (s : State) (w : Nat) (hm : s.masthead = true) :
    (s.powerExcess w).dev.Notified (s.dev.setReg pgMGT 0x810 (BitVec.ofNat 32 w)) ∧ (s.powerExcess w).dev.reef = s.dev.reef ∧
    (s.powerExcess w).mgmt.excess = decide (11 * reefWatts s.dev.reef.step ≤ 10 * w) := by
  have he : s.powerExcess w = (s.powerReading w).refreshAlert := if_pos hm
  rw [he]
  exact ⟨(State.refreshAlert_notified _).trans (s.powerReading_notified w), (State.refreshAlert_reef _).trans (s.powerReading_reef w),
    (State.refreshAlert_excess _).trans (s.powerReading_excess w)⟩

/-! ### The readings of a die (R495) -/

/-- A row of registers at consecutive offsets given values. -/
def Dev.setRow (d : Dev) (page off n : Nat) (f : Nat → Word) : Dev := (List.range n).foldl (fun d i => d.setReg page (off + 4 * i) (f i)) d

theorem Dev.setRow_succ (d : Dev) (page off n : Nat) (f : Nat → Word) :
    d.setRow page off (n + 1) f = (d.setRow page off n f).setReg page (off + 4 * n) (f n) := by simp [Dev.setRow, List.range_succ]

theorem Dev.Recorded.setRow (d : Dev) (page off n : Nat) (f : Nat → Word) : (d.setRow page off n f).Recorded d := by
  induction n with
  | zero => exact .refl d
  | succ n ih => rw [Dev.setRow_succ]; exact (Dev.Recorded.setReg _ _ _ _).trans ih

theorem Dev.reg_setRow_same (d : Dev) (page off n : Nat) (f : Nat → Word) {i : Nat} (hi : i < n) : (d.setRow page off n f).reg page (off + 4 * i) = f i := by
  induction n with
  | zero => omega
  | succ n ih =>
    rw [Dev.setRow_succ]
    by_cases h : i = n
    · subst h; exact Dev.reg_setReg_same _ _ _ _
    · rw [Dev.reg_setReg_other _ _ (regKey_same_page_ne (by omega))]; exact ih (by omega)

theorem Dev.reg_setRow_other (d : Dev) (page off n : Nat) (f : Nat → Word) {o : Nat} (ho : o < off ∨ off + 4 * n ≤ o) :
    (d.setRow page off n f).reg page o = d.reg page o := by
  induction n with
  | zero => rfl
  | succ n ih => rw [Dev.setRow_succ, Dev.reg_setReg_other _ _ (regKey_same_page_ne (by omega))]; exact ih (by omega)

/-- The registers of a die as a sample's readings fill them, with its hottest reading. -/
def Dev.sampled (d : Dev) (die : Nat) (x : MonSample) (top : Word) : Dev :=
  (((d.setRow (pgMON die) 0x800 16 (fun i => BitVec.ofNat 32 (ofSigned 16 (x.temps.getD i 0)))).setReg (pgMON die) 0x840 top).setReg
    (pgMON die) 0x844 (BitVec.ofNat 32 x.process)).setRow (pgMON die) 0x850 8 (fun r => BitVec.ofNat 32 (x.rails.getD r 0))

theorem Dev.Recorded.sampled (d : Dev) (die : Nat) (x : MonSample) (top : Word) : (d.sampled die x top).Recorded d :=
  (Dev.Recorded.setRow _ _ _ _ _).trans ((Dev.Recorded.setReg _ _ _ _).trans ((Dev.Recorded.setReg _ _ _ _).trans (.setRow d _ _ _ _)))

theorem Dev.sampled_temps (d : Dev) (die : Nat) (x : MonSample) (top : Word) {i : Nat} (hi : i < 16) :
    (d.sampled die x top).reg (pgMON die) (0x800 + 4 * i) = BitVec.ofNat 32 (ofSigned 16 (x.temps.getD i 0)) := by
  unfold Dev.sampled
  rw [Dev.reg_setRow_other _ _ _ _ _ (by omega), Dev.reg_setReg_other _ _ (regKey_same_page_ne (by omega)),
    Dev.reg_setReg_other _ _ (regKey_same_page_ne (by omega)), Dev.reg_setRow_same _ _ _ _ _ hi]

theorem Dev.sampled_rails (d : Dev) (die : Nat) (x : MonSample) (top : Word) {r : Nat} (hr : r < 8) :
    (d.sampled die x top).reg (pgMON die) (0x850 + 4 * r) = BitVec.ofNat 32 (x.rails.getD r 0) := Dev.reg_setRow_same _ _ _ _ _ hr

/-- The registers of a die that tell of its readings: the count of rails out of range and INT_STAT. -/
def monKeys (die : Nat) : List Nat := [regKey (pgMON die) 0x870, regKey (pgMON die) oIntStat]

/-- An interrupt of a die's monitors that a condition raises. -/
theorem Dev.RecordedBut.raiseIf (d : Dev) (die : Nat) (c : Bool) (i : Nat) :
    (if c then d.raise (pgMON die) i else d).RecordedBut d (monKeys die) := by
  split
  · exact .raise d i (by simp [monKeys])
  · exact .refl d _

/-- Rails out of range, where there are any, are counted and raise an interrupt. -/
theorem Dev.RecordedBut.countRails (d : Dev) (die off : Nat) :
    (if off = 0 then d else (d.bump (pgMON die) 0x870 off).raise (pgMON die) 2).RecordedBut d (monKeys die) := by
  split
  · exact .refl d _
  · exact (Dev.RecordedBut.raise _ 2 (by simp [monKeys])).trans (.setReg d _ (by simp [monKeys]))

/-- A sample fills the die's readings; then it only counts rails out of range and raises the die's interrupts. -/
theorem Dev.monitorRegs_effect (d : Dev) (die : Nat) (x : MonSample) : ∃ top, (d.monitorRegs die x).RecordedBut (d.sampled die x top) (monKeys die) := by
  unfold Dev.monitorRegs
  extract_lets g was hot emergency d1 top d2 d3 off d4 now d5
  have hread : d3 = d.sampled die x (BitVec.ofNat 32 (ofSigned 16 top.2.2 + top.2.1 * 65536)) := rfl
  have hrest := (Dev.RecordedBut.raiseIf d5 die (now emergency && !was emergency) 1).trans
    ((Dev.RecordedBut.raiseIf d4 die _ 0).trans (.countRails d3 die off))
  rw [hread] at hrest
  exact ⟨_, hrest⟩

theorem Dev.Recorded.monitorRegs (d : Dev) (die : Nat) (x : MonSample) : (d.monitorRegs die x).Recorded d := by
  obtain ⟨top, h⟩ := d.monitorRegs_effect die x
  exact h.recorded.trans (.sampled d die x top)

/-- No register of the readings is one of them. -/
theorem reading_notMem_monKeys (die : Nat) {off : Nat} (hl : 0x800 ≤ off) (ho : off < 0x870) : regKey (pgMON die) off ∉ monKeys die := by
  simp only [monKeys, List.mem_cons, List.not_mem_nil, or_false, regKey, oIntStat]; omega

theorem Dev.monitorRegs_temps (d : Dev) (die : Nat) (x : MonSample) {i : Nat} (hi : i < 16) :
    (d.monitorRegs die x).reg (pgMON die) (0x800 + 4 * i) = BitVec.ofNat 32 (ofSigned 16 (x.temps.getD i 0)) := by
  obtain ⟨top, h⟩ := d.monitorRegs_effect die x
  rw [h.regs _ _ (by omega) (reading_notMem_monKeys die (by omega) (by omega)), d.sampled_temps die x top hi]

theorem Dev.monitorRegs_rails (d : Dev) (die : Nat) (x : MonSample) {r : Nat} (hr : r < 8) :
    (d.monitorRegs die x).reg (pgMON die) (0x850 + 4 * r) = BitVec.ofNat 32 (x.rails.getD r 0) := by
  obtain ⟨top, h⟩ := d.monitorRegs_effect die x
  rw [h.regs _ _ (by omega) (reading_notMem_monKeys die (by omega) (by omega)), d.sampled_rails die x top hr]

/-! ### A sample (R495) -/

/-- The registers of MGT that a sample can change: INT_STAT, the input's readings and the coolant's. -/
def sampleKeys : List Nat := [regKey pgMGT oIntStat, regKey pgMGT 0x808, regKey pgMGT 0x80C, regKey pgMGT 0x810, regKey pgMGT 0x814]

/-- The registers of a die's monitors are none of them. -/
theorem pgMON_notMem_sampleKeys (die : Nat) {off : Nat} (ho : off < 0x1000) : regKey (pgMON die) off ∉ sampleKeys := by
  simp only [sampleKeys, List.mem_cons, List.not_mem_nil, or_false, regKey, pgMON, pgMGT, oIntStat]; omega

theorem Dev.Notified.sample {d e : Dev} (h : d.Notified e) : d.RecordedBut e sampleKeys := h.toRecordedBut.mono (by simp [sampleKeys])

/-- The coolant's temperatures, where a sample has them. -/
def Dev.noteCoolant (d : Dev) : Option (Nat × Nat) → Dev
  | some (i, o) => d.setReg pgMGT 0x814 (BitVec.ofNat 32 (i % 256 + o % 256 * 256))
  | none => d

/-- The input's voltage, current and power, where a sample has them. -/
def State.noteInput (s : State) : Option (Nat × Nat × Nat) → State
  | some (mv, ma, w) =>
    ({ s with dev := (s.dev.setReg pgMGT 0x808 (BitVec.ofNat 32 mv)).setReg pgMGT 0x80C (BitVec.ofNat 32 ma) } : State).powerReading w
  | none => s

theorem Dev.RecordedBut.noteCoolant (d : Dev) (c : Option (Nat × Nat)) : (d.noteCoolant c).RecordedBut d sampleKeys := by
  cases c with
  | none => exact .refl d _
  | some c => exact .setReg d _ (by simp [sampleKeys])

theorem State.noteInput_effect (s : State) (x : Option (Nat × Nat × Nat)) : (s.noteInput x).dev.RecordedBut s.dev sampleKeys := by
  cases x with
  | none => exact .refl s.dev _
  | some x =>
    exact (State.powerReading_notified _ _).sample.trans ((Dev.RecordedBut.setReg _ _ (by simp [sampleKeys])).trans
      ((Dev.RecordedBut.setReg _ _ (by simp [sampleKeys])).trans (.setReg _ _ (by simp [sampleKeys]))))

/-- A device at the end of a die's sampling period. -/
def State.atSample (s : State) (die : Nat) : Dev := { s.dev with now := max s.dev.now (s.dev.nextMs (s.mgmt.sampleAt.getD die 0)) }

/-- A sample on a running device from the end of stage 3 on: the die's readings, the coolant's, the input's, then what follows from them. -/
theorem State.monitorSample_eq (s : State) (die : Nat) (x : MonSample) (hr : s.running = true) (hs : s.mgmt.started = true) :
    ∃ m, s.monitorSample die x =
      (({ s with dev := ((s.atSample die).monitorRegs die x).noteCoolant x.coolant, mgmt := m } : State).noteInput x.input).heat := by
  refine ⟨{ s.mgmt with sampleAt := s.mgmt.sampleAt.set die (s.dev.nextMs (s.mgmt.sampleAt.getD die 0)) }, ?_⟩
  unfold State.monitorSample
  rw [if_neg (by simp [hr, hs])]
  obtain ⟨temps, process, rails, coolant, input⟩ := x
  cases coolant <;> cases input <;> rfl

theorem State.monitorSample_effect (s : State) (die : Nat) (x : MonSample) (hr : s.running = true) (hs : s.mgmt.started = true) :
    (s.monitorSample die x).dev.RecordedBut ((s.atSample die).monitorRegs die x) sampleKeys := by
  obtain ⟨m, h⟩ := s.monitorSample_eq die x hr hs
  rw [h]
  exact (State.heat_notified _).sample.trans ((State.noteInput_effect _ _).trans (.noteCoolant _ _))

/-- A sample only records: memory, commands and all else stay as they were at the end of the period. -/
theorem State.monitorSample_recorded (s : State) (die : Nat) (x : MonSample) (hr : s.running = true) (hs : s.mgmt.started = true) :
    (s.monitorSample die x).dev.Recorded (s.atSample die) :=
  (s.monitorSample_effect die x hr hs).recorded.trans (.monitorRegs _ die x)

theorem toNat_ofSigned16 (t : Int) : (BitVec.ofNat 32 (ofSigned 16 t)).toNat = ofSigned 16 t := by
  rw [BitVec.toNat_ofNat]
  exact Nat.mod_eq_of_lt (by unfold ofSigned; omega)

theorem State.monitorSample_temps (s : State) (die : Nat) (x : MonSample) (hr : s.running = true) (hs : s.mgmt.started = true) {i : Nat} (hi : i < 16) :
    (s.monitorSample die x).dev.regN (pgMON die) (0x800 + 4 * i) = ofSigned 16 (x.temps.getD i 0) := by
  unfold Dev.regN
  rw [(s.monitorSample_effect die x hr hs).regs _ _ (by omega) (pgMON_notMem_sampleKeys die (by omega)), Dev.monitorRegs_temps _ _ _ hi, toNat_ofSigned16]

theorem State.monitorSample_rails (s : State) (die : Nat) (x : MonSample) (hr : s.running = true) (hs : s.mgmt.started = true) {r : Nat} (h8 : r < 8) :
    (s.monitorSample die x).dev.reg (pgMON die) (0x850 + 4 * r) = BitVec.ofNat 32 (x.rails.getD r 0) := by
  rw [(s.monitorSample_effect die x hr hs).regs _ _ (by omega) (pgMON_notMem_sampleKeys die (by omega)), Dev.monitorRegs_rails _ _ _ h8]

/-! ### Supply steps (R496) -/

/-- The rail's new voltage: a step of 1 to 5 mV, kept inside the window. -/
def avsNext (w : Nat × Nat) (up : Bool) (old step : Nat) : Nat := min w.2 (max w.1 (if up then old + step else old - step))

/-- A voltage inside the window stays inside it. -/
theorem avsNext_window {w : Nat × Nat} (up : Bool) {old : Nat} (step : Nat) (hl : w.1 ≤ old) (hh : old ≤ w.2) :
    w.1 ≤ avsNext w up old step ∧ avsNext w up old step ≤ w.2 := by unfold avsNext; omega

/-- A step moves a voltage inside the window by at most its size, and not the other way. -/
theorem avsNext_step {w : Nat × Nat} (up : Bool) {old step : Nat} (hs : step ≤ 5) (hl : w.1 ≤ old) (hh : old ≤ w.2) :
    if up then old ≤ avsNext w up old step ∧ avsNext w up old step ≤ old + 5 else avsNext w up old step ≤ old ∧ old ≤ avsNext w up old step + 5 := by
  unfold avsNext
  cases up <;> simp only [if_true, if_false, Bool.false_eq_true] <;> omega

/-- The size of the step that a free word selects. -/
def avsStep (d : Dev) : Nat := 1 + (Config.freeWord d.fresh).toNat % 5

/-- The command AVS_ADJUST while Masthead runs. -/
theorem State.avsAdjust_dev (s : State) (die : Nat) (up : Bool) (hm : s.masthead = true) :
    (s.avsAdjust die up).dev =
      ({ s.dev with now := max s.dev.now (s.mgmt.avsAt.getD die 0 + msCycles), fresh := s.dev.fresh + 1 } : Dev).setReg (pgMON die) 0x848
        (BitVec.ofNat 32 (avsNext (Config.avsWindow die) up (s.dev.regN (pgMON die) 0x848) (avsStep s.dev))) := by
  unfold State.avsAdjust
  rw [if_neg (by simp [hm])]
  rfl

theorem State.avsAdjust_volts (s : State) (die : Nat) (up : Bool) (hm : s.masthead = true) (hw : (Config.avsWindow die).2 < 2 ^ 32) :
    (s.avsAdjust die up).dev.regN (pgMON die) 0x848 = avsNext (Config.avsWindow die) up (s.dev.regN (pgMON die) 0x848) (avsStep s.dev) := by
  rw [s.avsAdjust_dev die up hm, Dev.regN_setReg_same, BitVec.toNat_ofNat]
  exact Nat.mod_eq_of_lt (by unfold avsNext; omega)

/-! ### Reef's decision (R25, R499) -/

/-- A request goes a step deeper, or stays at its deepest. -/
theorem Dev.deepenJunction_effect (d : Dev) : d.deepenJunction.Notified d ∧ d.deepenJunction.reef.emergency = d.reef.emergency := by
  unfold Dev.deepenJunction
  split
  · exact ⟨.refl d, rfl⟩
  · exact ⟨(Dev.Notified.logJunction _).trans (.withReef d rfl), by rw [Dev.logJunction_reef]⟩

theorem Dev.deepenHbm_effect (d : Dev) : d.deepenHbm.Notified d ∧ d.deepenHbm.reef.emergency = d.reef.emergency := by
  unfold Dev.deepenHbm
  split
  · exact ⟨.refl d, rfl⟩
  · exact ⟨(Dev.Notified.logStack _).trans (.withReef d rfl), by rw [Dev.logStack_reef]⟩

/-- What one operation keeps, its repetition keeps. -/
theorem Dev.repeat_effect {f : Dev → Dev} (h : ∀ d, (f d).Notified d ∧ (f d).reef.emergency = d.reef.emergency) (n : Nat) (d : Dev) :
    ((List.range n).foldl (fun d _ => f d) d).Notified d ∧ ((List.range n).foldl (fun d _ => f d) d).reef.emergency = d.reef.emergency := by
  refine List.foldlRecOn (List.range n) (fun d _ => f d) (motive := fun e => e.Notified d ∧ e.reef.emergency = d.reef.emergency) ⟨.refl d, rfl⟩ ?_
  intro e he _ _
  exact ⟨(h e).1.trans he.1, (h e).2.trans he.2⟩

/-- The requests are brought up to date: neither the step nor the emergency changes. -/
theorem Dev.updateRequests_effect (d : Dev) : d.updateRequests.Notified d ∧ d.updateRequests.reef.emergency = d.reef.emergency := by
  unfold Dev.updateRequests
  extract_lets w n times j h d1 d2 r jb hb
  have hj := Dev.repeat_effect Dev.deepenJunction_effect j d
  have hh := Dev.repeat_effect Dev.deepenHbm_effect h d1
  exact ⟨Dev.Notified.trans (e := d2) (.withReef d2 rfl) (hh.1.trans hj.1), hh.2.trans hj.2⟩

/-- Whether a step meets the reservations depends on sessions, arrays and active copies, none of which a notice changes. -/
theorem Dev.Notified.stepMeets {d e : Dev} (h : d.Notified e) (step : Nat) : d.stepMeets step = e.stepMeets step := by
  have hc : ∀ p, d.coresOf p = e.coresOf p := fun p => by
    unfold Dev.coresOf; rw [h.active (by decide) (by decide), h.active (by decide) (by decide)]
  have hp : ∀ p r, d.peak p r = e.peak p r := by
    obtain ⟨_, _, _, _, _, _, _, rfl⟩ := h.recorded; exact fun _ _ => rfl
  have hs : d.inService = e.inService := by
    obtain ⟨_, _, _, _, _, _, _, rfl⟩ := h.recorded; rfl
  have hcap : ∀ p r, d.capacityAt p step r = e.capacityAt p step r := fun p r => by
    unfold Dev.capacityAt Dev.hoistable Dev.serviceArrays Dev.arraysOf Dev.tickN Dev.hbmShare Dev.fabShare
    rw [hc, hs, h.active (page := pgTICK) (by decide) (by decide), h.active (page := pgPART p) (by decide) (by decide)]
  unfold Dev.stepMeets Dev.owners
  simp only [hc, hp, hcap]

/-- The step selected for a target is no deeper, and meets the reservations unless it is step 0. -/
theorem Dev.deepestStep_spec (d : Dev) (target : Nat) :
    d.deepestStep target ≤ target ∧ (d.deepestStep target = 0 ∨ d.stepMeets (d.deepestStep target) = true) := by
  unfold Dev.deepestStep
  cases h : (List.range (target + 1)).reverse.find? d.stepMeets with
  | none => exact ⟨Nat.zero_le _, .inl rfl⟩
  | some x =>
    have hx : x ∈ (List.range (target + 1)).reverse := List.mem_of_find?_eq_some h
    have hm : d.stepMeets x = true := List.find?_some h
    rw [List.mem_reverse, List.mem_range] at hx
    exact ⟨Nat.le_of_lt_succ hx, .inr hm⟩

/-- Reef's target: the deepest request. -/
def Dev.reefTarget (d : Dev) : Nat := (d.reefRequests.map (·.1)).foldl max 0

/-- The step that Masthead selects. -/
def Dev.reefSelected (d : Dev) : Nat := if d.reef.emergency then d.reefTarget else d.deepestStep d.reefTarget

theorem Dev.selectStep_target (d : Dev) : d.selectStep.reef.target = d.reefTarget := rfl

theorem Dev.Notified.selectStep (d : Dev) : d.selectStep.Notified d := .withReef d rfl

/-- Masthead's own request bounds the target from below. -/
theorem Dev.mgtRequest_le_target (d : Dev) : d.active pgMGT 0x040 % 4 ≤ d.reefTarget := by
  simp only [Dev.reefTarget, Dev.reefRequests, List.map_cons, List.map_nil, List.foldl_cons, List.foldl_nil]
  exact Nat.le_max_right _ _

theorem Dev.reefSelected_spec (d : Dev) :
    d.reefSelected ≤ d.reefTarget ∧ (d.reef.emergency = false → d.reefSelected = 0 ∨ d.stepMeets d.reefSelected = true) := by
  unfold Dev.reefSelected
  cases d.reef.emergency with
  | true => exact ⟨Nat.le_refl _, nofun⟩
  | false => exact ⟨(d.deepestStep_spec _).1, fun _ => (d.deepestStep_spec _).2⟩

/-- A decision is for the selected step, where that is another than the step in force. -/
theorem Dev.selectStep_decided (d : Dev) {x t : Nat} (h : d.selectStep.reef.decided = some (x, t)) : x = d.reefSelected ∧ x ≠ d.reef.step := by
  have he : d.selectStep.reef.decided = if d.reefSelected = d.reef.step then none else match d.reef.decided with
    | some (x, t) => if x = d.reefSelected then some (x, t) else some (d.reefSelected, d.now)
    | none => some (d.reefSelected, d.now) := rfl
  rw [he] at h
  split at h
  · cases h
  · rename_i hn
    have hx : x = d.reefSelected := by
      split at h
      · split at h <;> cases h
        · assumption
        · rfl
      · cases h; rfl
    exact ⟨hx, hx ▸ hn⟩

/-- The command REEF_DECISION while Masthead runs. -/
theorem State.reefDecision_effect (s : State) (hm : s.masthead = true) :
    s.reefDecision.dev.Notified s.dev ∧ s.reefDecision.dev.reef = s.dev.updateRequests.selectStep.reef := by
  unfold State.reefDecision
  rw [if_neg (by simp [hm])]
  exact ⟨(State.refreshAlert_notified _).trans ((Dev.Notified.selectStep _).trans s.dev.updateRequests_effect.1), State.refreshAlert_reef _⟩

/-- R25: while Masthead is down the step stays. -/
theorem State.reefDecision_down (s : State) (hm : s.masthead = false) : s.reefDecision = s := if_pos (by simp [hm])

/-- What a decision selects, by the step, the emergency and the reservations of the state before it. -/
theorem State.reefDecision_decided (s : State) (hm : s.masthead = true) {x t : Nat} (h : s.reefDecision.dev.reef.decided = some (x, t)) :
    x ≠ s.dev.reef.step ∧ x ≤ s.reefDecision.dev.reef.target ∧ (s.dev.reef.emergency = false → x = 0 ∨ s.dev.stepMeets x = true) := by
  obtain ⟨hn, he⟩ := s.dev.updateRequests_effect
  rw [(s.reefDecision_effect hm).2] at h ⊢
  obtain ⟨rfl, hne⟩ := Dev.selectStep_decided _ h
  obtain ⟨hle, hmeets⟩ := s.dev.updateRequests.reefSelected_spec
  refine ⟨hn.step ▸ hne, hle, fun hcool => ?_⟩
  rw [← hn.stepMeets]
  exact hmeets (he.trans hcool)

theorem State.reefDecision_target (s : State) (hm : s.masthead = true) : s.dev.active pgMGT 0x040 % 4 ≤ s.reefDecision.dev.reef.target := by
  rw [(s.reefDecision_effect hm).2, Dev.selectStep_target, ← s.dev.updateRequests_effect.1.active (by decide) (by decide)]
  exact Dev.mgtRequest_le_target _

/-! ### O58 -/

theorem exec_monitorSample {die : Nat} (x : MonSample) (s : State) (hd : die < 4) : exec (.monitorSample die x) s = .next (s.monitorSample die x) :=
  if_pos (by simpa [dieOk] using hd)

theorem exec_avsAdjust {die : Nat} (up : Bool) (s : State) (hd : die < 4) : exec (.avsAdjust die up) s = .next (s.avsAdjust die up) :=
  if_pos (by simpa [dieOk] using hd)

theorem exec_powerExcess (w : Nat) (s : State) : exec (.powerExcess w) s = .next (s.powerExcess w) := rfl

theorem exec_reefDecision (s : State) : exec .reefDecision s = .next s.reefDecision := rfl

/-- Settles O58: each command's effect as the lemmas above give it, with Masthead down as the case in which a decision does nothing. -/
theorem monitorsAndReef : Obligations.MonitorsAndReef := by
  unfold Obligations.MonitorsAndReef
  intro s
  refine ⟨fun die x hd hr hs => ?_, fun die up hd hm => ?_, fun w hw hm => ?_, fun hm => ?_, fun hm => ?_⟩
  · have hrec := s.monitorSample_recorded die x hr hs
    exact ⟨_, exec_monitorSample x s hd, hrec.now, fun i hi => s.monitorSample_temps die x hr hs hi, fun r h8 => s.monitorSample_rails die x hr hs h8,
      hrec.cmds, hrec.same⟩
  · have hdev := s.avsAdjust_dev die up hm
    refine ⟨_, exec_avsAdjust up s hd, by rw [hdev]; rfl, by rw [hdev]; exact Dev.RegsBut_setReg _ _ _ _, by rw [hdev]; rfl,
      by rw [hdev]; exact ⟨rfl, rfl, rfl⟩, fun hl hh hw => ?_⟩
    rw [s.avsAdjust_volts die up hm hw]
    obtain ⟨hlow, hhigh⟩ := avsNext_window up (avsStep s.dev) hl hh
    exact ⟨hlow, hhigh, avsNext_step up (by unfold avsStep; omega) hl hh⟩
  · obtain ⟨hn, hreef, hexcess⟩ := s.powerExcess_effect w hm
    have hrec := hn.recorded.trans (.setReg s.dev pgMGT 0x810 _)
    refine ⟨_, exec_powerExcess w s, ?_, hexcess, hreef, hrec.cmds, hrec.same⟩
    rw [hn.regs.regN (by decide) (by decide), Dev.regN_setReg_same, BitVec.toNat_ofNat, Nat.mod_eq_of_lt hw]
  · obtain ⟨hn, -⟩ := s.reefDecision_effect hm
    exact ⟨_, exec_reefDecision s, hn.step, fun x _ h => s.reefDecision_decided hm h, s.reefDecision_target hm, hn.recorded.cmds, hn.recorded.same⟩
  · rw [exec_reefDecision, s.reefDecision_down hm]

end Sys2Proof.Machine
end

section
/-! The frame tick and its sources (R28 to R35, R118): O48 and O50. -/

namespace Sys2Proof.Machine

/-! ### The edge -/

/-- R28, R29, R32: the clock right after an edge stands at the end of the window's length. -/
theorem Dev.nextEdge_clock (d : Dev) :
    SameClock d.nextEdge { d with now := max d.now (d.tick.edgeAt + d.windowLength),
                                  tick := { d.tick with count := (d.tick.count + 1) % 2 ^ 64, edgeAt := d.tick.edgeAt + d.windowLength,
                                                        lastEdge := max d.now (d.tick.edgeAt + d.windowLength) } } := by
  unfold Dev.nextEdge
  extract_lets len due tk d1 t d2 d3
  have h2 : SameClock d2 d1 := (SameClock.setReg _ _ _ _).trans ((SameClock.setReg _ _ _ _).trans (.setReg _ _ _ _))
  have h3 : SameClock d3 d1 := (SameClock.setReg _ _ _ _).trans h2
  exact .ite (SameClock.trans (e := d3) ⟨rfl, rfl, rfl, rfl⟩ h3) h3

/-- The command TICK_EDGE of a running module moves the clock as the edge itself does. -/
theorem State.tickEdge_clock (s : State) (env : Env) (hr : s.running = true) : SameClock (s.tickEdge env).dev s.dev.nextEdge := by
  have he : s.tickEdge env = ({ s with dev := s.dev.tickEdge env s.outside } : State).handoverStart.refreshAlert := if_neg (by simp [hr])
  rw [he]
  have hedge := SameClock.tickEdge s.dev env s.outside
  generalize s.dev.tickEdge env s.outside = d at hedge ⊢
  exact (SameClock.refreshAlert _).trans ((SameClock.handoverStart _).trans hedge)

/-- Settles O48: the clock is the one `Dev.nextEdge` sets, and an edge changes nothing but the device proper and Masthead. -/
theorem tickEdges : Obligations.TickEdges := by
  unfold Obligations.TickEdges
  intro s env hr
  have hclock := (s.tickEdge_clock env hr).trans s.dev.nextEdge_clock
  obtain ⟨d, m, hrest⟩ := s.tickEdge_devMgmt env
  refine ⟨s.tickEdge env, rfl, hclock.count, hclock.edgeAt, hclock.now, hclock.lastEdge.trans hclock.now.symm, ?_⟩
  rw [hrest]
  exact ⟨rfl, rfl, rfl, rfl⟩

/-! ### Sources (R30, R33, R35) -/

/-- The generator's state with an offset within 1 us measured: locked and out of holdover. -/
def Tick.lockedAt (x : Tick) (ns : Int) : Tick := { x with offsetNs := ns, seen := true, locked := true, holdover := false }

/-- What locking to a source leaves: the generator's state as given, with partitions, commands and memory as they were. -/
def Dev.TickSet (e d : Dev) (x : Tick) : Prop := e.tick = x ∧ e.parts = d.parts ∧ e.cmds = d.cmds ∧ e.SameMemory d

/-- An interrupt on the way changes none of these. -/
theorem Dev.TickSet.raise {e d : Dev} {x : Tick} (h : e.TickSet d x) (page i : Nat) : (e.raise page i).TickSet d x := by
  obtain ⟨htick, hparts, hcmds, hhbm, hhost, hspd⟩ := h
  exact ⟨by simp [htick], by simp [hparts], by simp [hcmds], by simp [hhbm], by simp [hhost], by simp [hspd]⟩

/-- R33: an offset within 1 us of the selected source locks the generator. -/
theorem Dev.tickOffset_near (d : Dev) {ns : Int} (hl : -1000 ≤ ns) (hh : ns ≤ 1000) (hs : d.tick.source ≠ 0) :
    (d.tickOffset ns).TickSet d (d.tick.lockedAt ns) := by
  have hset : ({ d with tick := d.tick.lockedAt ns } : Dev).TickSet d (d.tick.lockedAt ns) := ⟨rfl, rfl, rfl, rfl, rfl, rfl⟩
  unfold Dev.tickOffset
  rw [if_neg hs, if_pos ⟨hl, hh⟩]
  dsimp only
  split
  · exact hset
  · exact hset.raise pgTICK 1

/-- R33, R35: the loss of a source that has been seen begins holdover. -/
theorem Dev.tickLost_begins (d : Dev) (hs : d.tick.source ≠ 0) (hseen : d.tick.seen = true) (hh : d.tick.holdover = false) :
    d.tickLost = ((({ d with tick := { d.tick with locked := false, holdover := true } } : Dev).bump pgTICK 0x824 1).raise pgTICK 0).markHoldover := by
  unfold Dev.tickLost
  rw [if_neg hs, if_neg (by simp [hseen]), if_neg (by simp [hh])]

/-- A free-running generator, and one in holdover, have no source to lose. -/
theorem Dev.tickLost_again (d : Dev) (h : d.tick.source = 0 ∨ (d.tick.seen = true ∧ d.tick.holdover = true)) : d.tickLost = d := by
  unfold Dev.tickLost
  split
  · rfl
  · rename_i hs
    obtain ⟨hseen, hh⟩ := h.resolve_left hs
    rw [if_neg (by simp [hseen]), if_pos hh]

/-- R35: the marks of holdover stand in every partition's window. -/
theorem Dev.markHoldover_windows (d : Dev) : ∀ x ∈ d.markHoldover.parts, x.window.holdover = true := by
  unfold Dev.markHoldover
  simp only [List.mem_map]
  rintro _ ⟨_, _, rfl⟩
  rfl

/-- What the loss of a source changes. -/
theorem Dev.tickLost_effect (d : Dev) (hs : d.tick.source ≠ 0) (hseen : d.tick.seen = true) (hh : d.tick.holdover = false) :
    d.tickLost.tick = { d.tick with locked := false, holdover := true } ∧
    d.tickLost.regN pgTICK 0x824 = min (d.regN pgTICK 0x824 + 1) (2 ^ 32 - 1) ∧ (∀ x ∈ d.tickLost.parts, x.window.holdover = true) ∧
    d.tickLost.cmds = d.cmds ∧ d.tickLost.SameMemory d := by
  rw [d.tickLost_begins hs hseen hh]
  refine ⟨Dev.raise_tick _ _ _, ?_, Dev.markHoldover_windows _, Dev.raise_cmds _ _ _, Dev.raise_hbm _ _ _, Dev.raise_host _ _ _, Dev.raise_spd _ _ _⟩
  exact (Dev.regN_raise_other _ _ (regKey_same_page_ne (by decide))).trans (Dev.regN_bump_same _ _ _ _)

/-- R30: a message of the configured domain and port sets the PTP time, and its offset locks a generator that follows PTP. -/
theorem Dev.ptpMessage_near (d : Dev) {port domain : Nat} (seconds nano : Nat) {ns : Int} (hp : port = bits (d.active pgTICK 0x044) 8 5)
    (hd : domain = bits (d.active pgTICK 0x044) 0 8) (hs : d.tick.source = 1) (hl : -1000 ≤ ns) (hh : ns ≤ 1000) :
    (d.ptpMessage port domain seconds nano ns).TickSet d
      (Tick.lockedAt { d.tick with ptpBase := ((seconds * 1000000000 + nano : Nat) : Int) - ((d.now * 5 / 6 : Nat) : Int) } ns) := by
  unfold Dev.ptpMessage
  dsimp only
  rw [if_neg (by simp [hp, hd]), if_pos hs]
  exact Dev.tickOffset_near _ hl hh (by simp [hs])

/-- A message of another domain or port is not for the generator. -/
theorem Dev.ptpMessage_other (d : Dev) {port domain : Nat} (seconds nano : Nat) (ns : Int)
    (h : port ≠ bits (d.active pgTICK 0x044) 8 5 ∨ domain ≠ bits (d.active pgTICK 0x044) 0 8) : d.ptpMessage port domain seconds nano ns = d :=
  if_pos (by simpa using h)

/-- A command of a running device that leaves the device as it is leaves the state. -/
theorem onDevice_keep (s : State) {f : Dev → Dev} (hr : s.running = true) (h : f s.dev = s.dev) : onDevice s f = .next s := by
  unfold onDevice
  rw [s.onDev_running f hr, h]

/-- The same for a unit that the device has. -/
theorem onUnit_keep (s : State) {has : Bool} {f : Dev → Dev} (hu : has = true) (hr : s.running = true) (h : f s.dev = s.dev) :
    onUnit has s f = .next s := by
  subst hu
  exact onDevice_keep s hr h

/-- Settles O50: each command comes to `Dev.tickLost` or `Dev.tickOffset`, or to nothing where its source is not the selected one. -/
theorem tickSources : Obligations.TickSources := by
  unfold Obligations.TickSources
  intro s hr
  refine ⟨fun hs hseen hh => ?_, fun h => ?_, fun ns hl hh hs => ?_, fun ns hfar => ?_, fun ns hl hh hs => ?_, fun ns hs => ?_,
    fun ns hl hh hs => ?_, fun ns hs => ?_, fun port domain seconds nano ns hport hp hd hs hl hh => ?_,
    fun port domain seconds nano ns hport h => ?_⟩
  · exact ⟨_, onDevice_running s Dev.tickLost hr, s.dev.tickLost_effect hs hseen hh⟩
  · exact onDevice_keep s hr (s.dev.tickLost_again h)
  · refine ⟨_, onDevice_running s (·.tickLocked ns) hr, ?_⟩
    have he : s.dev.tickLocked ns = s.dev.tickOffset ns := if_pos ⟨hl, hh⟩
    rw [he]
    exact s.dev.tickOffset_near hl hh hs
  · exact onDevice_keep s hr (if_neg (by omega))
  · refine ⟨_, onDevice_running s (·.tickIn ns) hr, ?_⟩
    have he : s.dev.tickIn ns = s.dev.tickOffset ns := if_pos hs
    rw [he]
    exact s.dev.tickOffset_near hl hh (by omega)
  · exact onDevice_keep s hr (if_neg hs)
  · refine ⟨_, onDevice_running s (·.ppsIn ns) hr, ?_⟩
    have he : s.dev.ppsIn ns = s.dev.tickOffset ns := if_pos hs
    rw [he]
    exact s.dev.tickOffset_near hl hh (by omega)
  · exact onDevice_keep s hr (if_neg hs)
  · exact ⟨_, onUnit_running s (·.ptpMessage port domain seconds nano ns) hr (by simpa using hport),
      s.dev.ptpMessage_near seconds nano hp hd hs hl hh⟩
  · exact onUnit_keep s (by simpa using hport) hr (s.dev.ptpMessage_other seconds nano ns h)

end Sys2Proof.Machine
end

section
/-! Overruns (R55): O34. -/

namespace Sys2Proof.Machine

/-- What R55 asks of a command: it is live and started, in a session, and not yet in the throughput class. -/
structure Cmd.InSession (c : Cmd) : Prop where
  live : c.live = true
  started : c.started = true
  valid : c.sessionValid = true
  kept : c.throughput = false

/-- Such a command over its worst case changes class, is counted and raises OVERRUN. -/
theorem Dev.overrunIf_over {d : Dev} {u : Nat} {c : Cmd} {f : Cmd → Cmd} (hc : d.cmd? u = some c) (hs : c.InSession) (ho : (f c).overruns = true) :
    d.overrunIf u f = ((d.setCmd { c with throughput := true }).bump (pgPART c.part) 0x82C 1).raise (pgPART c.part) 4 := by
  unfold Dev.overrunIf
  rw [hc]
  exact if_pos (by simp [hs.live, hs.started, hs.valid, hs.kept, ho])

/-- A command within its worst case stays. -/
theorem Dev.overrunIf_within {d : Dev} {u : Nat} {c : Cmd} {f : Cmd → Cmd} (hc : d.cmd? u = some c) (ho : (f c).overruns = false) :
    d.overrunIf u f = d := by
  unfold Dev.overrunIf
  rw [hc]
  exact if_neg (by simp [ho])

/-- Commands are found as before after a counter and an interrupt. -/
theorem Dev.cmd?_bump_raise (d : Dev) (page off n i v : Nat) : ((d.bump page off n).raise page i).cmd? v = d.cmd? v := by
  unfold Dev.cmd?
  rw [Dev.raise_cmds]
  rfl

/-- Settles O34 by the two cases of `Dev.overrunIf`. -/
theorem overrunsAreDemoted : Obligations.OverrunsAreDemoted := by
  unfold Obligations.OverrunsAreDemoted
  intro s u c hr hc hl hst hv ht
  have hu : c.uid = u := Dev.cmd?_uid hc
  refine ⟨fun ho => ?_, fun ho => onDevice_keep s hr (Dev.overrunIf_within hc ho)⟩
  refine ⟨_, onDevice_running s (·.overrun u) hr, ?_⟩
  have he : s.dev.overrun u = _ := Dev.overrunIf_over hc ⟨hl, hst, hv, ht⟩ ho
  rw [he]
  refine ⟨?_, fun v hvu => ?_, ?_, Dev.bit_raise _ _ (by decide), Dev.raise_hbm _ _ _, Dev.raise_host _ _ _, Dev.raise_spd _ _ _⟩
  · rw [Dev.cmd?_bump_raise]
    exact s.dev.cmd_setCmd_at u c _ hc hu
  · rw [Dev.cmd?_bump_raise]
    exact s.dev.setCmd_other _ (hu ▸ hvu)
  · exact (Dev.regN_raise_other _ _ (regKey_same_page_ne (by decide))).trans (Dev.regN_bump_same _ _ _ _)

end Sys2Proof.Machine
end

section
/-! Request registers of a partition's page (R38, R43, R97, R423, R424, R440, R448, R450, R451): O22 and O23. -/

namespace Sys2Proof.Machine

/-! ### Fields of a masked write -/

theorem bits_low10 (v : Word) : bits (v &&& BitVec.ofNat 32 0x3FF).toNat 0 10 = v.toNat % 1024 := by
  rw [bits_zero, and_low10]; exact Nat.mod_mod _ _

theorem bits_low12 (v : Word) : bits (v &&& BitVec.ofNat 32 0xFFF).toNat 0 12 = v.toNat % 4096 := by
  rw [bits_zero, and_low12]; exact Nat.mod_mod _ _

theorem low16_of_masked (v : Word) : (v &&& BitVec.ofNat 32 0xFFFF).toNat % 65536 = v.toNat % 65536 := by
  rw [and_low16, Nat.mod_mod]

/-! ### Requests that a partition keeps -/

/-- One partition of the device is as given; the others and the commands are as they were. -/
structure Dev.PartSet (e d : Dev) (p : Nat) (x : Part) : Prop where
  inRange : p < e.parts.length
  own : e.part p = x
  others : ∀ q, q ≠ p → e.part q = d.part q
  cmds : e.cmds = d.cmds

theorem Dev.PartSet.refl (d : Dev) {p : Nat} (hp : p < d.parts.length) : d.PartSet d p (d.part p) := ⟨hp, rfl, fun _ _ => rfl, rfl⟩

/-- A change of that partition. -/
theorem Dev.PartSet.modPart {e d : Dev} {p : Nat} {x : Part} (h : e.PartSet d p x) (f : Part → Part) : (e.modPart p f).PartSet d p (f x) where
  inRange := by simpa [Dev.modPart, Dev.setPart] using h.inRange
  own := (e.part_modPart_same p f h.inRange).trans (congrArg f h.own)
  others q hq := (e.part_modPart_other f hq).trans (h.others q hq)
  cmds := h.cmds

/-- A change of anything but partitions and commands. -/
theorem Dev.PartSet.congr {e e' d : Dev} {p : Nat} {x : Part} (h : e.PartSet d p x) (hp : e'.parts = e.parts) (hc : e'.cmds = e.cmds) : e'.PartSet d p x := by
  have hpart : ∀ q, e'.part q = e.part q := fun q => by unfold Dev.part; rw [hp]
  exact ⟨hp ▸ h.inRange, (hpart p).trans h.own, fun q hq => (hpart q).trans (h.others q hq), hc.trans h.cmds⟩

/-- A request: one partition takes note of it, and memory is as it was. -/
def Dev.Requested (e d : Dev) (p : Nat) (x : Part) : Prop := e.part p = x ∧ (∀ q, q ≠ p → e.part q = d.part q) ∧ e.cmds = d.cmds ∧ e.SameMemory d

theorem Dev.PartSet.requested {e d : Dev} {p : Nat} {x : Part} (h : e.PartSet d p x) (hm : e.SameMemory d) : e.Requested d p x :=
  ⟨h.own, h.others, h.cmds, hm⟩

theorem Dev.modPart_requested (d : Dev) {p : Nat} (f : Part → Part) (hp : p < d.parts.length) : (d.modPart p f).Requested d p (f (d.part p)) :=
  ((Dev.PartSet.refl d hp).modPart f).requested ⟨rfl, rfl, rfl⟩

/-- The same after a write of a register. -/
theorem Dev.setReg_modPart_requested (d : Dev) (page off : Nat) (v : Word) {p : Nat} (f : Part → Part) (hp : p < d.parts.length) :
    ((d.setReg page off v).modPart p f).Requested d p (f (d.part p)) := (d.setReg page off v).modPart_requested f hp

/-- A write to the upper register of a pair gives the address that the pair then holds. -/
theorem Dev.liveAddr_written (d : Dev) (p lo : Nat) (v : Word) :
    (d.setReg (pgPART p) (lo + 4) (v &&& BitVec.ofNat 32 0xFFFF)).liveAddr p lo = d.regN (pgPART p) lo + v.toNat % 65536 * 2 ^ 32 := by
  unfold Dev.liveAddr
  rw [Dev.regN_setReg_same, Dev.regN_setReg_other _ _ (regKey_same_page_ne (by omega)), low16_of_masked]

/-- Settles O22: each write is served, and its register's effect is a change of the partition alone. -/
theorem requestsAreQueued : Obligations.RequestsAreQueued := by
  unfold Obligations.RequestsAreQueued
  intro s src p v hw hp hl
  refine ⟨?session, ?job, ?stream, ?rekey, ?sqTail, ?rqHead⟩
  case session =>
    refine ⟨_, partWrite_live s hw hp (by decide) rfl nofun, ?_⟩
    rw [Dev.live_sessionOpen, Dev.liveAddr_written]
    exact s.dev.setReg_modPart_requested _ _ _ _ hl
  case job =>
    refine ⟨_, partWrite_live s hw hp (by decide) rfl nofun, ?_⟩
    rw [Dev.live_jobOpen, Dev.liveAddr_written]
    exact s.dev.setReg_modPart_requested _ _ _ _ hl
  case stream =>
    refine ⟨_, partWrite_live s hw hp (by decide) rfl nofun, ?_⟩
    rw [Dev.live_streamOpen, Dev.liveAddr_written]
    exact s.dev.setReg_modPart_requested _ _ _ _ hl
  case rekey =>
    refine ⟨_, partWrite_live s hw hp (by decide) rfl nofun, ?_⟩
    rw [Dev.live_streamRekey, bits_low10]
    exact s.dev.modPart_requested _ hl
  case sqTail =>
    refine ⟨_, partWrite_live s hw hp (by decide) rfl nofun, ?_⟩
    rw [Dev.live_mailSqTail, low16_of_masked]
    exact s.dev.setReg_modPart_requested _ _ _ _ hl
  case rqHead =>
    refine ⟨_, partWrite_live s hw hp (by decide) rfl nofun, ?_⟩
    rw [Dev.live_mailRqHead, low16_of_masked]
    exact s.dev.setReg_modPart_requested _ _ _ _ hl

/-! ### Closes -/

/-- R43: an open session of the partition is marked as closing. -/
theorem Dev.closeSession_open {d : Dev} {p id : Nat} {x : Session} (h : d.session? p id = some x) (ho : x.closing = false) :
    d.closeSession p id = some (d.modSession id (fun s => { s with closing := true })) := by
  unfold Dev.closeSession
  rw [h]
  exact if_neg (by simp [ho])

/-- R424: a job of the partition is marked as closing. -/
theorem Dev.closeJob_own {d : Dev} {p id : Nat} {x : Job} (h : d.job? id = some x) (hp : x.part = p) :
    d.closeJob p id = d.modJob id (fun j => { j with closing := true }) := by
  unfold Dev.closeJob
  rw [h]
  exact if_pos hp

/-- R450: a stream of the partition is marked as closing. -/
theorem Dev.closeStream_own {d : Dev} {p id : Nat} {x : Stream} (h : d.stream? id = some x) (hp : x.part = p) :
    d.closeStream p id = d.setStream { x with closing := true } := by
  unfold Dev.closeStream
  rw [h]
  exact if_pos hp

/-! ### RESYNC (R97) -/

/-- The buffer that the RESYNC registers name. -/
def Dev.resyncBuf (d : Dev) (p : Nat) : Nat := d.regN (pgPART p) 0xC14 + d.regN (pgPART p) 0xC18 % 65536 * 2 ^ 32

/-- A request whose buffer passes the checks is kept pending. -/
theorem Dev.resyncRequest_kept (d : Dev) (p n : Nat) (hn : (d.part p).resyncPending = false) (hb : bit n 0 = true) (ha : d.resyncBuf p % 4096 = 0)
    (hv : rangeValid (d.resyncBuf p) (4096 * bits n 8 16) = true) :
    d.resyncRequest p n = (d.setReg (pgPART p) 0xC10 (BitVec.ofNat 32 (n &&& 0xFFFF00))).modPart p (fun x => { x with resyncPending := true }) := by
  have hbuf : (d.setReg (pgPART p) 0xC10 (BitVec.ofNat 32 (n &&& 0xFFFF00))).resyncBuf p = d.resyncBuf p := by
    unfold Dev.resyncBuf
    rw [Dev.regN_setReg_other _ _ (regKey_same_page_ne (by decide)), Dev.regN_setReg_other _ _ (regKey_same_page_ne (by decide))]
  rw [← hbuf] at ha hv
  unfold Dev.resyncRequest
  rw [if_neg (by simp [hn])]
  dsimp only
  rw [if_neg (by simp [hb])]
  unfold Dev.resyncBuf at ha hv
  rw [ha, hv]
  exact if_neg (by decide)

/-- The START bit of a write to RESYNC is within the register's mask. -/
theorem bit_zero_and_resync (v : Word) : bit (v &&& BitVec.ofNat 32 0xFFFF01).toNat 0 = v.getLsbD 0 := by
  show (v &&& BitVec.ofNat 32 0xFFFF01).getLsbD 0 = v.getLsbD 0
  rw [BitVec.getLsbD_and]
  exact Bool.and_true _

/-- Settles O23: each write is served, and marks the one it names among sessions, jobs or streams, or the partition. -/
theorem closesAreRequested : Obligations.ClosesAreRequested := by
  unfold Obligations.ClosesAreRequested
  intro s src p v hw hp
  refine ⟨fun x hx ho => ?session, fun x hx hown => ?job, fun x hx hown => ?stream, fun hn hl hb ha hv => ?resync⟩
  case session =>
    refine ⟨_, partWrite_live s hw hp (by decide) rfl nofun, ?_⟩
    rw [Dev.live_sessionClose, bits_low12, Dev.closeSession_open hx ho]
    exact ⟨find_closed_session _ _ _ _ hx, fun q id hid => find_other_session _ _ _ _ hid, rfl, rfl, rfl, rfl⟩
  case job =>
    refine ⟨_, partWrite_live s hw hp (by decide) rfl nofun, ?_⟩
    rw [Dev.live_jobClose, low16_of_masked, Dev.closeJob_own hx hown]
    exact ⟨find_closed_job _ _ _ hx, fun id hid => find_other_job _ _ _ hid, rfl, rfl, rfl, rfl⟩
  case stream =>
    have hid := Dev.stream_id hx
    refine ⟨_, partWrite_live s hw hp (by decide) rfl nofun, ?_⟩
    rw [Dev.live_streamClose, bits_low10, Dev.closeStream_own hx hown]
    exact ⟨find_set_stream _ _ x _ hid hx, fun id hne => find_other_stream _ _ _ _ hid hne, rfl, rfl, rfl, rfl⟩
  case resync =>
    refine ⟨_, partWrite_live s hw hp (by decide) rfl nofun, ?_⟩
    rw [Dev.live_resync, s.dev.resyncRequest_kept p _ hn ((bit_zero_and_resync v).trans hb) ha hv]
    exact s.dev.setReg_modPart_requested _ _ _ _ hl

end Sys2Proof.Machine
end

section
/-! Fields of a word: what replacing one leaves, and what a register of 32 bits shows of it. -/

namespace Sys2Proof.Machine

/-- Replacing a field changes the bits above its lowest only. -/
theorem setBits_split (v lo n x : Nat) : setBits v lo n x = 2 ^ lo * (v / 2 ^ lo - v / 2 ^ lo % 2 ^ n + x % 2 ^ n) + v % 2 ^ lo := by
  unfold setBits bits
  simp only [Nat.shiftLeft_eq, Nat.shiftRight_eq_div_pow]
  have hv := Nat.div_add_mod v (2 ^ lo)
  have hm := Nat.mod_le (v / 2 ^ lo) (2 ^ n)
  generalize v / 2 ^ lo = q at hv hm ⊢
  have hle : q % 2 ^ n * 2 ^ lo ≤ 2 ^ lo * q := by rw [Nat.mul_comm]; exact Nat.mul_le_mul_left _ hm
  rw [Nat.mul_add, Nat.mul_sub, Nat.mul_comm (2 ^ lo) (q % 2 ^ n), Nat.mul_comm (2 ^ lo) (x % 2 ^ n)]
  omega

theorem setBits_mod (v lo n x : Nat) : setBits v lo n x % 2 ^ lo = v % 2 ^ lo := by
  rw [setBits_split, Nat.mul_add_mod, Nat.mod_mod]

/-- The field replaced reads as its new value. -/
theorem bits_setBits_same (v lo n x : Nat) : bits (setBits v lo n x) lo n = x % 2 ^ n := by
  unfold bits
  rw [setBits_split, Nat.shiftRight_eq_div_pow, Nat.mul_add_div (Nat.two_pow_pos lo), Nat.div_eq_of_lt (Nat.mod_lt _ (Nat.two_pow_pos lo)), Nat.add_zero,
    Nat.add_mod, Nat.sub_mod_eq_zero_of_mod_eq (Nat.mod_mod _ _).symm, Nat.zero_add, Nat.mod_mod, Nat.mod_mod]

/-- A bit shows in as many low bits as reach it. -/
theorem bit_mod (v : Nat) {m i : Nat} (h : i < m) : bit (v % 2 ^ m) i = bit v i := by
  unfold bit
  rw [Nat.testBit_mod_two_pow, decide_eq_true h, Bool.true_and]

/-- A field shows in as many low bits as reach it. -/
theorem bits_mod (v : Nat) {m lo n : Nat} (h : lo + n ≤ m) : bits (v % 2 ^ m) lo n = bits v lo n := by
  refine Nat.eq_of_testBit_eq fun i => ?_
  unfold bits
  simp only [Nat.testBit_mod_two_pow, Nat.testBit_shiftRight]
  by_cases hi : i < n
  · rw [decide_eq_true (show lo + i < m by omega), Bool.true_and]
  · rw [decide_eq_false hi, Bool.false_and, Bool.false_and]

theorem bit_setBits_below (v n x : Nat) {lo i : Nat} (h : i < lo) : bit (setBits v lo n x) i = bit v i := by
  rw [← bit_mod _ h, setBits_mod, bit_mod _ h]

theorem bits_setBits_below (v n x : Nat) {lo l k : Nat} (h : l + k ≤ lo) : bits (setBits v lo n x) l k = bits v l k := by
  rw [← bits_mod _ h, setBits_mod, bits_mod _ h]

end Sys2Proof.Machine
end

section
/-! Commits at a command boundary (R109, R114, R115): what PAGE_STAT and the active copies hold after them. -/

namespace Sys2Proof.Machine

/-! ### PAGE_STAT -/

theorem Dev.bit_setStat (d : Dev) (page : Nat) {i : Nat} (h : i < 32) : bit ((d.setStat page i).regN page oStat) i = true := by
  unfold Dev.setStat
  rw [Dev.regN_setReg_same]
  show (d.reg page oStat ||| BitVec.ofNat 32 (1 <<< i)).getLsbD i = true
  rw [BitVec.getLsbD_or]
  simp [BitVec.getLsbD_ofNat, h, Nat.testBit_shiftLeft]

theorem Dev.bit_clearStat (d : Dev) (page i : Nat) : bit ((d.clearStat page i).regN page oStat) i = false := by
  unfold Dev.clearStat
  rw [Dev.regN_setReg_same]
  show (d.reg page oStat &&& ~~~ BitVec.ofNat 32 (1 <<< i)).getLsbD i = false
  rw [BitVec.getLsbD_and, BitVec.getLsbD_not]
  simp [BitVec.getLsbD_ofNat, Nat.testBit_shiftLeft]

theorem Dev.regN_setReject (d : Dev) (page reason word : Nat) :
    (d.setReject page reason word).regN page oStat = setBits (setBits (d.regN page oStat) 8 8 reason) 16 8 word % 2 ^ 32 := by
  unfold Dev.setReject
  rw [Dev.regN_setReg_same, BitVec.toNat_ofNat]

/-- REJECT_REASON and REJECT_WORD leave the flags of PAGE_STAT. -/
theorem Dev.bit_setReject (d : Dev) (page reason word : Nat) {i : Nat} (h : i < 8) :
    bit ((d.setReject page reason word).regN page oStat) i = bit (d.regN page oStat) i := by
  rw [Dev.regN_setReject, bit_mod _ (by omega), bit_setBits_below _ _ _ (by omega), bit_setBits_below _ _ _ h]

/-- REJECT_REASON reads as it was set. -/
theorem Dev.bits_setReject (d : Dev) (page word : Nat) {reason : Nat} (h : reason < 256) :
    bits ((d.setReject page reason word).regN page oStat) 8 8 = reason := by
  rw [Dev.regN_setReject, bits_mod _ (by omega), bits_setBits_below _ _ _ (by omega), bits_setBits_same]
  exact Nat.mod_eq_of_lt h

/-! ### Active copies -/

/-- R105: every shadowed register lies below the active copies. -/
theorem Block.shadowed_range (b : Block) : ∀ o ∈ b.shadowed, 0x40 ≤ o.1 ∧ o.1 < 0x400 := by cases b <;> decide

/-- Registers of a page copied 0x400 above themselves. -/
def Dev.copyUp (d : Dev) (page : Nat) (l : List (Nat × RegSpec)) : Dev := l.foldl (fun d o => d.setReg page (o.1 + 0x400) (d.reg page o.1)) d

theorem Dev.copyUp_cons (d : Dev) (page : Nat) (o : Nat × RegSpec) (l : List (Nat × RegSpec)) :
    d.copyUp page (o :: l) = (d.setReg page (o.1 + 0x400) (d.reg page o.1)).copyUp page l := rfl

/-- A copy that holds its register goes on to hold it. -/
theorem Dev.reg_copyUp_holds (page : Nat) (l : List (Nat × RegSpec)) (hl : ∀ o ∈ l, 0x40 ≤ o.1 ∧ o.1 < 0x400) {off : Nat} (ho : off < 0x400) (d : Dev)
    (h : d.reg page (off + 0x400) = d.reg page off) : (d.copyUp page l).reg page (off + 0x400) = d.reg page off := by
  induction l generalizing d with
  | nil => exact h
  | cons x l ih =>
    have hx := hl x (List.mem_cons_self ..)
    have hlow : (d.setReg page (x.1 + 0x400) (d.reg page x.1)).reg page off = d.reg page off :=
      Dev.reg_setReg_other _ _ (regKey_same_page_ne (by omega))
    rw [Dev.copyUp_cons, ← hlow]
    refine ih (fun o h => hl o (List.mem_cons_of_mem _ h)) _ (Eq.trans ?_ hlow.symm)
    by_cases he : off = x.1
    · rw [he, Dev.reg_setReg_same]
    · rw [Dev.reg_setReg_other _ _ (regKey_same_page_ne (by omega)), h]

/-- Each copy holds its register. -/
theorem Dev.reg_copyUp_above (page : Nat) (l : List (Nat × RegSpec)) (hl : ∀ o ∈ l, 0x40 ≤ o.1 ∧ o.1 < 0x400) (d : Dev) :
    ∀ o ∈ l, (d.copyUp page l).reg page (o.1 + 0x400) = d.reg page o.1 := by
  induction l generalizing d with
  | nil => nofun
  | cons x l ih =>
    have hx := hl x (List.mem_cons_self ..)
    have hl' : ∀ o ∈ l, 0x40 ≤ o.1 ∧ o.1 < 0x400 := fun o h => hl o (List.mem_cons_of_mem _ h)
    have hlow : ∀ off < 0x400, (d.setReg page (x.1 + 0x400) (d.reg page x.1)).reg page off = d.reg page off :=
      fun off ho => Dev.reg_setReg_other _ _ (regKey_same_page_ne (by omega))
    intro o ho
    rw [Dev.copyUp_cons, ← hlow o.1 (hl o ho).2]
    rcases List.mem_cons.mp ho with rfl | ho
    · exact Dev.reg_copyUp_holds page l hl' hx.2 _ ((Dev.reg_setReg_same _ _ _ _).trans (hlow _ hx.2).symm)
    · exact ih hl' _ o ho

theorem RegsSent.copyUp (d : Dev) (page : Nat) (l : List (Nat × RegSpec)) : RegsSent d (d.copyUp page l) := RegsSent.fold (fun d _ => .set d _ _ _) l d

theorem Dev.copyShadow_active {page i : Nat} {b : Block} (d : Dev) (hb : blockOf page = some (b, i)) : d.copyShadow page true = d.copyUp page b.shadowed := by
  unfold Dev.copyShadow
  rw [hb]
  rfl

/-! ### The point of effect (R109) -/

/-- The device without a page's pending commit. -/
def Dev.unqueued (d : Dev) (page : Nat) : Dev := { d with commits := d.commits.filter (fun k => k.page != page) }

/-- R109: a commit that fails a check sets REJECTED and its reason. -/
theorem Dev.settleCommit_rejected {d : Dev} {env : Env} {page : Nat} {r : Reject} (h : d.commitCheck env page = some r) :
    d.settleCommit env page = (((d.unqueued page).setStat page 1).setReject page r.reason (r.off / 4)).raise page 31 := by
  unfold Dev.settleCommit
  rw [h]
  rfl

/-- The registers of a page after a commit that is applied: active copies, generation, PAGE_STAT. -/
def Dev.committed (d : Dev) (page : Nat) (b : Block) : Dev :=
  ((((d.unqueued page).copyUp page b.shadowed).setReg page oGen (d.reg page oGen + 1)).clearStat page 3).setReject page 0 0

/-- Beyond its registers a commit of the command class acts on random numbers, pools of pages and scratchpads alone. -/
theorem Dev.applied_registers (old d : Dev) (env : Env) {page i : Nat} {b : Block} (hb : blockOf page = some (b, i)) (hc : b.tickClass = false)
    (hrng : b ≠ .rng) (hkvp : b ≠ .kvp) (hspd : b ≠ .spd) : old.applied d env page = d := by
  unfold Dev.applied
  rw [hb]
  cases b with
  | rng => exact absurd rfl hrng
  | kvp => exact absurd rfl hkvp
  | spd => exact absurd rfl hspd
  | part | fab | tick => exact absurd hc (by decide)
  | _ => rfl

theorem Dev.settleCommit_applied {d : Dev} {env : Env} {page i : Nat} {b : Block} (h : d.commitCheck env page = none) (hb : blockOf page = some (b, i))
    (hc : b.tickClass = false) (hrng : b ≠ .rng) (hkvp : b ≠ .kvp) (hspd : b ≠ .spd) : d.settleCommit env page = (d.committed page b).raise page 30 := by
  unfold Dev.settleCommit
  rw [h]
  dsimp only
  rw [Dev.applied_registers _ _ _ hb hc hrng hkvp hspd, Dev.copyShadow_active _ hb]
  rfl

/-- What a commit leaves but for registers: the page's own commit is gone, and commands and memory are as they were. -/
theorem Dev.unqueued_rest {d e : Dev} {page : Nat} (h : RegsSent (d.unqueued page) e) :
    e.commits = d.commits.filter (fun k => k.page != page) ∧ e.cmds = d.cmds ∧ e.SameMemory d := by
  obtain ⟨_, _, _, rfl⟩ := h
  exact ⟨rfl, rfl, rfl, rfl, rfl⟩

theorem RegsSent.committed (d : Dev) (page : Nat) (b : Block) : RegsSent (d.unqueued page) (d.committed page b) :=
  (RegsSent.copyUp _ _ _).trans ((RegsSent.set _ _ _ _).trans ((RegsSent.set _ _ _ _).trans (.set _ _ _ _)))

/-- A rejected commit: PAGE_STAT tells the reason, and no register but it and INT_STAT changes. -/
theorem Dev.settleCommit_reject_effect {d : Dev} {page : Nat} {r : Reject} (h : d.commitCheck [] page = some r) (hr : r.reason < 256) :
    bit ((d.settleCommit [] page).regN page oStat) 1 = true ∧ bits ((d.settleCommit [] page).regN page oStat) 8 8 = r.reason ∧
    (d.settleCommit [] page).commits = d.commits.filter (fun k => k.page != page) ∧
    (d.settleCommit [] page).RegsBut d [regKey page oStat, regKey page oIntStat] ∧
    (d.settleCommit [] page).cmds = d.cmds ∧ (d.settleCommit [] page).SameMemory d := by
  rw [Dev.settleCommit_rejected h]
  have hstat : regKey page oStat ≠ regKey page oIntStat := regKey_same_page_ne (by decide)
  obtain ⟨hcommits, hcmds, hmem⟩ := Dev.unqueued_rest (((RegsSent.set (d.unqueued page) _ _ _).trans (.set _ _ _ _)).trans (.raise _ page 31))
  refine ⟨?_, ?_, hcommits, ?_, hcmds, hmem⟩
  · rw [Dev.regN_raise_other _ _ hstat, Dev.bit_setReject _ _ _ _ (by decide)]
    exact Dev.bit_setStat _ _ (by decide)
  · rw [Dev.regN_raise_other _ _ hstat]
    exact Dev.bits_setReject _ _ _ hr
  · have hset : ∀ (e : Dev) (v : Word), (e.setReg page oStat v).RegsBut e [regKey page oStat, regKey page oIntStat] :=
      fun e v => (Dev.RegsBut_setReg e page oStat v).mono (by simp)
    exact ((Dev.RegsBut_raise _ page 31).mono (by simp)).trans ((hset _ _).trans (hset (d.unqueued page) _))

/-- An applied commit: the active copies hold the shadow, the generation counts it, and the shadow is clean. -/
theorem Dev.settleCommit_apply_effect {d : Dev} {page i : Nat} {b : Block} (h : d.commitCheck [] page = none) (hb : blockOf page = some (b, i))
    (hc : b.tickClass = false) (hrng : b ≠ .rng) (hkvp : b ≠ .kvp) (hspd : b ≠ .spd) :
    (d.settleCommit [] page).reg page oGen = d.reg page oGen + 1 ∧ bit ((d.settleCommit [] page).regN page oStat) 3 = false ∧
    (∀ o ∈ b.shadowed, (d.settleCommit [] page).reg page (o.1 + 0x400) = d.reg page o.1) ∧
    (d.settleCommit [] page).commits = d.commits.filter (fun k => k.page != page) ∧ (d.settleCommit [] page).cmds = d.cmds ∧
    (d.settleCommit [] page).SameMemory d := by
  rw [Dev.settleCommit_applied h hb hc hrng hkvp hspd]
  refine ⟨?_, ?_, fun o ho => ?_, Dev.unqueued_rest ((RegsSent.committed d page b).trans (.raise _ page 30))⟩
  · rw [Dev.reg_raise_other _ _ (regKey_same_page_ne (by decide))]
    unfold Dev.committed Dev.setReject Dev.clearStat
    rw [Dev.reg_setReg_other _ _ (regKey_same_page_ne (by decide)), Dev.reg_setReg_other _ _ (regKey_same_page_ne (by decide)), Dev.reg_setReg_same]
  · rw [Dev.regN_raise_other _ _ (regKey_same_page_ne (by decide))]
    unfold Dev.committed
    rw [Dev.bit_setReject _ _ _ _ (by decide)]
    exact Dev.bit_clearStat _ _ _
  · have hlow : ∀ low < 0x40, regKey page (o.1 + 0x400) ≠ regKey page low := fun low hl => regKey_same_page_ne (by omega)
    rw [Dev.reg_raise_other _ _ (hlow _ (by decide))]
    unfold Dev.committed Dev.setReject Dev.clearStat
    rw [Dev.reg_setReg_other _ _ (hlow _ (by decide)), Dev.reg_setReg_other _ _ (hlow _ (by decide)), Dev.reg_setReg_other _ _ (hlow _ (by decide))]
    exact Dev.reg_copyUp_above page _ b.shadowed_range (d.unqueued page) o ho

/-! ### COMMAND_COMMIT_APPLY (R114, R115) -/

/-- A commit that no session command waits on adds nothing to a wait. -/
theorem Dev.countWait_none {d : Dev} {p : Nat} {k : PendingCommit} (h : d.sessionWaits p k = false) : d.countWait p k = d := by
  unfold Dev.countWait
  exact if_neg (by simp [h])

/-- A commit that no partition's session commands wait on leaves the waits of all. -/
theorem Dev.countWaits_none {d : Dev} {k : PendingCommit} (h : ∀ p, d.sessionWaits p k = false) (l : List Nat) :
    l.foldl (fun d p => d.countWait p k) d = d := by
  induction l with
  | nil => rfl
  | cons p l ih => rw [List.foldl_cons, Dev.countWait_none (h p), ih]

/-- At its boundary a pending commit meets its point of effect. -/
theorem Dev.commandCommit_settles {d : Dev} {o : Outside} {page : Nat} {k : PendingCommit} (hk : d.commits.find? (fun k => k.page == page) = some k)
    (hb : d.atBoundary o k = true) (hw : ∀ p, d.sessionWaits p k = false) : d.commandCommit page o = d.settleCommit [] page := by
  unfold Dev.commandCommit
  rw [hk]
  dsimp only
  rw [if_neg (by simp [hb]), Dev.countWaits_none hw]

/-- A commit at a command boundary is of the command class. -/
theorem Dev.atBoundary_class {d : Dev} {o : Outside} {page i : Nat} {b : Block} {k : PendingCommit}
    (hk : d.commits.find? (fun k => k.page == page) = some k) (ha : d.atBoundary o k = true) (hb : blockOf page = some (b, i)) : b.tickClass = false := by
  have hpage : k.page = page := by simpa using List.find?_some hk
  unfold Dev.atBoundary commandClass at ha
  rw [hpage, hb] at ha
  simp only [Bool.and_eq_true, Option.any_some, Bool.not_eq_true'] at ha
  exact ha.1.1.1

/-! ### COMMIT_WAIT_LIMIT (R115) -/

theorem Dev.commitWaitLimit_none {d : Dev} {p : Nat} (h : ∀ k ∈ d.commits, d.sessionWaits p k = false) : d.commitWaitLimit p = d := by
  have hheld : d.commits.filter (fun k => d.sessionWaits p k) = [] := List.filter_eq_nil_iff.mpr fun k hk => by simp [h k hk]
  unfold Dev.commitWaitLimit
  rw [hheld]

/-- Where a commit holds session commands, the limit lets them start: the clock may move, and the partition takes note. -/
theorem Dev.commitWaitLimit_held {d : Dev} {p : Nat} (h : ∃ k ∈ d.commits, d.sessionWaits p k = true) (ho : (d.part p).commitOpen = false) :
    ∃ due, d.commitWaitLimit p = ({ d with now := max d.now due } : Dev).modPart p (fun x => { x with commitWait := 16384, commitOpen := true }) := by
  obtain ⟨k, hk, hwait⟩ := h
  unfold Dev.commitWaitLimit
  cases hheld : d.commits.filter (fun k => d.sessionWaits p k) with
  | nil => exact absurd hwait (by simpa using List.filter_eq_nil_iff.mp hheld k hk)
  | cons first rest => exact ⟨_, if_neg (by simp [ho])⟩

/-! ### ZEROING_DONE (R193) -/

theorem Dev.core_modCore_same (d : Dev) {n : Nat} (f : CoreState → CoreState) (h : n < d.cores.length) : (d.modCore n f).core n = f (d.core n) := by
  simp [Dev.modCore, Dev.core, List.getD_eq_getElem?_getD, h]

theorem Dev.core_modCore_other (d : Dev) {n m : Nat} (f : CoreState → CoreState) (h : m ≠ n) : (d.modCore n f).core m = d.core m := by
  simp [Dev.modCore, Dev.core, List.getD_eq_getElem?_getD, Ne.symm h]

theorem Dev.zeroingDone_idle {d : Dev} {n : Nat} (h : (d.core n).zeroing = false) : d.zeroingDone n = d := by
  unfold Dev.zeroingDone
  exact if_pos (by simp [h])

/-- The end of zeroing clears the core's mark and raises an interrupt; only partitions may change beside. -/
theorem Dev.zeroingDone_busy {d : Dev} {n : Nat} (h : (d.core n).zeroing = true) :
    ∃ ps, d.zeroingDone n = { (d.modCore n (fun x => { x with zeroing := false })).raise (pgCORE n) 0 with parts := ps } := by
  unfold Dev.zeroingDone
  rw [if_neg (by simp [h])]
  extract_lets e
  split
  · split <;> exact ⟨_, rfl⟩
  · exact ⟨_, rfl⟩

theorem Dev.zeroingDone_effect {d : Dev} {n : Nat} (h : (d.core n).zeroing = true) (hn : n < d.cores.length) :
    (d.zeroingDone n).core n = { d.core n with zeroing := false } ∧ (∀ m, m ≠ n → (d.zeroingDone n).core m = d.core m) ∧
    (d.zeroingDone n).cmds = d.cmds ∧ (d.zeroingDone n).SameMemory d := by
  obtain ⟨ps, he⟩ := Dev.zeroingDone_busy h
  rw [he]
  have hcore : ∀ m, ((d.modCore n (fun x => { x with zeroing := false })).raise (pgCORE n) 0).core m =
      (d.modCore n (fun x => { x with zeroing := false })).core m := fun m => by unfold Dev.core; rw [Dev.raise_cores]
  refine ⟨(hcore n).trans (d.core_modCore_same _ hn), fun m hm => (hcore m).trans (d.core_modCore_other _ hm), ?_, ?_, ?_, ?_⟩ <;> simp

end Sys2Proof.Machine
end

section
/-! Accounting records (R56), and with the commits, the wait limit and zeroing O49. -/

namespace Sys2Proof.Machine

/-! ### ACCT_RECORD_WRITE (R56) -/

/-- Where the next record of a partition goes. -/
def Dev.acctAt (d : Dev) (p : Nat) : Nat := addrOf (d.active (pgPART p)) 0x058 + 128 * d.regN (pgPART p) 0x830

/-- The head of a partition's ring after one more record. -/
def Dev.acctNext (d : Dev) (p : Nat) : Nat := (d.regN (pgPART p) 0x830 + 1) % 2 ^ bits (d.active (pgPART p) 0x054) 0 5

/-- The head of a ring is a 32-bit value: its size is at most 2^31. -/
theorem Dev.acctNext_lt (d : Dev) (p : Nat) : d.acctNext p < 2 ^ 32 := by
  have hbits : bits (d.active (pgPART p) 0x054) 0 5 < 2 ^ 5 := Nat.mod_lt _ (by decide)
  calc d.acctNext p < 2 ^ bits (d.active (pgPART p) 0x054) 0 5 := Nat.mod_lt _ (Nat.two_pow_pos _)
    _ ≤ 2 ^ 32 := Nat.pow_le_pow_right (by decide) (by omega)

/-- The partition's oldest record leaves its queue. -/
def Dev.acctTaken (d : Dev) (p : Nat) (rest : List AcctWindow) : Dev := d.modPart p (fun x => { x with acctQueue := rest })

/-- A full ring discards the record. -/
theorem Dev.acctWrite_full {d : Dev} {p : Nat} {env : Env} {o : Outside} {w : AcctWindow} {rest : List AcctWindow}
    (hq : (d.part p).acctQueue = w :: rest) (hu : d.usable o p (d.acctAt p) 128 = true) (hfull : d.acctNext p = d.regN (pgPART p) 0xC0C) :
    d.acctWrite p env o = (d.acctTaken p rest).dropRecord p := by
  have hready : ¬ ((!d.usable o p (d.acctAt p) 128) = true) := by simp [hu]
  unfold Dev.acctWrite
  rw [hq]
  exact (if_neg hready).trans (if_pos hfull)

/-- With room the record goes to the ring in HBM and the head moves on. -/
theorem Dev.acctWrite_room {d : Dev} {p : Nat} {env : Env} {o : Outside} {w : AcctWindow} {rest : List AcctWindow}
    (hq : (d.part p).acctQueue = w :: rest) (hu : d.usable o p (d.acctAt p) 128 = true) (hroom : d.acctNext p ≠ d.regN (pgPART p) 0xC0C)
    (hh : isHost (d.acctAt p) = false) :
    d.acctWrite p env o = ((((d.acctTaken p rest).putBytesIn p 0 (d.acctAt p) (w.bytes p (d.part p).gap)).setReg (pgPART p) 0x830
      (BitVec.ofNat 32 (d.acctNext p))).modPart p (fun x => { x with gap := false })) := by
  have hready : ¬ ((!d.usable o p (d.acctAt p) 128) = true) := by simp [hu]
  have hout : ∀ bs, (d.acctTaken p rest).writeOut env p (d.acctAt p) bs = ((d.acctTaken p rest).putBytesIn p 0 (d.acctAt p) bs, true) := fun _ => by
    unfold Dev.writeOut
    exact if_neg (by simp [hh])
  unfold Dev.acctWrite
  rw [hq]
  dsimp only
  generalize w.bytes p (d.part p).gap = bs
  refine (if_neg hready).trans ((if_neg hroom).trans ?_)
  split
  · next e he =>
    cases (hout bs).symm.trans he
    rfl
  · next e he => cases (hout bs).symm.trans he

theorem Dev.putBytesIn_parts (d : Dev) (p space a : Nat) (bs : Bytes) : (d.putBytesIn p space a bs).parts = d.parts := by
  obtain ⟨_, _, _, h⟩ := d.putBytesIn_form p space a bs
  rw [h]

theorem Dev.putBytesIn_cmds (d : Dev) (p space a : Nat) (bs : Bytes) : (d.putBytesIn p space a bs).cmds = d.cmds := by
  obtain ⟨_, _, _, h⟩ := d.putBytesIn_form p space a bs
  rw [h]

/-- What became of a partition's oldest record: the register that counts, the partition, and all else but memory. -/
structure Dev.RecordGone (e d : Dev) (p off n : Nat) (rest : List AcctWindow) (gap : Bool) : Prop extends
    Dev.PartSet e d p { d.part p with acctQueue := rest, gap := gap } where
  count : e.regN (pgPART p) off = n

theorem Dev.acctTaken_set {d : Dev} {p : Nat} (rest : List AcctWindow) (hp : p < d.parts.length) :
    (d.acctTaken p rest).PartSet d p { d.part p with acctQueue := rest } := (Dev.PartSet.refl d hp).modPart _

/-- A discarded record is counted and marks the next one. -/
theorem Dev.dropRecord_gone {d : Dev} {p : Nat} (rest : List AcctWindow) (hp : p < d.parts.length) :
    ((d.acctTaken p rest).dropRecord p).RecordGone d p 0x834 (min (d.regN (pgPART p) 0x834 + 1) (2 ^ 32 - 1)) rest true where
  toPartSet := by
    have hcounted : (((d.acctTaken p rest).bump (pgPART p) 0x834 1).raise (pgPART p) 3).PartSet d p { d.part p with acctQueue := rest } :=
      (d.acctTaken_set rest hp).congr (Dev.raise_parts _ _ _) (Dev.raise_cmds _ _ _)
    exact hcounted.modPart _
  count := (Dev.regN_raise_other _ _ (regKey_same_page_ne (by decide))).trans (Dev.regN_bump_same _ _ _ _)

/-- A written record moves the head on and clears the mark. -/
theorem Dev.putRecord_gone {d : Dev} {p n : Nat} (a : Nat) (bs : Bytes) (rest : List AcctWindow) (hp : p < d.parts.length) (hn : n < 2 ^ 32) :
    ((((d.acctTaken p rest).putBytesIn p 0 a bs).setReg (pgPART p) 0x830 (BitVec.ofNat 32 n)).modPart p (fun x => { x with gap := false })).RecordGone
      d p 0x830 n rest false where
  toPartSet := by
    have hput : (((d.acctTaken p rest).putBytesIn p 0 a bs).setReg (pgPART p) 0x830 (BitVec.ofNat 32 n)).PartSet d p { d.part p with acctQueue := rest } :=
      (d.acctTaken_set rest hp).congr (Dev.putBytesIn_parts _ _ _ _ _) (Dev.putBytesIn_cmds _ _ _ _ _)
    exact hput.modPart _
  count := (Dev.regN_setReg_same _ _ _ _).trans (by rw [BitVec.toNat_ofNat]; exact Nat.mod_eq_of_lt hn)

/-- The bytes of a record are written to memory as the device before it has it. -/
theorem Dev.putRecord_memory (d : Dev) (p n a : Nat) (bs : Bytes) (rest : List AcctWindow) :
    ((((d.acctTaken p rest).putBytesIn p 0 a bs).setReg (pgPART p) 0x830 (BitVec.ofNat 32 n)).modPart p (fun x => { x with gap := false })).SameMemory
      (d.putBytesIn p 0 a bs) :=
  ((SameView.modPart d p (fun x => { x with acctQueue := rest }) rfl).put p 0 a bs).same

/-- A discarded record leaves memory. -/
theorem Dev.dropRecord_memory (d : Dev) (p : Nat) (rest : List AcctWindow) : ((d.acctTaken p rest).dropRecord p).SameMemory d :=
  ⟨Dev.raise_hbm _ _ _, Dev.raise_host _ _ _, Dev.raise_spd _ _ _⟩

/-- Settles O49: a record written or discarded, a commit rejected or applied at its boundary, the limit of a wait and the end of zeroing, each by its lemma. -/
theorem recordsCommitsAndZeroing : Obligations.RecordsCommitsAndZeroing := by
  unfold Obligations.RecordsCommitsAndZeroing
  refine ⟨fun s env p w rest a next hr hp hl hq ha hnext hu => ⟨fun hroom hh => ?room, fun hfull => ?full⟩,
    fun s page i b k hr hp hb hk ha hw => ⟨fun r hc hreason => ?reject, fun hc hrng hkvp hspd => ?apply⟩,
    fun s p hr hp hl => ⟨fun h => ?unheld, fun h ho => ?held⟩, fun s n hr hn hl => ⟨fun h => ?idle, fun h => ?busy⟩⟩
  case room =>
    subst ha hnext
    refine ⟨_, onUnit_running s (fun d => d.acctWrite p env s.outside) hr (by simpa [partOk] using hp), ?_⟩
    have he : s.dev.acctWrite p env s.outside = _ := Dev.acctWrite_room hq hu hroom hh
    rw [he]
    generalize w.bytes p (s.dev.part p).gap = bs
    have hgone := Dev.putRecord_gone (s.dev.acctAt p) bs rest hl (s.dev.acctNext_lt p)
    exact ⟨s.dev.putRecord_memory p _ _ bs rest, hgone.count, hgone.own, hgone.others, hgone.cmds⟩
  case full =>
    subst ha hnext
    refine ⟨_, onUnit_running s (fun d => d.acctWrite p env s.outside) hr (by simpa [partOk] using hp), ?_⟩
    have he : s.dev.acctWrite p env s.outside = _ := Dev.acctWrite_full hq hu hfull
    rw [he]
    have hgone := s.dev.dropRecord_gone rest hl
    exact ⟨s.dev.dropRecord_memory p rest, hgone.count, hgone.own, hgone.others, hgone.cmds⟩
  case reject =>
    refine ⟨_, onUnit_running s (fun d => d.commandCommit page s.outside) hr (by simpa [pageOk] using hp), ?_⟩
    rw [Dev.commandCommit_settles hk ha hw]
    exact Dev.settleCommit_reject_effect hc hreason
  case apply =>
    refine ⟨_, onUnit_running s (fun d => d.commandCommit page s.outside) hr (by simpa [pageOk] using hp), ?_⟩
    rw [Dev.commandCommit_settles hk ha hw]
    exact Dev.settleCommit_apply_effect hc hb (Dev.atBoundary_class hk ha hb) hrng hkvp hspd
  case unheld => exact onUnit_keep s (by simpa [partOk] using hp) hr (Dev.commitWaitLimit_none h)
  case held =>
    obtain ⟨due, he⟩ := Dev.commitWaitLimit_held h ho
    refine ⟨_, onUnit_running s (·.commitWaitLimit p) hr (by simpa [partOk] using hp), ?_⟩
    rw [he]
    exact ⟨rfl, Nat.le_max_left _ _, Dev.part_modPart_same _ _ _ hl, fun q hq => Dev.part_modPart_other _ _ hq⟩
  case idle => exact onUnit_keep s (by simpa [coreOk] using hn) hr (Dev.zeroingDone_idle h)
  case busy =>
    exact ⟨_, onUnit_running s (·.zeroingDone n) hr (by simpa [coreOk] using hn), Dev.zeroingDone_effect h hl⟩

end Sys2Proof.Machine
end

section
/-! The rings of a queue (R62 to R64, R66): doorbells, completion records, QUEUE_ABORT and QUEUE_RESUME. O24, O27 and O31. -/

namespace Sys2Proof.Machine

/-! ### Doorbells (R62, R63) -/

/-- A value inside the ring becomes the tail; a larger one marks an error. -/
theorem Dev.sqTail_eq (d : Dev) (p q v : Nat) : d.sqTail p q v =
    d.modQueue p q (fun x => if v % 65536 < d.ringSize p q then { x with sqTail := v % 65536 } else { x with doorbellErr := true }) := by
  unfold Dev.sqTail
  by_cases h : v % 65536 < d.ringSize p q
  · simp only [if_pos h, if_neg (Nat.not_le.mpr h)]
  · simp only [if_neg h, if_pos (Nat.not_lt.mp h)]

/-- The same for the head of the completion ring. -/
theorem Dev.cqHead_eq (d : Dev) (p q v : Nat) : d.cqHead p q v =
    d.modQueue p q (fun x => if v % 65536 < d.ringSize p q then { x with cqHead := v % 65536 } else { x with doorbellErr := true }) := by
  unfold Dev.cqHead
  by_cases h : v % 65536 < d.ringSize p q
  · simp only [if_pos h, if_neg (Nat.not_le.mpr h)]
  · simp only [if_neg h, if_pos (Nat.not_lt.mp h)]

/-- A doorbell of a source that has it, and whose writes are served. -/
theorem doorbell_served (s : State) {src : Src} {p q : Nat} (f : Dev → Dev) (hd : doorbellOk src p q = true) (hs : s.srcOk src = true) :
    withUnit (doorbellOk src p q) (s.fromSrc src f) = .next { s with dev := f s.dev } := by
  unfold withUnit State.fromSrc
  rw [if_pos hd, if_pos hs]

/-- A change of one queue alone. -/
theorem State.modQueue_effect (s : State) {p q : Nat} (f : Queue → Queue) (hp : p < s.dev.parts.length) (hq : q < (s.dev.part p).queues.length) :
    let t : State := { s with dev := s.dev.modQueue p q f }
    t = { s with dev := { s.dev with parts := t.dev.parts } } ∧ t.dev.queue p q = f (s.dev.queue p q) ∧
      (∀ r, r ≠ q → t.dev.queue p r = s.dev.queue p r) ∧ (∀ o, o ≠ p → t.dev.part o = s.dev.part o) :=
  ⟨s.modQueue_parts p q f, s.dev.queue_modQueue_same p q f hp hq, fun _ hr => s.dev.queue_modQueue_other p f hp hr,
    fun _ ho => s.dev.part_modQueue_other q f ho⟩

/-- Settles O27: a doorbell that is served changes its queue alone, by the ring's size. -/
theorem doorbellsMoveTheRing : Obligations.DoorbellsMoveTheRing := by
  unfold Obligations.DoorbellsMoveTheRing
  intro s src p q v hd hs hp hlen
  have hq : q < (s.dev.part p).queues.length := by
    have hok := hd
    simp only [doorbellOk, queueOk, Bool.and_eq_true, decide_eq_true_eq] at hok
    omega
  refine ⟨⟨_, doorbell_served s (fun d => d.sqTail p q v.toNat) hd hs, ?_⟩, ⟨_, doorbell_served s (fun d => d.cqHead p q v.toNat) hd hs, ?_⟩⟩
  · dsimp only
    rw [Dev.sqTail_eq]
    exact s.modQueue_effect _ hp hq
  · dsimp only
    rw [Dev.cqHead_eq]
    exact s.modQueue_effect _ hp hq

/-! ### QUEUE_ABORT and QUEUE_RESUME (R66) -/

/-- One change made to the queues of a partition that a word names in its low 16 bits. -/
def Dev.modNamed (d : Dev) (p : Nat) (v : Word) (f : Queue → Queue) : Dev :=
  (setBitsOf (v &&& BitVec.ofNat 32 0xFFFF).toNat 16).foldl (fun d q => d.modQueue p q f) d

/-- What a resume makes of a queue. -/
def Queue.resumed (x : Queue) : Queue := if x.state = 2 then { x with state := 1, hostFail := false } else x

/-- What an abort makes of a queue. -/
def Queue.halted (x : Queue) : Queue := if x.state = 1 then { x with state := 2 } else x

theorem Dev.queueResume_eq (d : Dev) (p : Nat) (v : Word) : d.queueResume p (v &&& BitVec.ofNat 32 0xFFFF).toNat = d.modNamed p v Queue.resumed := rfl

theorem Dev.queueAbort_eq (d : Dev) (p : Nat) (v : Word) :
    d.queueAbort p (v &&& BitVec.ofNat 32 0xFFFF).toNat = (d.modNamed p v Queue.halted).abortAll p (v &&& BitVec.ofNat 32 0xFFFF).toNat := rfl

theorem Queue.resumed_state (x : Queue) (b : Bool) : (if b then x.resumed else x).state = if b && x.state == 2 then 1 else x.state := by
  unfold Queue.resumed
  cases b <;> by_cases h : x.state = 2 <;> simp [h]

theorem Queue.halted_state (x : Queue) (b : Bool) : (if b then x.halted else x).state = if b && x.state == 1 then 2 else x.state := by
  unfold Queue.halted
  cases b <;> by_cases h : x.state = 1 <;> simp [h]

/-- The queues of a partition that a word names are changed, and nothing else of commands, memory and other partitions. -/
structure Dev.QueuesChanged (e d : Dev) (p : Nat) (v : Word) (f : Queue → Queue) : Prop where
  own : ∀ q < 16, e.queue p q = if v.getLsbD q then f (d.queue p q) else d.queue p q
  others : ∀ q, q ≠ p → e.part q = d.part q
  cmds : e.cmds = d.cmds
  memory : e.SameMemory d

theorem Dev.modNamed_changed (d : Dev) {p : Nat} (v : Word) (f : Queue → Queue) (hp : p < d.parts.length) (hq : (d.part p).queues.length = 16) :
    (d.modNamed p v f).QueuesChanged d p v f := by
  obtain ⟨hown, hother, ps, hform⟩ := Dev.modQueue_fold p f (setBitsOf (v &&& BitVec.ofNat 32 0xFFFF).toNat 16) d hp hq
    (fun q hm => ((mem_setBitsOf _ _ _).mp hm).1) (nodup_setBitsOf _ _)
  have hform : d.modNamed p v f = { d with parts := ps } := hform
  have hnamed : ∀ q < 16, (q ∈ setBitsOf (v &&& BitVec.ofNat 32 0xFFFF).toNat 16) = (v.getLsbD q = true) := fun q hlt => by
    rw [mem_setBitsOf, getLsbD_and_low16 v q hlt]
    exact propext (and_iff_right hlt)
  refine ⟨fun q hlt => (hown q).trans ?_, hother, by rw [hform], by rw [hform]; exact ⟨rfl, rfl, rfl⟩⟩
  simp only [hnamed q hlt]

/-- The mask of the register keeps the low 16 bits of what is written. -/
theorem getLsbD_low16 (v : Word) (q : Nat) : (v &&& BitVec.ofNat 32 0xFFFF).getLsbD q = (v.getLsbD q && decide (q < 16)) := by
  by_cases hq : q < 16
  · rw [getLsbD_and_low16 v q hq, decide_eq_true hq, Bool.and_true]
  · have hm : (65535 : Nat).testBit q = decide (q < 16) := Nat.testBit_two_pow_sub_one 16 q
    rw [BitVec.getLsbD_and, BitVec.getLsbD_ofNat, hm, decide_eq_false hq, Bool.and_false]

/-- The commands in progress on the queues that a word names. -/
def Dev.inProgress (d : Dev) (p : Nat) (v : Word) : List Cmd := d.cmds.filter (fun c => c.live && c.part == p && v.getLsbD c.queue)

theorem Dev.inProgress_congr {d e : Dev} (h : e.cmds = d.cmds) (p : Nat) (v : Word) : e.inProgress p v = d.inProgress p v := by
  unfold Dev.inProgress; rw [h]

/-- Commands are found alike where the list of them is the same. -/
theorem Dev.cmd?_congr {d e : Dev} (h : e.cmds = d.cmds) (u : Nat) : e.cmd? u = d.cmd? u := by unfold Dev.cmd?; rw [h]

/-- QUEUE_ABORT ends the commands in progress on the queues it names. -/
theorem Dev.abortAll_eq (d : Dev) (p : Nat) (v : Word) : d.abortAll p (v &&& BitVec.ofNat 32 0xFFFF).toNat =
    ((d.inProgress p v).filter (fun c => decide (c.queue < 16))).foldl (fun d c => d.endCmd c.uid stABORT 0) d := by
  unfold Dev.abortAll Dev.inProgress
  rw [List.filter_filter]
  refine congrArg (List.foldl _ d) (congrArg (fun f => d.cmds.filter f) (funext fun c => ?_))
  have hb : bit (v &&& BitVec.ofNat 32 0xFFFF).toNat c.queue = (v.getLsbD c.queue && decide (c.queue < 16)) := getLsbD_low16 v c.queue
  rw [hb, Bool.and_comm (decide _), Bool.and_assoc _ (v.getLsbD _)]

theorem Dev.abortAll_idle {d : Dev} {p : Nat} {v : Word} (h : d.inProgress p v = []) : d.abortAll p (v &&& BitVec.ofNat 32 0xFFFF).toNat = d := by
  rw [Dev.abortAll_eq, h]
  rfl

theorem Dev.abortAll_one {d : Dev} {p : Nat} {v : Word} {c : Cmd} (h : d.inProgress p v = [c]) (hq : c.queue < 16) :
    d.abortAll p (v &&& BitVec.ofNat 32 0xFFFF).toNat = d.endCmd c.uid stABORT 0 := by
  have hkept : [c].filter (fun c => decide (c.queue < 16)) = [c] := List.filter_cons_of_pos (decide_eq_true hq)
  rw [Dev.abortAll_eq, h, hkept]
  rfl

/-- A command in progress is live. -/
theorem Dev.inProgress_live {d : Dev} {p : Nat} {v : Word} {c : Cmd} (h : c ∈ d.inProgress p v) : c.live = true := by
  have hc := (List.mem_filter.mp h).2
  simp only [Bool.and_eq_true] at hc
  exact hc.1.1

/-- Settles O24: the queues named change as a resume or an abort makes them, and one command in progress ends. -/
theorem queuesStopAndResume : Obligations.QueuesStopAndResume := by
  unfold Obligations.QueuesStopAndResume
  intro s src p v hw hp hl hlen
  have hhalted := s.dev.modNamed_changed v Queue.halted hl hlen
  refine ⟨?resume, fun hidle => ?idle, fun c hone hc hq hclaim => ?one⟩
  case resume =>
    have hresumed := s.dev.modNamed_changed v Queue.resumed hl hlen
    refine ⟨_, partWrite_live s hw hp (by decide) rfl nofun, ?_⟩
    rw [Dev.live_queueResume, Dev.queueResume_eq]
    refine ⟨hresumed.cmds, hresumed.memory, hresumed.others, fun q hlt => ?_⟩
    rw [hresumed.own q hlt, Queue.resumed_state]
  case idle =>
    have hkeep : (s.dev.modNamed p v Queue.halted).inProgress p v = [] := (Dev.inProgress_congr hhalted.cmds p v).trans hidle
    refine ⟨_, partWrite_live s hw hp (by decide) rfl nofun, ?_⟩
    rw [Dev.live_queueAbort, Dev.queueAbort_eq, Dev.abortAll_idle hkeep]
    refine ⟨hhalted.cmds, hhalted.memory, hhalted.others, fun q hlt => ?_⟩
    rw [hhalted.own q hlt, Queue.halted_state]
  case one =>
    have hkeep : (s.dev.modNamed p v Queue.halted).inProgress p v = [c] := (Dev.inProgress_congr hhalted.cmds p v).trans hone
    have hfind : (s.dev.modNamed p v Queue.halted).cmd? c.uid = some c := (Dev.cmd?_congr hhalted.cmds c.uid).trans hc
    refine ⟨_, partWrite_live s hw hp (by decide) rfl nofun, ?_⟩
    rw [Dev.live_queueAbort, Dev.queueAbort_eq, Dev.abortAll_one hkeep hq]
    exact Dev.endCmd_ended _ _ _ _ c hfind (Dev.inProgress_live (hkeep ▸ List.mem_singleton_self c)) hclaim

/-! ### Completion records (R63, R64) -/

/-- Where a queue's next completion record goes. -/
def Dev.recordAt (d : Dev) (p q : Nat) : Nat := d.cqBase p q + 32 * (d.queue p q).cqTail

/-- The completion ring after a record. -/
def Queue.recorded (n : Nat) (r : PendingRecord) (x : Queue) : Queue :=
  { x with cqTail := (x.cqTail + 1) % n, phase := if (x.cqTail + 1) % n = 0 then !x.phase else x.phase, lastId := fieldAt r.bytes 0 4 }

/-- The device when a record has gone to its ring, before flags and interrupts follow. -/
def Dev.recordGone (d : Dev) (p q : Nat) (r : PendingRecord) : Dev :=
  { d.modQueue p q (Queue.recorded (d.ringSize p q) r) with records := d.records.erase r, cmds := d.cmds.filter (fun c => c.uid != r.uid) }

/-- The numeric flags of a record reach registers and interrupts alone. -/
theorem RegsSent.stickyRecord (d : Dev) (p : Nat) (r : PendingRecord) : RegsSent d (d.stickyRecord p r) :=
  ((RegsSent.sticky _ _ _ _).trans (.sticky _ _ _ _)).trans (.sticky _ _ _ _)

theorem RegsSent.recordDone (d : Dev) (p q : Nat) (r : PendingRecord) : RegsSent (d.recordGone p q r) (d.recordDone p q r) := by
  obtain ⟨g, u, w, hs⟩ := RegsSent.stickyRecord (d.modQueue p q (Queue.recorded (d.ringSize p q) r)) p r
  have hgone : RegsSent (d.recordGone p q r)
      { (d.modQueue p q (Queue.recorded (d.ringSize p q) r)).stickyRecord p r with
        records := ((d.modQueue p q (Queue.recorded (d.ringSize p q) r)).stickyRecord p r).records.erase r,
        cmds := ((d.modQueue p q (Queue.recorded (d.ringSize p q) r)).stickyRecord p r).cmds.filter (fun c => c.uid != r.uid) } := by
    rw [hs]
    exact ⟨g, u, w, rfl⟩
  exact .ite (hgone.trans (.vec _ _ _)) hgone

/-- A queue that is not stopped, with room in a ring in HBM: its oldest record is written. -/
theorem Dev.completionWrite_room {d : Dev} {p q : Nat} {r : PendingRecord} (env : Env) (hr : d.records.find? (fun r => r.part == p && r.queue == q) = some r)
    (hs : (d.queue p q).state ≠ 2) (hroom : d.cqRoom p q = true) (hh : isHost (d.recordAt p q) = false) :
    d.completionWrite p q env = (d.putBytesIn p 0 (d.recordAt p q) (r.image (d.queue p q).phase)).recordDone p q r := by
  unfold Dev.completionWrite
  rw [hr]
  dsimp only
  rw [if_neg (by simp [hs, hroom])]
  exact if_neg (Bool.eq_false_iff.mp hh)

/-- Without room nothing is written. -/
theorem Dev.completionWrite_full {d : Dev} {p q : Nat} (env : Env) (hroom : d.cqRoom p q = false) : d.completionWrite p q env = d := by
  unfold Dev.completionWrite
  split
  · rfl
  · exact if_pos (by simp [hroom])

/-- What the writing of a record leaves: memory as the record's bytes make it, the record and its command gone, the tail moved on. -/
theorem Dev.recordWritten_effect (d : Dev) {p q : Nat} (a : Nat) (bs : Bytes) (r : PendingRecord) (hp : p < d.parts.length)
    (hq : q < (d.part p).queues.length) :
    let e := (d.putBytesIn p 0 a bs).recordDone p q r
    e.hbm = (d.putBytesIn p 0 a bs).hbm ∧ e.records = d.records.erase r ∧ e.cmds = d.cmds.filter (fun c => c.uid != r.uid) ∧
      e.queue p q = (d.queue p q).recorded (d.ringSize p q) r := by
  obtain ⟨x, y, z, hput⟩ := d.putBytesIn_form p 0 a bs
  obtain ⟨g, u, w, hdone⟩ := RegsSent.recordDone (d.putBytesIn p 0 a bs) p q r
  dsimp only
  rw [hdone, hput]
  exact ⟨rfl, rfl, rfl, d.queue_modQueue_same p q (Queue.recorded (d.ringSize p q) r) hp hq⟩

/-- Settles O31: with room the oldest record is written and its command's slot is free; without, the device stays. -/
theorem completionRecordsAreWritten : Obligations.CompletionRecordsAreWritten := by
  unfold Obligations.CompletionRecordsAreWritten
  intro s p q env r hr hp hq hl hlen hrec
  have hunit : (partOk p && queueOk q) = true := by simp [partOk, queueOk, hp, hq]
  refine ⟨fun hs hroom hh => ?_, fun hfull => onUnit_keep s hunit hr (Dev.completionWrite_full env hfull)⟩
  refine ⟨_, onUnit_running s (fun d => d.completionWrite p q env) hr hunit, ?_⟩
  have he : s.dev.completionWrite p q env = _ := Dev.completionWrite_room env hrec hs hroom hh
  rw [he]
  obtain ⟨hhbm, hrecords, hcmds, hqueue⟩ := s.dev.recordWritten_effect (s.dev.recordAt p q) (r.image (s.dev.queue p q).phase) r hl (hlen.symm ▸ hq)
  exact ⟨hhbm, hrecords, hcmds, congrArg Queue.cqTail hqueue, congrArg Queue.lastId hqueue⟩

end Sys2Proof.Machine
end

section
/-! Admission, starts and ends of control commands (R62, R75, R76, R78, R79, R116): O28, O29 and O30. -/

namespace Sys2Proof.Machine

/-! ### Admission (R62, R75) -/

/-- Once every ready flag of Table 20-4 is set, no command waits for initialised cells or for a flag. -/
theorem State.admissible_ready {s : State} (hfabric : s.flag fabricFlag = true) (hmedia : s.flag mediaFlag = true) (hfull : s.flag 5 = true) (c : Cmd) :
    s.admissible c = true := by
  have hu : ∀ p a n, s.dev.usable s.outside p a n = true := fun p a n => s.dev.usable_all s.outside p a n hfull
  unfold State.admissible
  simp only [hfabric, hmedia, hu, Bool.or_true, Bool.true_and, List.all_eq_true]
  intro i _
  split <;> simp

/-- Admission of a running device whose flags are set. -/
theorem exec_commandAdmit {s : State} {p q : Nat} (env : Env) (hr : s.running = true) (hp : p < 64) (hq : q < 16) (hcompute : s.flag computeFlag = true)
    (hfabric : s.flag fabricFlag = true) (hmedia : s.flag mediaFlag = true) (hfull : s.flag 5 = true) :
    exec (.commandAdmit p q env) s = .next { s with dev := s.dev.admitEntry p q env } := by
  have hnext : s.admitNext p q env = { s with dev := s.dev.admitEntry p q env } := by
    unfold State.admitNext
    dsimp only
    rw [if_neg (by simp [hcompute, s.dev.usable_all s.outside _ _ _ hfull])]
    exact if_pos (List.all_eq_true.mpr fun c _ => State.admissible_ready hfabric hmedia hfull c)
  have hunit : (partOk p && queueOk q) = true := by simp [partOk, queueOk, hp, hq]
  show withUnit (partOk p && queueOk q) (if s.running then s.admitNext p q env else s) = _
  unfold withUnit
  rw [if_pos hunit, if_pos hr, hnext]

/-- The next entry of an enabled queue is read where a slot is free. -/
theorem Dev.admitEntry_read {d : Dev} {p q : Nat} {env : Env} {b : Bytes} (hs : (d.queue p q).state = 1) (hne : (d.queue p q).sqHead ≠ (d.queue p q).sqTail)
    (hslot : d.slotFree p = true) (hread : d.readStruct env p (d.sqBase p q + 128 * (d.queue p q).sqHead) 128 = .ok b) :
    d.admitEntry p q env = d.admitCtx env p q b := by
  unfold Dev.admitEntry
  dsimp only
  rw [if_neg (by simp [hs, hne, hslot]), hread]

/-- A FENCE or TICK_WAIT outside a session that passes every check joins the journal. -/
theorem Dev.admitCtx_control {d : Dev} {env : Env} {p q : Nat} {b : Bytes} {c : Cmd} (hc : c = d.parseCmd p q b) (ho : c.opcode = 0x10 ∨ c.opcode = 0x11)
    (hs : c.sessionValid = false) (hbad : d.descriptorBad c = none) (hmode : d.modeDenied c = false)
    (hfirst : d.firstFailure c c.controlCheck [] = none) (hbits : d.bitsUsed ≤ 2 ^ 30) :
    d.admitCtx env p q b = d.enter { c with work := { total := 0 } } := by
  unfold Dev.admitCtx
  rw [d.verdict_control env p q b c hc ho hs hbad hmode hfirst hbits]
  refine if_neg (fun h => ?_)
  have hop : c.opcode = 0x13 := h
  omega

/-- An ill-formed descriptor is refused with the offset of its first bad byte. -/
theorem Dev.admitCtx_illFormed {d : Dev} {env : Env} {p q off : Nat} {b : Bytes} (h : d.descriptorBad (d.parseCmd p q b) = some off) :
    d.admitCtx env p q b = d.refuse (d.parseCmd p q b) (.inl (stINVALID, off + 0xFF00)) := by
  unfold Dev.admitCtx Dev.verdict
  dsimp only
  rw [h]

/-- Settles O28: the fetched command enters the journal, or its refusal ends it. -/
theorem controlCommandsAreAdmitted : Obligations.ControlCommandsAreAdmitted := by
  unfold Obligations.ControlCommandsAreAdmitted
  intro s p q env b c hr hp hq hl hlen hcompute hfabric hmedia hfull hs hne hslot hread hc huids ho hsession
  have hnew : ∀ x ∈ s.dev.cmds, x.uid ≠ s.dev.nextUid := fun x hx => Nat.ne_of_lt (huids x hx)
  refine ⟨fun hbad hmode _ hfirst hbits => ?admitted, fun off hbad => ?refused⟩ <;>
    refine ⟨_, exec_commandAdmit env hr hp hq hcompute hfabric hmedia hfull, ?_⟩ <;> dsimp only <;> rw [Dev.admitEntry_read hs hne hslot hread]
  case admitted =>
    rw [Dev.admitCtx_control hc ho hsession hbad hmode hfirst hbits]
    subst hc
    obtain ⟨huid, hhead, hfound, hmem, -⟩ := s.dev.enter_control { s.dev.parseCmd p q b with work := { total := 0 } } hsession rfl rfl rfl hl hq hlen hnew
    exact ⟨huid, hhead, hfound, hmem⟩
  case refused =>
    subst hc
    rw [Dev.admitCtx_illFormed hbad]
    exact (s.dev.refuse_ended _ _ _ rfl hnew).1

/-! ### Starts (R76, R78, R116) -/

/-- A control command that is eligible starts. -/
theorem Dev.start_control {d : Dev} {u : Nat} {c : Cmd} (hc : d.cmd? u = some c) (hready : d.ready c = true) (hskip : c.skipsFor = none)
    (he : d.eligible c = true) (ho : isControlOp c.opcode = true) : d.start u = d.startOne [u] c := by
  unfold Dev.start
  rw [hc]
  dsimp only
  rw [if_neg (by simp [hready]), hskip]
  dsimp only
  rw [if_neg (by simp [he]), if_pos ho]

/-- A command that a failure keeps from running ends. -/
theorem Dev.start_skips {d : Dev} {u id : Nat} {c : Cmd} (hc : d.cmd? u = some c) (hready : d.ready c = true) (hskip : c.skipsFor = some id) :
    d.start u = d.complete c stDEP id := by
  unfold Dev.start
  rw [hc]
  dsimp only
  rw [if_neg (by simp [hready]), hskip]

/-- A start after which no command that was not started has boxes to skip does nothing more. -/
theorem Dev.startRow_noBoxes {d : Dev} {u : Nat}
    (h : ∀ v c, (d.start u).cmd? v = some c → (d.cmd? v).any (·.started) = false → (c.live && c.started && tiledOp c.opcode && !c.boxes.isEmpty) = false) :
    d.startRow u = d.start u := by
  refine Dev.skipBoxes_none _ _ fun x hx c hc => h x.uid c hc ?_
  have hnew := (List.mem_filter.mp hx).2
  simp only [Bool.and_eq_true, Bool.not_eq_true'] at hnew
  exact hnew.2

/-- What is found where no started command is found has not started. -/
theorem Dev.cmd?_notStarted {d : Dev} {v : Nat} {c : Cmd} (hc : d.cmd? v = some c) (hn : (d.cmd? v).any (·.started) = false) : c.started = false := by
  rw [hc] at hn
  exact hn

/-- COMMAND_START of an eligible control command: it runs from now on under the copies in force, and every other command stays. -/
theorem Dev.startRow_control {d : Dev} {u : Nat} {c : Cmd} (hc : d.cmd? u = some c) (hready : d.ready c = true) (hskip : c.skipsFor = none)
    (he : d.eligible c = true) (ho : isControlOp c.opcode = true) :
    (∃ x, (d.startRow u).cmd? u = some x ∧ x.started = true ∧ x.state = .running ∧ x.startAt = d.now ∧ x.raw = c.raw ∧ x.copy = d.copyNow) ∧
    ∀ v, v ≠ u → (d.startRow u).cmd? v = d.cmd? v := by
  obtain ⟨e, x, hcmds, hstart, hxu, hst, hrun, hat, hraw, hcopy, hop⟩ := d.startOne_control u c ho
  rw [← Dev.start_control hc hready hskip he ho] at hstart
  have hxu : x.uid = u := hxu.trans (Dev.cmd?_uid hc)
  have hown : (d.start u).cmd? u = some x := by rw [hstart]; exact e.cmd_setCmd_at u c x ((Dev.cmd?_congr hcmds u).trans hc) hxu
  have hother : ∀ v, v ≠ u → (d.start u).cmd? v = d.cmd? v := fun v hv => by
    rw [hstart, Dev.setCmd_other _ _ (hxu ▸ hv)]; exact Dev.cmd?_congr hcmds v
  have hrow : d.startRow u = d.start u := by
    refine Dev.startRow_noBoxes fun v y hy hn => ?_
    by_cases hv : v = u
    · rw [hv, hown] at hy
      cases hy
      have htiled : tiledOp x.opcode = false := (isControlOp_ne (hop ▸ ho)).1
      simp [htiled]
    · have hns : y.started = false := Dev.cmd?_notStarted ((hother v hv).symm.trans hy) hn
      simp [hns]
  rw [hrow]
  exact ⟨⟨x, hown, hst, hrun, hat, hraw, hcopy⟩, hother⟩

/-- A command that is found ends with the status it completes with. -/
theorem Dev.complete_found {d : Dev} {u : Nat} {c : Cmd} (hc : d.cmd? u = some c) (st det : Nat) : (d.complete c st det).HasEnded u (c.endStatus st det) :=
  Dev.complete_ended st det c (Dev.cmd_isSome_of_cmds rfl hc) (Dev.cmd?_uid hc) rfl

/-- COMMAND_START of a command that a failure keeps from running: it ends, and starts nothing. -/
theorem Dev.startRow_skips {d : Dev} {u id : Nat} {c : Cmd} (hc : d.cmd? u = some c) (hready : d.ready c = true) (hskip : c.skipsFor = some id) :
    (d.startRow u).HasEnded u (c.endStatus stDEP id) := by
  have hu : c.uid = u := Dev.cmd?_uid hc
  have hended : (d.start u).HasEnded u (c.endStatus stDEP id) := by
    rw [Dev.start_skips hc hready hskip]
    exact Dev.complete_found hc stDEP id
  have hrow : d.startRow u = d.start u := by
    refine Dev.startRow_noBoxes fun v y hy hn => ?_
    by_cases hv : v = u
    · obtain ⟨⟨x, hx, hlive, -⟩, -⟩ := hended
      rw [hv, hx] at hy
      cases hy
      simp [hlive]
    · obtain ⟨b, i, hheard⟩ := d.complete_other c stDEP id v (hu ▸ hv)
      rw [Dev.start_skips hc hready hskip, hheard] at hy
      obtain ⟨z, hz, rfl⟩ := Option.map_eq_some_iff.mp hy
      have hns : z.started = false := Dev.cmd?_notStarted hz hn
      have hns : (Cmd.hears c.uid b i z).started = false := hns
      simp [hns]
  rw [hrow]
  exact hended

/-- Settles O29: a start or a skip of the command by its conditions; and each command of the list is one that runs under its own copies. -/
theorem commandsStart : Obligations.CommandsStart := by
  unfold Obligations.CommandsStart
  refine ⟨fun s u c hr hc hready => ⟨fun hskip he ho => ?_, fun id hskip => ?_⟩, fun s u c env i hr hc hst hn hw hi => ?_⟩
  · exact ⟨_, onDevice_running s (·.startRow u) hr, Dev.startRow_control hc hready hskip he ho⟩
  · exact ⟨_, onDevice_running s (·.startRow u) hr, Dev.startRow_skips hc hready hskip⟩
  · have hrun := fun f => onDevice_withCopy s u c f hc hst hn hw hr
    simp only [List.mem_cons, List.not_mem_nil, or_false] at hi
    rcases hi with rfl | rfl | rfl | rfl | rfl | rfl | rfl | rfl | rfl | rfl | rfl | rfl | rfl <;> exact hrun _

/-! ### FENCE and TICK_WAIT (R79) -/

theorem Dev.fenceOpen_iff (d : Dev) (c : Cmd) : d.fenceOpen c = true ↔
    ∀ x ∈ d.cmds, x.live = true → x.part = c.part → x.uid < c.uid → bit (c.u16 64) x.queue = false := by
  simp [Dev.fenceOpen, and_imp]

/-- A started FENCE with nothing left before it ends; until then it waits. -/
theorem Dev.fenceRun_eq {d : Dev} {u : Nat} {c : Cmd} (hc : d.cmd? u = some c) (ho : c.opcode = 0x10) (hst : c.started = true) (hl : c.live = true) :
    d.fenceRun u = if d.fenceOpen c then d.complete c stOK 0 else d := by
  unfold Dev.fenceRun
  rw [hc]
  simp [ho, hst, hl]

/-- A started TICK_WAIT ends once its tick has come; until then it waits. -/
theorem Dev.tickWaitRun_eq {d : Dev} {u : Nat} {c : Cmd} (hc : d.cmd? u = some c) (ho : c.opcode = 0x11) (hst : c.started = true) (hl : c.live = true) :
    d.tickWaitRun u = if c.waitTick ≤ d.tick.count then d.complete c stOK 0 else d := by
  unfold Dev.tickWaitRun
  rw [hc]
  simp [ho, hst, hl]

/-- Settles O30: each of the two commands completes or leaves the device as it is, by its condition. -/
theorem fencesAndTickWaitsCommit : Obligations.FencesAndTickWaitsCommit := by
  unfold Obligations.FencesAndTickWaitsCommit
  intro s u c hr hc hst hl
  refine ⟨fun ho hall => ?_, fun ho ⟨x, hx, hlive, hpart, huid, hbit⟩ => ?_, fun ho ht => ?_, fun ho ht => ?_⟩
  · refine ⟨_, onDevice_running s (·.fenceRun u) hr, ?_⟩
    have he : s.dev.fenceRun u = _ := (Dev.fenceRun_eq hc ho hst hl).trans (if_pos ((s.dev.fenceOpen_iff c).mpr hall))
    rw [he]
    exact Dev.complete_found hc stOK 0
  · have hshut : ¬ s.dev.fenceOpen c = true := fun h =>
      Bool.false_ne_true (((s.dev.fenceOpen_iff c).mp h x hx hlive hpart huid).symm.trans hbit)
    exact onDevice_keep s hr ((Dev.fenceRun_eq hc ho hst hl).trans (if_neg hshut))
  · refine ⟨_, onDevice_running s (·.tickWaitRun u) hr, ?_⟩
    have he : s.dev.tickWaitRun u = _ := (Dev.tickWaitRun_eq hc ho hst hl).trans (if_pos ht)
    rw [he]
    exact Dev.complete_found hc stOK 0
  · exact onDevice_keep s hr ((Dev.tickWaitRun_eq hc ho hst hl).trans (if_neg (Nat.not_le.mpr ht)))

end Sys2Proof.Machine
end

section
/-! Tiles of a command (R86 to R88, R274): the last tile of a whole run, and a tile's claim and commit. O36 and O41. -/

namespace Sys2Proof.Machine

theorem Dev.SameMemory.trans {d e f : Dev} (h : d.SameMemory e) (k : e.SameMemory f) : d.SameMemory f :=
  ⟨h.1.trans k.1, h.2.1.trans k.2.1, h.2.2.trans k.2.2⟩

/-! ### The last tile of a whole run (R86 to R88) -/

/-- A status that a miss of the frame replaces. -/
theorem Cmd.endStatus_ok (c : Cmd) : c.endStatus stOK 0 = if c.missed then (stMISS, 1) else (stOK, 0) := by
  unfold Cmd.endStatus
  simp

/-- A run of one tile takes the tile's cycles, whatever the number of its units. -/
theorem Dev.wholeEnd_one {d : Dev} {c : Cmd} {id : TileId} (hleft : d.tilesLeft c = [id]) (hs : d.serving c ≠ []) :
    d.wholeEnd c = d.now + (d.opSpace c).cycles id := by
  have hle := ceilDiv_le ((d.opSpace c).cycles id) (d.serving c).length (List.length_pos_iff.mpr hs)
  unfold Dev.wholeEnd
  rw [hleft]
  simp only [List.map_cons, List.map_nil, List.foldl_cons, List.foldl_nil, List.sum_cons, List.sum_nil, Nat.zero_max, Nat.add_zero]
  rw [Nat.max_eq_left hle]

/-- The command is found as its whole run begins. -/
theorem Dev.beginWhole_cmd {d : Dev} {u : Nat} {c : Cmd} (hc : d.cmd? u = some c) : (d.beginWhole c).cmd? u = some (d.wholeCmd c) := by
  have hu : c.uid = u := Dev.cmd?_uid hc
  have hcmds : (d.beginWhole c).cmds = (d.setCmd (d.wholeCmd c)).cmds := rfl
  exact (Dev.cmd?_congr hcmds u).trans (d.cmd_setCmd_at u c (d.wholeCmd c) hc hu)

/-- A started command of an opcode whose copies are in force runs whole. -/
theorem asStarted_runTiled {d : Dev} {u op : Nat} {c : Cmd} (env : Env) (hc : d.cmd? u = some c) (ho : c.opcode = op) (hcopy : c.copy = d.copyNow) :
    d.asStarted u (fun d => d.runTiled op u env) = d.runWhole u env := by
  rw [Dev.asStarted_here _ hc hcopy]
  unfold Dev.runTiled
  rw [hc]
  exact if_pos ho

/-- The commands with tiles each run whole under their own opcode. -/
theorem exec_tiled {i : Instr} {op u : Nat} {env : Env} (s : State) (hr : s.running = true)
    (hi : (i, op) ∈ [(Instr.matmul u env, 0x01), (.conv u env, 0x02), (.attend u env, 0x03), (.vprog u env, 0x04), (.convert u env, 0x05),
      (.fillRandom u env, 0x07), (.sample u env, 0x08)]) :
    exec i s = .next { s with dev := s.dev.asStarted u (fun d => d.runTiled op u env) } := by
  have hrun := fun op => onDevice_running s (fun d => d.asStarted u (fun d => d.runTiled op u env)) hr
  simp only [List.mem_cons, List.not_mem_nil, or_false, Prod.mk.injEq] at hi
  rcases hi with ⟨rfl, rfl⟩ | ⟨rfl, rfl⟩ | ⟨rfl, rfl⟩ | ⟨rfl, rfl⟩ | ⟨rfl, rfl⟩ | ⟨rfl, rfl⟩ | ⟨rfl, rfl⟩ <;> exact hrun _

/-- Settles O36: the whole run comes to its one tile, which ends the command. -/
theorem tiledCommandsRun : Obligations.TiledCommandsRun := by
  unfold Obligations.TiledCommandsRun
  intro s u op env c k id i d r hi hr hc ho hl hst hcopy hpre hserving hinputs htagged hleft hcleat hcopies hlast hd hk hmay hres hwaits hcombines hwrites
  subst hd hk
  obtain ⟨hended, hnow, hmem⟩ := (s.dev.beginWhole c).runTile_last u env id (s.dev.wholeCmd c) r (Dev.beginWhole_cmd hc) hl hcleat hmay hres hwaits
    hcombines hwrites htagged hlast
  have hrun : s.dev.runWhole u env = _ := s.dev.runWhole_last u env c id hc hl hst hpre hserving hinputs hleft hcopies hended
  refine ⟨_, exec_tiled s hr hi, ?_⟩
  rw [asStarted_runTiled env hc ho hcopy, hrun, c.endStatus_ok]
  exact ⟨hended, hnow.trans (Dev.wholeEnd_one hleft hserving), fun hp hk => (hmem hp hk).same⟩

/-! ### A result on chip (R86, R274) -/

/-- The device as a unit's result comes: the unit has streamed its tile, and a result's number is taken. -/
def Dev.atResult (d : Dev) (c : Cmd) (x : Copy) (due : Nat) : Dev := { d.streamed' c x due with fresh := (d.streamed' c x due).fresh + 1 }

/-- What the coming of a result leaves before it claims: commands, memory and the count of duplicates; the clock stands where the result is due. -/
theorem Dev.atResult_effect (d : Dev) (c : Cmd) (x : Copy) (due : Nat) : (d.atResult c x due).cmds = d.cmds ∧ (d.atResult c x due).now = max d.now due ∧
    (d.atResult c x due).SameMemory d ∧ ∀ die, (d.atResult c x due).regN (pgHAL die) 0x81C = d.regN (pgHAL die) 0x81C := d.streamed_effect c x due

/-- A result without an armed error, whose inputs came, claims. -/
theorem Dev.resultOnChip_claims {d : Dev} {e : Engine} {env : Env} {u due : Nat} {x : Copy} {c : Cmd} (hh : (d.holding e).head? = some (u, x))
    (hc : d.cmd? u = some c) (hdue : d.dueAt c x = some due) (hw : (d.opTile c x.tile).flags.waits = false) (ha : d.armed e = 0)
    (hs : d.regN (pgSPD e.core) 0xC04 = 0) (hin : (d.streamed' c x due).inputFails env c = none) :
    d.resultOnChip e env = (d.atResult c x due).claim u x (d.opTile c x.tile) := by
  have hc' : (d.streamed' c x due).cmd? u = some c := (Dev.cmd?_congr (d.streamed_effect c x due).1 u).trans hc
  unfold Dev.resultOnChip
  rw [hh]
  dsimp only
  rw [hc]
  dsimp only
  rw [hdue]
  dsimp only
  rw [if_neg (by simp [hw]), if_neg (by simp [ha]), if_neg (by simp [ha]), if_neg (by simp [hs])]
  unfold Dev.resultOnChip.finish
  rw [hc']
  dsimp only
  rw [hin]
  rfl

/-- A copy that has claimed its tile's record with a result. -/
def Copy.claims (x : Copy) (r : TileResult) (now : Nat) : Copy := { x with claimed := true, result := r, onChipAt := now }

/-- The only copy of a tile whose record is OPEN claims it. -/
theorem Dev.claim_open {d : Dev} {u : Nat} {x : Copy} {c : Cmd} (r : TileResult) (hc : d.cmd? u = some c) (hopen : c.work.cleatOf x.tile = none)
    (hx : x ∈ c.work.copies) (hone : ∀ y ∈ c.work.copies, y.tile = x.tile → y = x) :
    ∃ k, d.claim u x r = d.setCmd k ∧ k.uid = u ∧ k.work.cleatOf x.tile = some .claimed ∧ x.claims r d.now ∈ k.work.copies := by
  have hnone : c.work.copies.filter (fun y => y.tile == x.tile && y != x) = [] := by
    rw [List.filter_eq_nil_iff]
    intro y hy
    have hyx := hone y hy
    simpa using hyx
  have hu : c.uid = u := Dev.cmd?_uid hc
  unfold Dev.claim
  rw [hc]
  dsimp only
  rw [if_neg (by simp [hopen]), hnone]
  refine ⟨_, rfl, hu, c.work.cleatOf_setCleat x.tile .claimed, ?_⟩
  exact List.mem_map.mpr ⟨x, hx, if_pos (beq_self_eq_true x)⟩

/-- A result whose tile's record is not OPEN is a duplicate. -/
theorem Dev.claim_taken {d : Dev} {u : Nat} {x : Copy} {c : Cmd} (r : TileResult) (hc : d.cmd? u = some c) (ht : c.work.cleatOf x.tile ≠ none) :
    d.claim u x r = d.dropDup u x := by
  unfold Dev.claim
  rw [hc]
  exact if_pos (Option.isSome_iff_ne_none.mpr ht)

/-- No die of the device has its Halyard page where MGT's is. -/
theorem pgHAL_ne_pgMGT {e : Engine} (h : engineOk e = true) : pgHAL e.die ≠ pgMGT := by
  have hd : e.die < 4 := by
    cases e with
    | arr a => simp only [engineOk, arrayOk, decide_eq_true_eq] at h; simp only [Engine.die, Engine.core]; omega
    | vec n => simp only [engineOk, coreOk, decide_eq_true_eq] at h; simp only [Engine.die, Engine.core]; omega
  unfold pgHAL pgMGT
  omega

/-! ### A tile's commit (R87) -/

/-- A claimed tile whose host writes are served commits its result. -/
theorem Dev.tileCommit_writes {d : Dev} {e : Engine} {env : Env} {u : Nat} {x : Copy} {c : Cmd} (hh : (d.claimedOn e).head? = some (u, x))
    (hc : d.cmd? u = some c) (hw : d.writeFails env c x.result.writes = none) :
    d.tileCommit e env = (d.commitResult u x.tile x.unit x.result).1 := by
  unfold Dev.tileCommit
  rw [hh]
  dsimp only
  unfold Dev.commitCopy
  rw [hc]
  dsimp only
  rw [hw]

/-- Settles O41: a result claims or is dropped as a duplicate by its tile's record, and a claimed tile commits its result. -/
theorem tilesClaimAndCommit : Obligations.TilesClaimAndCommit := by
  unfold Obligations.TilesClaimAndCommit
  intro s e env u c x hr he hc hcopy
  refine ⟨fun due r hh hdue hres hw ha hs hin => ?result, fun hh htagged hcombines hsends hwrites hmore => ?commit⟩
  case result =>
    subst hres
    have hunit : x.unit = e := s.dev.holding_unit e u x hh
    obtain ⟨hcmds, hnow, hmem, hcount⟩ := s.dev.atResult_effect c x due
    have hfound : (s.dev.atResult c x due).cmd? u = some c := (Dev.cmd?_congr hcmds u).trans hc
    have hclaim : s.dev.asHolder (s.dev.holding e) (fun d => d.resultOnChip e env) = (s.dev.atResult c x due).claim u x (s.dev.opTile c x.tile) :=
      (s.dev.asHolder_here _ u x c _ hh hc hcopy).trans (Dev.resultOnChip_claims hh hc hdue hw ha hs hin)
    obtain ⟨t, hexec, hview, htcmds, htnow, -, htreg⟩ :=
      onUnitAlert_running s (fun d => d.asHolder (d.holding e) (fun d => d.resultOnChip e env)) hr he
    rw [hclaim] at hview htcmds htnow htreg
    refine ⟨fun hopen hx hone => ?_, fun htaken => ?_⟩
    · obtain ⟨k, hset, hku, hcleat, hy⟩ := Dev.claim_open (s.dev.opTile c x.tile) hfound hopen hx hone
      rw [hset] at hview htcmds htnow
      refine ⟨t, k, _, hexec, ?_, hcleat, hy, rfl, rfl, rfl, rfl, htnow.trans hnow, ?_⟩
      · exact (Dev.cmd?_congr htcmds u).trans ((s.dev.atResult c x due).cmd_setCmd_at u c k hfound hku)
      · exact Dev.SameMemory.trans hview.same hmem
    · rw [Dev.claim_taken _ hfound htaken] at hview htcmds htreg
      obtain ⟨⟨k, hk, hgone, hcleat⟩, hdups, hdmem⟩ := (s.dev.atResult c x due).dropDup_effect u x c hfound
      refine ⟨t, k, hexec, (Dev.cmd?_congr htcmds u).trans hk, hgone, hcleat, ?_, (Dev.SameMemory.trans hview.same hdmem).trans hmem⟩
      rw [hcount] at hdups
      have hpage : pgHAL x.unit.die ≠ pgMGT := hunit ▸ pgHAL_ne_pgMGT he
      unfold Dev.regN at hdups ⊢
      rw [htreg _ _ hpage (by decide)]
      exact hdups
  case commit =>
    have hcommit : s.dev.asHolder (s.dev.claimedOn e) (fun d => d.tileCommit e env) = (s.dev.commitResult u x.tile x.unit x.result).1 :=
      (s.dev.asHolder_here _ u x c _ hh hc hcopy).trans (Dev.tileCommit_writes hh hc hwrites)
    obtain ⟨hview, k, hk, hcleat, hcount, hgone⟩ := s.dev.commitResult_not_last u x.tile x.unit x.result c hc hmore htagged hcombines hsends
    refine ⟨_, k, onUnit_running s (fun d => d.asHolder (d.claimedOn e) (fun d => d.tileCommit e env)) hr he, ?_⟩
    rw [hcommit]
    exact ⟨hk, hcleat, hcount, hgone, hview.same⟩

end Sys2Proof.Machine
end

section
/-! Writes of the common registers of every page (R102, R103, R107, R108, R121): shadowed, W1C and read-only registers, narrow writes. O16 and O17. -/

namespace Sys2Proof.Machine

/-! ### A write that is served -/

/-- An aligned 32-bit write below the live registers acts on the device proper as one write of its page. -/
theorem exec_registerWrite_word {s : State} {src : Src} {page off : Nat} (v : Nat) (hw : s.canWrite src page) (hp : page < 1024) (ho : off < 0xC00)
    (ha : off % 4 = 0) : exec (.registerWrite src (4096 * page + off) 32 v) s = .next { s with dev := s.dev.write32 src page off (BitVec.ofNat 32 v) } := by
  obtain ⟨hreq, hserved, -⟩ := hw
  have hrange : (requesterOk src && decide (4096 * page + off < 0x400000)) = true := by rw [hreq, decide_eq_true (by omega)]; rfl
  have haligned : (4096 * page + off) % 4 = 0 := by omega
  have hpage : (4096 * page + off) / 4096 = page := by omega
  have hoff : (4096 * page + off) % 4096 = off := by omega
  have hfw : off ≠ 0xC0C := by omega
  show withUnit _ (s.registerWrite src (4096 * page + off) 32 v) = _
  simp [withUnit, hrange, State.registerWrite, State.write, hserved, haligned, hpage, hoff, hfw]

/-- R103: a write of 8 or 16 bits comes to IGNORED_WRITE. -/
theorem exec_registerWrite_narrow {s : State} {src : Src} {page off width : Nat} (v : Nat) (hw : s.canWrite src page) (hp : page < 1024) (ho : off < 0x1000)
    (hn : width < 32) : exec (.registerWrite src (4096 * page + off) width v) s = .next { s with dev := s.dev.ignored page } := by
  obtain ⟨hreq, hserved, hpresent⟩ := hw
  have hrange : (requesterOk src && decide (4096 * page + off < 0x400000)) = true := by rw [hreq, decide_eq_true (by omega)]; rfl
  have hnarrow : width ≠ 32 ∧ width ≠ 64 := by omega
  have hpage : (4096 * page + off) / 4096 = page := by omega
  show withUnit _ (s.registerWrite src (4096 * page + off) width v) = _
  simp [withUnit, hrange, State.registerWrite, Dev.writeAny, hserved, hnarrow, hpage, hpresent]

/-! ### IGNORED_WRITE -/

theorem Dev.ignored_header {page i : Nat} {b : Block} (d : Dev) (hb : blockOf page = some (b, i)) : d.ignored page = d.setStat page 2 := by
  unfold Dev.ignored
  rw [hb]
  rfl

/-- A write that is ignored sets IGNORED_WRITE and changes nothing else. -/
theorem State.ignored_effect (s : State) {page i : Nat} {b : Block} (hb : blockOf page = some (b, i)) :
    s.OnlyRegs { s with dev := s.dev.ignored page } ∧ bit ((s.dev.ignored page).regN page oStat) 2 = true ∧
      (s.dev.ignored page).RegsBut s.dev [regKey page oStat] := by
  rw [Dev.ignored_header _ hb]
  exact ⟨rfl, Dev.bit_setStat _ _ (by decide), Dev.RegsBut_setReg _ _ _ _⟩

/-! ### Shadowed registers -/

/-- R107: an open page takes the value and marks its shadow as changed. -/
theorem Dev.writeShadow_open {d : Dev} {src : Src} {page off : Nat} {r : RegSpec} (v : Word) (hl : d.lockedTo src page = false)
    (hc : d.commitPending page = false) (hh : d.heldBits src page off r = 0) :
    d.writeShadow src page off r v = (d.setReg page off v).setStat page 3 := by
  simp [Dev.writeShadow, hl, hc, hh]

/-- R108, R121: a page that is locked to the source, or whose commit is pending, ignores it. -/
theorem Dev.writeShadow_closed {d : Dev} {src : Src} {page : Nat} (off : Nat) (r : RegSpec) (v : Word)
    (h : d.lockedTo src page = true ∨ d.commitPending page = true) : d.writeShadow src page off r v = d.ignored page :=
  if_pos (by simpa using h)

/-- Settles O16: the write comes to `Dev.writeShadow`, which an open page takes and any other ignores. -/
theorem shadowedRegistersTakeWrites : Obligations.ShadowedRegistersTakeWrites := by
  unfold Obligations.ShadowedRegistersTakeWrites
  intro s src page off v b i r hw hp hlow hhigh ha hb hr hrws hheld
  have hexec := exec_registerWrite_word v hw hp (by omega) ha
  rw [Dev.write32_shadow _ hw.2.2 hb hlow hr hrws] at hexec
  have hstat : off ≠ oStat := by unfold oStat; omega
  by_cases hclosed : s.dev.lockedTo src page = true ∨ s.dev.commitPending page = true
  · rw [Dev.writeShadow_closed _ _ _ hclosed] at hexec
    obtain ⟨honly, hbit, hregs⟩ := s.ignored_effect hb
    exact ⟨_, hexec, honly, fun hl hc => by simp [hl, hc] at hclosed, fun _ => ⟨hbit, hregs⟩⟩
  · obtain ⟨hl, hc⟩ := not_or.mp hclosed
    rw [Dev.writeShadow_open _ (eq_false_of_ne_true hl) (eq_false_of_ne_true hc) hheld] at hexec
    refine ⟨_, hexec, rfl, fun _ _ => ⟨?_, Dev.bit_setStat _ _ (by decide), ?_⟩, fun h => absurd h hclosed⟩
    · exact (Dev.reg_setReg_other _ _ (regKey_same_page_ne hstat)).trans (Dev.reg_setReg_same _ _ _ _)
    · exact ((Dev.RegsBut_setReg _ _ _ _).mono (by simp)).trans ((Dev.RegsBut_setReg _ _ _ _).mono (by simp))

/-- Settles O17: by the register's access, and by the width for a narrow write. -/
theorem otherRegistersTakeWrites : Obligations.OtherRegistersTakeWrites := by
  unfold Obligations.OtherRegistersTakeWrites
  intro s src page off v b i hw hp hlow hhigh ha hb
  have hexec := exec_registerWrite_word v hw hp hhigh ha
  refine ⟨fun r hr hw1c hl => ?sticky, fun r hr hro => ?readOnly, fun width hwidth => ?narrow⟩
  case sticky =>
    rw [Dev.write32_sticky _ hw.2.2 hb hlow hr hw1c, hl] at hexec
    exact ⟨_, hexec, rfl, Dev.reg_setReg_same _ _ _ _, Dev.RegsBut_setReg _ _ _ _⟩
  case readOnly =>
    rwa [Dev.write32_readOnly _ hw.2.2 hb hlow hr hro] at hexec
  case narrow => exact ⟨_, exec_registerWrite_narrow v hw hp (by omega) (by omega), s.ignored_effect hb⟩

end Sys2Proof.Machine
end

section
/-! PAGE_CTL (R108, R111, R112, R121): what COMMIT, DISCARD and LOCK come to, and what a discard leaves in the shadow. O18 and O19. -/

namespace Sys2Proof.Machine

/-! ### Bits of PAGE_CTL -/

theorem bits_one (v i : Nat) : bits v i 1 = b2n (bit v i) := by
  unfold bits bit b2n
  rw [Nat.testBit_eq_decide_div_mod_eq, Nat.shiftRight_eq_div_pow, Nat.pow_one]
  simp only [decide_eq_true_eq]
  split <;> omega

/-- A bit replaced by itself. -/
theorem setBits_bit_self (v i : Nat) : setBits v i 1 (b2n (bit v i)) = v := by
  have hle : bits v i 1 <<< i ≤ v := by
    unfold bits
    rw [Nat.shiftLeft_eq, Nat.shiftRight_eq_div_pow]
    exact Nat.le_trans (Nat.mul_le_mul_right _ (Nat.mod_le _ _)) (Nat.div_mul_le_self v (2 ^ i))
  have hmod : bits v i 1 % 2 ^ 1 = bits v i 1 := by unfold bits; exact Nat.mod_mod _ _
  unfold setBits
  rw [← bits_one, hmod]
  omega

/-- A bit replaced reads as its new value. -/
theorem bit_setBits_same (v i : Nat) (on : Bool) : bit (setBits v i 1 (b2n on)) i = on := by
  have h := bits_setBits_same v i 1 (b2n on)
  rw [bits_one] at h
  revert h
  cases bit (setBits v i 1 (b2n on)) i <;> cases on <;> decide

/-- The word of a COMMIT or a DISCARD: AUTO_COMMIT_TICK and LOCK as they are, and the bits it names. -/
theorem State.bit_ctlKept (s : State) (page v : Nat) {i : Nat} (h : i < 32) :
    bit (s.ctlKept page v).toNat i = (bit (s.dev.regN page oCtl) i && bit 0x102 i || bit v i) := by
  unfold State.ctlKept
  rw [BitVec.toNat_ofNat, bit_mod _ h]
  unfold bit
  rw [Nat.testBit_or, Nat.testBit_and]

theorem State.bit_ctlKept_auto (s : State) (page : Nat) {v : Nat} (h : bit v 1 = false) : bit (s.ctlKept page v).toNat 1 = bit (s.dev.regN page oCtl) 1 := by
  rw [s.bit_ctlKept page v (by decide), h, show bit 0x102 1 = true by decide, Bool.and_true, Bool.or_false]

theorem State.bit_ctlKept_lock (s : State) (page : Nat) {v : Nat} (h : bit v 8 = false) : bit (s.ctlKept page v).toNat 8 = s.dev.isLocked page := by
  rw [s.bit_ctlKept page v (by decide), h, show bit 0x102 8 = true by decide, Bool.and_true, Bool.or_false]
  rfl

/-- COMMIT and DISCARD are as the word names them. -/
theorem State.bit_ctlKept_asked (s : State) (page v : Nat) {i : Nat} (h : i = 0 ∨ i = 2) : bit (s.ctlKept page v).toNat i = bit v i := by
  have hmask : bit 0x102 i = false := by rcases h with rfl | rfl <;> decide
  rw [s.bit_ctlKept page v (by omega), hmask, Bool.and_false, Bool.false_or]

/-- A mask of bit 1. -/
theorem and_two (c : Nat) : c &&& 2 = if bit c 1 then 2 else 0 := by
  refine Nat.eq_of_testBit_eq fun i => ?_
  have htwo : Nat.testBit 2 i = decide (1 = i) := Nat.testBit_two_pow (n := 1)
  rw [Nat.testBit_and, htwo]
  by_cases h : 1 = i
  · subst h
    unfold bit
    cases c.testBit 1 <;> rfl
  · rw [decide_eq_false h, Bool.and_false]
    cases bit c 1
    · exact (Nat.zero_testBit i).symm
    · exact (htwo.trans (decide_eq_false h)).symm

/-- The word of a LOCK: AUTO_COMMIT_TICK as it is, LOCK as asked, neither COMMIT nor DISCARD. -/
theorem bit_lockWord (c : Nat) (on : Bool) : bit (BitVec.ofNat 32 ((c &&& 2) + 256 * b2n on)).toNat 0 = false ∧
    bit (BitVec.ofNat 32 ((c &&& 2) + 256 * b2n on)).toNat 1 = bit c 1 ∧ bit (BitVec.ofNat 32 ((c &&& 2) + 256 * b2n on)).toNat 2 = false ∧
    bit (BitVec.ofNat 32 ((c &&& 2) + 256 * b2n on)).toNat 8 = on := by
  rw [and_two]
  cases bit c 1 <;> cases on <;> decide

/-! ### A write to PAGE_CTL -/

theorem Dev.write32_ctl {d : Dev} {src : Src} {page i : Nat} {b : Block} (v : Word) (hp : d.pagePresent src page = true) (hb : blockOf page = some (b, i)) :
    d.write32 src page oCtl v = d.writeCtl src page v.toNat := by
  unfold Dev.write32
  rw [if_neg (by simp [hp]), hb]
  rfl

/-- R100, R101: a page without a header takes no write. -/
theorem Dev.write32_headerless {d : Dev} {src : Src} {page : Nat} (off : Nat) (v : Word) (hp : d.pagePresent src page = true) (hb : blockOf page = none) :
    d.write32 src page off v = d := by
  unfold Dev.write32
  rw [if_neg (by simp [hp]), hb]

/-- A write of PAGE_CTL acts on the device proper, whatever the page. -/
theorem bySource_ctl (s : State) {src : Src} {page : Nat} (v : Word) (hw : s.canWrite src page) (hp : page < 1024) {b : Block} {i : Nat}
    (hb : blockOf page = some (b, i)) :
    bySource (requesterOk src && pageOk page) s src page oCtl v = .next { s with dev := s.dev.writeCtl src page v.toNat } := by
  obtain ⟨hreq, hserved, hpresent⟩ := hw
  rw [bySource_served s (by simp [hreq, pageOk, hp]) hserved (.inr (by decide)), Dev.write32_ctl v hpresent hb]

/-- PAGE_CTL written with what it holds. -/
def Dev.ctlKept (d : Dev) (page : Nat) : Dev := d.setReg page oCtl (d.reg page oCtl)

/-- It changes no register. -/
theorem Dev.RegsBut_ctlKept (d : Dev) (page : Nat) : (d.ctlKept page).RegsBut d [] := by
  intro pg o ho _
  by_cases hkey : regKey pg o = regKey page oCtl
  · have hsame : pg = page ∧ o = oCtl := by unfold regKey oCtl at hkey; unfold oCtl; omega
    obtain ⟨rfl, rfl⟩ := hsame
    exact Dev.reg_setReg_same _ _ _ _
  · exact Dev.reg_setReg_other _ _ hkey

theorem Dev.regN_ctlKept (d : Dev) (page : Nat) {pg o : Nat} (ho : o < 0x1000) : (d.ctlKept page).regN pg o = d.regN pg o :=
  (d.RegsBut_ctlKept page).regN ho List.not_mem_nil

theorem Dev.isLocked_ctlKept (d : Dev) (page : Nat) : (d.ctlKept page).isLocked page = d.isLocked page :=
  congrArg (bit · 8) (d.regN_ctlKept page (by decide))

/-- A write that keeps AUTO_COMMIT_TICK, by a source that the page is open to: LOCK, then DISCARD or COMMIT. -/
theorem Dev.writeCtl_open {d : Dev} {src : Src} {page v : Nat} (hl : d.lockedTo src page = false) (hauto : bit v 1 = bit (d.regN page oCtl) 1) :
    d.writeCtl src page v = if bit v 2 then ((d.ctlKept page).writeLock src page (bit v 8)).discardShadow page
      else if bit v 0 then ((d.ctlKept page).writeLock src page (bit v 8)).requestCommit page else (d.ctlKept page).writeLock src page (bit v 8) := by
  have hkept : d.setReg page oCtl (BitVec.ofNat 32 (setBits (d.regN page oCtl) 1 1 (b2n (bit v 1)))) = d.ctlKept page := by
    rw [hauto, setBits_bit_self]
    exact congrArg (d.setReg page oCtl) ((BitVec.ofNat_toNat ..).trans (BitVec.setWidth_eq _))
  unfold Dev.writeCtl
  rw [hl, hkept]
  rfl

/-- LOCK written with what it holds. -/
theorem Dev.writeLock_same {d : Dev} {src : Src} {page : Nat} {on : Bool} (h : on = d.isLocked page) : d.writeLock src page on = d := by
  simp [Dev.writeLock, h]

/-! ### COMMIT and DISCARD -/

/-- R108: a commit waits behind those that are pending, with the time of its request. -/
theorem Dev.requestCommit_open {d : Dev} {page : Nat} (h : d.commitPending page = false) :
    ∃ k, d.requestCommit page = { d with commits := d.commits ++ [k] } ∧ k.page = page ∧ k.since = d.now := by
  unfold Dev.requestCommit
  rw [if_neg (by simp [h])]
  exact ⟨_, rfl, rfl, rfl⟩

/-- Registers of a page copied from 0x400 above themselves. -/
def Dev.copyDown (d : Dev) (page : Nat) (l : List (Nat × RegSpec)) : Dev := l.foldl (fun d o => d.setReg page o.1 (d.reg page (o.1 + 0x400))) d

theorem Dev.copyDown_cons (d : Dev) (page : Nat) (o : Nat × RegSpec) (l : List (Nat × RegSpec)) :
    d.copyDown page (o :: l) = (d.setReg page o.1 (d.reg page (o.1 + 0x400))).copyDown page l := rfl

theorem Dev.copyDown_form (page : Nat) (l : List (Nat × RegSpec)) (d : Dev) : ∃ g, d.copyDown page l = { d with regs := g } := by
  induction l generalizing d with
  | nil => exact ⟨_, rfl⟩
  | cons x l ih =>
    obtain ⟨g, hg⟩ := ih (d.setReg page x.1 (d.reg page (x.1 + 0x400)))
    exact ⟨g, hg⟩

theorem Dev.RegsBut_copyDown (page : Nat) (l : List (Nat × RegSpec)) (d : Dev) : (d.copyDown page l).RegsBut d (l.map (fun o => regKey page o.1)) := by
  induction l generalizing d with
  | nil => exact .refl _ _
  | cons x l ih => exact ((ih _).mono (by simp)).trans ((Dev.RegsBut_setReg _ _ _ _).mono (by simp))

/-- Each register holds its copy: the copies lie above every register, so none is overwritten, and a register written keeps its value. -/
theorem Dev.reg_copyDown (page : Nat) (l : List (Nat × RegSpec)) (hl : ∀ o ∈ l, o.1 < 0x400) (d : Dev) :
    ∀ o ∈ l, (d.copyDown page l).reg page o.1 = d.reg page (o.1 + 0x400) := by
  induction l generalizing d with
  | nil => nofun
  | cons x l ih =>
    have hx : x.1 < 0x400 := hl x (List.mem_cons_self ..)
    have hl' : ∀ o ∈ l, o.1 < 0x400 := fun o h => hl o (List.mem_cons_of_mem _ h)
    have habove : ∀ off, (d.setReg page x.1 (d.reg page (x.1 + 0x400))).reg page (off + 0x400) = d.reg page (off + 0x400) :=
      fun off => Dev.reg_setReg_other _ _ (regKey_same_page_ne (by omega))
    intro o ho
    rw [Dev.copyDown_cons]
    by_cases hagain : ∃ y ∈ l, y.1 = o.1
    · obtain ⟨y, hy, heq⟩ := hagain
      rw [← heq, ih hl' _ y hy, habove]
    · have hfirst : o = x := (List.mem_cons.mp ho).resolve_right (fun h => hagain ⟨o, h, rfl⟩)
      subst hfirst
      have hkey : regKey page o.1 ∉ l.map (fun y => regKey page y.1) := by
        rw [List.mem_map]
        rintro ⟨y, hy, hkey⟩
        exact hagain ⟨y, hy, by unfold regKey at hkey; omega⟩
      rw [Dev.RegsBut_copyDown page l _ page o.1 (by omega) hkey, Dev.reg_setReg_same]

/-- R111: the page's pending commit is dropped, its shadow takes the active copy, and SHADOW_DIRTY is cleared. -/
theorem Dev.discardShadow_eq {page i : Nat} {b : Block} (d : Dev) (hb : blockOf page = some (b, i)) :
    d.discardShadow page = ((d.unqueued page).copyDown page b.shadowed).clearStat page 3 := by
  unfold Dev.discardShadow Dev.copyShadow
  rw [hb]
  rfl

theorem Dev.discardShadow_effect {page i : Nat} {b : Block} (d : Dev) (hb : blockOf page = some (b, i)) :
    (∃ g, d.discardShadow page = { d with regs := g, commits := d.commits.filter (fun k => k.page != page) }) ∧
    (∀ o ∈ b.shadowed, (d.discardShadow page).reg page o.1 = d.reg page (o.1 + 0x400)) ∧ bit ((d.discardShadow page).regN page oStat) 3 = false ∧
    (d.discardShadow page).RegsBut d (regKey page oStat :: b.shadowed.map (fun o => regKey page o.1)) := by
  rw [Dev.discardShadow_eq d hb]
  refine ⟨?_, fun o ho => ?_, Dev.bit_clearStat _ _ _, ?_⟩
  · obtain ⟨g, hg⟩ := Dev.copyDown_form page b.shadowed (d.unqueued page)
    rw [hg]
    exact ⟨_, rfl⟩
  · have hstat : o.1 ≠ oStat := by have := (b.shadowed_range o ho).1; unfold oStat; omega
    exact (Dev.reg_setReg_other _ _ (regKey_same_page_ne hstat)).trans
      (Dev.reg_copyDown page _ (fun o ho => (b.shadowed_range o ho).2) (d.unqueued page) o ho)
  · exact ((Dev.RegsBut_setReg _ _ _ _).mono (by simp)).trans ((Dev.RegsBut_copyDown page b.shadowed (d.unqueued page)).mono (by simp))

/-- R112: with DISCARD set a write of PAGE_CTL does not depend on COMMIT. -/
theorem Dev.writeCtl_discard_congr (d : Dev) (src : Src) (page : Nat) {v w : Nat} (hv : bit v 2 = true) (hw : bit w 2 = true) (hauto : bit v 1 = bit w 1)
    (hlock : bit v 8 = bit w 8) : d.writeCtl src page v = d.writeCtl src page w := by
  unfold Dev.writeCtl
  rw [hauto, hlock, hv, hw]
  rfl

/-- Words that PAGE_CTL does not tell apart are written alike by every source, served or not. -/
theorem State.writeReg_ctl_congr (s : State) (src : Src) (page : Nat) {v w : Word} (h : s.dev.writeCtl src page v.toNat = s.dev.writeCtl src page w.toNat) :
    s.writeReg src page oCtl v = s.writeReg src page oCtl w := by
  have hdev : s.dev.write32 src page oCtl v = s.dev.write32 src page oCtl w := by
    cases hpresent : s.dev.pagePresent src page with
    | false =>
      unfold Dev.write32
      rw [if_pos (by simp [hpresent]), if_pos (by simp [hpresent])]
    | true => cases hb : blockOf page with
      | none => rw [Dev.write32_headerless oCtl v hpresent hb, Dev.write32_headerless oCtl w hpresent hb]
      | some x => rw [Dev.write32_ctl v hpresent hb, Dev.write32_ctl w hpresent hb, h]
  cases hs : s.srcOk src with
  | false => simp [State.writeReg, hs]
  | true => rw [State.writeReg_served s hs (.inr (by decide)), State.writeReg_served s hs (.inr (by decide)), hdev]

/-- Settles O18: the two writes differ in COMMIT alone, which a write with DISCARD does not look at. -/
theorem discardWinsOverCommit : Obligations.DiscardWinsOverCommit := by
  unfold Obligations.DiscardWinsOverCommit
  intro s src page
  have hasked : ∀ c : Bool, bit (s.ctlKept page (4 + b2n c)).toNat 2 = true := fun c => by
    rw [s.bit_ctlKept_asked page _ (.inr rfl)]; cases c <;> decide
  have hauto : ∀ c : Bool, bit (s.ctlKept page (4 + b2n c)).toNat 1 = bit (s.dev.regN page oCtl) 1 := fun c =>
    s.bit_ctlKept_auto page (by cases c <;> decide)
  have hlock : ∀ c : Bool, bit (s.ctlKept page (4 + b2n c)).toNat 8 = s.dev.isLocked page := fun c =>
    s.bit_ctlKept_lock page (by cases c <;> decide)
  have hctl := s.dev.writeCtl_discard_congr src page (hasked true) (hasked false) ((hauto true).trans (hauto false).symm)
    ((hlock true).trans (hlock false).symm)
  show withUnit _ (s.writeReg src page oCtl (s.ctlKept page (4 + b2n true))) = withUnit _ (s.writeReg src page oCtl (s.ctlKept page (4 + b2n false)))
  rw [s.writeReg_ctl_congr src page hctl]

/-- A COMMIT by a source that the page is open to. -/
theorem State.writeCtl_commit (s : State) {src : Src} {page : Nat} (hl : s.dev.lockedTo src page = false) :
    s.dev.writeCtl src page (s.ctlKept page 1).toNat = (s.dev.ctlKept page).requestCommit page := by
  rw [Dev.writeCtl_open hl (s.bit_ctlKept_auto page (by decide)), s.bit_ctlKept_asked page 1 (.inr rfl), s.bit_ctlKept_asked page 1 (.inl rfl),
    s.bit_ctlKept_lock page (by decide), Dev.writeLock_same (s.dev.isLocked_ctlKept page).symm]
  rfl

/-- A DISCARD by a source that the page is open to. -/
theorem State.writeCtl_discard (s : State) {src : Src} {page : Nat} (hl : s.dev.lockedTo src page = false) :
    s.dev.writeCtl src page (s.ctlKept page 4).toNat = (s.dev.ctlKept page).discardShadow page := by
  rw [Dev.writeCtl_open hl (s.bit_ctlKept_auto page (by decide)), s.bit_ctlKept_asked page 4 (.inr rfl),
    s.bit_ctlKept_lock page (by decide), Dev.writeLock_same (s.dev.isLocked_ctlKept page).symm]
  rfl

/-! ### LOCK -/

/-- A LOCK by a source that the page is open to. -/
theorem Dev.writeCtl_lock {d : Dev} {src : Src} {page : Nat} (hl : d.lockedTo src page = false) (on : Bool) :
    d.writeCtl src page (BitVec.ofNat 32 ((d.regN page oCtl &&& 2) + 256 * b2n on)).toNat = (d.ctlKept page).writeLock src page on := by
  obtain ⟨hcommit, hauto, hdiscard, hlock⟩ := bit_lockWord (d.regN page oCtl) on
  rw [Dev.writeCtl_open hl hauto, hcommit, hdiscard, hlock]
  rfl

/-- LOCK set or cleared, and LOCK_OWNER with it. -/
def Dev.withLock (d : Dev) (src : Src) (page : Nat) (on : Bool) : Dev :=
  let d := d.setReg page oCtl (BitVec.ofNat 32 (setBits (d.regN page oCtl) 8 1 (b2n on)))
  d.setReg page oStat (BitVec.ofNat 32 (setBits (d.regN page oStat) 4 2 (if on then ownerCode src else 0)))

theorem Dev.writeLock_change {d : Dev} {src : Src} {page : Nat} {on : Bool} (hv : isVf src = false) (h : on ≠ d.isLocked page) :
    d.writeLock src page on = d.withLock src page on := by
  unfold Dev.writeLock
  rw [if_neg (by simp [hv]), if_neg (by simpa using h)]
  rfl

theorem Dev.withLock_form (d : Dev) (src : Src) (page : Nat) (on : Bool) : ∃ g, d.withLock src page on = { d with regs := g } := ⟨_, rfl⟩

theorem Dev.isLocked_withLock (d : Dev) (src : Src) (page : Nat) (on : Bool) : (d.withLock src page on).isLocked page = on := by
  unfold Dev.withLock Dev.isLocked
  rw [Dev.regN_setReg_other _ _ (regKey_same_page_ne (by decide)), Dev.regN_setReg_same, BitVec.toNat_ofNat, bit_mod _ (by decide), bit_setBits_same]

theorem Dev.owner_withLock (d : Dev) (src : Src) (page : Nat) (on : Bool) :
    bits ((d.withLock src page on).regN page oStat) 4 2 = if on then ownerCode src else 0 := by
  unfold Dev.withLock
  rw [Dev.regN_setReg_same, BitVec.toNat_ofNat, bits_mod _ (by decide), bits_setBits_same]
  cases on <;> cases src <;> rfl

theorem Dev.RegsBut_withLock (d : Dev) (src : Src) (page : Nat) (on : Bool) : (d.withLock src page on).RegsBut d [regKey page oCtl, regKey page oStat] :=
  ((Dev.RegsBut_setReg _ _ _ _).mono (by simp)).trans ((Dev.RegsBut_setReg _ _ _ _).mono (by simp))

/-- Settles O19: each of the three writes of PAGE_CTL by what it comes to, PAGE_CTL itself being written with what it holds. -/
theorem commitDiscardLock : Obligations.CommitDiscardLock := by
  unfold Obligations.CommitDiscardLock
  intro s src page b i hw hp hb hl
  have hkept : ∀ keys, (s.dev.ctlKept page).RegsBut s.dev keys := fun keys => (s.dev.RegsBut_ctlKept page).mono (List.nil_subset keys)
  refine ⟨fun hnone => ?commit, ?discard, fun on hv => ?lock⟩
  case commit =>
    have hexec : exec (.commit src page) s = _ := bySource_ctl s (s.ctlKept page 1) hw hp hb
    obtain ⟨k, hreq, hpage, hsince⟩ := Dev.requestCommit_open (d := s.dev.ctlKept page) hnone
    rw [s.writeCtl_commit hl, hreq] at hexec
    exact ⟨_, k, hexec, rfl, hpage, hsince, s.dev.RegsBut_ctlKept page⟩
  case discard =>
    have hexec : exec (.discard src page false) s = _ := bySource_ctl s (s.ctlKept page 4) hw hp hb
    rw [s.writeCtl_discard hl] at hexec
    obtain ⟨⟨g, hform⟩, hshadow, hclean, hregs⟩ := (s.dev.ctlKept page).discardShadow_effect hb
    refine ⟨_, hexec, ?_, fun o ho => ?_, hclean, hregs.trans (hkept _)⟩
    · dsimp only
      rw [hform]
      rfl
    · have hrange := b.shadowed_range o ho
      exact (hshadow o ho).trans (s.dev.RegsBut_ctlKept page page _ (by omega) List.not_mem_nil)
  case lock =>
    have hexec : exec (.lock src page on) s = _ := bySource_ctl s _ hw hp hb
    rw [Dev.writeCtl_lock hl] at hexec
    have hheld := s.dev.isLocked_ctlKept page
    by_cases hsame : on = s.dev.isLocked page
    · rw [Dev.writeLock_same (hsame.trans hheld.symm)] at hexec
      exact ⟨_, hexec, rfl, hheld.trans hsame.symm, fun hne => absurd hsame hne, hkept _⟩
    · rw [Dev.writeLock_change hv (fun h => hsame (h.trans hheld))] at hexec
      have honly : s.OnlyRegs { s with dev := (s.dev.ctlKept page).withLock src page on } := by
        obtain ⟨g, hg⟩ := (s.dev.ctlKept page).withLock_form src page on
        rw [hg]
        rfl
      exact ⟨_, hexec, honly, Dev.isLocked_withLock _ _ _ _, fun _ => Dev.owner_withLock _ _ _ _, (Dev.RegsBut_withLock _ _ _ _).trans (hkept _)⟩

end Sys2Proof.Machine
end

section
/-! INT_FORCE and COUNT_CLEAR (R102, R117): the bits of INT_STAT that are forced, and the counters that a mask clears. O20 and O21. -/

namespace Sys2Proof.Machine

/-- Settles O20: the write raises the bits that the block defines, and raising changes INT_STAT, pending vectors and what is sent. -/
theorem interruptsAreForced : Obligations.InterruptsAreForced := by
  unfold Obligations.InterruptsAreForced
  intro s src page v b i hw hp hb
  obtain ⟨hreq, hserved, hpresent⟩ := hw
  have hwrite : s.dev.write32 src page 0x01C v = s.dev.raiseBits page (v &&& BitVec.ofNat 32 b.intMask) := by
    unfold Dev.write32
    rw [if_neg (by simp [hpresent]), hb]
    rfl
  have hexec : exec (.intForce src page v) s = _ := bySource_served s (by simp [hreq, pageOk, hp]) hserved (.inr (by decide))
  obtain ⟨x, y, hraised⟩ := s.dev.raiseBits_form page (v &&& BitVec.ofNat 32 b.intMask)
  rw [hwrite, hraised] at hexec
  exact ⟨_, hexec, rfl, s.dev.reg_setReg_same page oIntStat _, s.dev.RegsBut_setReg page oIntStat _⟩

/-! ### Registers cleared -/

/-- Registers of a page set to 0. -/
def Dev.zeroed (d : Dev) (page : Nat) (l : List Nat) : Dev := l.foldl (fun d off => d.setReg page off 0) d

theorem Dev.zeroed_cons (d : Dev) (page off : Nat) (l : List Nat) : d.zeroed page (off :: l) = (d.setReg page off 0).zeroed page l := rfl

theorem Dev.reg_zeroed (d : Dev) (page : Nat) (l : List Nat) (o : Nat) : (d.zeroed page l).reg page o = if o ∈ l then 0 else d.reg page o := by
  induction l generalizing d with
  | nil => rfl
  | cons x l ih =>
    rw [Dev.zeroed_cons, ih]
    by_cases hx : o = x
    · subst hx; simp [Dev.reg_setReg_same]
    · simp [hx, Dev.reg_setReg_other _ _ (regKey_same_page_ne hx)]

theorem Dev.RegsBut_zeroed (d : Dev) (page : Nat) (l : List Nat) : (d.zeroed page l).RegsBut d (l.map (regKey page)) := by
  induction l generalizing d with
  | nil => exact .refl _ _
  | cons x l ih => exact ((ih _).mono (by simp)).trans ((Dev.RegsBut_setReg _ _ _ _).mono (by simp))

/-- The registers of other pages read as before, where the ones cleared lie in their page. -/
theorem Dev.reg_zeroed_page (d : Dev) {page pg o : Nat} {l : List Nat} (hl : ∀ x ∈ l, x < 0x1000) (ho : o < 0x1000) (h : pg ≠ page) :
    (d.zeroed page l).reg pg o = d.reg pg o :=
  d.RegsBut_zeroed page l pg o ho fun hmem => by
    obtain ⟨x, hx, hkey⟩ := List.mem_map.mp hmem
    exact regKey_page_ne ho (hl x hx) h hkey.symm

theorem RegsSent.zeroed (d : Dev) (page : Nat) (l : List Nat) : RegsSent d (d.zeroed page l) := RegsSent.fold (fun d _ => .set d _ _ _) l d

theorem Dev.clearCounters_zeroed (d : Dev) (page base n v : Nat) :
    d.clearCounters page base n v = d.zeroed page ((setBitsOf v n).map (fun k => base + 4 * k)) := by
  unfold Dev.clearCounters Dev.zeroed
  rw [List.foldl_map]

/-- Each of the counters is cleared where its bit is set. -/
theorem Dev.reg_clearCounters (d : Dev) (page base : Nat) (v : Word) {n k : Nat} (hk : k < n) :
    (d.clearCounters page base n v.toNat).reg page (base + 4 * k) = if v.getLsbD k then 0 else d.reg page (base + 4 * k) := by
  have hmem : base + 4 * k ∈ (setBitsOf v.toNat n).map (fun k => base + 4 * k) ↔ v.getLsbD k = true := by
    rw [List.mem_map]
    refine ⟨fun ⟨j, hj, heq⟩ => ?_, fun h => ⟨k, (mem_setBitsOf v n k).mpr ⟨hk, h⟩, rfl⟩⟩
    obtain rfl : j = k := by omega
    exact ((mem_setBitsOf v n j).mp hj).2
  rw [Dev.clearCounters_zeroed, Dev.reg_zeroed]
  simp only [hmem]

theorem Dev.reg_clearCounters_page (d : Dev) {page base n pg o : Nat} (v : Word) (hrange : base + 4 * n ≤ 0x1000) (ho : o < 0x1000) (h : pg ≠ page) :
    (d.clearCounters page base n v.toNat).reg pg o = d.reg pg o := by
  rw [Dev.clearCounters_zeroed]
  refine Dev.reg_zeroed_page _ (fun x hx => ?_) ho h
  obtain ⟨j, hj, rfl⟩ := List.mem_map.mp hx
  have := ((mem_setBitsOf v n j).mp hj).1
  omega

theorem RegsSent.clearCounters (d : Dev) (page base n v : Nat) : RegsSent d (d.clearCounters page base n v) := by
  rw [Dev.clearCounters_zeroed]
  exact .zeroed _ _ _

/-! ### COUNT_CLEAR of a page -/

/-- The counters of each function, at 0x900 of the page of the host interface. -/
def funcCounters : List Nat := (List.range 64).map (fun f => 0x900 + 4 * f)

/-- The registers after a COUNT_CLEAR: the counters named, and at the host interface those of the functions too. -/
theorem Dev.reg_countClear (d : Dev) (b : Block) (i page v pg o : Nat) : (d.countClear b i page v).reg pg o =
    (if b = .pci ∧ bit v 7 = true then (d.clearCounters page b.counters.1 b.counters.2 v).zeroed page funcCounters
      else d.clearCounters page b.counters.1 b.counters.2 v).reg pg o := by
  cases b with
  | pci =>
    have hfuncs : ∀ e : Dev, (List.range 64).foldl (fun d f => d.setReg page (0x900 + 4 * f) 0) e = e.zeroed page funcCounters := fun e => by
      unfold Dev.zeroed funcCounters
      rw [List.foldl_map]
    unfold Dev.countClear
    simp only [hfuncs, true_and]
  | _ => rfl

/-- Beyond registers a COUNT_CLEAR changes counts that units keep in bytes, and no memory and no command. -/
theorem Dev.countClear_same (d : Dev) (b : Block) (i page v : Nat) : (d.countClear b i page v).SameMemory d ∧ (d.countClear b i page v).cmds = d.cmds := by
  have hclear := (RegsSent.clearCounters d page b.counters.1 b.counters.2 v).same
  cases b with
  | pci =>
    unfold Dev.countClear
    dsimp only
    split
    · exact ((RegsSent.clearCounters d page _ _ v).trans (.fold (fun d _ => .set d _ _ _) _ _)).same
    · exact hclear
  | _ => exact hclear

/-- The counters that a mask names lie below those of the functions. -/
theorem Block.counters_range (b : Block) : b.counters.1 + 4 * b.counters.2 ≤ 0x900 := by cases b <;> decide

theorem Dev.reg_countClear_counter (d : Dev) (b : Block) (i page : Nat) (v : Word) {k : Nat} (hk : k < b.counters.2) :
    (d.countClear b i page v.toNat).reg page (b.counters.1 + 4 * k) = if v.getLsbD k then 0 else d.reg page (b.counters.1 + 4 * k) := by
  have hother : b.counters.1 + 4 * k ∉ funcCounters := by
    have hrange := b.counters_range
    unfold funcCounters
    rw [List.mem_map]
    rintro ⟨f, -, hf⟩
    omega
  rw [Dev.reg_countClear]
  split
  · rw [Dev.reg_zeroed, if_neg hother, Dev.reg_clearCounters _ _ _ _ hk]
  · exact Dev.reg_clearCounters _ _ _ _ hk

theorem Dev.reg_countClear_page (d : Dev) (b : Block) (i : Nat) {page pg o : Nat} (v : Word) (ho : o < 0x1000) (h : pg ≠ page) :
    (d.countClear b i page v.toNat).reg pg o = d.reg pg o := by
  have hclear := d.reg_clearCounters_page v (Nat.le_trans b.counters_range (by decide)) ho h
  rw [Dev.reg_countClear]
  split
  · refine (Dev.reg_zeroed_page _ (fun x hx => ?_) ho h).trans hclear
    obtain ⟨f, hf, rfl⟩ := List.mem_map.mp hx
    have := List.mem_range.mp hf
    omega
  · exact hclear

/-! ### The write -/

/-- COUNT_CLEAR takes every bit, from every source. -/
theorem regSpec_clearAt {b : Block} {off : Nat} (h : b.clearAt = some off) : regSpec b off = some ⟨off, 4, 1, .l, 0, 0xFFFFFFFF, 0⟩ := by
  cases b <;> cases h <;> rfl

theorem clearAt_range {b : Block} {off : Nat} (h : b.clearAt = some off) : 0x40 ≤ off := by
  cases b <;> cases h <;> decide

theorem and_allBits (v : Word) : v &&& BitVec.ofNat 32 0xFFFFFFFF = v := BitVec.and_allOnes

/-- Only the page of a partition is of its block. -/
theorem page_of_part {page p : Nat} (h : blockOf page = some (.part, p)) : page = pgPART p ∧ p < 64 := by
  obtain ⟨r, hfind, hr⟩ := Option.map_eq_some_iff.mp h
  have hrow : ∀ r ∈ pageRanges, r.2.2 = .part → r.1 = 0x200 ∧ r.2.1 = 64 := by decide
  obtain ⟨hfirst, hcount⟩ := hrow r (List.mem_of_find?_eq_some hfind) (congrArg Prod.fst hr)
  have hin := List.find?_some hfind
  have hoff : page - r.1 = p := congrArg Prod.snd hr
  simp only [Bool.and_eq_true, decide_eq_true_eq] at hin
  unfold pgPART
  omega

theorem clearOffset_ne_pgMGT {page off : Nat} (h : clearOffset page = some off) : page ≠ pgMGT := by
  rintro rfl
  have hnone : clearOffset pgMGT = none := by decide
  rw [hnone] at h
  nomatch h

/-- A write of COUNT_CLEAR that is served, to any page but a partition's. -/
theorem exec_countClear {s : State} {src : Src} {page off i : Nat} {b : Block} (v : Word) (hw : s.canWrite src page) (hb : blockOf page = some (b, i))
    (hc : clearOffset page = some off) (hpart : b ≠ .part) :
    exec (.countClear src page v) s = .next { s with dev := s.dev.countClear b i page v.toNat } := by
  have hmgt := clearOffset_ne_pgMGT hc
  have hat : b.clearAt = some off := by
    unfold clearOffset at hc
    rw [hb] at hc
    cases b with
    | part => exact absurd rfl hpart
    | _ => exact hc
  show bySource _ s src page _ v = _
  rw [hc, bySource_served s (by simp [hw.1]) hw.2.1 (.inl hmgt), Option.getD_some,
    Dev.write32_live _ hw.2.2 hb (clearAt_range hat) (regSpec_clearAt hat) (.inl rfl) (Dev.heldBits_none _ (.inl rfl) hmgt), and_allBits]
  unfold Dev.writeLive
  rw [if_pos hat]

/-- A write of a partition's TACK_COUNT_CLEAR that is served. -/
theorem exec_countClear_part {s : State} {src : Src} {page i : Nat} (v : Word) (hw : s.canWrite src page) (hb : blockOf page = some (.part, i)) :
    exec (.countClear src page v) s = .next { s with dev := s.dev.clearCounters page 0x844 3 v.toNat } := by
  obtain ⟨rfl, hi⟩ := page_of_part hb
  have hc : clearOffset (pgPART i) = some 0xC24 := by unfold clearOffset; rw [hb]
  have hexec := partWrite_live s (v := v) hw hi (by decide) (off := 0xC24) rfl nofun
  rw [and_allBits, Dev.live_countClear] at hexec
  rw [← hexec]
  show bySource _ s src _ _ v = bySource _ s src _ _ v
  rw [hc]
  simp [partOk, hi]

/-- Settles O21: a COUNT_CLEAR clears by its page's block, a partition's page by TACK_COUNT_CLEAR. -/
theorem countersAreCleared : Obligations.CountersAreCleared := by
  unfold Obligations.CountersAreCleared
  intro s src page off v b i hw _ hb hc
  by_cases hpart : b = .part
  · subst hpart
    obtain ⟨hmem, hcmds⟩ := (RegsSent.clearCounters s.dev page 0x844 3 v.toNat).same
    exact ⟨_, exec_countClear_part v hw hb, fun hne => absurd rfl hne, fun _ k hk => s.dev.reg_clearCounters page 0x844 v hk,
      fun pg o ho hpg => s.dev.reg_clearCounters_page v (by decide) ho hpg, hmem, hcmds, rfl⟩
  · obtain ⟨hmem, hcmds⟩ := s.dev.countClear_same b i page v.toNat
    exact ⟨_, exec_countClear v hw hb hc hpart, fun _ k hk => s.dev.reg_countClear_counter b i page v hk, fun he => absurd he hpart,
      fun pg o ho hpg => s.dev.reg_countClear_page b i v ho hpg, hmem, hcmds, rfl⟩

end Sys2Proof.Machine
end

section
/-! Integer chains (R143): what a chain comes to, the order of its products in MATMUL and in CONV, and its start. O60. -/

namespace Sys2Proof.Machine

/-! ### The chain -/

/-- R143: a step that adds the product and clamps, and sets SATURATED where it clamped, goes before the rest of the chain. -/
theorem intRun_cons_run (s : Int) (p : Val × Val) (ps : List (Val × Val)) (f : NumFlags) :
    (intRun s (p :: ps)).run f = (intRun (clampInt32 (s + p.1.toInt * p.2.toInt)) ps).run
      { f with saturated := f.saturated || decide (clampInt32 (s + p.1.toInt * p.2.toInt) ≠ s + p.1.toInt * p.2.toInt) } := by
  rw [intRun, num_run_bind, intStep, satInt32_run]

theorem intRun_run (start : Int) (ps : List (Val × Val)) (f : NumFlags) :
    (intRun start ps).run f = (ps.foldl (fun s p => clampInt32 (s + p.1.toInt * p.2.toInt)) start,
      { f with saturated := f.saturated || chainClamps start (ps.map (fun p => p.1.toInt * p.2.toInt)) }) := by
  induction ps generalizing start f with
  | nil =>
    simp only [intRun, chainClamps, List.map_nil, List.foldl_nil, Bool.or_false]
    rfl
  | cons p ps ih => simp only [intRun_cons_run, ih, List.foldl_cons, List.map_cons, chainClamps, Bool.or_assoc]

theorem accRun_int_run (ftz : Bool) (start : Int) (ps : List (Val × Val)) (f : NumFlags) :
    (accRun ftz (.int start) ps).run f = (.int ((intRun start ps).run f).1, ((intRun start ps).run f).2) := rfl

/-! ### Products in logical k order -/

/-- A computation for each of the first n numbers, in order: entry i is that of i, whatever the flags before it. -/
theorem mapM_range_getElem {β : Type} (g : Nat → Num β) (f : NumFlags) {n i : Nat} (h : i < n) :
    ∃ f1, (((List.range n).mapM g).run f).1[i]? = some ((g i).run f1).1 :=
  mapM_getElem g _ f i i (List.getElem?_range h)

/-- Entry i of MATMUL's products is that of logical k = lo + i, A's element read before B's. -/
theorem Dev.mProducts_getElem (d : Dev) (c : Cmd) (co : List Nat) (f : NumFlags) {lo hi i : Nat} (h : i < hi - lo) :
    ∃ f1 f2, ((d.mProducts c co lo hi).run f).1[i]? = some
      (((d.streamed c c.mA [lo + i, co.getD 1 0, if (c.tensor c.mA).dim 2 = 1 then 0 else co.getD 2 0, 0, 0]).run f1).1,
       ((d.elemOf c c.mB [lo + i, co.getD 0 0, if (c.tensor c.mB).dim 2 = 1 then 0 else co.getD 2 0, 0, 0]).run f2).1) := by
  unfold Dev.mProducts
  obtain ⟨f1, hf⟩ := mapM_range_getElem _ f h
  exact ⟨f1, _, hf⟩

/-- CONV without a skipped step, other than CONV_T, takes the products of every logical k in turn. -/
theorem Dev.cvProducts_all (d : Dev) (c : Cmd) (co : List Nat) (lo hi : Nat) (hk : c.cvKind ≠ 1) :
    d.cvProducts c co lo hi (fun _ => false) =
      (List.range (hi - lo)).mapM (fun i => d.cvProduct c (co.getD 0 0) (co.getD 1 0) (co.getD 2 0) (co.getD 3 0) (lo + i)) := by
  have hall : (List.range (hi - lo)).filter (fun _ => !false) = List.range (hi - lo) := List.filter_eq_self.mpr fun _ _ => rfl
  unfold Dev.cvProducts
  rw [if_neg hk, hall]

/-! ### The start -/

/-- R143: an integer chain starts from 0 without a carry-in, and from the INT32 that the carry-in's element holds with one. -/
theorem intStart_run (ftz : Bool) (carry : Nat) (t : TensorD) (x : Num Nat) (f : NumFlags) :
    (carry = 0xFF → (if carry = 0xFF then pure (.int 0) else x >>= carryAcc ftz (.int 0) t : Num Acc).run f = (.int 0, f)) ∧
    (carry ≠ 0xFF → ∀ r, r = x.run f →
      (if carry = 0xFF then pure (.int 0) else x >>= carryAcc ftz (.int 0) t : Num Acc).run f = (.int (toSigned 32 r.1), r.2)) := by
  constructor
  · intro hnone
    rw [if_pos hnone]
    rfl
  · rintro hcarry _ rfl
    rw [if_neg hcarry]
    rfl

theorem Dev.mStart_int (d : Dev) (c : Cmd) (co : List Nat) (f : NumFlags) (h : c.mChain = .int 0) :
    (c.mCarry = 0xFF → (d.mStart c co).run f = (.int 0, f)) ∧
    (c.mCarry ≠ 0xFF → ∀ r, r = (d.readElem c.part (c.tensor c.mCarry) co).run f → (d.mStart c co).run f = (.int (toSigned 32 r.1), r.2)) := by
  unfold Dev.mStart
  rw [h]
  exact intStart_run ..

theorem Dev.cvStart_int (d : Dev) (c : Cmd) (co : List Nat) (f : NumFlags) (h : c.cvChain = .int 0) :
    (c.cvAux1 = 0xFF → (d.cvStart c co).run f = (.int 0, f)) ∧
    (c.cvAux1 ≠ 0xFF → ∀ r, r = (d.readElem c.part (c.tensor c.cvAux1) co).run f → (d.cvStart c co).run f = (.int (toSigned 32 r.1), r.2)) := by
  unfold Dev.cvStart
  rw [h]
  exact intStart_run ..

/-- Settles O60: the chain by induction on its products, the order by entries of a list run in order, the start by the carry-in's presence. -/
theorem integerChains : Obligations.IntegerChains := by
  unfold Obligations.IntegerChains
  refine ⟨fun start ps f => ?_, accRun_int_run, fun d c co _ _ _ f hi => d.mProducts_getElem c co f hi, fun d c co lo hi i f hik hk => ?_,
    Dev.mStart_int, Dev.cvStart_int⟩
  · rw [intRun_run]
    exact ⟨rfl, rfl⟩
  · rw [d.cvProducts_all c co lo hi hk]
    exact mapM_range_getElem _ f hik

end Sys2Proof.Machine
end

section
/-! Injection registers (R189, R212, R239, R291, R427): O25. -/

namespace Sys2Proof.Machine

/-- The page of Masthead has no injection register. -/
theorem injectAt_ne_pgMGT {page off i : Nat} {b : Block} (hb : blockOf page = some (b, i)) (hi : b.injectAt = some off) : page ≠ pgMGT := by
  rintro rfl
  rw [blockOf_mgt] at hb
  cases hb
  nomatch hi

/-- R189: the four kinds of an array. -/
theorem armed_arr {k : Nat} (h : 1 ≤ k) (h4 : k ≤ 4) : Block.armed .arr (BitVec.ofNat 32 k &&& BitVec.ofNat 32 7).toNat = some k := by
  have hk : k = 1 ∨ k = 2 ∨ k = 3 ∨ k = 4 := by omega
  rcases hk with rfl | rfl | rfl | rfl <;> rfl

/-- R212, R239, R291: the two kinds of a scratchpad, a vector engine and an HBM stack. -/
theorem armed_two {b : Block} {k : Nat} (harr : b ≠ .arr) (hred : b ≠ .red) (h : 1 ≤ k) (h2 : k ≤ 2) :
    b.armed (BitVec.ofNat 32 k &&& BitVec.ofNat 32 3).toNat = some k := by
  have hk : k = 1 ∨ k = 2 := by omega
  have hbits : bits (BitVec.ofNat 32 k &&& BitVec.ofNat 32 3).toNat 0 2 = k := by rcases hk with rfl | rfl <;> rfl
  cases b with
  | arr => exact absurd rfl harr
  | red => exact absurd rfl hred
  | _ =>
    unfold Block.armed
    dsimp only
    rw [hbits, if_pos ⟨h, h2⟩]

/-- A write to the injection register of a unit's page arms the kind that the block takes. -/
theorem injectAt_write (s : State) {src : Src} {page off k m i pf : Nat} {b : Block} {has : Bool} (hv : isVf src = false) (hs : s.srcOk src = true)
    (hh : has = true) (hb : blockOf page = some (b, i)) (hi : b.injectAt = some off)
    (hr : regSpec b off = some ⟨off, 4, 1, .l, 0, m, pf⟩)
    (hk : b.armed (BitVec.ofNat 32 k &&& BitVec.ofNat 32 m).toNat = some k) (hk4 : k ≤ 4) :
    ∃ t, bySource has s src page off (BitVec.ofNat 32 k) = .next t ∧ s.OnlyRegs t ∧ t.dev.regN page off = k ∧ t.dev.RegsBut s.dev [regKey page off] := by
  have hlow : 0x40 ≤ off := by cases b <;> cases hi <;> decide
  have hclear : b.clearAt ≠ some off := by cases b <;> cases hi <;> decide
  exact injection_write s hv hs hh hb hlow hr (injectAt_ne_pgMGT hb hi) hclear hi hk (Nat.lt_succ_of_le hk4)

/-- Settles O25: each of the five commands writes the injection register of its unit's page, whose block takes the kind. -/
theorem injectionsAreArmed : Obligations.InjectionsAreArmed := by
  unfold Obligations.InjectionsAreArmed
  intro s src n k hv hs hq
  refine ⟨fun hn h1 h4 => ?array, fun hn h1 h2 => ?scratchpad, fun hn h1 h2 => ?vector, fun hn h1 h2 => ?stack, fun hn => ?reducer⟩
  case array => exact injectAt_write s hv hs (by simp [hq, arrayOk, hn]) (blockOf_arr hn) rfl rfl (armed_arr h1 h4) h4
  case scratchpad => exact injectAt_write s hv hs (by simp [hq, coreOk, hn]) (blockOf_spd hn) rfl rfl (armed_two nofun nofun h1 h2) (by omega)
  case vector => exact injectAt_write s hv hs (by simp [hq, coreOk, hn]) (blockOf_vec hn) rfl rfl (armed_two nofun nofun h1 h2) (by omega)
  case stack => exact injectAt_write s hv hs (by simp [hq, stackOk, hn]) (blockOf_hbm hn) rfl rfl (armed_two nofun nofun h1 h2) (by omega)
  case reducer => exact injectAt_write (k := 1) s hv hs (by simp [hq, dieOk, hn]) (blockOf_red hn) rfl rfl rfl (by decide)

end Sys2Proof.Machine
end

section
/-! Hoists of arrays (R175, R177, R178, R180): when an array begins and ends raising and lowering, and what it leaves. O14 and O15. -/

namespace Sys2Proof.Machine

/-- One array of the device is as given; the other arrays, commands and memories are as they were. -/
structure Dev.ArraySet (e d : Dev) (a : Nat) (x : ArrayState) : Prop where
  own : e.array a = x
  others : ∀ b, b ≠ a → e.array b = d.array b
  cmds : e.cmds = d.cmds
  memory : e.SameMemory d

/-- A change of one array, after changes of anything but arrays, commands and memories. -/
theorem Dev.modArray_arraySet {e d : Dev} {a : Nat} (f : ArrayState → ArrayState) (ha : a < d.arrays.length) (harr : e.arrays = d.arrays)
    (hcmds : e.cmds = d.cmds) (hmem : e.SameMemory d) : (e.modArray a f).ArraySet d a (f (d.array a)) := by
  obtain ⟨hown, hothers⟩ := e.array_modArray a f (harr ▸ ha)
  exact ⟨hown.trans (congrArg f (Dev.array_congr harr a)), fun b hb => (hothers b hb).trans (Dev.array_congr harr b), hcmds, hmem⟩

/-- An array that is not lowered is one of the device. -/
theorem Dev.array_in_range {d : Dev} {a : Nat} (h : (d.array a).hoist ≠ .lowered) : a < d.arrays.length := by
  refine Nat.lt_of_not_le fun hout => h ?_
  unfold Dev.array
  rw [List.getD_eq_getElem?_getD, List.getElem?_eq_none hout, Option.getD_none]

/-! ### Raising (R175, R178) -/

/-- A search of an array's die in order finds the array, where none from the die's first up to it is taken. -/
theorem find_first_of_die {a : Nat} {p : Nat → Bool} (ha : p a = true) (hlow : ∀ b, 32 * (a / 32) ≤ b → b < a → p b = false) :
    ((List.range 32).map (fun i => 32 * (a / 32) + i)).find? p = some a := by
  have hsplit : 32 * (a / 32) + a % 32 = a := Nat.div_add_mod a 32
  have hfirst : (List.range 32).find? (p ∘ (fun i => 32 * (a / 32) + i)) = some (a % 32) := by
    rw [List.find?_range_eq_some]
    refine ⟨?_, List.mem_range.mpr (Nat.mod_lt _ (by decide)), fun j hj => ?_⟩
    · rw [Function.comp_apply, hsplit, ha]
    · rw [Function.comp_apply, hlow _ (by omega) (by omega)]
      rfl
  rw [List.find?_map, hfirst, Option.map_some, hsplit]

/-- R178: the lowest waiting array with a permit begins while fewer than eight of its die are raising. -/
theorem Dev.hoistRaise_begins {d : Dev} {a : Nat} (hw : (d.array a).hoist = .waiting) (hp : (d.array a).permit = true)
    (hs : (d.array a).outOfService = false)
    (hfew : (((List.range 32).map (fun i => 32 * (a / 32) + i)).filter (fun b => (d.array b).hoist == .raising)).length < 8)
    (hlow : ∀ b, 32 * (a / 32) ≤ b → b < a → (d.array b).hoist ≠ .waiting ∨ (d.array b).permit = false) :
    (d.hoistRaise a).ArraySet d a { d.array a with hoist := .raising, since := d.now } := by
  have hfirst := find_first_of_die (a := a) (p := fun b => (d.array b).hoist == .waiting && (d.array b).permit) (by simp [hw, hp])
    (fun b hb hba => by rcases hlow b hb hba with h | h <;> simp [h])
  unfold Dev.hoistRaise
  dsimp only
  rw [if_pos (by simp [hw, hp, hs, hfew, hfirst])]
  exact Dev.modArray_arraySet _ (Dev.array_in_range (by simp [hw])) rfl rfl ⟨rfl, rfl, rfl⟩

/-- R175: a raise ends H cycles after it began. -/
theorem Dev.hoistRaiseEnd_raising {d : Dev} {a : Nat} (h : (d.array a).hoist = .raising) :
    (d.hoistRaiseEnd a).now = max d.now ((d.array a).since + d.hoistCycles a) ∧
      (d.hoistRaiseEnd a).ArraySet d a
        { d.array a with hoist := .hoisted, since := (d.hoistRaiseEnd a).now, warm := false, lastWrite := (d.hoistRaiseEnd a).now } := by
  unfold Dev.hoistRaiseEnd
  dsimp only
  rw [if_pos (by simp [h])]
  exact ⟨rfl, Dev.modArray_arraySet _ (Dev.array_in_range (by simp [h])) rfl rfl ⟨rfl, rfl, rfl⟩⟩

/-- Settles O14: on a running device each command is its raising step, which sets the one array. -/
theorem arraysRaise : Obligations.ArraysRaise := by
  unfold Obligations.ArraysRaise
  intro a s hr ha
  refine ⟨fun hw hp hs hfew hlow => ?begin, fun h => ?finish⟩
  case begin =>
    obtain ⟨hown, hothers, hcmds, hmem⟩ := Dev.hoistRaise_begins hw hp hs hfew hlow
    exact ⟨_, onUnit_running s _ hr (decide_eq_true ha), hown, hothers, hcmds, hmem⟩
  case finish =>
    obtain ⟨hnow, hown, hothers, hcmds, hmem⟩ := Dev.hoistRaiseEnd_raising h
    exact ⟨_, onUnit_running s _ hr (decide_eq_true ha), congrArg ArrayState.hoist hown, hnow, congrArg ArrayState.since hown, hothers, hcmds, hmem⟩

/-! ### Lowering (R175, R177, R180) -/

/-- R177, R180: a hoisted array without a tile begins, by its permit. -/
theorem Dev.hoistLower_begins {d : Dev} {a : Nat} (ht : d.holding (.arr a) = []) (h : (d.array a).hoist = .hoisted) :
    (d.hoistLower a).now = (if (d.array a).permit then max d.now ((d.array a).lastWrite + 256) else d.now) ∧
      (d.hoistLower a).ArraySet d a { d.array a with hoist := .lowering, since := (d.hoistLower a).now } := by
  unfold Dev.hoistLower
  dsimp only
  rw [if_pos (by simp [h, ht])]
  exact ⟨rfl, Dev.modArray_arraySet _ (d.hoisted_in_range a h) rfl rfl ⟨rfl, rfl, rfl⟩⟩

/-- R175: lowering without a tile ends H cycles after it began, in the lowered state. -/
theorem Dev.hoistLowerEnd_lowering {d : Dev} {a : Nat} (ht : d.holding (.arr a) = []) (h : (d.array a).hoist = .lowering) :
    (d.hoistLowerEnd a).now = max d.now ((d.array a).since + d.hoistCycles a) ∧
      (d.hoistLowerEnd a).ArraySet d a { d.array a with hoist := .lowered, since := (d.hoistLowerEnd a).now } := by
  unfold Dev.hoistLowerEnd
  dsimp only
  rw [if_pos (by simp [h]), ht]
  exact ⟨rfl, Dev.modArray_arraySet _ (Dev.array_in_range (by simp [h])) rfl rfl ⟨rfl, rfl, rfl⟩⟩

/-- Settles O15: on a running device each command is its lowering step, which sets the one array. -/
theorem arraysLower : Obligations.ArraysLower := by
  unfold Obligations.ArraysLower
  intro a s hr ha ht
  refine ⟨fun h => ?begin, fun h => ?finish⟩
  case begin =>
    obtain ⟨hnow, hown, hothers, hcmds, hmem⟩ := Dev.hoistLower_begins ht h
    exact ⟨_, onUnit_running s _ hr (decide_eq_true ha), congrArg ArrayState.hoist hown, congrArg ArrayState.since hown, hnow, hothers, hcmds, hmem⟩
  case finish =>
    obtain ⟨hnow, hown, hothers, hcmds, hmem⟩ := Dev.hoistLowerEnd_lowering ht h
    exact ⟨_, onUnit_running s _ hr (decide_eq_true ha), congrArg ArrayState.hoist hown, congrArg ArrayState.since hown, hnow, hothers, hcmds, hmem⟩

end Sys2Proof.Machine
end

section
/-! Tagged accesses and the wait limit (R202, R203, R205): O44. -/

namespace Sys2Proof.Machine

/-! ### Counters -/

theorem Dev.RegsBut_bump (d : Dev) (page off n : Nat) : (d.bump page off n).RegsBut d [regKey page off] :=
  Dev.RegsBut_setReg d page off _

/-- A step that only counts changes registers alone, and of them the counter, which saturates. -/
theorem State.counted (s : State) (page off n : Nat) :
    s.OnlyRegs { s with dev := s.dev.bump page off n } ∧ (s.dev.bump page off n).RegsBut s.dev [regKey page off] ∧
      (s.dev.bump page off n).regN page off = min (s.dev.regN page off + n) (2 ^ 32 - 1) :=
  ⟨rfl, s.dev.RegsBut_bump page off n, s.dev.regN_bump_same page off n⟩

/-! ### Reads and writes of a slot (R202, R203) -/

theorem Dev.tag_setTag_same (d : Dev) (n slot : Nat) (t : SlotTag) : (d.setTag n slot t).tag n slot = t := assocGet_set_same ..

theorem exec_taggedAccess {s : State} {n slot : Nat} {a : TagAccess} {d : Dev} (hr : s.running = true) (hn : n < 64) (hs : slotOk slot = true)
    (h : s.dev.taggedAccess n slot a = d) : exec (.taggedAccess n slot a) s = .next { s with dev := d } :=
  h ▸ onUnit_running s (fun d => d.taggedAccess n slot a) hr (by simp [coreOk, hn, hs])

section
variable {d : Dev} {n slot : Nat} (hin : d.inTagRegion n slot = true)
include hin

theorem Dev.taggedAccess_read : d.taggedAccess n slot .read = if (d.tag n slot).full then d else d.bump (pgSPD n) 0x810 1 := by
  unfold Dev.taggedAccess
  rw [hin]
  rfl

theorem Dev.taggedAccess_write_closed {data : Bytes} (ht : d.tag n slot ≠ {}) : d.taggedAccess n slot (.write data) = d.bump (pgSPD n) 0x810 1 := by
  unfold Dev.taggedAccess
  rw [hin]
  exact if_pos (bne_iff_ne.mpr ht)

theorem Dev.taggedAccess_write_open {data : Bytes} (ht : d.tag n slot = {}) (hlen : data.length = 256) :
    d.taggedAccess n slot (.write data) = ({ d with spd := d.spd.writeBytes (spdKey n (slot * 256)) data } : Dev).setTag n slot ⟨true, 0⟩ := by
  have htake : data.take 256 = data := List.take_of_length_le (Nat.le_of_eq hlen)
  unfold Dev.taggedAccess
  rw [hin]
  dsimp only
  rw [ht, htake, if_pos hlen]
  rfl

end

/-! ### The wait limit (R205) -/

/-- The device as a command without tiles reaches its wait limit on a core: the clock shows the limit, and the core's page counts it. -/
def Dev.waitedOut (d : Dev) (c : Cmd) (n : Nat) : Dev :=
  let limit := d.active (pgSPD n) 0x040
  let e : Dev := { d with now := max d.now (c.startAt + limit) }
  ((e.bump (pgSPD n) 0x814 1).raise (pgSPD n) 2).setReg (pgSPD n) 0x818 (BitVec.ofNat 32 (max (e.regN (pgSPD n) 0x818) limit))

/-- The passing of the limit moves the clock, and is not seen by commands. -/
theorem Dev.waitedOut_effect (d : Dev) (c : Cmd) (n : Nat) :
    (d.waitedOut c n).now = max d.now (c.startAt + d.active (pgSPD n) 0x040) ∧ (d.waitedOut c n).cmds = d.cmds ∧ SameView (d.waitedOut c n) d := by
  refine ⟨by simp [Dev.waitedOut], by simp [Dev.waitedOut], ?_⟩
  exact ((SameView.setReg _ _ _ _ (by unfold outsideActive; decide)).trans ((SameView.raise _ _ _).trans
    (SameView.bump _ _ _ _ (by unfold outsideActive; decide)))).trans ⟨rfl, rfl, rfl, rfl, fun _ => rfl, fun _ => rfl, fun _ => rfl⟩

/-- A started command without tiles that a slot keeps waiting fails there. -/
theorem Dev.tagTimeout_untiled {d : Dev} {u n slot : Nat} {c : Cmd} (hc : d.cmd? u = some c) (hl : c.live = true) (hs : c.started = true)
    (ht : tiledOp c.opcode = false) (hcop : c.work.copies = []) (hb : d.slotBlocks c n slot = true) :
    d.tagTimeout u n slot =
      (d.waitedOut c n).endCmd u stTAG (((d.coresOf c.part).findIdx? (· == n)).getD 0 * 0x2000000 + slot * 256) := by
  obtain ⟨_, _, hview⟩ := d.waitedOut_effect c n
  rw [← hview.cores]
  unfold Dev.tagTimeout
  rw [hc]
  dsimp only
  rw [if_neg (by simp [hl, hs, ht, hb]), if_pos (by simp [hcop])]
  rfl

/-- Settles O44: a slot's tag says which of its cases each access is; the wait limit ends the command on the device as it then stands. -/
theorem taggedAccesses : Obligations.TaggedAccesses := by
  unfold Obligations.TaggedAccesses
  refine ⟨fun s n slot hr hn hs hin => ⟨fun hfull => ?readFull, fun hempty => ?readWaits, fun data ht hlen => ?writeOpen, fun data ht => ?writeWaits⟩,
    fun s u n slot c hr hn hs hc hl hst htiled hcop hb => ?limit⟩
  case readFull => exact exec_taggedAccess hr hn hs ((Dev.taggedAccess_read hin).trans (if_pos hfull))
  case readWaits =>
    have hwait := (Dev.taggedAccess_read hin).trans (if_neg (by simp [hempty]))
    exact ⟨_, exec_taggedAccess hr hn hs hwait, s.counted (pgSPD n) 0x810 1⟩
  case writeOpen =>
    refine ⟨_, exec_taggedAccess hr hn hs (Dev.taggedAccess_write_open hin ht hlen), Dev.tag_setTag_same _ _ _ _, ?_, fun a ha => ?_, rfl, rfl⟩
    · have hback := s.dev.spd.readBytes_writeBytes data (spdKey n (slot * 256))
      rwa [hlen] at hback
    · exact Mem.read_writeBytes_other _ _ _ _ (hlen ▸ ha)
  case writeWaits =>
    obtain ⟨honly, hbut, _⟩ := s.counted (pgSPD n) 0x810 1
    exact ⟨_, exec_taggedAccess hr hn hs (Dev.taggedAccess_write_closed hin ht), honly, hbut⟩
  case limit =>
    obtain ⟨hnow, hcmds, _⟩ := s.dev.waitedOut_effect c n
    refine ⟨_, (onUnit_running s (fun d => d.tagTimeout u n slot) hr (by simp [coreOk, hn, hs])).trans
      (by rw [Dev.tagTimeout_untiled hc hl hst htiled hcop hb]), ?_, ?_⟩
    · exact Dev.endCmd_ended _ u _ _ c ((Dev.cmd?_congr hcmds u).trans hc) hl (by simp [hcop])
    · exact (SameClock.endCmd _ u _ _).now.trans hnow

end Sys2Proof.Machine
end

section
/-! Op-writes of a bank ALU, ordered combines and atomics (R207, R209, R221, R222): O45. -/

namespace Sys2Proof.Machine

/-! ### Op-writes (R207) -/

/-- Counting an op-write changes its owner's window and the core's counters. -/
theorem Dev.countBalu_form (d : Dev) (n k : Nat) : ∃ ps g, d.countBalu n k = { d with parts := ps, regs := g } := by
  unfold Dev.countBalu
  dsimp only
  split <;> exact ⟨_, _, rfl⟩

/-- An op-write for no command is written where its operation says, and counted. -/
theorem Dev.bankOpWrite_lanes {d : Dev} {p off n l a : Nat} {op : BankOp} {b : Bytes} {f : NumFlags} (hp : d.spdPlace p off = some (n, l))
    (ho : d.opBytes {} n l off op = some (a, b, f)) :
    d.bankOpWrite none p off op = ({ d with spd := d.spd.writeBytes (spdKey n a) b } : Dev).countBalu n (ceilDiv b.length 64) := by
  have hc : ((none : Option Nat).bind d.cmd?).getD {} = ({} : Cmd) := rfl
  unfold Dev.bankOpWrite
  rw [hp, hc]
  cases op with
  | combine arrival integer group groups ws => cases ho
  | _ => dsimp only; rw [ho]; rfl

/-! ### Combines (R209) -/

theorem map_getD_range {α : Type} (l : List α) (x : α) : (List.range l.length).map (fun i => l.getD i x) = l :=
  List.ext_getElem (by simp) fun i _ h => by
    rw [List.getElem_map, List.getElem_range, List.getD_eq_getElem?_getD, List.getElem?_eq_getElem h, Option.getD_some]

/-- The lanes of a slot's first group are its words. -/
theorem combineLane_first (ftz integer : Bool) (old : Nat → Word) (ws : List Word) :
    ((List.range ws.length).mapM (fun i => combineLane ftz integer true (old i) (ws.getD i 0))).run {} = (ws, {}) := by
  have hlane : (fun i => combineLane ftz integer true (old i) (ws.getD i 0)) = fun i => pure (ws.getD i 0) := rfl
  rw [hlane, List.mapM_pure, map_getD_range]
  rfl

/-- A slot after the first of some groups: FULL where that is all of them, else waiting for the second. -/
def firstTag (groups : Nat) : SlotTag := if groups = 1 then ⟨true, 0⟩ else ⟨false, 1⟩

/-- The first group of an ordered combine on an EMPTY slot is stored as it is. -/
theorem Dev.combineSlot_first {d : Dev} {n l : Nat} (ftz : Bool) {o : CombineOp} (ht : d.tag n (l / 256) = {}) (hg : o.group = 0) :
    d.combineSlot ftz n l o = some (((({ d with spd := d.spd.writeBytes (spdKey n (l / 256 * 256)) (o.words.flatMap (fun w => toLe 4 w.toNat)) } : Dev).setTag
      n (l / 256) (firstTag o.groups)).countBalu n 4), {}) := by
  have htag : (if 1 = o.groups then (⟨true, 0⟩ : SlotTag) else ⟨false, 1⟩) = firstTag o.groups := by
    unfold firstTag
    simp only [eq_comm]
  have hlanes := combineLane_first ftz o.integer
    (fun i => BitVec.ofNat 32 (leNat (d.spd.readBytes (spdKey n (l / 256 * 256 + 4 * i)) 4))) o.words
  unfold Dev.combineSlot
  dsimp only
  rw [ht, hg, if_neg (by simp), beq_self_eq_true, hlanes, htag]

/-- A combine of at most 32,767 groups on a slot of the tagged region stores its first group. -/
theorem Dev.bankOpWrite_first {d : Dev} {p off n l groups : Nat} (integer : Bool) {ws : List Word} (hp : d.spdPlace p off = some (n, l))
    (hl : l % 256 = 0) (hw : ws.length = 64) (hg : 0 < groups) (hmax : groups ≤ 32767) (hin : d.inTagRegion n (l / 256) = true)
    (ht : d.tag n (l / 256) = {}) :
    d.bankOpWrite none p off (.combine false integer 0 groups ws) =
      ((({ d with spd := d.spd.writeBytes (spdKey n l) (ws.flatMap (fun w => toLe 4 w.toNat)) } : Dev).setTag n (l / 256) (firstTag groups)).countBalu n 4) := by
  have hslot : l / 256 * 256 = l := Nat.div_mul_cancel (Nat.dvd_of_mod_eq_zero hl)
  unfold Dev.bankOpWrite
  rw [hp]
  dsimp only
  rw [if_neg (by simp [hl, hw, Nat.ne_of_gt hg, hmax, hin]), Dev.combineSlot_first _ ht rfl, hslot]
  rfl

/-! ### Atomics (R221, R222) -/

/-- Only the lines of the shared caches and registers differ. -/
def Dev.Touched (e d : Dev) : Prop := ∃ ls g, e = { d with lines := ls, regs := g }

theorem Dev.Touched.refl (d : Dev) : d.Touched d := ⟨_, _, rfl⟩

theorem Dev.Touched.trans {d e f : Dev} (h : d.Touched e) (k : e.Touched f) : d.Touched f := by
  obtain ⟨_, _, rfl⟩ := h
  obtain ⟨_, _, rfl⟩ := k
  exact ⟨_, _, rfl⟩

theorem Dev.Touched.withLines (d : Dev) (ls : List CacheLine) : ({ d with lines := ls } : Dev).Touched d := ⟨ls, d.regs, rfl⟩

theorem Dev.Touched.bump (d : Dev) (page off n : Nat) : (d.bump page off n).Touched d := ⟨_, _, rfl⟩

theorem Dev.Touched.bumpWide (d : Dev) (page off n : Nat) : (d.bumpWide page off n).Touched d := ⟨_, _, rfl⟩

/-- Looking a line up in its home cache: a hit marks it; a miss takes a free way, or replaces a line, written back if it is dirty. -/
theorem Dev.Touched.touchLine (d : Dev) (p die line : Nat) (write : Bool) : (d.touchLine p die line write).Touched d := by
  unfold Dev.touchLine
  extract_lets mark missed ways held
  have hmissed : missed.Touched d := .bumpWide d _ _ _
  split
  case isTrue => exact (Dev.Touched.bumpWide _ _ _ _).trans (.withLines d _)
  case isFalse =>
    split
    case h_1 => exact (Dev.Touched.withLines missed _).trans hmissed
    case h_2 =>
      split
      case h_1 => exact hmissed
      case h_2 victim _ =>
        extract_lets back
        have hback : back.Touched missed := by
          show Dev.Touched (if victim.dirty then _ else _) _
          split
          · exact .bump missed _ _ _
          · exact .refl missed
        exact (Dev.Touched.withLines back _).trans (hback.trans hmissed)

/-- An atomic at a cell writes its operation's result there, returns the old bytes, and touches the line. -/
theorem Dev.atomicAt_effect (d : Dev) (p a k : Nat) (op : AtomicOp) :
    (d.atomicAt p a k op).1.Touched { d with hbm := d.hbm.writeBytes k (atomicApply op (d.hbm.readBytes k (atomicSize op))) } ∧
      (d.atomicAt p a k op).2 = d.hbm.readBytes k (atomicSize op) := by
  obtain ⟨ls, g, h⟩ := Dev.Touched.touchLine d p (homeDie k) (a / 256) true
  unfold Dev.atomicAt
  dsimp only
  rw [h]
  exact ⟨⟨_, _, rfl⟩, rfl⟩

/-- An aligned atomic on usable HBM that returns its operand's old bytes. -/
theorem Dev.atomic_returns {d : Dev} {o : Outside} {p a k : Nat} {op : AtomicOp} (hk : d.cellOf p a = some k) (hh : isHost a = false)
    (hs : 0 < atomicSize op) (ha : a % atomicSize op = 0) (hu : d.usable o p a (atomicSize op) = true) (hop : ∀ i ws, op ≠ .redAdd i ws) :
    d.atomic o p a op = { (d.atomicAt p a k op).1 with atomicOld := (d.atomicAt p a k op).2 } := by
  have hmax : max 1 (atomicSize op) = atomicSize op := Nat.max_eq_right hs
  unfold Dev.atomic
  rw [hk]
  dsimp only
  rw [if_neg (by simp [hh, hmax, ha, hu]; omega)]
  cases op with
  | redAdd i ws => exact absurd rfl (hop i ws)
  | _ => rfl

/-- Settles O45: each write is one write of the core's bytes, each atomic one write of the cell's. -/
theorem bankOpsAndAtomics : Obligations.BankOpsAndAtomics := by
  unfold Obligations.BankOpsAndAtomics
  refine ⟨fun s p off n l a op b f hr hp hplace hop => ?lanes, fun s p off n l groups integer ws hr hp hplace hl hw hg hmax hin ht => ?combine,
    fun s p addr k op hr hp hk hh hs ha hu hop => ?atomic⟩
  case lanes =>
    refine ⟨_, onUnit_running s (fun d => d.bankOpWrite none p off op) hr (by simp [partOk, hp]), ?_⟩
    obtain ⟨ps, g, hform⟩ := ({ s.dev with spd := s.dev.spd.writeBytes (spdKey n a) b } : Dev).countBalu_form n (ceilDiv b.length 64)
    dsimp only
    rw [Dev.bankOpWrite_lanes hplace hop, hform]
    exact ⟨rfl, rfl, rfl, rfl, rfl⟩
  case combine =>
    refine ⟨_, onUnit_running s (fun d => d.bankOpWrite none p off (.combine false integer 0 groups ws)) hr (by simp [partOk, hp]), ?_⟩
    obtain ⟨ps, g, hform⟩ := (({ s.dev with spd := s.dev.spd.writeBytes (spdKey n l) (ws.flatMap (fun w => toLe 4 w.toNat)) } : Dev).setTag n (l / 256)
      (firstTag groups)).countBalu_form n 4
    dsimp only
    rw [Dev.bankOpWrite_first integer hplace hl hw hg hmax hin ht, hform]
    exact ⟨rfl, Dev.tag_setTag_same _ _ _ _, rfl, rfl⟩
  case atomic =>
    refine ⟨_, onUnit_running s (fun d => d.atomic s.outside p addr op) hr (by simp [partOk, hp]), ?_⟩
    obtain ⟨⟨ls, g, hnew⟩, hold⟩ := s.dev.atomicAt_effect p addr k op
    dsimp only
    rw [Dev.atomic_returns hk hh hs ha hu hop, hnew, hold]
    exact ⟨rfl, rfl, rfl, rfl, rfl⟩

end Sys2Proof.Machine
end

section
/-! Readings, patrols and errors of the stacks, flushes and link retrains (R219, R236, R238, R240, R518): O47. -/

namespace Sys2Proof.Machine

/-! ### Readings (R236) -/

/-- The registers of a stack that a reading can change besides the reading's own. -/
def heatKeys (i : Nat) : List Nat := [regKey (pgHBM i) 0x828, regKey (pgHBM i) oIntStat]

/-- HBM.TEMP after a reading: the temperature, its band and HOT. -/
def tempWord (celsius : Int) (band : Nat) (hot : Bool) : Word := BitVec.ofNat 32 (min 255 celsius.toNat + 256 * band + 1024 * b2n hot)

theorem Dev.RecordedBut.bump (d : Dev) {page off : Nat} {keys : List Nat} (n : Nat) (h : regKey page off ∈ keys) : (d.bump page off n).RecordedBut d keys :=
  .setReg d _ h

/-- A reading sets HBM.TEMP, and counts and tells what changed. -/
theorem Dev.hbmTempReading_effect (d : Dev) (i : Nat) (t : Int) : ∃ hot,
    (d.hbmTempReading i t).RecordedBut
      (d.setReg (pgHBM i) 0x800 (tempWord t (nextBand (bits (d.regN (pgHBM i) 0x800) 8 2) t) hot)) (heatKeys i) := by
  unfold Dev.hbmTempReading
  extract_lets g old band next hot d1 d2
  refine ⟨hot, ?_⟩
  have hband : d2.RecordedBut d1 (heatKeys i) := by
    show Dev.RecordedBut (if next != band then _ else _) _ _
    split
    · exact (Dev.RecordedBut.raise _ _ (by simp [heatKeys, g])).trans (.bump _ _ (by simp [heatKeys, g]))
    · exact .refl _ _
  split
  · exact (Dev.RecordedBut.raise _ _ (by simp [heatKeys, g])).trans hband
  · exact hband

theorem bandOf_le (t : Int) : bandOf t ≤ 2 := by
  unfold bandOf
  (repeat' split) <;> omega

/-- A band of the two bits that hold it stays one. -/
theorem nextBand_lt {band : Nat} (h : band < 4) (t : Int) : nextBand band t < 4 := by
  have hle := bandOf_le t
  unfold nextBand
  (repeat' split) <;> omega

theorem tempWord_fields {celsius : Int} {band : Nat} (hot : Bool) (h0 : 0 ≤ celsius) (h255 : celsius ≤ 255) (hb : band < 4) :
    ((tempWord celsius band hot).toNat % 256 : Int) = celsius ∧ bits (tempWord celsius band hot).toNat 8 2 = band := by
  have hhot : b2n hot ≤ 1 := by cases hot <;> decide
  unfold tempWord bits
  rw [BitVec.toNat_ofNat, Nat.shiftRight_eq_div_pow]
  omega

/-- On a running device a reading sets the stack's HBM.TEMP; requests and alerts follow. -/
theorem State.stackReading_effect (s : State) (i : Nat) (t : Int) (hr : s.running = true) : ∃ hot,
    (s.stackReading i t).dev.RecordedBut (s.dev.setReg (pgHBM i) 0x800 (tempWord t (nextBand (bits (s.dev.regN (pgHBM i) 0x800) 8 2) t) hot))
      (regKey pgMGT oIntStat :: heatKeys i) := by
  obtain ⟨hot, h⟩ := s.dev.hbmTempReading_effect i t
  have heq : s.stackReading i t = ({ s with dev := s.dev.hbmTempReading i t } : State).heat := if_neg (by simp [hr])
  rw [heq]
  exact ⟨hot, ((State.heat_notified _).toRecordedBut.mono (by simp)).trans (h.mono (by simp))⟩

/-- HBM.TEMP is none of the registers that a reading can change besides. -/
theorem temp_notMem_heatKeys (i : Nat) : regKey (pgHBM i) 0x800 ∉ regKey pgMGT oIntStat :: heatKeys i := by
  simp only [heatKeys, List.mem_cons, List.not_mem_nil, or_false, regKey, oIntStat]
  omega

/-! ### Errors of a stack (R240) -/

theorem Dev.Recorded.bump (d : Dev) (page off n : Nat) : (d.bump page off n).Recorded d := .setReg d _ _ _

theorem Dev.Recorded.stackUnits {d e : Dev} (h : d.Recorded e) : d.stackUnits = e.stackUnits := by obtain ⟨_, _, _, _, _, _, _, rfl⟩ := h; rfl

/-- An error is described in the page, whatever its kind, and counted. -/
theorem Dev.Recorded.hbmNote (d : Dev) (i kind last block : Nat) (patrol : Bool) : (d.hbmNote i kind last block patrol).Recorded d := by
  have hset : ∀ v w, ((d.setReg (pgHBM i) 0x82C v).setReg (pgHBM i) 0x830 w).Recorded d := fun _ _ => (Dev.Recorded.setReg _ _ _ _).trans (.setReg d _ _ _)
  have hcount : ∀ (e : Dev) (off b : Nat), ((e.bump (pgHBM i) off 1).raise (pgHBM i) b).Recorded e := fun e _ _ => (Dev.Recorded.raise _ _ _).trans (.bump e _ _ _)
  unfold Dev.hbmNote
  dsimp only
  split
  · exact (hcount _ _ _).trans (hset _ _)
  · split
    · exact (Dev.Recorded.bump _ _ _ _).trans ((hcount _ _ _).trans (hset _ _))
    · split
      · exact (hcount _ _ _).trans (hset _ _)
      · exact (hcount _ _ _).trans ((hcount _ _ _).trans (hset _ _))

theorem Dev.Recorded.hbmError (d : Dev) (i kind channel block symbol codeword : Nat) (patrol injected : Bool) (u : Option Nat) :
    (d.hbmError i kind channel block symbol codeword patrol injected u).Recorded d :=
  (Dev.Recorded.log _ _).trans (.hbmNote d _ _ _ _ _)

/-- HBM.LAST_ERROR and the block after it, as the note of an error that a retry mended leaves them. -/
theorem Dev.hbmNote_retried (d : Dev) (i last block : Nat) (patrol : Bool) :
    (d.hbmNote i 2 last block patrol).reg (pgHBM i) 0x82C = BitVec.ofNat 32 last ∧
      (d.hbmNote i 2 last block patrol).reg (pgHBM i) 0x830 = BitVec.ofNat 32 (block % 2 ^ 23) := by
  have hkept : ∀ (e : Dev) (o : Nat), o = 0x82C ∨ o = 0x830 →
      (((e.bump (pgHBM i) 0x818 1).raise (pgHBM i) 1).bump (pgHBM i) 0x81C 1).reg (pgHBM i) o = e.reg (pgHBM i) o := fun e o ho => by
    rw [Dev.reg_bump_other _ _ (regKey_same_page_ne (by omega)), Dev.reg_raise_other _ _ (regKey_same_page_ne (by unfold oIntStat; omega)),
      Dev.reg_bump_other _ _ (regKey_same_page_ne (by omega))]
  have heq : d.hbmNote i 2 last block patrol = ((((d.setReg (pgHBM i) 0x82C (BitVec.ofNat 32 last)).setReg (pgHBM i) 0x830
    (BitVec.ofNat 32 (block % 2 ^ 23))).bump (pgHBM i) 0x818 1).raise (pgHBM i) 1).bump (pgHBM i) 0x81C 1 := rfl
  rw [heq, hkept _ _ (.inl rfl), hkept _ _ (.inr rfl)]
  exact ⟨(Dev.reg_setReg_other _ _ (regKey_same_page_ne (by decide))).trans (d.reg_setReg_same _ _ _), Dev.reg_setReg_same _ _ _ _⟩

theorem hbmLast_lt (patrol injected : Bool) (channel block symbol codeword : Nat) : hbmLast 2 patrol injected channel block symbol codeword < 2 ^ 32 := by
  have hp : b2n patrol ≤ 1 := by cases patrol <;> decide
  have hi : b2n injected ≤ 1 := by cases injected <;> decide
  unfold hbmLast
  omega

/-- R240: an error that a retry mended is described in HBM.LAST_ERROR. -/
theorem Dev.hbmError_retried (d : Dev) (i channel block symbol codeword : Nat) (u : Option Nat) :
    (d.hbmError i 2 channel block symbol codeword false false u).regN (pgHBM i) 0x82C =
        2 + channel % 32 * 16 + block % 2 * 512 + symbol % 32 * 1024 + codeword % 4 * 32768 ∧
      (d.hbmError i 2 channel block symbol codeword false false u).regN (pgHBM i) 0x830 = block % 2 ^ 23 := by
  have hlt := hbmLast_lt false false channel block symbol codeword
  have hblock : block % 2 ^ 23 < 2 ^ 32 := by omega
  obtain ⟨hlast, haddr⟩ := d.hbmNote_retried i (hbmLast 2 false false channel block symbol codeword) block false
  unfold Dev.hbmError
  dsimp only
  rw [Dev.regN_log_other _ _ (regKey_off_ne (by decide) (by decide) (by decide)), Dev.regN_log_other _ _ (regKey_off_ne (by decide) (by decide) (by decide))]
  unfold Dev.regN
  rw [hlast, haddr, BitVec.toNat_ofNat, BitVec.toNat_ofNat, Nat.mod_eq_of_lt hlt, Nat.mod_eq_of_lt hblock]
  exact ⟨rfl, rfl⟩

/-! ### Patrol reads (R238) -/

/-- The stack engines, the commands and the memories are another device's. -/
structure Dev.SameStacks (e d : Dev) : Prop where
  units : e.stackUnits = d.stackUnits
  cmds : e.cmds = d.cmds
  memory : e.SameMemory d

theorem Dev.Recorded.sameStacks {d e : Dev} (h : d.Recorded e) : d.SameStacks e := ⟨h.stackUnits, h.cmds, h.same⟩

/-- An armed error changes neither the stack's engine nor memory. -/
theorem Dev.SameStacks.hbmInject (d : Dev) (i channel block : Nat) (patrol : Bool) (u : Option Nat) : (d.hbmInject i channel block patrol u).SameStacks d := by
  unfold Dev.hbmInject
  dsimp only
  split
  · exact ⟨rfl, rfl, rfl, rfl, rfl⟩
  · obtain ⟨hunits, hcmds, hmem⟩ := ((Dev.Recorded.hbmError _ i (min (d.regN (pgHBM i) 0xC04) 2) channel block (bits (Config.freeWord d.fresh).toNat 0 5)
      (bits (Config.freeWord d.fresh).toNat 5 2) patrol true u).trans (.setReg ({ d with fresh := d.fresh + 1 } : Dev) (pgHBM i) 0xC04 0)).sameStacks
    exact ⟨hunits, hcmds, hmem⟩

theorem Dev.stack_modStack_same (d : Dev) {i : Nat} (f : StackState → StackState) (h : i < d.stackUnits.length) :
    (d.modStack i f).stackUnits.getD i {} = f (d.stackUnits.getD i {}) := by
  simp [Dev.modStack, List.getD_eq_getElem?_getD, h]

/-- The patrol of a stack's engine goes on to the next block; a completed walk is counted. -/
def Dev.patrolOn (d : Dev) (i : Nat) : Dev :=
  let next := ((d.stackUnits.getD i {}).patrol + 1) % stackBlocks
  let e := d.modStack i (fun x => { x with patrol := next })
  if next = 0 then e.bump (pgHBM i) 0x824 1 else e

theorem Dev.patrolOn_stackUnits (d : Dev) (i : Nat) : (d.patrolOn i).stackUnits =
    (d.modStack i (fun x => { x with patrol := ((d.stackUnits.getD i {}).patrol + 1) % stackBlocks })).stackUnits := by
  unfold Dev.patrolOn
  dsimp only
  split
  · exact Dev.bump_stackUnits _ _ _ _
  · rfl

theorem Dev.patrolOn_kept (d : Dev) (i : Nat) : (d.patrolOn i).cmds = d.cmds ∧ (d.patrolOn i).SameMemory d := by
  unfold Dev.patrolOn
  dsimp only
  split
  · simp [Dev.SameMemory]
  · simp [Dev.SameMemory]

/-- A patrol read that finds no error of its own. -/
theorem Dev.patrolRead_eq {d : Dev} {i : Nat} (channel block : Nat) (hon : bit (d.active (pgHBM i) 0x040) 0 = true) :
    d.patrolRead i channel block none = ((d.bumpWide (pgHBM i) 0x804 1).hbmInject i channel block true none).patrolOn i := by
  unfold Dev.patrolRead
  rw [if_neg (by simp [hon])]
  rfl

/-- R238: a patrol read that finds no error moves the stack's patrol on. -/
theorem Dev.patrolRead_moves {d : Dev} {i : Nat} (channel block : Nat) (hi : i < d.stackUnits.length) (hon : bit (d.active (pgHBM i) 0x040) 0 = true) :
    ((d.patrolRead i channel block none).stackUnits.getD i {}).patrol = ((d.stackUnits.getD i {}).patrol + 1) % stackBlocks ∧
      (d.patrolRead i channel block none).cmds = d.cmds ∧ (d.patrolRead i channel block none).SameMemory d := by
  obtain ⟨hunits, hcmds, hmem⟩ := Dev.SameStacks.hbmInject (d.bumpWide (pgHBM i) 0x804 1) i channel block true none
  rw [Dev.bumpWide_stackUnits] at hunits
  rw [Dev.bumpWide_cmds] at hcmds
  have hcounted : (d.bumpWide (pgHBM i) 0x804 1).SameMemory d := ⟨d.bumpWide_hbm _ _ _, d.bumpWide_host _ _ _, d.bumpWide_spd _ _ _⟩
  replace hmem := hmem.trans hcounted
  rw [Dev.patrolRead_eq channel block hon]
  generalize (d.bumpWide (pgHBM i) 0x804 1).hbmInject i channel block true none = e at hunits hcmds hmem ⊢
  obtain ⟨hcmds', hmem'⟩ := e.patrolOn_kept i
  refine ⟨?_, hcmds'.trans hcmds, hmem'.trans hmem⟩
  rw [Dev.patrolOn_stackUnits, Dev.stack_modStack_same _ _ (hunits ▸ hi), hunits]

/-! ### Flushes (R219) -/

/-- The end of a flush: the die is no longer flushing, its lines are clean; memory holds what it held. -/
theorem Dev.flushDone_effect {d : Dev} {die : Nat} (h : d.flushing.contains die = true) :
    die ∉ (d.flushDone die).flushing ∧ (∀ l ∈ (d.flushDone die).lines, l.die = die → l.dirty = false) ∧ (d.flushDone die).cmds = d.cmds ∧
      (d.flushDone die).SameMemory d := by
  unfold Dev.flushDone
  rw [if_neg (by simp only [h]; decide)]
  refine ⟨by simp, fun l hl hdie => ?_, by simp, by simp [Dev.SameMemory]⟩
  simp only [Dev.raise_lines, Dev.bump_lines, List.mem_map] at hl
  obtain ⟨x, _, rfl⟩ := hl
  split at hdie
  · rw [if_pos ‹_›]
  · exact absurd hdie ‹_›

/-! ### Links (R518) -/

/-- CRC errors at or below the link's limit are counted. -/
theorem Dev.linkErrors_within {d : Dev} {i n : Nat} (h : n ≤ d.active (pgD2D i) 0x040 % 65536) :
    d.linkErrors i n false = (d.bump (pgD2D i) 0x808 n).bump (pgD2D i) 0x80C n := by
  unfold Dev.linkErrors
  rw [if_neg Bool.false_ne_true, if_neg (Nat.not_lt.mpr h)]

/-- Settles O47: each event's own effect on the device, on a running device. -/
theorem hbmAndLinkEvents : Obligations.HbmAndLinkEvents := by
  unfold Obligations.HbmAndLinkEvents
  intro s hr
  refine ⟨fun i t hi h0 h255 => ?reading, fun i channel block hi hu hc hon => ?patrol, fun i channel block symbol codeword hi hc => ?error,
    fun die hd hf => ?flush, fun i n hi hn => ?counted, fun i n hi hc => ?retrain⟩
  case reading =>
    obtain ⟨hot, hrec, hregs⟩ := s.stackReading_effect i t hr
    have hreg : (s.stackReading i t).dev.regN (pgHBM i) 0x800 = _ := (hregs.regN (by decide) (temp_notMem_heatKeys i)).trans (Dev.regN_setReg_same _ _ _ _)
    have hband : bits (s.dev.regN (pgHBM i) 0x800) 8 2 < 4 := Nat.mod_lt _ (by decide)
    obtain ⟨htemp, hnext⟩ := tempWord_fields hot h0 h255 (nextBand_lt hband t)
    have hstep : exec (.hbmTempReading i t) s = .next (s.stackReading i t) := if_pos (decide_eq_true hi)
    exact ⟨_, hstep, by rw [hreg]; exact htemp, by rw [hreg]; exact hnext, hrec.cmds, hrec.same⟩
  case patrol =>
    exact ⟨_, onUnit_running s (fun d => d.patrolRead i channel block none) hr (by simp [stackOk, hi, hc]), Dev.patrolRead_moves channel block hu hon⟩
  case error =>
    have hrec := Dev.Recorded.hbmError s.dev i 2 channel block symbol codeword false false none
    obtain ⟨hlast, hblock⟩ := s.dev.hbmError_retried i channel block symbol codeword none
    exact ⟨_, onUnit_running s (fun d => d.hbmUncorrectable i channel block symbol codeword true none) hr (by simp [stackOk, hi, hc]),
      hlast, hblock, hrec.cmds, hrec.same⟩
  case flush => exact ⟨_, onUnit_running s (fun d => d.flushDone die) hr (decide_eq_true hd), Dev.flushDone_effect hf⟩
  case counted =>
    refine ⟨_, onUnit_running s (fun d => d.linkErrors i n false) hr (decide_eq_true hi), ?_⟩
    dsimp only
    rw [Dev.linkErrors_within hn]
    refine ⟨rfl, ((Dev.RegsBut_bump _ _ _ _).mono (by simp)).trans ((Dev.RegsBut_bump _ _ _ _).mono (by simp)), ?_⟩
    rw [Dev.regN_bump_other _ _ (regKey_same_page_ne (by decide)), Dev.regN_bump_same]
  case retrain =>
    obtain ⟨hcount, _, hmem, hcmds⟩ := s.dev.linkRetrain_effect i n 1 hi hc
    exact ⟨_, onUnit_running s (fun d => d.linkErrors i n true) hr (decide_eq_true hi), hcount, hcmds, hmem⟩

end Sys2Proof.Machine
end

section
/-! Reads, writes and AtomicOps through BAR4 (R224, R479, R546): O55. -/

namespace Sys2Proof.Machine

/-! ### What an access reaches -/

/-- An access through BAR4 that is served acts on the device proper. -/
theorem State.forAperture_served {s : State} {f : Nat} (g : Dev → Dev) (hb : s.flag basicFlag = true) (hh : s.hostOk f = true) :
    s.forAperture f g = { s with dev := g s.dev } := by
  unfold State.forAperture State.forHost
  rw [if_pos hb, if_pos hh]

theorem withAperture_served {s : State} {f : Nat} {g : Dev → Dev} {d : Dev} (hf : f < 64) (hb : s.flag basicFlag = true) (hh : s.hostOk f = true)
    (hd : g s.dev = d) : withUnit (partOk f) (s.forAperture f g) = .next { s with dev := d } := by
  rw [State.forAperture_served g hb hh, hd]
  exact if_pos (decide_eq_true hf)

/-- The cells that an aperture reaches are those of the partitions' regions. -/
theorem Dev.apertureCell_congr {d e : Dev} (h : ∀ p, (d.parts.getD p {}).regions = (e.parts.getD p {}).regions) (f a : Nat) :
    d.apertureCell f a = e.apertureCell f a := by
  have hcell : ∀ p a, d.cellOf p a = e.cellOf p a := fun p a => by
    unfold Dev.cellOf Dev.regionOf
    rw [h p]
  unfold Dev.apertureCell Dev.anyCell
  simp only [hcell]

theorem Dev.Touched.fold {α : Type} {f : Dev → α → Dev} (h : ∀ d x, (f d x).Touched d) (l : List α) (d : Dev) : (l.foldl f d).Touched d := by
  induction l generalizing d with
  | nil => exact .refl d
  | cons x l ih => exact (ih (f d x)).trans (h d x)

/-- Looking the lines of an access up in their home caches. -/
theorem Dev.Touched.apertureTouch (d : Dev) (f a n : Nat) (write : Bool) : (d.apertureTouch f a n write).Touched d := by
  unfold Dev.apertureTouch
  split
  · exact .refl d
  · refine .fold (fun d k => ?_) _ d
    split
    · exact .touchLine d _ _ _ _
    · exact .refl d

/-- What a permitted access leaves besides the bytes it moves: the caches' lines, registers, and the partitions' accounts. -/
theorem Dev.accessed_form (d : Dev) (f a n : Nat) (write : Bool) :
    ∃ ps ls g, (d.apertureTouch f a n write).countPcie f n = { d with parts := ps, lines := ls, regs := g } := by
  obtain ⟨ls, g, h⟩ := Dev.Touched.apertureTouch d f a n write
  rw [h]
  exact ⟨_, ls, g, rfl⟩

/-- A permitted access leaves the cells of every address where they are. -/
theorem Dev.accessed_cell (d : Dev) (f a n : Nat) (write : Bool) (x : Nat) :
    ((d.apertureTouch f a n write).countPcie f n).apertureCell f x = d.apertureCell f x := by
  obtain ⟨ls, g, h⟩ := Dev.Touched.apertureTouch d f a n write
  refine Dev.apertureCell_congr (fun p => ?_) f x
  have hcount := (SameView.modPart (d.apertureTouch f a n write) f
    (fun x => { x with window := { x.window with pcie := x.window.pcie + n } }) rfl).regions p
  refine hcount.trans ?_
  rw [h]

/-! ### Writes (R479, R546) -/

/-- HBM after a byte of a permitted write. -/
def Dev.storeAt (d : Dev) (f a : Nat) (m : Mem) (x : Nat × Byte) : Mem :=
  match d.apertureCell f (a + x.1) with
  | some k => m.write k x.2
  | none => m

/-- The bytes of a permitted write go to their cells and nowhere else. -/
theorem Dev.apertureSet_fold (d : Dev) (f a : Nat) (l : List (Nat × Byte)) (m : Mem) :
    l.foldl (fun d x => d.apertureSet f (a + x.1) x.2) { d with hbm := m } = { d with hbm := l.foldl (d.storeAt f a) m } := by
  induction l generalizing m with
  | nil => rfl
  | cons x l ih =>
    have hstep : ({ d with hbm := m } : Dev).apertureSet f (a + x.1) x.2 = { d with hbm := d.storeAt f a m x } := by
      have hcell : ({ d with hbm := m } : Dev).apertureCell f (a + x.1) = d.apertureCell f (a + x.1) := rfl
      unfold Dev.apertureSet Dev.storeAt
      rw [hcell]
      cases d.apertureCell f (a + x.1) <;> rfl
    rw [List.foldl_cons, List.foldl_cons, hstep, ih]

theorem Dev.storeAt_accessed (d : Dev) (f a b n : Nat) (write : Bool) :
    ((d.apertureTouch f b n write).countPcie f n).storeAt f a = d.storeAt f a := by
  funext m x
  unfold Dev.storeAt
  rw [Dev.accessed_cell]

section
variable {d : Dev} {f off : Nat} (o : Outside)

/-- R479: a write that is not permitted is counted. -/
theorem Dev.apertureWrite_refused {data : Bytes} (hb : d.inBar4 f off data.length = true)
    (hok : d.apertureOk f (d.apertureAddr f off) data.length true = false) : d.apertureWrite o f off data = d.bump pgPCI 0x814 1 := by
  unfold Dev.apertureWrite
  dsimp only
  rw [if_neg (by simp [hb]), if_pos (by simp [hok])]

/-- A cell of an access is not initialised. -/
theorem Dev.apertureCells_any (a n : Nat) : (d.apertureCells f a n).any (fun c => c.any (fun k => !cellReady o k)) = true ↔
    ∃ k, some k ∈ d.apertureCells f a n ∧ cellReady o k = false := by
  simp only [List.any_eq_true, Option.any_eq_true, Bool.not_eq_true']
  exact ⟨fun ⟨_, hc, k, hk, hr⟩ => ⟨k, hk ▸ hc, hr⟩, fun ⟨k, hk, hr⟩ => ⟨_, hk, k, rfl, hr⟩⟩

/-- R546: a write to a cell that is not initialised is counted. -/
theorem Dev.apertureWrite_uninitialised {data : Bytes} (hb : d.inBar4 f off data.length = true)
    (hok : d.apertureOk f (d.apertureAddr f off) data.length true = true)
    (hcell : ∃ k, some k ∈ d.apertureCells f (d.apertureAddr f off) data.length ∧ cellReady o k = false) :
    d.apertureWrite o f off data = d.bump pgMGT 0x854 1 := by
  unfold Dev.apertureWrite
  dsimp only
  rw [if_neg (by simp [hb]), if_neg (by simp [hok]), if_pos ((Dev.apertureCells_any o _ _).mpr hcell)]

/-- A permitted write to initialised cells. -/
theorem Dev.apertureWrite_stored {data : Bytes} (hb : d.inBar4 f off data.length = true)
    (hok : d.apertureOk f (d.apertureAddr f off) data.length true = true)
    (hcell : ∀ k, some k ∈ d.apertureCells f (d.apertureAddr f off) data.length → cellReady o k = true) :
    ∃ ps ls g, d.apertureWrite o f off data = { d with
      parts := ps, lines := ls, regs := g
      hbm := ((List.range data.length).zip data).foldl (d.storeAt f (d.apertureAddr f off)) d.hbm } := by
  have hready : ¬ (d.apertureCells f (d.apertureAddr f off) data.length).any (fun c => c.any (fun k => !cellReady o k)) = true := fun h => by
    obtain ⟨k, hk, hr⟩ := (Dev.apertureCells_any o _ _).mp h
    rw [hcell k hk] at hr
    cases hr
  obtain ⟨ps, ls, g, hform⟩ := d.accessed_form f (d.apertureAddr f off) data.length true
  have hstore := d.storeAt_accessed f (d.apertureAddr f off) (d.apertureAddr f off) data.length true
  have hfold := Dev.apertureSet_fold ((d.apertureTouch f (d.apertureAddr f off) data.length true).countPcie f data.length) f (d.apertureAddr f off)
    ((List.range data.length).zip data) d.hbm
  unfold Dev.apertureWrite
  dsimp only
  rw [if_neg (by simp [hb]), if_neg (by simp [hok]), if_neg hready]
  rw [hstore, hform] at hfold
  rw [hform]
  exact ⟨ps, ls, g, hfold⟩

/-! ### Reads (R479) -/

theorem Dev.apertureRead_refused {n : Nat} (hb : d.inBar4 f off n = true) (hok : d.apertureOk f (d.apertureAddr f off) n false = false) :
    d.apertureRead o f off n = ({ d with sent := .readData f (List.replicate n 0) :: d.sent } : Dev).bump pgPCI 0x814 1 := by
  unfold Dev.apertureRead
  rw [if_neg (by simp [hb])]
  dsimp only
  rw [if_pos (by simp [hok])]

theorem Dev.apertureRead_answered {n : Nat} (hb : d.inBar4 f off n = true) (hok : d.apertureOk f (d.apertureAddr f off) n false = true) :
    ∃ ps ls g, d.apertureRead o f off n = { d with
      parts := ps, lines := ls, regs := g
      sent := .readData f ((List.range n).map (fun i => d.apertureByte o f (d.apertureAddr f off + i))) :: d.sent } := by
  obtain ⟨ps, ls, g, hform⟩ := d.accessed_form f (d.apertureAddr f off) n false
  unfold Dev.apertureRead
  rw [if_neg (by simp [hb])]
  dsimp only
  rw [if_neg (by simp [hok]), hform]
  exact ⟨ps, ls, g, rfl⟩

/-! ### AtomicOps (R224) -/

theorem Dev.atomicOp_outside {op : PcieAtomic} (hb : d.inBar4 f off (atomicSize (pcieOp op)) = false) :
    d.atomicOp o f off op = { d with sent := .unsupported f :: d.sent } := by
  unfold Dev.atomicOp
  dsimp only
  rw [if_pos (by simp [hb])]

/-- A permitted AtomicOp at an initialised cell is the atomic there, completed with the old bytes. -/
theorem Dev.atomicOp_done {op : PcieAtomic} {k : Nat} (hs : 0 < atomicSize (pcieOp op)) (hb : d.inBar4 f off (atomicSize (pcieOp op)) = true)
    (ha : d.apertureAddr f off % atomicSize (pcieOp op) = 0) (hok : d.apertureOk f (d.apertureAddr f off) (atomicSize (pcieOp op)) true = true)
    (hk : d.apertureCell f (d.apertureAddr f off) = some k) (hr : cellReady o k = true) :
    ∃ ps ls g, d.atomicOp o f off op = { d with
      parts := ps, lines := ls, regs := g
      hbm := d.hbm.writeBytes k (atomicApply (pcieOp op) (d.hbm.readBytes k (atomicSize (pcieOp op))))
      sent := .readData f (d.hbm.readBytes k (atomicSize (pcieOp op))) :: d.sent } := by
  have hmax : max 1 (atomicSize (pcieOp op)) = atomicSize (pcieOp op) := Nat.max_eq_right hs
  obtain ⟨⟨ls, g, hnew⟩, hold⟩ := d.atomicAt_effect f (d.apertureAddr f off) k (pcieOp op)
  unfold Dev.atomicOp
  dsimp only
  rw [if_neg (by simp [hb, hmax, ha, Nat.ne_of_gt hs]), if_neg (by simp [hok]), hk]
  dsimp only
  rw [if_neg (by simp [hr]), hnew, hold]
  exact ⟨_, ls, g, rfl⟩

end

/-- Settles O55: each access by what it may reach, on a function that is served. -/
theorem hostAccess : Obligations.HostAccess := by
  unfold Obligations.HostAccess
  intro s f off hf hb hh
  refine ⟨fun n a hin ha => ?reads, fun data a hin ha => ?writes, fun op a k old hsize hin ha halign hok hk hr hold => ?atomic, fun op hin => ?outside⟩
  case reads =>
    subst ha
    refine ⟨fun hok => ?_, fun hok => ?_⟩
    · obtain ⟨ps, ls, g, h⟩ := Dev.apertureRead_answered s.outside hin hok
      exact ⟨_, withAperture_served hf hb hh h, rfl, rfl, rfl, rfl, rfl⟩
    · exact ⟨_, withAperture_served hf hb hh (Dev.apertureRead_refused s.outside hin hok), rfl, Dev.regN_bump_same _ _ _ _, rfl, rfl, rfl, rfl⟩
  case writes =>
    subst ha
    refine ⟨fun hok hcell => ?_, fun hok hcell => ?_, fun hok => ?_⟩
    · obtain ⟨ps, ls, g, h⟩ := Dev.apertureWrite_stored s.outside hin hok hcell
      exact ⟨_, withAperture_served hf hb hh h, rfl, rfl, rfl, rfl⟩
    · exact ⟨_, withAperture_served hf hb hh (Dev.apertureWrite_uninitialised s.outside hin hok hcell), s.counted pgMGT 0x854 1⟩
    · exact ⟨_, withAperture_served hf hb hh (Dev.apertureWrite_refused s.outside hin hok), s.counted pgPCI 0x814 1⟩
  case atomic =>
    subst ha hold
    obtain ⟨ps, ls, g, h⟩ := Dev.atomicOp_done s.outside hsize hin halign hok hk hr
    exact ⟨_, withAperture_served hf hb hh h, rfl, rfl, rfl, rfl, rfl⟩
  case outside => exact withAperture_served hf hb hh (Dev.atomicOp_outside s.outside hin)

end Sys2Proof.Machine
end

section
/-! The commands of a stack engine (R242, R243, R246): O46. -/

namespace Sys2Proof.Machine

/-! ### What an engine's reads and writes of blocks change besides the blocks -/

theorem Dev.SameStacks.refl (d : Dev) : d.SameStacks d := ⟨rfl, rfl, rfl, rfl, rfl⟩

theorem Dev.SameStacks.trans {d e f : Dev} (h : d.SameStacks e) (k : e.SameStacks f) : d.SameStacks f :=
  ⟨h.units.trans k.units, h.cmds.trans k.cmds, h.memory.trans k.memory⟩

theorem Dev.SameStacks.bumpWide (d : Dev) (page off n : Nat) : (d.bumpWide page off n).SameStacks d := ⟨rfl, rfl, rfl, rfl, rfl⟩

theorem Dev.SameStacks.fold {α : Type} {f : Dev → α → Dev} (h : ∀ (d : Dev) (x : α), (f d x).SameStacks d) (l : List α) (d : Dev) :
    (l.foldl f d).SameStacks d := by
  induction l generalizing d with
  | nil => exact .refl d
  | cons x l ih => exact (ih (f d x)).trans (h d x)

/-- R242: writing lines back and discarding them changes their records and the count of what was written back. -/
theorem Dev.SameStacks.syncLines (d : Dev) (read written : List Nat) : (d.syncLines read written).SameStacks d := by
  have hback := fun dies => Dev.SameStacks.fold (f := fun d die => d.bump (pgSHC die) 0x810 1) (fun d _ => (Dev.Recorded.bump d _ _ _).sameStacks) dies d
  exact ⟨(hback _).units, (hback _).cmds, (hback _).memory⟩

/-- An engine that reads and writes some blocks counts them and settles their lines; memory changes only when it then writes. -/
theorem Dev.SameStacks.stackTouch (d : Dev) (i : Nat) (read written : List Nat) : (d.stackTouch i read written).SameStacks d := by
  have hcounted : (((d.syncLines (read.map (stackBlock i)) (written.map (stackBlock i))).bumpWide (pgHBM i) 0x804 read.length).bumpWide (pgHBM i) 0x80C
      written.length).SameStacks d := (Dev.SameStacks.bumpWide _ _ _ _).trans ((Dev.SameStacks.bumpWide _ _ _ _).trans (.syncLines d _ _))
  cases read with
  | nil => exact hcounted
  | cons b read => exact (Dev.SameStacks.hbmInject _ _ _ _ _ _).trans hcounted

/-! ### Blocks written -/

/-- Blocks written one after another change HBM alone. -/
theorem Dev.putBlocks_eq {α : Type} (i : Nat) (block : α → Nat) (data : α → Bytes) (l : List α) (d : Dev) :
    l.foldl (fun d q => d.putBlock i (block q) (data q)) d =
      { d with hbm := l.foldl (fun m q => m.writeBytes (blockKey i (block q)) (data q)) d.hbm } := by
  induction l generalizing d with
  | nil => rfl
  | cons q l ih => exact ih (d.putBlock i (block q) (data q))

/-- Blocks written by an engine once it has read what it reads, and counted: HBM holds them, and nothing else of memory nor a command changes. -/
theorem Dev.stackWrite_effect {α : Type} (d : Dev) (i : Nat) (read written : List Nat) (block : α → Nat) (data : α → Bytes) (l : List α) (a b c : Nat) :
    ∃ e, (l.foldl (fun d q => d.putBlock i (block q) (data q)) (d.stackTouch i read written)).stkCount i a b c = e ∧
      e.hbm = l.foldl (fun m q => m.writeBytes (blockKey i (block q)) (data q)) d.hbm ∧ e.host = d.host ∧ e.spd = d.spd ∧ e.cmds = d.cmds := by
  obtain ⟨-, hcmds, hhbm, hhost, hspd⟩ := Dev.SameStacks.stackTouch d i read written
  have hseen := SameView.stk (l.foldl (fun d q => d.putBlock i (block q) (data q)) (d.stackTouch i read written)) i a b c
  refine ⟨_, rfl, hseen.hbm.trans ?_, hseen.host.trans ?_, hseen.spd.trans ?_, ?_⟩
  · rw [Dev.putBlocks_eq, hhbm]
  · rw [Dev.putBlocks_eq, ← hhost]
  · rw [Dev.putBlocks_eq, ← hspd]
  · show (l.foldl (fun d q => d.putBlock i (block q) (data q)) (d.stackTouch i read written)).cmds = d.cmds
    rw [Dev.putBlocks_eq, ← hcmds]

/-- R242: a move reads every source block before it writes any: each destination holds what its source held at first. -/
theorem Dev.stackMove_effect (d : Dev) (i : Nat) (pairs : List (Nat × Nat)) :
    (d.stackMove i pairs).hbm = pairs.foldl (fun m q => m.writeBytes (blockKey i q.2) (d.block i q.1)) d.hbm ∧
      (d.stackMove i pairs).host = d.host ∧ (d.stackMove i pairs).spd = d.spd ∧ (d.stackMove i pairs).cmds = d.cmds := by
  have hzip : pairs.zip (pairs.map (fun q => d.block i q.1)) = pairs.map (fun q => (q, d.block i q.1)) := by
    simpa using List.zip_map' (l := pairs) (f := id) (g := fun q => d.block i q.1)
  obtain ⟨e, he, heffect⟩ := d.stackWrite_effect i (pairs.map (·.1)) (pairs.map (·.2)) (·.2) (fun q => d.block i q.1) pairs (256 * pairs.length) 0 0
  have hmove : d.stackMove i pairs = e := by
    unfold Dev.stackMove
    dsimp only
    rw [hzip, List.foldl_map]
    exact he
  rw [hmove]
  exact heffect

/-- R242: a fill writes its pattern 64 times into each block. -/
theorem Dev.stkFill_effect (d : Dev) (i dst n : Nat) (pattern : Word) :
    (d.stkFill i dst n pattern).hbm =
        (blockRun dst n).foldl (fun m b => m.writeBytes (blockKey i b) ((List.replicate 64 (toLe 4 pattern.toNat)).flatMap id)) d.hbm ∧
      (d.stkFill i dst n pattern).host = d.host ∧ (d.stkFill i dst n pattern).spd = d.spd ∧ (d.stkFill i dst n pattern).cmds = d.cmds := by
  obtain ⟨e, he, heffect⟩ := d.stackWrite_effect i [] (blockRun dst n) id (fun _ => (List.replicate 64 (toLe 4 pattern.toNat)).flatMap id) (blockRun dst n)
    (256 * n) 0 0
  have hfill : d.stkFill i dst n pattern = e := he
  rw [hfill]
  exact heffect

/-! ### Results held in the engine -/

/-- An engine that reads blocks and keeps a result in its mailbox: memory and the commands stay. -/
theorem Dev.stackResult_effect {d : Dev} {i : Nat} (hi : i < d.stackUnits.length) (read : List Nat) (a b c : Nat) (f : StackState → StackState) :
    ∃ e x, ((d.stackTouch i read []).stkCount i a b c).modStack i f = e ∧ e.SameMemory d ∧ e.cmds = d.cmds ∧ e.stackUnits.getD i {} = f x := by
  obtain ⟨hunits, hcmds, hmem⟩ := Dev.SameStacks.stackTouch d i read []
  have hlen : i < ((d.stackTouch i read []).stkCount i a b c).stackUnits.length := by
    show i < ((d.stackTouch i read []).stackUnits.set i _).length
    rw [List.length_set, hunits]
    exact hi
  exact ⟨_, _, rfl, (SameView.stk (d.stackTouch i read []) i a b c).same.trans hmem, hcmds, Dev.stack_modStack_same _ f hlen⟩

/-- R246: the CRC of the blocks read is held in the engine. -/
theorem Dev.stkCrc_effect {d : Dev} {i : Nat} (hi : i < d.stackUnits.length) (src n : Nat) :
    (d.stkCrc i src n).SameMemory d ∧ (d.stkCrc i src n).cmds = d.cmds ∧
      ((d.stkCrc i src n).stackUnits.getD i {}).crc = crc32c ((blockRun src n).flatMap (d.block i)) := by
  obtain ⟨e, x, he, hmem, hcmds, hunit⟩ := Dev.stackResult_effect hi (blockRun src n) 0 (256 * n) 0
    (fun x => { x with crc := crc32c ((blockRun src n).flatMap (d.block i)) })
  have hcrc : d.stkCrc i src n = e := he
  rw [hcrc, hunit]
  exact ⟨hmem, hcmds, rfl⟩

/-- R243: the pages ranked by their scores are held in the engine. -/
theorem Dev.stkScore_effect {d : Dev} {i : Nat} (hi : i < d.stackUnits.length) (c : StkScore) :
    (d.stkScore i c).SameMemory d ∧ (d.stkScore i c).cmds = d.cmds ∧ ((d.stkScore i c).stackUnits.getD i {}).scores =
      rankTop c.top (c.pages.map (fun q => (q.1, scoreOf c.query (d.hbm.readBytes (blockKey i q.2) c.query.length)))) := by
  obtain ⟨e, x, he, hmem, hcmds, hunit⟩ := Dev.stackResult_effect hi (c.pages.flatMap (fun q => blockRun q.2 (ceilDiv c.query.length 256))) 0 0 c.pages.length
    (fun x => { x with scores := rankTop c.top (c.pages.map (fun q => (q.1, scoreOf c.query (d.hbm.readBytes (blockKey i q.2) c.query.length)))) })
  have hscore : d.stkScore i c = e := he
  rw [hscore, hunit]
  exact ⟨hmem, hcmds, rfl⟩

/-- Settles O46: three commands are moves of blocks, a fill writes its pattern, and a score and a CRC leave a result in their engine. -/
theorem stackEnginesRun : Obligations.StackEnginesRun := by
  unfold Obligations.StackEnginesRun
  intro s i hr hi hu
  refine ⟨fun src dst n hs hd => ?copy, fun dst n pattern hd => ?fill, fun srcs dst hs hd => ?gather, fun src mask dst kept hs hd hk => ?compact,
    fun c hc => ?score, fun src n hs => ?crc⟩
  case copy => exact ⟨_, onUnit_running s (fun d => d.stkCopy i src dst n) hr (by simp [stackOk, hi, hs, hd]), s.dev.stackMove_effect i _⟩
  case fill => exact ⟨_, onUnit_running s (fun d => d.stkFill i dst n pattern) hr (by simp [stackOk, hi, hd]), s.dev.stkFill_effect i dst n pattern⟩
  case gather =>
    have hhas : stackHas i srcs = true := by simpa [stackHas, hi] using hs
    exact ⟨_, onUnit_running s (fun d => d.stkGather i srcs dst) hr (by simp [hhas, hd]), s.dev.stackMove_effect i _⟩
  case compact =>
    subst hk
    exact ⟨_, onUnit_running s (fun d => d.stkCompact i src mask dst) hr (by simp [stackOk, hi, hs, hd]), s.dev.stackMove_effect i _⟩
  case score => exact ⟨_, onUnit_running s (fun d => d.stkScore i c) hr hc, Dev.stkScore_effect hu c⟩
  case crc => exact ⟨_, onUnit_running s (fun d => d.stkCrc i src n) hr (by simp [stackOk, hi, hs]), Dev.stkCrc_effect hu src n⟩

end Sys2Proof.Machine
end

section
/-! Moves and media (R245, R246, R456, R462, R469): COPY, INGEST, MEDIA_ENCODE and MEDIA_DECODE, and O37. -/

namespace Sys2Proof.Machine

/-! ### A command without tiles that has what it waits for -/

theorem CmdKept.endStatus {x c : Cmd} (h : CmdKept x c) (st det : Nat) : x.endStatus st det = c.endStatus st det := by
  unfold Cmd.endStatus
  rw [h.missed]

/-- R79, R116: such a command, its copies in force, does its work on the device as it stands; then its tags settle. -/
theorem onDevice_untiled {s : State} {u op : Nat} {env : Env} {c : Cmd} (f : Dev → Cmd → Dev) (hr : s.running = true) (h : s.dev.OnHand env u op c) :
    ∃ t, onDevice s (fun d => d.asStarted u (fun d => d.runUntiled op u env f)) = .next { s with dev := { f s.dev c with tags := t } } := by
  obtain ⟨t, ht⟩ := Dev.runUntiled_form f h
  obtain ⟨hc, -, -, -, hcopy, -⟩ := h
  refine ⟨t, ?_⟩
  rw [onDevice_running s _ hr, Dev.asStarted_here _ hc hcopy, ht]

/-- A command found in `d` completes in the device `e` that its work leaves: it ends with its status, and memory stays as its work left it. -/
theorem Dev.complete_kept {d e : Dev} {u : Nat} {c k : Cmd} (st det : Nat) (hc : d.cmd? u = some c) (hp : c.pins = []) (hv : c.kvTargets = [])
    (hcmds : e.cmds = d.cmds) (hk : CmdKept k c) : (e.complete k st det).HasEnded u (c.endStatus st det) ∧ (e.complete k st det).SameMemory e := by
  have hu : c.uid = u := Dev.cmd?_uid hc
  have hfound : (e.cmd? k.uid).isSome = true := hk.uid ▸ Dev.cmd_isSome_of_cmds hcmds hc
  exact ⟨Dev.complete_ended st det k hfound (hk.uid.trans hu) (hk.endStatus st det),
    (SameView.complete0 e k st det (hk.pins.trans hp) (hk.kv.trans hv)).same⟩

section
variable {d : Dev} {u : Nat} {c : Cmd}

/-! ### COPY (R245, R246) -/

/-- R245, R246: a COPY's elements are written, whatever it counts, and it ends with its mode's DETAIL. -/
theorem Dev.copyRun_effect (hc : d.cmd? u = some c) (hp : c.pins = []) (hv : c.kvTargets = []) :
    (d.copyRun c).HasEnded u (c.endStatus stOK (d.copyWrites c).2.2) ∧ (d.copyRun c).SameMemory (d.applyWrites c.part (d.copyWrites c).1) := by
  obtain ⟨hview, hcmds⟩ := d.countStacks_effect c
  have hwritten : ((d.countStacks c).applyWrites c.part (d.copyWrites c).1).cmds = d.cmds := (Dev.applyWrites_cmds _ _ _).trans hcmds
  obtain ⟨hended, hmem⟩ := Dev.complete_kept (k := { c with flags := { c.flags with saturated := c.flags.saturated || (d.copyWrites c).2.1 } }) stOK
    (d.copyWrites c).2.2 hc hp hv hwritten ⟨rfl, rfl, rfl, rfl⟩
  exact ⟨hended, hmem.trans (hview.writes _ _).same⟩

/-! ### INGEST (R469) -/

/-- A partition that changes or not, its regions kept. -/
theorem SameView.modPartIf (d : Dev) (p : Nat) (f : Part → Part) (b : Bool) (h : (f (d.part p)).regions = (d.part p).regions) :
    SameView (if b then d.modPart p f else d) d ∧ (if b then d.modPart p f else d).cmds = d.cmds := by
  cases b
  · exact ⟨.refl d, rfl⟩
  · exact ⟨.modPart d p f h, rfl⟩

/-- R469: an INGEST writes its batch and its rejects over a work buffer left undefined, and ends with the number of samples it consumed. -/
theorem Dev.ingestRun_effect (hc : d.cmd? u = some c) (hp : c.pins = []) (hv : c.kvTargets = []) {g : InBatch}
    (hg : g = d.gather c (c.igEntries - c.igFirst) c.igFirst {}) :
    (d.ingestRun c).HasEnded u (c.endStatus stOK g.consumed) ∧
      (d.ingestRun c).SameMemory ((d.undefineBuffer c.part (c.tensor c.igWork)).applyWrites c.part
        ((List.range c.igB).flatMap (d.slotWrites c g) ++ c.rejectWrites g)) := by
  subst hg
  obtain ⟨x, hbuf⟩ := d.undefineBuffer_form c.part (c.tensor c.igWork)
  have hbufCmds : (d.undefineBuffer c.part (c.tensor c.igWork)).cmds = d.cmds := by rw [hbuf]
  unfold Dev.ingestRun
  extract_lets g ws d1 d2 d3 d4 d5
  obtain ⟨hreject, hrejectCmds⟩ : SameView d3 d2 ∧ d3.cmds = d2.cmds := SameView.fold_cmds SameView.reject g.rejected d2
  obtain ⟨htaken, htakenCmds⟩ : SameView d4 d3 ∧ d4.cmds = d3.cmds := SameView.fold_cmds (fun d t => SameView.taken d c.part t) g.taken d3
  obtain ⟨hepoch, hepochCmds⟩ : SameView d5 d4 ∧ d5.cmds = d4.cmds := SameView.modPartIf d4 c.part _ c.igAdv rfl
  have hcmds : d5.cmds = d.cmds :=
    hepochCmds.trans (htakenCmds.trans (hrejectCmds.trans ((Dev.applyWrites_cmds _ _ _).trans hbufCmds)))
  obtain ⟨hended, hmem⟩ := Dev.complete_kept stOK g.consumed hc hp hv hcmds (CmdKept.refl c)
  exact ⟨hended, hmem.trans (hepoch.trans (htaken.trans hreject)).same⟩

/-! ### MEDIA_ENCODE (R462) -/

theorem SameView.withSent (d : Dev) (l : List Sent) : SameView { d with sent := l } d :=
  ⟨rfl, rfl, rfl, rfl, fun _ => rfl, fun _ => rfl, fun _ => rfl⟩

theorem SameView.setStream (d : Dev) (x : Stream) : SameView (d.setStream x) d := ⟨rfl, rfl, rfl, rfl, fun _ => rfl, fun _ => rfl, fun _ => rfl⟩

/-- The work of an encode: its stream has one frame more and no picture asked for; packets and counters aside, nothing else changes. -/
theorem Dev.mediaEncode_work {x : Stream} (hx : d.stream? c.meStream = some x) : ∃ e y, d.mediaEncode c = e.complete c stOK 0 ∧ SameView e d ∧
    e.cmds = d.cmds ∧ e.streams = (d.setStream y).streams ∧ y.id = x.id ∧ y.frames = x.frames + 1 ∧ y.pli = false ∧ y.raw = x.raw := by
  unfold Dev.mediaEncode
  rw [hx]
  dsimp -zeta only
  extract_lets t key rgb e pays ts pk bytes d1 d2 d3
  have hsent : SameView d2 d1 ∧ d2.cmds = d1.cmds ∧ d2.streams = d1.streams := by
    cases hclosing : x.closing
    · have hd2 : d2 = Dev.bump { d1 with sent := _ } (pgMED x.unit) 0x834 pays.length := if_neg (by simp [hclosing])
      rw [hd2]
      exact ⟨(SameView.bump _ _ _ _ (by unfold outsideActive; decide)).trans (.withSent d1 _), rfl, rfl⟩
    · have hd2 : d2 = d1 := if_pos hclosing
      rw [hd2]
      exact ⟨.refl d1, rfl, rfl⟩
  obtain ⟨hview, hcmds, hstreams⟩ := hsent
  have hpixels := SameView.pixels d3 c.part x.unit 0x814 (t.dim 1 * t.dim 2) (by unfold outsideActive; decide) (by unfold outsideActive wideKey; decide)
  have hpart : SameView d3 d2 := SameView.modPart d2 c.part _ rfl
  exact ⟨_, _, rfl, hpixels.trans (hpart.trans (hview.trans (.setStream d _))), hcmds, hstreams, rfl, rfl, rfl, rfl⟩

/-- R462: an encode hands one frame to its stream, leaves every other stream and memory as they are, and ends OK. -/
theorem Dev.mediaEncode_effect (hc : d.cmd? u = some c) (hp : c.pins = []) (hv : c.kvTargets = []) {x : Stream} (hx : d.stream? c.meStream = some x) :
    ∃ y, (d.mediaEncode c).HasEnded u (c.endStatus stOK 0) ∧ (d.mediaEncode c).SameMemory d ∧ (d.mediaEncode c).stream? c.meStream = some y ∧
      y.frames = x.frames + 1 ∧ y.pli = false ∧ y.raw = x.raw ∧ ∀ v, v ≠ c.meStream → (d.mediaEncode c).stream? v = d.stream? v := by
  obtain ⟨e, y, hrun, hview, hcmds, hstreams, hid, hframes, hpli, hraw⟩ := Dev.mediaEncode_work hx
  obtain ⟨hended, hmem⟩ := Dev.complete_kept stOK 0 hc hp hv hcmds (CmdKept.refl c)
  have hid : y.id = c.meStream := hid.trans (Dev.stream_id hx)
  have hstream : ∀ v, (d.mediaEncode c).stream? v = (d.setStream y).stream? v := fun v => by
    rw [hrun, Dev.complete_stream]
    unfold Dev.stream?
    rw [hstreams]
  refine ⟨y, hrun ▸ hended, hrun ▸ hmem.trans hview.same, ?_, hframes, hpli, hraw, fun v hne => ?_⟩
  · rw [hstream, ← hid]
    exact d.stream_setStream_same y (by rw [hid, hx]; rfl)
  · rw [hstream]
    exact d.stream_setStream_other y (hid ▸ hne)

/-! ### MEDIA_DECODE of a tensor (R457, R465, R466) -/

/-- A tensor decode that ends for a reason: its work buffer is undefined, and the error is counted and raised. -/
def Dev.decodeRefused (d : Dev) (c : Cmd) (why : Nat) : Dev :=
  (((d.undefineBuffer c.part (c.tensor c.mdWork)).bump (pgMED c.mdUnit) 0x82C 1).raise (pgMED c.mdUnit) 2).complete c
    (if why = 5 then stDIMS else stCORRUPT) why

theorem Dev.undefineBuffer_cmds (d : Dev) (p : Nat) (t : TensorD) : (d.undefineBuffer p t).cmds = d.cmds := by
  obtain ⟨x, h⟩ := d.undefineBuffer_form p t
  rw [h]

theorem Dev.undefineBuffer_ppb (d : Dev) (p : Nat) (t : TensorD) (die : Nat) : (d.undefineBuffer p t).ppb die = d.ppb die := by
  obtain ⟨x, h⟩ := d.undefineBuffer_form p t
  rw [h]
  rfl

theorem Dev.decodeRefused_ended (hc : d.cmd? u = some c) (why : Nat) :
    (d.decodeRefused c why).HasEnded u (c.endStatus (if why = 5 then stDIMS else stCORRUPT) why) := by
  refine Dev.complete_ended _ _ c (Dev.cmd_isSome_of_cmds ?_ hc) (Dev.cmd?_uid hc) rfl
  rw [Dev.raise_cmds_eq]
  exact d.undefineBuffer_cmds _ _

section
variable {b : Bytes} (hb : b = d.bytesIn c.part (c.tensor c.mdSrc).space (c.tensor c.mdSrc).addr ((c.tensor c.mdSrc).dim 0))
include hb

/-- R465: a header check that fails ends the decode with its reason. -/
theorem Dev.tensorDecode_header {why : Nat} (hh : headerReason c.mdCodec (c.entry.maxes.getD 4 0) (d.ppb c.mdUnit) b = some why) :
    d.tensorDecode c = d.decodeRefused c why := by
  unfold Dev.tensorDecode
  dsimp only
  rw [Dev.undefineBuffer_ppb, ← hb, hh]
  rfl

variable (hh : headerReason c.mdCodec (c.entry.maxes.getD 4 0) (d.ppb c.mdUnit) b = none)
include hh

/-- A bitstream that does not decode is corrupt. -/
theorem Dev.tensorDecode_undecoded (hd : Config.codecPictures c.mdCodec b = none) : d.tensorDecode c = d.decodeRefused c 3 := by
  unfold Dev.tensorDecode
  dsimp only
  rw [Dev.undefineBuffer_ppb, ← hb, hh]
  dsimp only
  rw [hd]
  rfl

/-- R457: a bitstream of fewer pictures than OUT holds is corrupt. -/
theorem Dev.tensorDecode_short {ps : List Config.Picture} (hd : Config.codecPictures c.mdCodec b = some ps) (hlt : ps.length < (c.tensor c.mdOut).dim 3) :
    d.tensorDecode c = d.decodeRefused c 7 := by
  unfold Dev.tensorDecode
  dsimp only
  rw [Dev.undefineBuffer_ppb, ← hb, hh]
  dsimp only
  rw [hd]
  exact if_pos hlt

/-- R456, R457: with pictures enough, each picture of OUT is written, over a work buffer left undefined, and the decode ends OK. -/
theorem Dev.tensorDecode_effect (hc : d.cmd? u = some c) (hp : c.pins = []) (hv : c.kvTargets = []) {ps : List Config.Picture}
    (hd : Config.codecPictures c.mdCodec b = some ps) (hle : (c.tensor c.mdOut).dim 3 ≤ ps.length) :
    (d.tensorDecode c).HasEnded u (c.endStatus stOK 0) ∧
      (d.tensorDecode c).SameMemory ((d.undefineBuffer c.part (c.tensor c.mdWork)).applyWrites c.part
        ((List.range ((c.tensor c.mdOut).dim 3)).flatMap (fun i => c.decodedWrites i (ps.getD i default)))) := by
  unfold Dev.tensorDecode
  dsimp only
  rw [Dev.undefineBuffer_ppb, ← hb, hh]
  dsimp only
  rw [hd]
  dsimp only
  rw [if_neg (Nat.not_lt.mpr hle)]
  obtain ⟨hended, hmem⟩ := Dev.complete_kept (e := Dev.countPixels _ c.part c.mdUnit 0x80C _) stOK 0 hc hp hv
    ((Dev.applyWrites_cmds _ _ _).trans (d.undefineBuffer_cmds _ _)) (CmdKept.refl c)
  exact ⟨hended, hmem.trans (SameView.pixels _ _ _ _ _ (by unfold outsideActive; decide) (by unfold outsideActive wideKey; decide)).same⟩

end

/-! ### MEDIA_DECODE by its kind (R456) -/

theorem Dev.mediaDecode_tensor (d : Dev) (hl : c.mdLive = false) : d.mediaDecode c = d.tensorDecode c := if_neg (by simp [hl])

/-- R458: a live decode ends OK, or STALE. -/
theorem Dev.mediaDecode_live (hc : d.cmd? u = some c) (hl : c.mdLive = true) {x : Stream} (hx : d.stream? c.mdStream = some x) :
    ∃ st, (st = stOK ∨ st = stSTALE) ∧ (d.mediaDecode c).HasEnded u (c.endStatus st 0) := by
  obtain ⟨e, k, st, hst, hcmds, hku, hend, hrun⟩ := d.liveDecode_form c x
  have hlive : d.mediaDecode c = e.complete k st 0 := by
    unfold Dev.mediaDecode
    rw [if_pos hl, hx]
    exact hrun
  refine ⟨st, hst, ?_⟩
  rw [hlive]
  exact Dev.complete_ended st 0 k (hku ▸ Dev.cmd_isSome_of_cmds hcmds hc) (hku.trans (Dev.cmd?_uid hc)) hend

end

/-- Settles O37: each command that is on hand does its work on the device as it stands, by the lemma about that work. -/
theorem movesAndMediaRun : Obligations.MovesAndMediaRun := by
  unfold Obligations.MovesAndMediaRun
  intro s u env c hr hp hv
  refine ⟨fun h => ?copy, fun g h hg => ?ingest, fun x h hx => ?encode, fun b h hl hb => ?tensor, fun x h hl hx => ?live⟩
  case copy =>
    obtain ⟨t, hrun⟩ := onDevice_untiled Dev.copyRun hr h
    exact ⟨_, hrun, Dev.copyRun_effect h.1 hp hv⟩
  case ingest =>
    obtain ⟨t, hrun⟩ := onDevice_untiled Dev.ingestRun hr h
    exact ⟨_, hrun, Dev.ingestRun_effect h.1 hp hv hg⟩
  case encode =>
    obtain ⟨t, hrun⟩ := onDevice_untiled Dev.mediaEncode hr h
    obtain ⟨y, heffect⟩ := Dev.mediaEncode_effect h.1 hp hv hx
    exact ⟨_, y, hrun, heffect⟩
  case tensor =>
    obtain ⟨t, hrun⟩ := onDevice_untiled Dev.mediaDecode hr h
    rw [Dev.mediaDecode_tensor _ hl] at hrun
    refine ⟨_, hrun, fun why hh => ?_, fun hh hd => ?_, fun ps hh hd => ⟨fun hlt => ?_, fun hle => ?_⟩⟩
    · rw [Dev.tensorDecode_header hb hh]
      exact Dev.decodeRefused_ended h.1 why
    · rw [Dev.tensorDecode_undecoded hb hh hd]
      exact Dev.decodeRefused_ended h.1 3
    · rw [Dev.tensorDecode_short hb hh hd hlt]
      exact Dev.decodeRefused_ended h.1 7
    · exact Dev.tensorDecode_effect hb hh h.1 hp hv hd hle
  case live =>
    obtain ⟨t, hrun⟩ := onDevice_untiled Dev.mediaDecode hr h
    obtain ⟨st, hst, hended⟩ := Dev.mediaDecode_live h.1 hl hx
    exact ⟨_, st, hrun, hst, hended⟩

end Sys2Proof.Machine
end

section
/-! The tile sequencer (R268, R272, R275, R276): dealing a tile to a unit, leases that run out, and group tiles that are abandoned. O40 and O42. -/

namespace Sys2Proof.Machine

/-! ### What dealing a tile leaves (R275, Table 9-4) -/

/-- Replacing a command is not seen by commands. -/
theorem SameView.setCmd (d : Dev) (c : Cmd) : SameView (d.setCmd c) d := ⟨rfl, rfl, rfl, rfl, fun _ => rfl, fun _ => rfl, fun _ => rfl⟩

/-- The offsets of the counters that dealing a tile adds to: CORE and HAL tiles dealt, HAL units taken and lent, VEC programs loaded. -/
def dealCounters : List Nat := [0x804, 0x80C, 0x810, 0x814]

/-- `e` is `d` but for the state of its units and the counters of dealing. -/
structure Dev.DealsFrom (e d : Dev) : Prop where
  view : SameView e d
  cmds : e.cmds = d.cmds
  reg : ∀ page off, off < 0x1000 → off ∉ dealCounters → e.regN page off = d.regN page off

theorem Dev.DealsFrom.refl (d : Dev) : d.DealsFrom d := ⟨.refl d, rfl, fun _ _ _ _ => rfl⟩

theorem Dev.DealsFrom.trans {d e f : Dev} (h : d.DealsFrom e) (k : e.DealsFrom f) : d.DealsFrom f :=
  ⟨h.view.trans k.view, h.cmds.trans k.cmds, fun page off hlt hn => (h.reg page off hlt hn).trans (k.reg page off hlt hn)⟩

theorem Dev.DealsFrom.bump (d : Dev) (page n : Nat) {off : Nat} (h : off ∈ dealCounters) : (d.bump page off n).DealsFrom d := by
  have hoff : off < 0x1000 ∧ outsideActive off := (by unfold outsideActive; decide : ∀ o ∈ dealCounters, o < 0x1000 ∧ outsideActive o) off h
  exact ⟨SameView.bump _ _ _ _ hoff.2, rfl, fun pg o hlt hn => Dev.regN_bump_other _ _ (regKey_off_ne hlt hoff.1 (fun heq => hn (heq ▸ h)))⟩

theorem Dev.DealsFrom.modArray (d : Dev) (a : Nat) (f : ArrayState → ArrayState) : (d.modArray a f).DealsFrom d :=
  ⟨(d.modArray_effect a f).1, rfl, fun _ _ _ _ => rfl⟩

theorem Dev.DealsFrom.engines (d : Dev) (l : List EngineState) : ({ d with engines := l } : Dev).DealsFrom d :=
  ⟨⟨rfl, rfl, rfl, rfl, fun _ => rfl, fun _ => rfl, fun _ => rfl⟩, rfl, fun _ _ _ _ => rfl⟩

theorem Dev.DealsFrom.loadProgram (d : Dev) (c : Cmd) (e : Engine) : (d.loadProgram c e).DealsFrom d := by
  cases e with
  | arr a => exact .refl d
  | vec n =>
    unfold Dev.loadProgram
    dsimp only
    split
    · exact .refl d
    · split
      · exact .refl d
      · exact (Dev.DealsFrom.bump _ _ _ (by decide)).trans (.engines d _)

/-- R275: the copy of a tile dealt to a unit now, whose lease is MULT times the plan entry's TILE_CYCLES. -/
def Dev.dealtCopy (d : Dev) (c : Cmd) (e : Engine) (id : TileId) : Copy :=
  { tile := id, unit := e, dealt := d.now,
    lease := d.now + bits ((d.viewOf c).active (pgHAL e.die) 0x040) 0 4 * (if c.entry.tileCycles = 0 then 32768 else c.entry.tileCycles) }

/-- A tile dealt adds its copy to those of its command. -/
theorem Dev.deal_effect (d : Dev) (c : Cmd) (e : Engine) (k : Taken) :
    ∃ x : Cmd, x.uid = c.uid ∧ x.raw = c.raw ∧ x.work.copies = k.2.1.copies ++ [d.dealtCopy c e k.1] ∧ (d.deal c e k).DealsFrom (d.setCmd x) := by
  unfold Dev.deal
  extract_lets id t tc lease w seg taken w' d1 d2
  have hunit : d2.DealsFrom (d.setCmd { c with work := w', dealtLast := w'.allDealt }) := (Dev.DealsFrom.loadProgram d1 c e).trans (.bump _ _ _ (by decide))
  refine ⟨{ c with work := w', dealtLast := w'.allDealt }, rfl, rfl, rfl, Dev.DealsFrom.trans ?_ hunit⟩
  cases e with
  | vec n => exact .refl d2
  | arr a =>
    have harray : ((d2.modArray a (fun x => x.dealt d2.now)).bump (pgHAL (Engine.arr a).die) 0x804 1).DealsFrom d2 :=
      (Dev.DealsFrom.bump _ _ _ (by decide)).trans (.modArray d2 a _)
    dsimp only
    split
    · exact harray
    · exact (Dev.DealsFrom.bump _ _ _ (by decide)).trans ((Dev.DealsFrom.bump _ _ _ (by decide)).trans harray)

/-! ### What a unit takes (R272) -/

/-- Taking a tile of a command leaves the copies of its tiles. -/
theorem Dev.takeFrom_copies {d : Dev} {c : Cmd} {e : Engine} {counters : Bool} {k : Taken} (h : d.takeFrom c e counters = some k) :
    k.2.1.copies = c.work.copies := by
  unfold Dev.takeFrom at h
  extract_lets t w die ok takeEn coreOut due reissueOf fromRun others own left best at h
  have hreissue : ∀ v k, reissueOf v = some k → k.2.1.copies = w.copies := by
    intro v k hk
    obtain ⟨y, -, hy⟩ := Option.bind_eq_some_iff.mp hk
    obtain ⟨id, -, rfl⟩ := Option.map_eq_some_iff.mp hy
    rfl
  have hrun : ∀ l given k, fromRun l given = some k → k.2.1.copies = w.copies := by
    intro l given k hk
    dsimp only [fromRun] at hk
    split at hk
    · exact nomatch hk
    · split at hk
      · cases hk; rfl
      · exact nomatch hk
  clear_value due
  -- a tile that is due on the unit's core
  split at h
  · cases h; rfl
  -- the unit's run
  split at h
  · split at h
    · cases h; rfl
    · exact nomatch h
  -- the reissue list of the unit's die, then the die's counters
  split at h
  next hown => cases h; exact hreissue _ _ hown
  have hcounters : ∀ k, own = some k → k.2.1.copies = w.copies := by
    intro k hk
    obtain ⟨y, -, hy⟩ := Option.bind_eq_some_iff.mp hk
    split at hy
    · exact hrun _ _ _ hy
    · exact nomatch hy
  clear_value own
  split at h
  · cases h; exact hcounters _ rfl
  -- the other dies: their reissue lists, then the counters of the one with most left
  split at h
  · exact nomatch h
  split at h
  next hother =>
    cases h
    obtain ⟨v, -, hv⟩ := List.exists_of_findSome?_eq_some hother
    exact hreissue _ _ hv
  split at h
  · exact nomatch h
  obtain ⟨y, -, hy⟩ := Option.bind_eq_some_iff.mp h
  exact hrun _ _ _ hy

/-! ### TAKE_WORK (R272) -/

/-- R272: the first command of a partition that has a tile for a unit, with what the unit takes of it. -/
def Dev.offer (d : Dev) (p : Nat) (e : Engine) : Option (Cmd × Taken) :=
  (d.dealingTo p e).findSome? (fun c =>
    (d.takeFrom c e (!(e.isArr && (d.dealingTo p e).any (fun x => decide (x.uid > c.uid) && x.begun)))).map (fun k => (c, k)))

section
variable {d : Dev} {e : Engine} {p : Nat} (hp : d.unitPart e = some p) (hw : d.mayWork e = true) (hroom : (d.holding e).length < (if e.isArr then 2 else 1))
include hp hw hroom

/-- A unit with room is dealt what it is offered. -/
theorem Dev.takeWork_withRoom : d.takeWork e = (d.offer p e).elim d (fun q => d.deal q.1 e q.2) := by
  have hfree : ¬ (!d.mayWork e || decide ((d.holding e).length ≥ (if e.isArr then 2 else 1))) = true := by
    simp only [hw, Bool.not_true, Bool.false_or, decide_eq_true_eq]
    omega
  unfold Dev.takeWork
  rw [hp]
  dsimp only
  rw [if_neg hfree]
  unfold Dev.offer
  split
  next hfound => rw [hfound]; rfl
  next hfound => rw [hfound]; rfl

/-- A unit with one command to take from takes what the command has for it. -/
theorem Dev.takeWork_one {c : Cmd} {k : Taken} (hd : d.dealingTo p e = [c]) (ht : d.takeFrom c e true = some k) : d.takeWork e = d.deal c e k := by
  have hnewest : (e.isArr && [c].any (fun x => decide (x.uid > c.uid) && x.begun)) = false := by simp
  have hoffer : d.offer p e = some (c, k) := by
    unfold Dev.offer
    rw [hd, List.findSome?_cons, hnewest, Bool.not_false, ht]
    rfl
  rw [Dev.takeWork_withRoom hp hw hroom, hoffer]
  rfl

/-- Without a command to take from nothing changes. -/
theorem Dev.takeWork_none (hd : d.dealingTo p e = []) : d.takeWork e = d := by
  have hoffer : d.offer p e = none := by
    unfold Dev.offer
    rw [hd]
    rfl
  rw [Dev.takeWork_withRoom hp hw hroom, hoffer]
  rfl

end

/-- TAKE_WORK deals a tile of a command that the unit may take from, or does nothing. -/
theorem Dev.takeWork_cases (d : Dev) (e : Engine) :
    d.takeWork e = d ∨ ∃ c k counters, c ∈ d.cmds ∧ d.takeFrom c e counters = some k ∧ d.takeWork e = d.deal c e k := by
  cases hp : d.unitPart e with
  | none => left; unfold Dev.takeWork; rw [hp]
  | some p =>
    by_cases hfree : d.mayWork e = true ∧ (d.holding e).length < (if e.isArr then 2 else 1)
    · obtain ⟨hw, hroom⟩ := hfree
      rw [Dev.takeWork_withRoom hp hw hroom]
      cases hoffer : d.offer p e with
      | none => exact .inl rfl
      | some q =>
        obtain ⟨c, hc, hk⟩ := List.exists_of_findSome?_eq_some hoffer
        obtain ⟨k, htake, rfl⟩ := Option.map_eq_some_iff.mp hk
        exact .inr ⟨c, k, _, (List.mem_filter.mp hc).1, htake, rfl⟩
    · left
      unfold Dev.takeWork
      rw [hp]
      refine if_pos ?_
      rw [Bool.or_eq_true, Bool.not_eq_true', decide_eq_true_eq]
      by_cases hw : d.mayWork e = true
      · exact .inr (Nat.not_lt.mp fun hlt => hfree ⟨hw, hlt⟩)
      · exact .inl (Bool.eq_false_iff.mpr hw)

/-- Settles O40: the one command deals, and dealing adds the copy; without a command TAKE_WORK does nothing. -/
theorem unitsTakeWork : Obligations.UnitsTakeWork := by
  unfold Obligations.UnitsTakeWork
  intro s e p hr he hp hw hroom
  have hexec : exec (.takeWork e) s = .next { s with dev := s.dev.takeWork e } := onUnit_running s (fun d => d.takeWork e) hr he
  refine ⟨fun c k hd hc ht => ?one, fun hd => ?none⟩
  case one =>
    obtain ⟨x, hxu, hraw, hcopies, hdeal⟩ := s.dev.deal_effect c e k
    rw [Dev.takeWork_one hp hw hroom hd ht] at hexec
    refine ⟨_, x, s.dev.dealtCopy c e k.1, hexec, ?_, hraw, by simp [hcopies], rfl, rfl, rfl, rfl, rfl, fun v hv => ?_, (hdeal.view.trans (.setCmd _ x)).same⟩
    · exact (Dev.cmd?_congr hdeal.cmds _).trans (s.dev.cmd_setCmd_at _ c x hc hxu)
    · exact (Dev.cmd?_congr hdeal.cmds v).trans (s.dev.setCmd_other x (hxu ▸ hv))
  case none => rw [hexec, Dev.takeWork_none hp hw hroom hd]

/-! ### A tile put back (R276) -/

/-- Whether a command's tiles come in groups depends on its descriptor alone. -/
theorem Dev.opSpace_splits (d e : Dev) (c : Cmd) (w : Work) : (e.opSpace { c with work := w }).splits = (d.opSpace c).splits := by
  have hop : ({ c with work := w } : Cmd).opcode = c.opcode := rfl
  unfold Dev.opSpace
  rw [hop]
  split <;> rfl

/-- The die of a tile that is not of a second stage depends on the ranges of its command's dies. -/
theorem Dev.tileDie_congr (d e : Dev) {c k : Cmd} {t v : TileSpace} {id : TileId} (hid : id.sub ≠ secondSub) (hs : v.splits = t.splits)
    (hdies : k.work.dies = c.work.dies) : e.tileDie k v id = d.tileDie c t id := by
  unfold Dev.tileDie
  rw [if_neg hid, if_neg hid, hs, hdies]

/-- A first tile of a command without groups that nothing else holds goes on its die's reissue list. -/
theorem Dev.reopen_reissues {d : Dev} {c : Cmd} {id : TileId} {z : DieWork} (hcleat : c.work.cleatOf id = none) (hcopies : ∀ y ∈ c.work.copies, y.tile ≠ id)
    (hdue : ∀ y ∈ c.work.due, y.1 ≠ id) (hid : id.sub = 0) (hs : (d.opSpace c).splits = 0) (hz : z ∈ c.work.dies)
    (hdie : z.die = d.tileDie c (d.opSpace c) id) : ∃ y ∈ (d.reopen c id).work.dies, id ∈ y.reissue := by
  have hheld : ((c.work.cleatOf id).isSome || c.work.copies.any (fun x => x.tile == id) || c.work.due.any (fun x => x.1 == id)) = false := by
    simpa [hcleat] using ⟨hcopies, fun a n hn => hdue _ hn⟩
  unfold Dev.reopen
  extract_lets w t core die put
  rw [if_neg (by simp [w, hheld]), if_neg (by simp [t, hs]), if_neg (by simp [hid])]
  refine ⟨put z, List.mem_map_of_mem hz, ?_⟩
  dsimp only [put]
  split
  · simp
  next hkept => simpa [die, hdie, t] using hkept

/-! ### LEASE_SCAN (R275) -/

/-- A copy with an expired lease is one whose tile's record is OPEN. -/
theorem Cmd.cleatOf_expired {c : Cmd} {now die : Nat} {x : Copy} (h : x ∈ c.expired now die) : c.work.cleatOf x.tile = none := by
  obtain ⟨-, hx⟩ := List.mem_filter.mp h
  simp only [Bool.and_eq_true, Option.isNone_iff_eq_none] at hx
  obtain ⟨⟨-, hopen⟩, -⟩ := hx
  exact hopen

/-- Without an expired lease the scan moves the clock alone. -/
theorem Dev.leaseScan_none {d : Dev} {die : Nat} (h : ∀ c ∈ d.cmds, c.expired (roundUp d.now 1024) die = []) :
    d.leaseScan die = { d with now := roundUp d.now 1024 } := by
  have hfold : ∀ (l : List Cmd) (e : Dev), (∀ c ∈ l, c.expired e.now die = []) →
      l.foldl (fun d c => (c.expired d.now die).foldl (fun d x => d.expire c.uid x) d) e = e := by
    intro l
    induction l with
    | nil => intro e _; rfl
    | cons c l ih =>
      intro e he
      rw [List.foldl_cons, he c List.mem_cons_self]
      exact ih e (fun x hx => he x (List.mem_cons_of_mem c hx))
  exact hfold d.cmds { d with now := roundUp d.now 1024 } h

/-- The scan of one command with one expired lease. -/
theorem Dev.leaseScan_one {d : Dev} {die : Nat} {c : Cmd} {x : Copy} (hc : d.cmds = [c]) (hx : c.expired (roundUp d.now 1024) die = [x]) :
    d.leaseScan die = ({ d with now := roundUp d.now 1024 } : Dev).expire c.uid x := by
  unfold Dev.leaseScan
  dsimp only
  rw [hc, List.foldl_cons, hx]
  rfl

/-- The device as an expired lease is counted. -/
def Dev.leaseCounted (d : Dev) (die : Nat) : Dev := (d.bump (pgHAL die) 0x814 1).raise (pgHAL die) 0

theorem Dev.leaseCounted_effect (d : Dev) (die : Nat) : (d.leaseCounted die).cmds = d.cmds ∧ (d.leaseCounted die).now = d.now ∧ SameView (d.leaseCounted die) d :=
  ⟨Dev.raise_cmds_eq _ _ _, Dev.raise_now _ _ _, (SameView.raise _ _ _).trans (.bump _ _ _ _ (by unfold outsideActive; decide))⟩

/-- A command without the copies of a tile. -/
def Cmd.withoutCopies (c : Cmd) (id : TileId) : Cmd := { c with work := { c.work with copies := c.work.copies.filter (fun y => !(y.tile == id)) } }

/-- A command with the given copies of its tiles. -/
def Cmd.withCopies (c : Cmd) (l : List Copy) : Cmd := { c with work := { c.work with copies := l } }

section
variable {d : Dev} {c : Cmd} {x : Copy} {z : DieWork} (hc : d.cmd? c.uid = some c) (hid : x.tile.sub = 0) (hs : (d.opSpace c).splits = 0)
  (hdue : ∀ y ∈ c.work.due, y.1 ≠ x.tile)
include hc hid hs hdue

/-- The expired lease of a first tile that is on no list: the tile goes back as if its copies were gone, and they stay. -/
theorem Dev.expire_eq (hlist : ∀ y ∈ c.work.dies, x.tile ∉ y.reissue) :
    d.expire c.uid x = ((d.leaseCounted x.unit.die).bump (pgHAL x.unit.die) 0x818 1).setCmd
      (((d.leaseCounted x.unit.die).reopen (c.withoutCopies x.tile) x.tile).withCopies c.work.copies) := by
  have hqueued : (c.work.due.any (fun y => y.1 == x.tile) || c.work.dies.any (fun y => y.reissue.contains x.tile)) = false := by
    simpa using ⟨fun a n hn => hdue _ hn, hlist⟩
  have hlisted : (!((decide ((d.opSpace c).splits > 0) && x.tile.sub == (d.opSpace c).splits) ||
      ((d.opSpace c).splits == 0 && x.tile.sub != secondSub && x.tile.sub != 0))) = true := by simp [hs, hid]
  unfold Dev.expire
  rw [hc]
  dsimp only
  rw [hqueued, hlisted]
  rfl

/-- R275: the expired lease puts the tile on a reissue list, and the copy stays. -/
theorem Dev.expire_reissues (hcleat : c.work.cleatOf x.tile = none) (hlist : ∀ y ∈ c.work.dies, x.tile ∉ y.reissue) (hz : z ∈ c.work.dies)
    (hdie : z.die = d.tileDie c (d.opSpace c) x.tile) :
    ∃ k, (d.expire c.uid x).cmd? c.uid = some k ∧ (∃ y ∈ k.work.dies, x.tile ∈ y.reissue) ∧ k.work.copies = c.work.copies ∧
      (d.expire c.uid x).now = d.now ∧ (d.expire c.uid x).SameMemory d := by
  obtain ⟨hcmds, hnow, hview⟩ := d.leaseCounted_effect x.unit.die
  have hsplits : ((d.leaseCounted x.unit.die).opSpace (c.withoutCopies x.tile)).splits = (d.opSpace c).splits := Dev.opSpace_splits ..
  have hdie' : z.die = (d.leaseCounted x.unit.die).tileDie (c.withoutCopies x.tile) ((d.leaseCounted x.unit.die).opSpace (c.withoutCopies x.tile)) x.tile :=
    hdie.trans (Dev.tileDie_congr _ _ (by rw [hid]; decide) hsplits rfl).symm
  have hgone : ∀ y ∈ (c.withoutCopies x.tile).work.copies, y.tile ≠ x.tile := fun y hy => by simpa using (List.mem_filter.mp hy).2
  have hreissued := Dev.reopen_reissues (d := d.leaseCounted x.unit.die) (c := c.withoutCopies x.tile) hcleat hgone hdue hid (hsplits.trans hs) hz hdie'
  have huid := ((d.leaseCounted x.unit.die).reopen_keeps (c.withoutCopies x.tile) x.tile).1
  rw [Dev.expire_eq hc hid hs hdue hlist]
  refine ⟨_, Dev.cmd_setCmd_at _ _ c _ ?_ huid, hreissued, rfl, hnow, ?_⟩
  · exact (Dev.cmd?_congr hcmds _).trans hc
  · exact ((SameView.setCmd _ _).trans ((SameView.bump _ _ _ _ (by unfold outsideActive; decide)).trans hview)).same

end

/-! ### GROUP_TILE_ABANDON (R268) -/

/-- A command that has given up a copy's tile: the copy is gone and the tile's record is OPEN. -/
def Cmd.givesUp (c : Cmd) (x : Copy) : Cmd :=
  { c with work := { c.work with copies := c.work.copies.filter (· != x), cleat := c.work.cleat.filter (fun y => y.1 != x.tile) } }

/-- The device once a command has given up a copy's tile and the copy's unit has taken work. -/
def Dev.givenUp (d : Dev) (c : Cmd) (x : Copy) : Dev := (d.setCmd (c.givesUp x)).takeWork x.unit

/-- Without commands nothing waits. -/
theorem Dev.groupAbandon_none {d : Dev} (p : Nat) (h : d.cmds = []) : d.groupAbandon p = d := by
  unfold Dev.groupAbandon
  simp [h]

/-- The tile of the one array that may take work, stuck, is given up, its array takes work, and the tile goes back. -/
theorem Dev.groupAbandon_one {d : Dev} {p u : Nat} {e : Engine} {c k : Cmd} {x : Copy} (he : ((d.arraysOf p).map Engine.arr).filter d.mayWork = [e])
    (hstuck : d.stuckGroup e = some (u, x)) (hc : d.cmd? u = some c) (hw : ∃ y ∈ d.cmds, y.part = p ∧ y.live = true ∧ ∃ z ∈ y.work.dies, z.reissue ≠ [])
    (hk : (d.givenUp c x).cmd? u = some k) :
    d.groupAbandon p = (((d.givenUp c x).setCmd ((d.givenUp c x).reopen k x.tile)).bump (pgHAL x.unit.die) 0x820 1).raise (pgHAL x.unit.die) 2 := by
  have hwaiting : d.cmds.any (fun c => c.part == p && c.live && c.work.dies.any (fun x => !x.reissue.isEmpty)) = true := by
    simpa [and_assoc] using hw
  unfold Dev.groupAbandon
  dsimp only
  rw [he, hwaiting]
  simp only [List.map_cons, List.map_nil, hstuck]
  rw [if_neg (by simp)]
  simp only [List.filterMap_cons, List.filterMap_nil, id_eq, List.foldl_cons, List.foldl_nil]
  rw [hc]
  dsimp only
  unfold Dev.givenUp Cmd.givesUp at hk
  rw [hk]
  rfl

/-- A replaced command is the only one of its identity. -/
theorem Dev.eq_of_mem_setCmd {d : Dev} {c y : Cmd} (hy : y ∈ (d.setCmd c).cmds) (hu : y.uid = c.uid) : y = c := by
  obtain ⟨z, -, rfl⟩ := List.mem_map.mp hy
  split at hu
  next hz => exact if_pos hz
  next hz => exact absurd hu hz

/-- R268: a claimed copy that was given up is not taken again, and giving it up counts nothing but what dealing counts. -/
theorem Dev.givenUp_effect {d : Dev} {u : Nat} {c : Cmd} {x : Copy} (hc : d.cmd? u = some c) (hx : x.claimed = true) :
    (∃ k, (d.givenUp c x).cmd? u = some k ∧ x ∉ k.work.copies) ∧ (d.givenUp c x).SameMemory d ∧
      (d.givenUp c x).regN (pgHAL x.unit.die) 0x820 = d.regN (pgHAL x.unit.die) 0x820 := by
  have hu : c.uid = u := Dev.cmd?_uid hc
  have hgiven : (d.setCmd (c.givesUp x)).cmd? u = some (c.givesUp x) := d.cmd_setCmd_at u c _ hc hu
  have hgone : x ∉ (c.givesUp x).work.copies := by simp [Cmd.givesUp]
  have hmem : (d.setCmd (c.givesUp x)).SameMemory d := (SameView.setCmd d _).same
  unfold Dev.givenUp
  obtain hidle | ⟨y, k, counters, hy, htake, hdeal⟩ := (d.setCmd (c.givesUp x)).takeWork_cases x.unit
  · rw [hidle]
    exact ⟨⟨_, hgiven, hgone⟩, hmem, rfl⟩
  · obtain ⟨z, hzu, -, hcopies, hkept⟩ := (d.setCmd (c.givesUp x)).deal_effect y x.unit k
    rw [hdeal]
    refine ⟨?_, Dev.SameMemory.trans (hkept.view.trans (.setCmd _ z)).same hmem, hkept.reg _ _ (by decide) (by decide)⟩
    rw [Dev.cmd?_congr hkept.cmds]
    by_cases hyu : y.uid = u
    · have hyc : y = c.givesUp x := Dev.eq_of_mem_setCmd hy (hyu.trans hu.symm)
      refine ⟨z, Dev.cmd_setCmd_at _ u _ z hgiven (hzu.trans hyu), ?_⟩
      have hnew : x ≠ (d.setCmd (c.givesUp x)).dealtCopy y x.unit k.1 := fun heq => Bool.false_ne_true ((congrArg Copy.claimed heq).symm.trans hx)
      have hleft : k.2.1.copies = (c.givesUp x).work.copies := hyc ▸ Dev.takeFrom_copies htake
      rw [hcopies, hleft, List.mem_append, List.mem_singleton]
      exact not_or.mpr ⟨hgone, hnew⟩
    · exact ⟨_, (Dev.setCmd_other _ z (fun h => hyu (hzu ▸ h.symm))).trans hgiven, hgone⟩

/-- Settles O42: the scan goes over the commands' expired leases, and a stuck tile is given up before its array takes work. -/
theorem leasesAndGroups : Obligations.LeasesAndGroups := by
  unfold Obligations.LeasesAndGroups
  refine ⟨fun s die hr hd => ?leases, fun s p hr hp => ?groups⟩
  case leases =>
    have hexec : exec (.leaseScan die) s = .next { s with dev := s.dev.leaseScan die } :=
      onUnit_running s (fun d => d.leaseScan die) hr (decide_eq_true hd)
    refine ⟨fun hnone => ?_, fun c x hc hx hid hs hdue hlist hdie => ?_⟩
    · rw [hexec, Dev.leaseScan_none hnone]
    · obtain ⟨z, hz, hzdie⟩ := hdie
      have hcleat : c.work.cleatOf x.tile = none := Cmd.cleatOf_expired (hx ▸ List.mem_singleton_self x)
      have hfound : ({ s.dev with now := roundUp s.dev.now 1024 } : Dev).cmd? c.uid = some c := by
        unfold Dev.cmd?
        simp [hc]
      have hsplits : (({ s.dev with now := roundUp s.dev.now 1024 } : Dev).opSpace c).splits = (s.dev.opSpace c).splits := Dev.opSpace_splits _ _ c c.work
      obtain ⟨k, hk, ⟨y, hy, hxy⟩, hcopies, hnow, hmem⟩ := Dev.expire_reissues hfound hid (hsplits.trans hs) hdue hcleat hlist hz
        (hzdie.trans (Dev.tileDie_congr _ _ (by rw [hid]; decide) hsplits rfl).symm)
      rw [Dev.leaseScan_one hc hx] at hexec
      exact ⟨_, k, y, hexec, hk, hy, hxy, hcopies, hnow, hmem⟩
  case groups =>
    have hexec : exec (.groupTileAbandon p) s = .next { s with dev := s.dev.groupAbandon p } :=
      onUnit_running s (fun d => d.groupAbandon p) hr (decide_eq_true hp)
    refine ⟨fun e u c x he hstuck hc hx hw => ?_, fun hnone => ?_⟩
    · obtain ⟨⟨k, hk, hgone⟩, hmem, hcount⟩ := Dev.givenUp_effect hc hx
      obtain ⟨huid, -, hcopies, -⟩ := (s.dev.givenUp c x).reopen_keeps k x.tile
      rw [Dev.groupAbandon_one he hstuck hc hw hk] at hexec
      refine ⟨_, (s.dev.givenUp c x).reopen k x.tile, hexec, ?_, hcopies ▸ hgone, ?_, ?_⟩
      · rw [Dev.cmd?_bump_raise]
        exact Dev.cmd_setCmd_at _ u k _ hk (huid.trans (Dev.cmd?_uid hk))
      · rw [Dev.regN_raise_other _ _ (regKey_same_page_ne (by decide)), Dev.regN_bump_same, ← hcount]
        rfl
      · exact Dev.SameMemory.trans ((RegsSent.bump _ _ _ _).trans (.raise _ _ _)).same.1 hmem
    · rw [hexec, Dev.groupAbandon_none p hnone]

end Sys2Proof.Machine
end

section
/-! KV pages (R354, R358, R360, R361): APPEND_KV, PAGE_RELEASE and the end of a pool's initialisation, and O38. -/

namespace Sys2Proof.Machine

/-! ### The commits of APPEND_KV and PAGE_RELEASE (R360, R361) -/

/-- R360 to R362: after work on memory and registers alone a command ends OK, and a pinned one gives its pages back. Jobs, streams, arrays and the
clock are as they were. -/
theorem Dev.complete_kvWork {d e : Dev} {u : Nat} {c : Cmd} (flags : NumFlags) (tags : List (Nat × SlotTag)) (hc : d.cmd? u = some c) (hwork : MemRegsSent d e) :
    let t : Dev := { e.complete { c with flags := flags } stOK 0 with tags := tags }
    t.HasEnded u (c.endStatus stOK 0) ∧ (c.pins ≠ [] → t.SameMemory (e.kvRelease c)) ∧
      t.jobs = d.jobs ∧ t.streams = d.streams ∧ t.arrays = d.arrays ∧ t.now = d.now := by
  have hu : c.uid = u := Dev.cmd?_uid hc
  obtain ⟨hcmds, hjobs, hstreams, harrays, hnow⟩ := hwork.cmds
  obtain ⟨hended, hmem⟩ := Dev.complete_ended_kept e (c' := { c with flags := flags }) c tags u stOK 0 hu hu hc hcmds rfl rfl rfl rfl rfl
  obtain ⟨hjobs', hstreams', harrays', hnow'⟩ := e.complete_rest { c with flags := flags } stOK 0
  exact ⟨hended, hmem, hjobs'.trans hjobs, hstreams'.trans hstreams, harrays'.trans harrays, hnow'.trans hnow⟩

/-! ### KVP_INIT_DONE (R354) -/

@[simp] theorem Dev.setKvEntry_parts (d : Dev) (p n : Nat) (x : KvEntry) : (d.setKvEntry p n x).parts = d.parts := d.putBytesIn_parts _ _ _ _

@[simp] theorem Dev.setKvEntry_cmds (d : Dev) (p n : Nat) (x : KvEntry) : (d.setKvEntry p n x).cmds = d.cmds := d.putBytesIn_cmds _ _ _ _

/-- Entries written one after another leave partitions and commands. -/
theorem Dev.setKvEntries_kept (l : List Nat) (d : Dev) (p : Nat) (x : KvEntry) :
    (l.foldl (fun d n => d.setKvEntry p n x) d).parts = d.parts ∧ (l.foldl (fun d n => d.setKvEntry p n x) d).cmds = d.cmds := by
  induction l generalizing d with
  | nil => exact ⟨rfl, rfl⟩
  | cons n l ih =>
    obtain ⟨hparts, hcmds⟩ := ih (d.setKvEntry p n x)
    exact ⟨hparts.trans (d.setKvEntry_parts p n x), hcmds.trans (d.setKvEntry_cmds p n x)⟩

/-- A pool that is not being initialised stays as it is. -/
theorem Dev.kvpInitDone_idle {d : Dev} {p : Nat} (h : d.kvBusy p = false) : d.kvpInitDone p = d := by
  unfold Dev.kvpInitDone
  rw [h]
  rfl

/-- R354: a pool whose initialisation ends is ready and says so; HBM is as its free entries leave it, and partitions and commands are as they were. -/
theorem Dev.kvpInitDone_effect {d : Dev} {p : Nat} (h : d.kvBusy p = true) :
    (d.kvpInitDone p).regN (pgKVP p) 0x800 = 1 ∧ bit ((d.kvpInitDone p).regN (pgKVP p) oIntStat) 2 = true ∧
      (d.kvpInitDone p).hbm = ((List.range (d.kvPool p).pages).foldl (fun d n => d.setKvEntry p n { free := true }) d).hbm ∧
      (d.kvpInitDone p).cmds = d.cmds ∧ (d.kvpInitDone p).parts = d.parts := by
  unfold Dev.kvpInitDone
  rw [if_neg (by simp [h])]
  obtain ⟨hparts, hcmds⟩ := Dev.setKvEntries_kept (List.range (d.kvPool p).pages) d p { free := true }
  refine ⟨?_, Dev.bit_raise _ _ (by decide), by simp, by simp [hcmds], by simp [hparts]⟩
  rw [Dev.regN_raise_other _ _ (regKey_same_page_ne (by decide)), Dev.regN_setReg_same]
  rfl

/-- Settles O38: the two commands that are on hand commit work on the pool alone, and an initialisation ends with its pool's entries free. -/
theorem kvCommandsRun : Obligations.KvCommandsRun := by
  unfold Obligations.KvCommandsRun
  refine ⟨fun s u env c hr => ⟨fun h => ?append, fun h => ?release⟩, fun s p hr hp => ?pool⟩
  case append =>
    obtain ⟨tags, hrun⟩ := onDevice_untiled Dev.akCommit hr h
    exact ⟨_, hrun, Dev.complete_kvWork (s.dev.akStored c).2 tags h.1 (MemRegsSent.stored s.dev c)⟩
  case release =>
    obtain ⟨tags, hrun⟩ := onDevice_untiled Dev.prCommit hr h
    exact ⟨_, hrun, Dev.complete_kvWork c.flags tags h.1 (MemRegsSent.acted s.dev c)⟩
  case pool =>
    have hexec : exec (.kvpInitDone p) s = .next { s with dev := s.dev.kvpInitDone p } :=
      onUnit_running s (fun d => d.kvpInitDone p) hr (decide_eq_true hp)
    refine ⟨fun hbusy => ⟨_, hexec, Dev.kvpInitDone_effect hbusy⟩, fun hidle => ?_⟩
    rw [hexec, Dev.kvpInitDone_idle hidle]

end Sys2Proof.Machine
end

section
/-! Tack, CTX_SAVE and CTX_RESTORE (R387, R390, R399 to R404): O32 and O35. -/

namespace Sys2Proof.Machine

/-! ### A stopped command (R387, R388) -/

/-- A command that is found takes another state. -/
theorem KillFrame.setState {d : Dev} {u : Nat} {c : Cmd} (h : d.cmd? u = some c) (st : CmdState) : KillFrame u c d (d.setCmd { c with state := st }) := by
  have hu : c.uid = u := Dev.cmd?_uid h
  exact ⟨⟨_, _, rfl⟩, SameView.setCmd _ _, fun v hv => Dev.setCmd_other _ _ (hu ▸ hv), ⟨_, Dev.cmd_setCmd_at d u c _ h hu, rfl, fun _ hz => hz⟩,
    fun _ _ _ _ _ => rfl⟩

/-- R387: a command that is stopped loses copies of its tiles and is pre-empted. -/
theorem Dev.stopCmd_effect {d : Dev} {u : Nat} {c : Cmd} (h : d.cmd? u = some c) :
    KillFrame u c d (d.stopCmd u) ∧ ∃ y, (d.stopCmd u).cmd? u = some y ∧ y.state = .preempted := by
  unfold Dev.stopCmd
  rw [h]
  dsimp only
  generalize c.work.copies.filter _ = killed
  have hkills : KillFrame u c d (killed.foldl (fun d x => d.killCopy u x false) d) := Dev.killCopies_frame u killed false d c h
  obtain ⟨y, hy, -⟩ := hkills.own
  have hu : y.uid = u := Dev.cmd?_uid hy
  rw [hy]
  exact ⟨hkills.trans (.setState hy .preempted) hy, _, Dev.cmd_setCmd_at _ u y _ hy hu, rfl⟩

/-! ### A Tack (R387, R390) -/

/-- The Tack of a partition whose commands stand stopped: it is counted and raised, and the saves of the partition's cores begin. -/
def Dev.tackBegun (d : Dev) (p : Nat) : Dev :=
  let e := (d.bump (pgPART p) 0x844 1).raise (pgPART p) 8
  e.modPart p (fun x => { x with window := { x.window with tacks := x.window.tacks + 1 }, tackAt := some e.now, saveCores := e.coresOf p })

/-- A Tack stops its commands, then begins the saves. -/
theorem Dev.tackNow_eq (d : Dev) (p : Nat) (l : List Cmd) : d.tackNow p l = (l.foldl (fun d c => d.stopCmd c.uid) d).tackBegun p := rfl

/-- The beginning of the saves leaves the commands and the memories. -/
theorem Dev.tackBegun_frame (d : Dev) (p : Nat) : (∀ v, (d.tackBegun p).cmd? v = d.cmd? v) ∧ (d.tackBegun p).SameMemory d :=
  ⟨d.cmd?_bump_raise _ _ _ _, ((RegsSent.bump d _ _ _).trans (.raise _ _ _)).same.1⟩

/-- TACKS counts the Tack. -/
theorem Dev.regN_tackBegun (d : Dev) (p : Nat) : (d.tackBegun p).regN (pgPART p) 0x844 = min (d.regN (pgPART p) 0x844 + 1) (2 ^ 32 - 1) :=
  (Dev.regN_raise_other _ _ (regKey_same_page_ne (by decide))).trans (Dev.regN_bump_same _ _ _ _)

/-- R390: the save of every core of the partition is begun at the Tack. -/
theorem Dev.part_tackBegun {d : Dev} {p : Nat} (hp : p < d.parts.length) :
    ((d.tackBegun p).part p).saveCores = d.coresOf p ∧ ((d.tackBegun p).part p).tackAt = some d.now := by
  have hview : SameView ((d.bump (pgPART p) 0x844 1).raise (pgPART p) 8) d :=
    (SameView.raise _ _ _).trans (.bump _ _ _ _ (by unfold outsideActive; decide))
  unfold Dev.tackBegun
  extract_lets e
  rw [Dev.part_modPart_same e p _ (by simpa [e] using hp)]
  exact ⟨hview.cores p, congrArg some (Dev.raise_now _ _ _)⟩

/-- R387: a session command that is eligible sets off a Tack of what holds the partition's units. -/
theorem Dev.tack_session {d : Dev} {p : Nat} {x : Cmd} (hx : x ∈ d.cmds) (hpart : x.part = p) (hclass : x.throughput = false) (he : d.eligible x = true)
    (hstop : d.stoppable p ≠ []) : d.tack p = d.tackNow p (d.stoppable p) := by
  have hsession : d.cmds.any (fun c => c.part == p && !c.throughput && d.eligible c) = true :=
    List.any_eq_true.mpr ⟨x, hx, by simp [hpart, hclass, he]⟩
  unfold Dev.tack
  exact if_pos (by simp [hsession, hstop])

/-- Settles O32: the Tack stops the one command, and then begins the saves of a device that differs in that command and in counters of arrays alone. -/
theorem tackPreempts : Obligations.TackPreempts := by
  unfold Obligations.TackPreempts
  intro s p c x hr hp64 hp hx hpart hclass he hstop hc
  have htack : s.dev.tack p = (s.dev.stopCmd c.uid).tackBegun p := by
    rw [Dev.tack_session hx hpart hclass he (by simp [hstop]), hstop, Dev.tackNow_eq]
    rfl
  obtain ⟨⟨⟨cs, rg, hform⟩, hview, hother, ⟨y, hy, hraw, hcopies⟩, hregs⟩, z, hz, hstate⟩ := Dev.stopCmd_effect hc
  obtain rfl : y = z := Option.some.inj (hy.symm.trans hz)
  obtain ⟨hcmds, hmem⟩ := (s.dev.stopCmd c.uid).tackBegun_frame p
  obtain ⟨hcores, hat⟩ := Dev.part_tackBegun (d := s.dev.stopCmd c.uid) (p := p) (by rw [hform]; exact hp)
  have hnow : (s.dev.stopCmd c.uid).now = s.dev.now := by rw [hform]
  have hcount : (s.dev.stopCmd c.uid).regN (pgPART p) 0x844 = s.dev.regN (pgPART p) 0x844 :=
    congrArg BitVec.toNat (hregs _ _ (by decide) (by decide) (by decide))
  refine ⟨_, y, onUnit_running s (fun d => d.tack p) hr (decide_eq_true hp64), ?_⟩
  rw [htack]
  exact ⟨(hcmds _).trans hy, hstate, hraw, hcopies, fun v hv => (hcmds v).trans (hother v hv), hcores.trans (hview.cores p),
    hat.trans (congrArg some hnow), (Dev.regN_tackBegun _ p).trans (by rw [hcount]), Dev.SameMemory.trans hmem hview.same⟩

/-! ### CTX_SAVE and CTX_RESTORE (R399 to R404) -/

/-- An image that goes to HBM changes no command and no other memory. -/
theorem Dev.putCtx_frame (d : Dev) (p : Nat) {a : Nat} (bs : Bytes) (h : isHost a = false) :
    (d.putCtx p a bs).cmds = d.cmds ∧ (d.putCtx p a bs).host = d.host ∧ (d.putCtx p a bs).spd = d.spd := by
  unfold Dev.putCtx
  rw [if_neg (by simp [h])]
  exact ⟨rfl, rfl, rfl⟩

/-- R399 to R402: a started CTX_SAVE without options whose commands all stand stopped writes their image and ends with its size. -/
theorem Dev.ctxSave_stopped {d : Dev} {u : Nat} {c : Cmd} (env : Env) (hc : d.cmd? u = some c) (hlive : c.live = true) (hstarted : c.started = true)
    (hop : c.opcode = 0x12) (hopts : c.u8 74 = 0) (hhbm : isHost (c.u48 64) = false)
    (hearly : ∀ x ∈ d.ctxEarlier c, x.savable = true ∧ x.state = .preempted ∧ x.work.copies = [] ∧ d.cmd? x.uid = some x) :
    d.ctxSave u env = (d.putCtx c.part (c.u48 64) (d.ctxImage c.part (d.ctxEarlier c))).complete c stOK
      (ceilDiv (d.ctxImage c.part (d.ctxEarlier c)).length 4096) := by
  simp only [imp_and, forall_and] at hearly
  obtain ⟨hsaved, hstopped, hcopies, hcmd⟩ := hearly
  have hsavable : (d.ctxEarlier c).filter Cmd.savable = d.ctxEarlier c := List.filter_eq_self.mpr hsaved
  have hall : (d.ctxEarlier c).any (fun x => !x.savable) = false := by simpa using hsaved
  have hgoing : (d.ctxEarlier c).filter (fun x => x.started && x.state != .preempted) = [] :=
    List.filter_eq_nil_iff.mpr fun x hx => by simp [hstopped x hx]
  have hfound : (d.ctxEarlier c).filterMap (fun x => d.cmd? x.uid) = d.ctxEarlier c := d.filterMap_cmd_self _ hcmd
  have hfree : (d.ctxEarlier c).any (fun x => !x.work.copies.isEmpty) = false := by simpa using hcopies
  have hbits : bit (c.u8 74) 0 = false ∧ bit (c.u8 74) 1 = false := by rw [hopts]; decide
  unfold Dev.ctxSave
  rw [hc]
  dsimp only
  rw [if_neg (by simp [hop, hlive, hstarted]), hsavable, if_neg (by simp [hall, hbits]), hgoing, List.isEmpty_nil, if_pos rfl, hfound, if_neg (by simp [hfree]),
    if_neg (by simp [hhbm])]
  dsimp only
  rw [if_neg (by simp [hbits])]

/-- Settles O35: the save writes the image and completes, without pages to give back; the restore completes. -/
theorem contextsAreSavedAndRestored : Obligations.ContextsAreSavedAndRestored := by
  unfold Obligations.ContextsAreSavedAndRestored
  intro s u env c hr hc hlive hstarted
  refine ⟨fun hop hopts hhbm hpins hkv hearly => ?save, fun hop => ?restore⟩
  case save =>
    refine ⟨_, onDevice_running s (·.ctxSave u env) hr, ?_⟩
    have hsave : s.dev.ctxSave u env = _ := Dev.ctxSave_stopped env hc hlive hstarted hop hopts hhbm hearly
    obtain ⟨hcmds, hhost, hspd⟩ := s.dev.putCtx_frame c.part (s.dev.ctxImage c.part (s.dev.ctxEarlier c)) hhbm
    obtain ⟨hended, himage, hhost', hspd'⟩ :=
      Dev.complete_kept stOK (ceilDiv (s.dev.ctxImage c.part (s.dev.ctxEarlier c)).length 4096) hc hpins hkv hcmds (.refl c)
    rw [hsave]
    exact ⟨hended, himage, hhost'.trans hhost, hspd'.trans hspd⟩
  case restore =>
    refine ⟨_, onDevice_running s (·.ctxRestore u) hr, ?_⟩
    have hrestore : s.dev.ctxRestore u = s.dev.complete c stOK 0 := by
      unfold Dev.ctxRestore
      rw [hc]
      exact if_pos (by simp [hop, hlive, hstarted])
    rw [hrestore]
    exact Dev.complete_found hc stOK 0

end Sys2Proof.Machine
end

section
/-! What a command can reach (chapter 1, R513, R516, R528, R532, R544, R547): what it answers, which parts of the state it leaves alone, and what every step keeps.
O1 to O8. -/

namespace Sys2Proof.Machine

/-! ### What a step and a command answer -/

/-- Settles O1: a step takes the front command by definition. -/
theorem stepRunsTheFrontCommand : Obligations.StepRunsTheFrontCommand := by
  intro c rest s h
  unfold step
  rw [h]

theorem step_idle {s : State} (h : s.pending = []) : step s = .next s.idle := by
  unfold step
  rw [h]

/-- Settles O2: an idle step is a command of the device proper, which acts while the device runs. -/
theorem stepIdles : Obligations.StepIdles := by
  intro s h
  rw [step_idle h]
  exact ⟨fun hr => congrArg _ (State.onDev_running s _ hr), fun hr => congrArg _ (State.onDev_held s _ hr)⟩

/-- Whether a command answers a next state depends on its operands alone. -/
theorem exec_withUnit (i : Instr) (s : State) : ∃ t, exec i s = withUnit i.wellFormed t := by
  cases i <;> exact ⟨_, rfl⟩

/-- Settles O3: each command answers through `withUnit` at the units it names. -/
theorem wellFormedCommandsAnswer : Obligations.WellFormedCommandsAnswer := by
  intro i s
  obtain ⟨t, ht⟩ := exec_withUnit i s
  exact ⟨fun h => ⟨t, by rw [ht, h]; rfl⟩, fun h => by rw [ht, h]; rfl⟩

/-! ### Commands of the device proper -/

/-- Where an answer is a next state, that state has a property. -/
def Leads (r : Result) (P : State → Prop) : Prop := ∀ t, r = .next t → P t

theorem next_leads {P : State → Prop} {t : State} (h : P t) : Leads (.next t) P := by
  rintro _ ⟨⟩
  exact h

theorem withUnit_leads {P : State → Prop} {t : State} (has : Bool) (h : P t) : Leads (withUnit has t) P := by
  unfold withUnit
  split
  · exact next_leads h
  · intro _ hf
    cases hf

theorem Leads.mono {P Q : State → Prop} {r : Result} (h : Leads r P) (hpq : ∀ t, P t → Q t) : Leads r Q := fun t ht => hpq t (h t ht)

/-- Only the device proper differs. -/
def State.DevOnly (s t : State) : Prop := ∃ d, t = { s with dev := d }

theorem onDevice_devOnly (s : State) (f : Dev → Dev) : Leads (onDevice s f) s.DevOnly := next_leads (s.onDev_form f)

theorem onUnit_devOnly (has : Bool) (s : State) (f : Dev → Dev) : Leads (onUnit has s f) s.DevOnly := withUnit_leads has (s.onDev_form f)

theorem bySource_devOnly (has : Bool) (s : State) (src : Src) {page off : Nat} (v : Word) (h : page ≠ pgMGT ∨ off ≠ 0xC0C) :
    Leads (bySource has s src page off v) s.DevOnly := withUnit_leads has (s.writeReg_dev src page off v h)

/-- No counter-clear register is FW_CTL. -/
theorem clearOffset_ne_fwCtl (page : Nat) : page ≠ pgMGT ∨ (clearOffset page).getD 0 ≠ 0xC0C := by
  cases h : clearOffset page with
  | none => exact .inr (by decide)
  | some off => exact .inl (clearOffset_ne_pgMGT h)

theorem State.ethUp_devOnly (s : State) (e : Nat) : s.DevOnly (s.ethUp e) := by
  unfold State.ethUp
  split <;> exact ⟨_, rfl⟩

theorem State.doeAbort_devOnly (s : State) : s.DevOnly s.doeAbort := by
  unfold State.doeAbort
  split <;> exact ⟨_, rfl⟩

theorem execCommandAdmit_devOnly (p q : Nat) (env : Env) (s : State) : Leads (execCommandAdmit p q env s) s.DevOnly := by
  refine withUnit_leads _ ?_
  split
  · exact s.admitNext_form p q env
  · exact ⟨_, rfl⟩

/-- A command that does not reach beyond the device proper leaves everything else as it is. -/
theorem exec_devOnly {i : Instr} (h : i.reachesBeyond = false) (s : State) : Leads (exec i s) s.DevOnly := by
  cases i with
  | matmul | conv | attend | vprog | convert | copy | fillRandom | sample | appendKv | pageRelease | collective | mediaDecode | mediaEncode | ingest
  | fence | tickWait | ctxSave | ctxRestore | commandStart | overrun | hotReset | ideFailure | pliTimer | rtcpReportTimer
  | tickSourceLost | tickLocked | tickInEdge | ppsInEdge => exact onDevice_devOnly _ _
  | tack | tackSave | commandResume | completionWrite | takeWork | hoistRaise | hoistRaiseEnd | hoistLower | hoistLowerEnd | tileCommit | leaseScan
  | groupTileAbandon | scratchpadEccError | scrubRead | taggedAccess | tagWaitTimeout | bankOpWrite | atomic | stkScore | stkCopy | stkFill | stkGather
  | stkCompact | stkCrc | patrolRead | hbmUncorrectableRead | flushDone | kvpInitDone | d2dRetrain | acctRecordWrite | commandCommitApply
  | commitWaitLimit | zeroingDone | ptpMessage | ethLinkDown | rtpReceive | rtcpReceive | flrBusyClear => exact onUnit_devOnly _ _ _
  | commit | discard | lock | intForce | rigSet | elogRead => exact bySource_devOnly _ _ _ _ (.inr (by decide))
  | sessionOpenDoorbell | sessionClose | resync | queueAbort | queueResume | jobOpenDoorbell | jobClose | streamOpenDoorbell | streamClose | streamRekey
  | mailSqTail | mailRqHead | arrInject | spdEccInject | vecInject | hbmEccInject | redInject | flush | retrain =>
    exact bySource_devOnly _ _ _ _ (.inr (by decide))
  | countClear src page v => exact bySource_devOnly _ _ _ _ (clearOffset_ne_fwCtl page)
  | sqTailDoorbell | cqHeadDoorbell => exact withUnit_leads _ (s.fromSrc_dev _ _)
  | commandAdmit p q env => exact execCommandAdmit_devOnly p q env s
  | mailSend => exact withUnit_leads _ (s.onFabric_form _)
  | mailDeliver | bftDataReceive | bftAckReceive | ackDelayExpiry | rtoExpiry | jobWaitExpiry | flowRateUpdate | mailPacketReceive =>
    exact next_leads (s.onFabric_form _)
  | configSpaceWrite | functionLevelReset => exact withUnit_leads _ (s.forConfig_form _ _)
  | apertureRead | apertureWrite | atomicop => exact withUnit_leads _ (s.forAperture_form _ _)
  | msixUnmask | atsInvalidate => exact withUnit_leads _ (s.forHost_form _ _)
  | ethLinkUp e => exact withUnit_leads _ (s.ethUp_devOnly e)
  | doeAbort => exact next_leads s.doeAbort_devOnly
  | _ => cases h

end Sys2Proof.Machine
end

section
/-! What every step keeps (R513, R516, R528, R532, R544, R547): rollback counters, ready flags, measurement register 7, the watermark and the hold of a device without power. -/

namespace Sys2Proof.Machine

/-! ### Commands that reset nothing -/

/-- What a command that resets nothing and removes no power keeps. -/
structure State.Keeps (s t : State) : Prop where
  pending : t.pending = s.pending
  power : t.power = s.power
  counters : s.countersKept t
  flags : s.flagsKept t
  mr7 : t.sec.mrs[7]? = s.sec.mrs[7]?
  ctrl : s.ctrlFirst → t.ctrlFirst
  water : s.waterOk → t.waterOk

theorem State.Keeps.trans {s t u : State} (h : s.Keeps t) (k : t.Keeps u) : s.Keeps u where
  pending := k.pending.trans h.pending
  power := k.power.trans h.power
  counters c := (h.counters c).trans (k.counters c)
  flags i hi := k.flags i (h.flags i hi)
  mr7 := k.mr7.trans h.mr7
  ctrl hc := k.ctrl (h.ctrl hc)
  water hw := k.water (h.water hw)

/-- Flags, watermark and measurements are parts of bring-up and the security block. -/
theorem State.Keeps.of_boot {s t : State} (hpending : t.pending = s.pending) (hpower : t.power = s.power) (hcounters : s.countersKept t)
    (hmr7 : t.sec.mrs[7]? = s.sec.mrs[7]?) (hflags : t.boot.flags = s.boot.flags) (hwater : t.boot.water = s.boot.water) : s.Keeps t where
  pending := hpending
  power := hpower
  counters := hcounters
  flags i hi := by unfold State.flag at *; rwa [hflags]
  mr7 := hmr7
  ctrl hc i hi := by unfold State.ctrlFirst State.flag at *; rw [hflags] at *; exact hc i hi
  water hw := by unfold State.waterOk at *; rwa [hwater]

theorem State.countersKept_of_eq {s t : State} (h : t.flash.counters = s.flash.counters) : s.countersKept t := fun c => by
  unfold State.counter; rw [h]

theorem State.Keeps.refl (s : State) : s.Keeps s := .of_boot rfl rfl (State.countersKept_of_eq rfl) rfl rfl rfl

theorem State.Keeps.ite {s a b : State} {c : Prop} [Decidable c] (h : s.Keeps a) (k : s.Keeps b) : s.Keeps (if c then a else b) := by
  split <;> assumption

theorem State.DevMgmtSvn.keeps {s t : State} (h : s.DevMgmtSvn t) : s.Keeps t := by
  obtain ⟨d, m, l, rfl, hl⟩ := h
  exact .of_boot rfl rfl hl rfl rfl rfl

theorem State.DevMgmt.keeps {s t : State} (h : s.DevMgmt t) : s.Keeps t := h.svn.keeps

theorem State.DevOnly.keeps {s t : State} (h : s.DevOnly t) : s.Keeps t := by
  obtain ⟨d, rfl⟩ := h
  exact (State.DevMgmt.of s d s.mgmt).keeps

theorem onUnitAlert_devMgmt (has : Bool) (s : State) (f : Dev → Dev) : Leads (onUnitAlert has s f) s.DevMgmt :=
  withUnit_leads has ((s.onDev_devMgmt f).trans (State.refreshAlert_devMgmt _))

/-! ### Measurements (R513) and firmware (R507 to R511) -/

/-- Only an extension of register 7 changes it. -/
theorem Security.extend_mr7 (x : Security) {m : Nat} (digest : Bytes) (h : m ≠ 7) : (x.extend m digest).mrs[7]? = x.mrs[7]? :=
  List.getElem?_set_ne h

theorem State.asksMasthead_form {s : State} {f : State → Nat → State} (src : Src) (i component : Nat) (h : ∀ c, s.DevMgmtSvn (f s c)) :
    s.DevMgmtSvn (s.asksMasthead src i component f) := by
  unfold State.asksMasthead
  dsimp only
  repeat' split
  · exact (State.DevMgmt.refl s).svn
  · exact (State.DevMgmt.of s _ s.mgmt).svn
  · exact h _
  · exact (State.DevMgmt.refl s).svn

/-- A verified image changes the images in flash; the counters stay. -/
theorem State.acceptStaged_counters (s : State) (component : Nat) (raw : Bytes) : (s.acceptStaged component raw).flash.counters = s.flash.counters := by
  unfold State.acceptStaged
  dsimp only
  split <;> rfl

theorem State.stageComplete_keeps (s : State) : s.Keeps s.stageComplete := by
  unfold State.stageComplete
  split
  · exact .refl s
  · refine .ite (.refl s) (.ite ?_ (State.refuseImage_devMgmt s _ _).keeps)
    exact .of_boot rfl rfl (State.countersKept_of_eq (State.acceptStaged_counters _ _ _)) rfl rfl rfl

theorem State.handoverEnd_keeps (s : State) : s.Keeps s.handoverEnd := by
  unfold State.handoverEnd
  split
  · exact .refl s
  · dsimp only
    split
    · exact .refl s
    · refine State.Keeps.trans ?_ (State.refreshAlert_devMgmt _).keeps
      exact .of_boot rfl rfl (State.countersKept_of_eq rfl) (Security.extend_mr7 _ _ (by decide)) rfl rfl

/-! ### Attestation (R486, R488, R515) -/

theorem State.spdm_keeps (s : State) (transport : Nat) (req : Bytes) : s.Keeps (s.spdm transport req).1 := by
  unfold State.spdm
  dsimp only
  split
  · exact .refl s
  · exact .of_boot rfl rfl (State.countersKept_of_eq rfl) rfl rfl rfl

theorem State.spdmRequest_keeps (s : State) (transport : Nat) (req : Bytes) : s.Keeps (s.spdmRequest transport req) := by
  unfold State.spdmRequest
  dsimp only
  repeat' split
  · exact .refl s
  · exact (s.send_devMgmt _).keeps
  · exact (s.spdm_keeps transport req).trans (State.send_devMgmt _ _).keeps

theorem State.doeAnswer_devOnly (s : State) (b : Bytes) : s.DevOnly (s.doeAnswer b) := ⟨_, rfl⟩

theorem State.ideKm_devOnly (s : State) (payload : Bytes) : s.DevOnly (s.ideKm payload) := by
  unfold State.ideKm
  repeat' split
  all_goals exact ⟨_, rfl⟩

theorem State.doeObject_keeps (s : State) (vendor kind length : Nat) (payload : Bytes) : s.Keeps (s.doeObject vendor kind length payload) := by
  unfold State.doeObject
  dsimp only
  repeat' split
  · exact .refl s
  · exact (State.DevMgmt.of s _ s.mgmt).keeps
  · exact .refl s
  · exact (s.doeAnswer_devOnly _).keeps
  · exact (s.spdm_keeps 2 payload).trans (State.doeAnswer_devOnly _ _).keeps
  · exact .refl s
  · exact (s.ideKm_devOnly payload).keeps.trans ((State.spdm_keeps _ 2 payload).trans (State.doeAnswer_devOnly _ _).keeps)
  · exact .refl s
  · exact .refl s

/-! ### Bring-up (R540 to R550) -/

/-- Ready flags and watermark of bring-up. -/
structure Boot.SameReady (b c : Boot) : Prop where
  flags : c.flags = b.flags
  water : c.water = b.water
  refclk : c.refclkEth = b.refclkEth

theorem Boot.SameReady.refl (b : Boot) : b.SameReady b := ⟨rfl, rfl, rfl⟩

theorem Boot.start_sameReady (b : Boot) (us i : Nat) : b.SameReady (b.start us i) := by
  unfold Boot.start
  repeat' split
  all_goals exact ⟨rfl, rfl, rfl⟩

theorem Boot.startAll_sameReady (b : Boot) (us : Nat) : b.SameReady (b.startAll us) := by
  unfold Boot.startAll
  generalize List.range 14 = l
  induction l generalizing b with
  | nil => exact .refl b
  | cons i l ih =>
    have h := b.start_sameReady us i
    have k := ih (b.start us i)
    exact ⟨k.flags.trans h.flags, k.water.trans h.water, k.refclk.trans h.refclk⟩

/-- Each condition of Table 20-2 asks for that of CTRL. -/
theorem Boot.conditions_ctrlFirst (b : Boot) {i : Nat} (h : bit b.conditions i = true) : bit b.conditions 0 = true := by
  unfold Boot.conditions at *
  dsimp only at *
  generalize (b.done 5 && b.done 3) = ctrl at *
  cases ctrl with
  | false => simp [b2n, bit] at h
  | true =>
    unfold bit
    rw [Nat.testBit_zero, decide_eq_true_eq]
    rw [show b2n true = 1 from rfl]
    omega

theorem bit_or (a b i : Nat) : bit (a ||| b) i = (bit a i || bit b i) := Nat.testBit_or a b i

/-- Starting stages and setting flags changes the device proper and bring-up, where flags are only added, CTRL's with any other. -/
theorem State.progress_boot (s : State) : ∃ d b, s.progress = { s with dev := d, boot := b } ∧ b.water = s.boot.water ∧ b.refclkEth = s.boot.refclkEth ∧
    b.flags = s.boot.flags ||| (s.boot.startAll s.dev.micros).conditions := by
  have h := s.boot.startAll_sameReady s.dev.micros
  exact ⟨_, _, rfl, h.water, h.refclk, congrArg (· ||| _) h.flags⟩

theorem State.progress_keeps (s : State) : s.Keeps s.progress := by
  obtain ⟨d, b, hp, hwater, -, hflags⟩ := s.progress_boot
  rw [hp]
  have hflag (i : Nat) : bit b.flags i = (bit s.boot.flags i || bit (s.boot.startAll s.dev.micros).conditions i) := by rw [hflags, bit_or]
  refine ⟨rfl, rfl, State.countersKept_of_eq rfl, fun i hi => ?_, rfl, fun hc i hi => ?_, fun hw => ?_⟩
  · exact (hflag i).trans (by rw [show bit s.boot.flags i = true from hi, Bool.true_or])
  · refine (hflag 0).trans (Bool.or_eq_true_iff.mpr ?_)
    rcases Bool.or_eq_true_iff.mp ((hflag i).symm.trans hi) with h | h
    · exact .inl (hc i h)
    · exact .inr (Boot.conditions_ctrlFirst _ h)
  · unfold State.waterOk at *
    rwa [hwater]

theorem State.closeStage_keeps (s : State) (i result : Nat) : s.Keeps (s.closeStage i result) :=
  .of_boot rfl rfl (State.countersKept_of_eq rfl) rfl rfl rfl

/-- What a stage leaves changes the device proper, Masthead and the security block, whose register 7 no stage extends. -/
theorem State.stageDone_form (s : State) (i detail : Nat) : ∃ d x m, s.stageDone i detail = { s with dev := d, sec := x, mgmt := m } ∧
    x.mrs[7]? = s.sec.mrs[7]? := by
  unfold State.stageDone
  split
  · refine ⟨_, _, _, rfl, ?_⟩
    rw [Security.extend_mr7 _ _ (by decide), Security.extend_mr7 _ _ (by decide)]
  · refine ⟨_, _, _, rfl, ?_⟩
    rw [Security.extend_mr7 _ _ (by decide), Security.extend_mr7 _ _ (by decide), Security.extend_mr7 _ _ (by decide),
      Security.extend_mr7 _ _ (by decide)]
  all_goals exact ⟨_, _, _, rfl, rfl⟩

theorem State.stageDone_keeps (s : State) (i detail : Nat) : s.Keeps (s.stageDone i detail) := by
  obtain ⟨d, x, m, h, hmr7⟩ := s.stageDone_form i detail
  rw [h]
  exact .of_boot rfl rfl (State.countersKept_of_eq rfl) hmr7 rfl rfl

theorem State.stageFailed_keeps (s : State) (i detail : Nat) : s.Keeps (s.stageFailed i detail) :=
  .of_boot rfl rfl (State.countersKept_of_eq rfl) rfl rfl rfl

theorem State.laneFails_keeps (s : State) (lane : Nat) : s.Keeps (s.laneFails lane) :=
  .of_boot rfl rfl (State.countersKept_of_eq rfl) rfl rfl rfl

theorem State.stageEnd_keeps (s : State) (i : Nat) (ok : Bool) (detail : Nat) : s.Keeps (s.stageEnd i ok detail) := by
  unfold State.stageEnd
  refine .ite (.refl s) ?_
  dsimp only
  refine State.Keeps.trans ?_ ((State.progress_keeps _).trans (State.refreshAlert_devMgmt _).keeps)
  refine (s.closeStage_keeps i _).trans (.ite (State.stageDone_keeps _ _ _) (.ite ?_ (.ite (State.laneFails_keeps _ _) (.ite (.refl _) (State.stageFailed_keeps _ _ _)))))
  exact (State.DevMgmt.of _ _ _).keeps

theorem State.hostLinkUp_keeps (s : State) (speed width : Nat) (flit : Bool) : s.Keeps (s.hostLinkUp speed width flit) := by
  unfold State.hostLinkUp
  refine .ite (.refl s) ((State.DevMgmt.of s _ s.mgmt).keeps.trans (.ite ?_ (.refl _)))
  exact (State.closeStage_keeps _ 4 2).trans (State.progress_keeps _)

/-- A chunk is 1,024 blocks, and the last one ends at the full watermark. -/
theorem State.initChunk_keeps (s : State) (errors : List (Nat × Nat × Nat × EccError)) : s.Keeps (s.initChunk errors) := by
  unfold State.initChunk
  split
  · exact .refl s
  · rename_i h
    refine ⟨rfl, rfl, State.countersKept_of_eq rfl, fun _ hi => hi, rfl, fun hc => hc, fun ⟨hm, hle⟩ => ?_⟩
    obtain ⟨-, hlt⟩ : (s.running = true ∧ (s.boot.stage 13).result = 1) ∧ s.boot.water < waterFull := by simpa using h
    unfold waterFull at hlt
    constructor
    · show (s.boot.water + 1024) % 1024 = 0
      omega
    · show s.boot.water + 1024 ≤ 8323072
      omega

theorem State.refclkEth_keeps (s : State) (present : Bool) : s.Keeps (s.refclkEth present) := by
  unfold State.refclkEth
  have h : s.Keeps { s with boot := { s.boot with refclkEth := present } } := .of_boot rfl rfl (State.countersKept_of_eq rfl) rfl rfl rfl
  dsimp only
  refine h.trans (.ite (.refl _) (.ite (State.progress_keeps _) ?_))
  exact (State.DevMgmt.of _ _ _).keeps

/-- Every command but those of a fundamental reset or a loss of power. -/
theorem exec_keeps {i : Instr} (h : i.resets = false) (s : State) : Leads (exec i s) s.Keeps := by
  by_cases hb : i.reachesBeyond = false
  · exact (exec_devOnly hb s).mono fun _ => State.DevOnly.keeps
  have hreach : (i.reachesBeyond && !i.resets) = true := by simp [hb, h]
  cases i with
  | registerWrite => exact withUnit_leads _ (s.registerWrite_form _ _ _ _).keeps
  | tickEdge env => exact next_leads (s.tickEdge_devMgmt env).keeps
  | tileResultOnChip | arrayCheckFail | vectorCheckFail | reducerChunk => exact (onUnitAlert_devMgmt _ s _).mono fun _ => State.DevMgmt.keeps
  | hbmTempReading j celsius => exact withUnit_leads _ (s.stackReading_devMgmt j celsius).keeps
  | stage src component env => exact withUnit_leads _ (State.asksMasthead_form src 0 component fun c => (s.stage_devMgmt c env).svn).keeps
  | activate src component => exact withUnit_leads _ (State.asksMasthead_form src 1 component fun c => (s.activate_devMgmt c).svn).keeps
  | commitSvn src component => exact withUnit_leads _ (State.asksMasthead_form src 2 component s.commitSvn_form).keeps
  | fwStageComplete => exact next_leads s.stageComplete_keeps
  | handoverSlice cycles ok => exact next_leads (s.handoverSlice_devMgmt cycles ok).keeps
  | handoverEnd => exact next_leads s.handoverEnd_keeps
  | monitorSample die x => exact withUnit_leads _ (s.monitorSample_devMgmt die x).keeps
  | reefDecision => exact next_leads s.reefDecision_devMgmt.keeps
  | powerExcess w => exact next_leads (s.powerExcess_devMgmt w).keeps
  | avsAdjust die up => exact withUnit_leads _ (s.avsAdjust_devMgmt die up).keeps
  | watchdogExpiry => exact next_leads s.watchdogExpiry_devMgmt.keeps
  | mastheadRestart => exact next_leads s.mastheadRestart_devMgmt.keeps
  | managementMessage transport m => exact withUnit_leads _ (s.message_form transport m).keeps
  | spdmRequest transport req => exact withUnit_leads _ (s.spdmRequest_keeps transport req)
  | i3cAddressAssign a => exact withUnit_leads _ (s.i3cAssign_devMgmt a).keeps
  | doeObject vendor kind len payload => exact next_leads (s.doeObject_keeps vendor kind len payload)
  | hostLinkUp speed width flit => exact withUnit_leads _ (s.hostLinkUp_keeps speed width flit)
  | bringupStageEnd j ok detail => exact withUnit_leads _ (s.stageEnd_keeps j ok detail)
  | hbmInitChunk errors => exact withUnit_leads _ (s.initChunk_keeps errors)
  | refclkEthChange present => exact next_leads (s.refclkEth_keeps present)
  | _ => cases hreach

/-! ### Resets and losses of power (R533 to R535) -/

/-- What a loss of the volatile state leaves: flash, power, the queue, and of bring-up the presence of REFCLK_ETH. -/
theorem State.lose_form (s : State) : ∃ l, s.lose =
    { s with dev := { s.dev.lost with sent := l }, sec := {}, boot := { refclkEth := s.boot.refclkEth }, mgmt := {} } := by
  unfold State.lose State.releaseAlert
  dsimp only
  split <;> exact ⟨_, rfl⟩

/-- What a command that resets the device or removes its power can do: keep security block and bring-up or lose them, and never leave a device without
power that is not held in reset. -/
structure State.Resets (s t : State) : Prop where
  pending : t.pending = s.pending
  flash : t.flash = s.flash
  ready : (t.sec = s.sec ∧ t.boot.flags = s.boot.flags ∧ t.boot.water = s.boot.water) ∨ (t.sec = {} ∧ t.boot.flags = 0 ∧ t.boot.water = 0)
  held : s.heldWithoutPower → t.heldWithoutPower

theorem State.Resets.trans {s t u : State} (h : s.Resets t) (k : t.Resets u) : s.Resets u where
  pending := k.pending.trans h.pending
  flash := k.flash.trans h.flash
  ready := by
    rcases k.ready with ⟨hsec, hflags, hwater⟩ | hlost
    · rw [hsec, hflags, hwater]
      exact h.ready
    · exact .inr hlost
  held hs := k.held (h.held hs)

theorem State.Resets.ite {s a b : State} {c : Prop} [Decidable c] (h : s.Resets a) (k : s.Resets b) : s.Resets (if c then a else b) := by
  split <;> assumption

/-- Power changes, and with it the device proper. -/
theorem State.Resets.withPower (s : State) (d : Dev) (p : Power) (h : s.heldWithoutPower → p.good = false → p.held = true) :
    s.Resets { s with dev := d, power := p } := ⟨rfl, rfl, .inl ⟨rfl, rfl, rfl⟩, h⟩

/-- Power changes, neither the reset nor the load rails, and then the rest follows. -/
theorem State.Resets.afterPower {s t : State} {p : Power} (h : ({ s with power := p } : State).Resets t) (hgood : p.good = s.power.good)
    (hheld : p.held = s.power.held) : s.Resets t :=
  (State.Resets.withPower s s.dev p (by rw [hgood, hheld]; exact id)).trans h

theorem State.Resets.refl (s : State) : s.Resets s := .withPower s s.dev s.power id

theorem State.Resets.send (s : State) (x : Sent) : s.Resets (s.send x) := .withPower s _ s.power id

theorem State.lose_resets (s : State) : s.Resets s.lose := by
  obtain ⟨l, h⟩ := s.lose_form
  rw [h]
  exact ⟨rfl, rfl, .inr ⟨rfl, rfl, rfl⟩, id⟩

theorem State.shutDown_resets (s : State) (restart : Nat) : s.Resets (s.shutDown restart) :=
  s.lose_resets.trans ((State.Resets.withPower _ _ _ fun _ _ => rfl).trans (.send _ _))

theorem State.cause_resets (s : State) (restart : Nat) : s.Resets (s.cause restart) :=
  .ite (s.shutDown_resets restart) (.withPower s s.dev _ id)

/-- Released from reset, the device has power. -/
theorem State.bootStart_resets (s : State) (hg : s.power.good = true) : s.Resets s.bootStart := by
  unfold State.bootStart
  obtain ⟨l, h⟩ := s.lose_form
  rw [h]
  exact ⟨rfl, rfl, .inr ⟨rfl, rfl, rfl⟩, fun _ hn => absurd hg (by rw [show s.power.good = false from hn]; decide)⟩

theorem State.powerUp_resets (s : State) : s.Resets s.powerUp :=
  have h : s.Resets (({ s with power := { s.power with good := true, held := true, restart := 0, delayed := false } } : State).send (.pin .pwrGood true)) :=
    (State.Resets.withPower s s.dev _ fun _ _ => rfl).trans (.send _ _)
  .ite h (h.trans (State.bootStart_resets _ rfl))

theorem State.tryPowerUp_resets (s : State) : s.Resets s.tryPowerUp := .ite s.powerUp_resets (.refl s)

theorem State.inputInRange_resets (s : State) (mv : Nat) : s.Resets (s.inputInRange mv) :=
  .ite (.refl s) (.afterPower (State.tryPowerUp_resets _) rfl rfl)

theorem State.pwrEnAssert_resets (s : State) (lowMs : Nat) : s.Resets (s.pwrEnAssert lowMs) :=
  .ite (.refl s) (.ite (.afterPower (.refl _) rfl rfl)
    (.ite (.afterPower (State.tryPowerUp_resets _) rfl rfl) (.afterPower (State.tryPowerUp_resets _) rfl rfl)))

theorem State.pwrEnDeassert_resets (s : State) : s.Resets s.pwrEnDeassert := by
  refine (s.cause_resets 3).trans ?_
  exact .ite (.afterPower (.send _ _) rfl rfl) (.afterPower (.refl _) rfl rfl)

theorem State.delayedRestart_resets (s : State) : s.Resets s.delayedRestart :=
  .ite (.afterPower (State.tryPowerUp_resets _) rfl rfl) (.refl s)

theorem State.underVoltage_resets (s : State) (mv : Nat) : s.Resets (s.underVoltage mv) :=
  .ite (.afterPower (State.cause_resets _ 1) rfl rfl) (.afterPower (.refl _) rfl rfl)

theorem State.overVoltage_resets (s : State) (mv : Nat) : s.Resets (s.overVoltage mv) :=
  .ite (.afterPower (State.cause_resets _ 2) rfl rfl) (.afterPower (.refl _) rfl rfl)

theorem State.railFault_resets (s : State) (die rail : Nat) : s.Resets (s.railFault die rail) :=
  .ite (.refl s) ((State.Resets.withPower s _ s.power id).trans (State.shutDown_resets _ 4))

theorem State.thermalTrip_resets (s : State) : s.Resets s.thermalTrip :=
  .ite (.refl s) ((s.shutDown_resets 4).trans ((State.Resets.withPower _ _ { (s.shutDown 4).power with trip := true } id).trans (.send _ _)))

theorem State.perstAssert_resets (s : State) : s.Resets s.perstAssert :=
  (State.Resets.withPower s s.dev { s.power with perstLow := true } id).trans
    (.ite ((State.lose_resets _).trans (.withPower _ _ _ fun _ _ => rfl)) (.refl _))

theorem State.perstRelease_resets (s : State) : s.Resets s.perstRelease := by
  refine (State.Resets.withPower s s.dev { s.power with perstLow := false } id).trans ?_
  unfold State.perstRelease
  dsimp only
  split
  · rename_i h
    exact State.bootStart_resets _ (Bool.and_eq_true_iff.mp h).1
  · exact .refl _

/-- Every command of a fundamental reset or a loss of power. -/
theorem exec_resets {i : Instr} (h : i.resets = true) (s : State) : Leads (exec i s) s.Resets := by
  cases i with
  | inputApplied mv => exact next_leads (.ite (.refl s) (.withPower s s.dev _ id))
  | inputInRange mv => exact next_leads (s.inputInRange_resets mv)
  | modPwrEnAssert lowMs => exact next_leads (s.pwrEnAssert_resets lowMs)
  | modPwrEnDeassert => exact next_leads s.pwrEnDeassert_resets
  | delayedRestart => exact next_leads s.delayedRestart_resets
  | underVoltage mv => exact next_leads (s.underVoltage_resets mv)
  | overVoltage mv => exact next_leads (s.overVoltage_resets mv)
  | overCurrent ma => exact next_leads (.ite (s.shutDown_resets 4) (.refl s))
  | railFault die rail => exact withUnit_leads _ (s.railFault_resets die rail)
  | thermalTrip die sensor => exact withUnit_leads _ s.thermalTrip_resets
  | modPerstNAssert => exact next_leads s.perstAssert_resets
  | modPerstNRelease => exact next_leads s.perstRelease_resets
  | _ => cases h

/-! ### Every command and every step -/

/-- Settles O4: a device command changes the device proper alone, and every other keeps the queue. -/
theorem commandFrames : Obligations.CommandFrames := by
  intro i s t ht
  refine ⟨?queue, fun h => ?frame⟩
  case queue =>
    cases h : i.resets with
    | false => exact (exec_keeps h s t ht).pending
    | true => exact (exec_resets h s t ht).pending
  case frame =>
    obtain ⟨d, rfl⟩ := exec_devOnly h s t ht
    exact ⟨rfl, rfl, rfl, rfl, rfl⟩

/-- A step is idle, or carries out its front command, which resets nothing or resets the device. -/
theorem step_cases {s t : State} (h : step s = .next t) : (s.pending = [] ∧ t = s.idle) ∨
    (∃ i rest, s.pending = i :: rest ∧ i.resets = false ∧ ({ s with pending := rest } : State).Keeps t) ∨
    (∃ i rest, s.pending = i :: rest ∧ i.resets = true ∧ ({ s with pending := rest } : State).Resets t) := by
  cases hp : s.pending with
  | nil =>
    rw [step_idle hp] at h
    cases h
    exact .inl ⟨rfl, rfl⟩
  | cons i rest =>
    rw [stepRunsTheFrontCommand i rest s hp] at h
    right
    cases hr : i.resets with
    | false => exact .inl ⟨i, rest, rfl, hr, exec_keeps hr _ t h⟩
    | true => exact .inr ⟨i, rest, rfl, hr, exec_resets hr _ t h⟩

theorem State.idle_keeps (s : State) : s.Keeps s.idle := State.DevOnly.keeps (s.onDev_form _)

/-- Settles O5: flash keeps its counters through resets, and other commands keep or raise them. -/
theorem stepsKeepRollbackCounters : Obligations.StepsKeepRollbackCounters := by
  intro s t h
  rcases step_cases h with ⟨-, rfl⟩ | ⟨i, rest, -, -, hk⟩ | ⟨i, rest, -, -, hk⟩
  · exact s.idle_keeps.counters
  · exact hk.counters
  · exact State.countersKept_of_eq (congrArg Flash.counters hk.flash)

/-- Settles O6: the premise leaves idle steps and commands that reset nothing, which keep flags that are set. -/
theorem stepsKeepReadyFlags : Obligations.StepsKeepReadyFlags := by
  intro s t hq h
  rcases step_cases h with ⟨-, rfl⟩ | ⟨i, rest, -, -, hk⟩ | ⟨i, rest, hp, hr, -⟩
  · exact s.idle_keeps.flags
  · exact hk.flags
  · simp [hp, hr] at hq

/-- The invariant of measurements, ready flags, watermark and power (R513, R528, R532, R544, R547). -/
structure State.BootOk (s : State) : Prop where
  mr7 : s.measuresZero 7
  ctrl : s.ctrlFirst
  water : s.waterOk
  held : s.heldWithoutPower

theorem State.Keeps.bootOk {s t : State} (h : s.Keeps t) (hs : s.BootOk) : t.BootOk where
  mr7 := h.mr7.trans hs.mr7
  ctrl := h.ctrl hs.ctrl
  water := h.water hs.water
  held := by
    unfold State.heldWithoutPower
    rw [h.power]
    exact hs.held

theorem State.Resets.bootOk {s t : State} (h : s.Resets t) (hs : s.BootOk) : t.BootOk := by
  have held := h.held hs.held
  rcases h.ready with ⟨hsec, hflags, hwater⟩ | ⟨hsec, hflags, hwater⟩
  · refine ⟨?_, ?_, ?_, held⟩
    · unfold State.measuresZero
      rw [hsec]
      exact hs.mr7
    · unfold State.ctrlFirst State.flag
      rw [hflags]
      exact hs.ctrl
    · unfold State.waterOk
      rw [hwater]
      exact hs.water
  · refine ⟨?_, ?_, ?_, held⟩
    · unfold State.measuresZero
      rw [hsec]
      rfl
    · intro i hi
      unfold State.flag at hi
      rw [hflags] at hi
      exact absurd hi (by simp [bit])
    · unfold State.waterOk
      rw [hwater]
      decide

/-- Settles O7: what keeps flags and registers keeps the invariant, and what resets the device brings it back. -/
theorem stepsKeepTheBootInvariant : Obligations.StepsKeepTheBootInvariant := by
  intro s t hmr7 hctrl hwater hheld h
  have hs : s.BootOk := ⟨hmr7, hctrl, hwater, hheld⟩
  have ht : t.BootOk := by
    rcases step_cases h with ⟨-, rfl⟩ | ⟨i, rest, -, -, hk⟩ | ⟨i, rest, -, -, hk⟩
    · exact s.idle_keeps.bootOk hs
    · exact hk.bootOk ⟨hmr7, hctrl, hwater, hheld⟩
    · exact hk.bootOk ⟨hmr7, hctrl, hwater, hheld⟩
  exact ⟨ht.mr7, ht.ctrl, ht.water, ht.held⟩

/-- Settles O8: right after reset no flag is set, every memory is empty and no unit holds a role. -/
theorem resetMeetsTheInvariants : Obligations.ResetMeetsTheInvariants := by
  refine ⟨rfl, ?flags, ⟨rfl, Nat.zero_le _⟩, fun h => (by cases h), ⟨rfl, rfl, rfl⟩, ?roles⟩
  case flags =>
    intro i hi
    exact absurd hi (by simp [State.flag, State.reset, Boot.reset, bit])
  case roles =>
    intro u v _ _ hrole
    refine absurd ?_ hrole
    show ((List.replicate 100 ({} : RigUnit)).getD u {}).role = 0
    rw [List.getD_eq_getElem?_getD, List.getElem?_getD_replicate_default_eq]

end Sys2Proof.Machine
end

section
/-! Power, reset and bring-up (R501, R521, R532 to R534, R540, R544, R547): what a shutdown, a power-up, a fundamental reset and the stages of bring-up leave.
O9 to O13. -/

namespace Sys2Proof.Machine

/-! ### Shutdowns (R533, Table 19-9) -/

/-- The loads have been removed with a restart condition, and every volatile state with them. -/
structure State.ShutFrom (s t : State) (restart : Nat) : Prop where
  good : t.power.good = false
  held : t.power.held = true
  restart : t.power.restart = max s.power.restart restart
  sent : .pin .pwrGood false ∈ t.dev.sent
  dev : t.dev = { s.dev.lost with sent := t.dev.sent, flashLog := t.dev.flashLog, fresh := t.dev.fresh }
  flash : t.flash = s.flash
  sec : t.sec = {}
  mgmt : t.mgmt = {}
  boot : t.boot = { refclkEth := s.boot.refclkEth }

/-- A shutdown forgets what the device proper held before it, but for the host's memory, flash copies of entries and what has been sent. -/
theorem State.shutDown_shutFrom (s : State) {d : Dev} {p : Power} (restart : Nat) (hhost : d.host = s.dev.host) (hrestart : p.restart = s.power.restart) :
    s.ShutFrom (({ s with dev := d, power := p } : State).shutDown restart) restart := by
  unfold State.shutDown
  obtain ⟨l, h⟩ := ({ s with dev := d, power := p } : State).lose_form
  rw [h]
  exact ⟨rfl, rfl, congrArg (max · restart) hrestart, List.mem_cons_self, by simp [State.send, Dev.lost, hhost], rfl, rfl, rfl, rfl⟩

theorem State.cause_shutFrom (s : State) {p : Power} (restart : Nat) (hgood : p.good = true) (hrestart : p.restart = s.power.restart) :
    s.ShutFrom (({ s with power := p } : State).cause restart) restart := by
  unfold State.cause
  rw [if_pos hgood]
  exact s.shutDown_shutFrom restart rfl hrestart

/-- The pins and the inputs of power may change after a shutdown. -/
theorem State.ShutFrom.power {s t : State} {restart : Nat} {p : Power} (h : s.ShutFrom t restart) (hgood : p.good = t.power.good) (hheld : p.held = t.power.held)
    (hrestart : p.restart = t.power.restart) : s.ShutFrom { t with power := p } restart :=
  ⟨hgood.trans h.good, hheld.trans h.held, hrestart.trans h.restart, h.sent, h.dev, h.flash, h.sec, h.mgmt, h.boot⟩

theorem State.ShutFrom.send {s t : State} {restart : Nat} (h : s.ShutFrom t restart) (x : Sent) : s.ShutFrom (t.send x) restart :=
  ⟨h.good, h.held, h.restart, List.mem_cons_of_mem _ h.sent, by
    have hdev := h.dev
    unfold State.send
    dsimp only
    rw [hdev], h.flash, h.sec, h.mgmt, h.boot⟩

theorem State.ShutFrom.ite {s a b : State} {restart : Nat} {c : Prop} [Decidable c] (h : s.ShutFrom a restart) (k : s.ShutFrom b restart) :
    s.ShutFrom (if c then a else b) restart := by
  split <;> assumption

theorem State.pwrEnDeassert_shutFrom (s : State) (hgood : s.power.good = true) : s.ShutFrom s.pwrEnDeassert 3 :=
  have h := (s.cause_shutFrom 3 hgood rfl).power (p := { (s.cause 3).power with enable := false, trip := false, delayed := false }) rfl rfl rfl
  .ite (h.send _) h

theorem State.underVoltage_shutFrom (s : State) {mv : Nat} (hgood : s.power.good = true) (hmv : mv < 47000) : s.ShutFrom (s.underVoltage mv) 1 := by
  unfold State.underVoltage
  rw [if_pos hmv]
  exact s.cause_shutFrom 1 hgood rfl

theorem State.overVoltage_shutFrom (s : State) {mv : Nat} (hgood : s.power.good = true) (hmv : 61000 < mv) : s.ShutFrom (s.overVoltage mv) 2 := by
  unfold State.overVoltage
  rw [if_pos hmv]
  exact s.cause_shutFrom 2 hgood rfl

theorem State.overCurrent_shutFrom (s : State) {ma : Nat} (hgood : s.power.good = true) (hma : 95000 < ma) : s.ShutFrom (s.overCurrent ma) 4 := by
  unfold State.overCurrent
  rw [if_pos (by simp [hgood, hma])]
  exact s.shutDown_shutFrom 4 rfl rfl

/-- The severity 5 entry may reach flash; it touches nothing else that a loss of power leaves. -/
theorem State.railFault_shutFrom (s : State) (die rail : Nat) (hgood : s.power.good = true) : s.ShutFrom (s.railFault die rail) 4 := by
  unfold State.railFault
  rw [if_neg (by simp [hgood])]
  refine s.shutDown_shutFrom 4 ?_ rfl
  split
  · exact Dev.log_host _ _
  · rfl

theorem State.thermalTrip_shutFrom (s : State) (hgood : s.power.good = true) :
    s.ShutFrom s.thermalTrip 4 ∧ s.thermalTrip.power.trip = true ∧ .pin .thermtripN false ∈ s.thermalTrip.dev.sent := by
  have h : s.ShutFrom (s.shutDown 4) 4 := s.shutDown_shutFrom 4 rfl rfl
  unfold State.thermalTrip
  rw [if_neg (by simp [hgood])]
  exact ⟨(h.power (p := { (s.shutDown 4).power with trip := true }) rfl rfl rfl).send _, rfl, List.mem_cons_self⟩

/-- Every case of Table 19-9 that acts is a shutdown. -/
theorem exec_shutFrom {i : Instr} {r : Nat} {s : State} (hwf : i.wellFormed = true) (hcuts : i.cutsPower = some r) (hgood : s.power.good = true) :
    ∃ t, exec i s = .next t ∧ s.ShutFrom t r ∧
      (∀ die sensor, i = .thermalTrip die sensor → t.power.trip = true ∧ .pin .thermtripN false ∈ t.dev.sent) := by
  cases i with
  | modPwrEnDeassert =>
    cases hcuts
    exact ⟨_, rfl, s.pwrEnDeassert_shutFrom hgood, nofun⟩
  | underVoltage mv =>
    obtain ⟨hmv, ⟨⟩⟩ := Option.ite_none_right_eq_some.mp hcuts
    exact ⟨_, rfl, s.underVoltage_shutFrom hgood hmv, nofun⟩
  | overVoltage mv =>
    obtain ⟨hmv, ⟨⟩⟩ := Option.ite_none_right_eq_some.mp hcuts
    exact ⟨_, rfl, s.overVoltage_shutFrom hgood hmv, nofun⟩
  | overCurrent ma =>
    obtain ⟨hma, ⟨⟩⟩ := Option.ite_none_right_eq_some.mp hcuts
    exact ⟨_, rfl, s.overCurrent_shutFrom hgood hma, nofun⟩
  | railFault die rail =>
    cases hcuts
    exact ⟨_, if_pos hwf, s.railFault_shutFrom die rail hgood, nofun⟩
  | thermalTrip die sensor =>
    cases hcuts
    obtain ⟨h, htrip, hsent⟩ := s.thermalTrip_shutFrom hgood
    exact ⟨_, if_pos hwf, h, fun _ _ _ => ⟨htrip, hsent⟩⟩
  | _ => cases hcuts

/-- Settles O9: each case is a shutdown with its restart condition. -/
theorem shutdownsLoseVolatileState : Obligations.ShutdownsLoseVolatileState := by
  intro i r s hwf hcuts hgood
  obtain ⟨t, ht, h, htrip⟩ := exec_shutFrom hwf hcuts hgood
  exact ⟨t, ht, h.good, h.held, h.restart, h.sent, h.dev, h.flash, h.sec, h.mgmt, h.boot, htrip⟩

/-- Settles O10: each command compares its reading with its limit before anything else. -/
theorem readingsWithinLimitsKeepPower : Obligations.ReadingsWithinLimitsKeepPower := by
  intro s mv ma
  have hcurrent (h : ma ≤ 95000) : s.overCurrent ma = s := if_neg (by simp [h])
  exact ⟨fun h => congrArg Host.Outcome.next (if_neg (Nat.not_lt.mpr h)), fun h => congrArg Host.Outcome.next (if_neg (Nat.not_lt.mpr h)),
    fun h => congrArg Host.Outcome.next (hcurrent h)⟩

/-! ### Power-up (R532) -/

/-- The module has come up and waits in reset for the release of MOD_PERST_N. -/
structure State.PoweredHeld (t : State) (input : Nat) : Prop where
  good : t.power.good = true
  held : t.power.held = true
  restart : t.power.restart = 0
  delayed : t.power.delayed = false
  input : t.power.input = input
  sent : .pin .pwrGood true ∈ t.dev.sent

/-- What has to be met for a power-up: the last of these conditions brings the module up. -/
structure Power.Ready (p : Power) : Prop where
  good : p.good = false
  perst : p.perstLow = true
  enable : p.enable = true
  ready : p.ready = true
  restart : p.restart = 0
  delayed : p.delayed = false

theorem State.tryPowerUp_poweredHeld {s : State} (h : s.power.Ready) : s.tryPowerUp.PoweredHeld s.power.input := by
  unfold State.tryPowerUp State.powerUp
  rw [if_pos (by simp [h.good, h.enable, h.ready, h.restart, h.delayed])]
  have hperst : s.power.perstLow = true := h.perst
  simp only [State.send, hperst, if_true]
  exact ⟨rfl, rfl, rfl, rfl, rfl, List.mem_cons_self⟩

/-- MOD_PWR_EN brings the module up where no restart condition is left, or the one that stood is met by the time it was low. -/
theorem State.pwrEnAssert_poweredHeld {s : State} {low : Nat} (hgood : s.power.good = false) (hperst : s.power.perstLow = true)
    (henable : s.power.enable = false) (hready : s.power.ready = true) (hdelayed : s.power.delayed = false)
    (hrestart : s.power.restart = 0 ∨ (s.power.restart = 3 ∧ 20 ≤ low) ∨ (s.power.restart = 4 ∧ 1000 ≤ low)) : (s.pwrEnAssert low).PoweredHeld s.power.input := by
  unfold State.pwrEnAssert
  rw [if_neg (by simp [henable])]
  rcases hrestart with h | ⟨h, hlow⟩ | ⟨h, hlow⟩
  · rw [if_neg (by simp [h]), if_neg (by simp [h])]
    exact State.tryPowerUp_poweredHeld (s := { s with power := { s.power with enable := true } }) ⟨hgood, hperst, rfl, hready, h, hdelayed⟩
  · rw [if_neg (by simp [h, hlow]), if_pos (by simp [h])]
    exact State.tryPowerUp_poweredHeld (s := { s with power := { s.power with enable := true, restart := 0 } }) ⟨hgood, hperst, rfl, hready, rfl, hdelayed⟩
  · rw [if_neg (by simp [h]), if_pos (by simp [h, hlow])]
    exact State.tryPowerUp_poweredHeld (s := { s with power := { s.power with enable := true, restart := 0 } }) ⟨hgood, hperst, rfl, hready, rfl, hdelayed⟩

/-- Settles O11: each command leaves `Power.Ready` and then tries to power up. -/
theorem powerUpConditions : Obligations.PowerUpConditions := by
  intro s hgood hperst
  refine ⟨fun low henable hready hdelayed hrestart => ?enable, fun mv hlow hhigh henable hdelayed hrestart => ?input,
    fun hdelayed henable hready hrestart => ?delayed, fun mv hready => ?applied⟩
  case enable =>
    have h := State.pwrEnAssert_poweredHeld hgood hperst henable hready hdelayed hrestart
    exact ⟨_, rfl, h.good, h.held, h.restart, h.sent⟩
  case input =>
    have hin : s.inputInRange mv = ({ s with power := { s.power with input := mv, ready := true, restart := 0 } } : State).tryPowerUp := by
      unfold State.inputInRange inputOk
      rw [if_neg (by simp [hlow, hhigh])]
      dsimp only
      rw [if_pos hrestart]
    have h := State.tryPowerUp_poweredHeld (s := { s with power := { s.power with input := mv, ready := true, restart := 0 } })
      ⟨hgood, hperst, henable, rfl, rfl, hdelayed⟩
    exact ⟨_, congrArg Host.Outcome.next hin, h.good, h.held, h.input, h.sent⟩
  case delayed =>
    have hin : s.delayedRestart = ({ s with power := { s.power with restart := 0, delayed := false } } : State).tryPowerUp :=
      if_pos (by simp [hdelayed, henable, hrestart])
    have h := State.tryPowerUp_poweredHeld (s := { s with power := { s.power with restart := 0, delayed := false } })
      ⟨hgood, hperst, henable, hready, rfl, rfl⟩
    exact ⟨_, congrArg Host.Outcome.next hin, h.good, h.held, h.delayed, h.sent⟩
  case applied =>
    have hin : s.inputApplied mv = { s with power := { s.power with input := mv } } := if_neg (by simp [hgood, hready])
    exact congrArg Host.Outcome.next hin

/-- Settles O12: both edges of MOD_PERST_N lose the volatile state. -/
theorem fundamentalReset : Obligations.FundamentalReset := by
  intro s hgood
  refine ⟨fun hheld => ?assert, fun hheld => ?release⟩
  case assert =>
    refine ⟨_, rfl, ?_⟩
    unfold State.perstAssert
    rw [if_pos (by simp [hgood, hheld])]
    obtain ⟨l, h⟩ := ({ s with power := { s.power with perstLow := true } } : State).lose_form
    rw [h]
    exact ⟨by simp [State.running], rfl, rfl, rfl, rfl, rfl, rfl⟩
  case release =>
    refine ⟨_, rfl, ?_⟩
    unfold State.perstRelease State.bootStart
    rw [if_pos (by simp [hgood, hheld])]
    obtain ⟨l, h⟩ := ({ s with power := { s.power with perstLow := false } } : State).lose_form
    rw [h]
    exact ⟨by simp [State.running, hgood], rfl, rfl, rfl, rfl⟩

/-! ### The stages of bring-up (R540) -/

/-- A stage that has ended does not start again. -/
theorem Boot.start_done {b : Boot} {i : Nat} (us j : Nat) (h : (b.stage i).result = 2) : ((b.start us j).stage i).result = 2 := by
  unfold Boot.start
  by_cases hj : j = i
  · subst hj
    rw [if_pos (by simp [Boot.due, h])]
    exact h
  · have hset (x : BootStage) : Boot.stage { b with stages := b.stages.set j x } i = b.stage i := by
      simp [Boot.stage, List.getD_eq_getElem?_getD, List.getElem?_set_ne hj]
    split
    · exact h
    · split
      · exact (congrArg BootStage.result (hset _)).trans h
      · exact (congrArg BootStage.result (hset _)).trans h

theorem Boot.startAll_done {b : Boot} {i : Nat} (us : Nat) (h : (b.stage i).result = 2) : ((b.startAll us).stage i).result = 2 := by
  unfold Boot.startAll
  exact List.foldlRecOn (motive := fun b : Boot => (b.stage i).result = 2) _ _ h fun b hb j _ => b.start_done us j hb

theorem State.progress_done {s : State} {i : Nat} (h : (s.boot.stage i).result = 2) : (s.progress.boot.stage i).result = 2 :=
  s.boot.startAll_done s.dev.micros h

/-- A stage that runs is one of the fourteen, so its result is noted. -/
theorem State.closeStage_result {s : State} {i : Nat} (result : Nat) (h : (s.boot.stage i).result = 1) : ((s.closeStage i result).boot.stage i).result = result := by
  have hi : i < s.boot.stages.length := by
    by_contra hi
    have : s.boot.stage i = {} := by simp [Boot.stage, List.getD_eq_getElem?_getD, List.getElem?_eq_none (Nat.not_lt.mp hi)]
    rw [this] at h
    cases h
  unfold State.closeStage Boot.stage
  rw [List.getD_eq_getElem?_getD, List.getElem?_set_self hi]
  rfl

/-- What the change of stages and the alert line leave: flash, and the stage that has ended. -/
theorem State.progress_refreshAlert (s : State) : s.progress.refreshAlert.boot = s.progress.boot ∧ s.progress.refreshAlert.power = s.power ∧
    s.progress.refreshAlert.flash = s.flash := by
  obtain ⟨d, m, h⟩ := s.progress.refreshAlert_devMgmt
  rw [h]
  exact ⟨rfl, rfl, rfl⟩

/-- A running stage other than 4 and 13 that ends well. -/
theorem State.stageEnd_good {s : State} {i : Nat} (hrun : s.running = true) (hi : i < 13) (hi4 : i ≠ 4) (hresult : (s.boot.stage i).result = 1)
    (hsvn : s.svnOk i 0 = true) : s.stageEnd i true 0 = ((s.closeStage i 2).stageDone i 0).progress.refreshAlert := by
  unfold State.stageEnd
  rw [if_neg (by simp [hrun, hresult, hi4, Nat.ne_of_lt hi])]
  simp [hsvn]

/-- Settles O13: the stage's result is written before other stages start, and those that have ended stay ended. -/
theorem bringUpProgresses : Obligations.BringUpProgresses := by
  intro s hrun
  refine ⟨fun i hi hi4 hresult hsvn => ?stage, fun hresult hwater => ?chunk, fun present => ?refclk⟩
  case stage =>
    refine ⟨s.stageEnd i true 0, if_pos (by simp; omega), ?_⟩
    rw [State.stageEnd_good hrun hi hi4 hresult hsvn]
    obtain ⟨d, x, m, h, -⟩ := (s.closeStage i 2).stageDone_form i 0
    rw [h]
    obtain ⟨hboot, hpower, hflash⟩ := State.progress_refreshAlert { s.closeStage i 2 with dev := d, sec := x, mgmt := m }
    obtain ⟨_, _, hp, hw, -⟩ := State.progress_boot { s.closeStage i 2 with dev := d, sec := x, mgmt := m }
    refine ⟨?_, ?_, hpower, hflash⟩
    · rw [hboot]
      exact State.progress_done (State.closeStage_result 2 hresult)
    · rw [hboot, hp]
      exact hw
  case chunk =>
    have hchunk : s.initChunk [] = { s with boot := { s.boot with water := s.boot.water + 1024 } } := by
      unfold State.initChunk
      rw [if_neg (by simp [hrun, hresult, waterFull, Nat.not_le.mpr hwater])]
      rfl
    exact congrArg Host.Outcome.next hchunk
  case refclk =>
    refine ⟨_, rfl, ?_⟩
    unfold State.refclkEth
    dsimp only
    obtain ⟨_, _, hp, -, hrefclk, -⟩ := State.progress_boot { s with boot := { s.boot with refclkEth := present } }
    split
    · exact ⟨rfl, rfl, rfl⟩
    · split
      · rw [hp]
        exact ⟨hrefclk, rfl, rfl⟩
      · exact ⟨rfl, rfl, rfl⟩

end Sys2Proof.Machine
end

section
/-! The requests RIG_SET, FLUSH, ELOG_READ and RETRAIN (R219, R439, R506, R518). O26. -/

namespace Sys2Proof.Machine

/-- A requester other than a virtual function writes a live register none of whose bits is locked. -/
theorem exec_writeLive {s : State} {src : Src} {page off i m pf : Nat} {b : Block} {has : Bool} (v : Word) (hv : isVf src = false) (hs : s.srcOk src = true)
    (hh : has = true) (hb : blockOf page = some (b, i)) (ho : 0x40 ≤ off) (hr : regSpec b off = some ⟨off, 4, 1, .l, 0, m, pf⟩)
    (hlock : s.dev.heldBits src page off ⟨off, 4, 1, .l, 0, m, pf⟩ = 0) (hf : page ≠ pgMGT ∨ off ≠ 0xC0C) :
    bySource has s src page off v = .next { s with dev := s.dev.writeLive b i page off (v &&& BitVec.ofNat 32 m) } := by
  rw [bySource_served s hh hs hf, Dev.write32_live _ (Dev.pagePresent_of_not_vf _ _ hv) hb ho hr (.inl rfl) hlock]

/-- RIG_SET takes the unit from bits 6:0, the role from 31:16 and, with bit 14, the group from 13:8. -/
theorem Dev.writeLive_rigSet (d : Dev) (v : Word) (hu : v.toNat % 128 < 100) :
    d.writeLive .fab 0 pgFAB 0xC00 (v &&& BitVec.ofNat 32 0xFFFF7F7F) =
      { d with rigQueue := d.rigQueue ++ [(v.toNat % 128, v.toNat / 65536, if v.getLsbD 14 then some (v.toNat / 256 % 64) else none)] } := by
  have hunit : bits (v &&& BitVec.ofNat 32 0xFFFF7F7F).toNat 0 7 = v.toNat % 128 := by
    rw [bits_and_mask _ _ _ _ (by decide), bits_zero]
    rfl
  have hrole : bits (v &&& BitVec.ofNat 32 0xFFFF7F7F).toNat 16 16 = v.toNat / 65536 := by
    rw [bits_and_mask _ _ _ _ (by decide), bits, Nat.shiftRight_eq_div_pow]
    have := v.isLt
    omega
  have hgroup : bits (v &&& BitVec.ofNat 32 0xFFFF7F7F).toNat 8 6 = v.toNat / 256 % 64 := by
    rw [bits_and_mask _ _ _ _ (by decide), bits, Nat.shiftRight_eq_div_pow]
    rfl
  have hhas : bit (v &&& BitVec.ofNat 32 0xFFFF7F7F).toNat 14 = v.getLsbD 14 := by
    show (v &&& BitVec.ofNat 32 0xFFFF7F7F).getLsbD 14 = v.getLsbD 14
    rw [BitVec.getLsbD_and]
    exact Bool.and_true _
  show d.rigSet (v &&& BitVec.ofNat 32 0xFFFF7F7F).toNat = _
  unfold Dev.rigSet
  rw [hunit, hrole, hgroup, hhas]
  exact if_neg (Nat.not_le.mpr hu)

theorem bit_zero_and_one (v : Word) : bit (v &&& BitVec.ofNat 32 0x1).toNat 0 = v.getLsbD 0 := by
  show (v &&& BitVec.ofNat 32 0x1).getLsbD 0 = v.getLsbD 0
  rw [BitVec.getLsbD_and]
  exact Bool.and_true _

theorem Dev.writeLive_flush (d : Dev) {die : Nat} (v : Word) (hv : v.getLsbD 0 = true) (hd : d.flushing.contains die = false) :
    d.writeLive .shc die (pgSHC die) 0xC04 (v &&& BitVec.ofNat 32 0x1) = { d with flushing := d.flushing ++ [die] } := by
  show d.flushStart die (v &&& BitVec.ofNat 32 0x1).toNat = _
  unfold Dev.flushStart
  rw [bit_zero_and_one, hv, hd]
  rfl

theorem Dev.writeLive_retrain (d : Dev) (i : Nat) (v : Word) (hv : v.getLsbD 0 = true) :
    d.writeLive .d2d i (pgD2D i) 0xC04 (v &&& BitVec.ofNat 32 0x1) = d.linkRetrain i 0 2 := by
  show (if (0xC04 : Nat) = 0xC04 && bit (v &&& BitVec.ofNat 32 0x1).toNat 0 then d.linkRetrain i 0 2 else d) = _
  rw [bit_zero_and_one, hv]
  rfl

theorem Dev.writeLive_elogRead (d : Dev) (v : Word) : d.writeLive .mgt 0 pgMGT 0xC10 (v &&& BitVec.ofNat 32 0xFFFFFFFF) = d.setReg pgMGT 0xC10 v := by
  show d.setReg pgMGT 0xC10 (v &&& BitVec.allOnes 32) = _
  rw [BitVec.and_allOnes]

/-- Masthead's lock of the MGT page is the lock of the SEC page. -/
theorem Dev.heldBits_mgt (d : Dev) {src : Src} {off : Nat} {r : RegSpec} (hv : isVf src = false) (hlock : d.isLocked pgSEC = false) :
    d.heldBits src pgMGT off r = 0 := by
  unfold Dev.heldBits
  simp [hv, hlock]

/-- Settles O26: each request is a write to a live register of its unit's page. -/
theorem deviceRequests : Obligations.DeviceRequests := by
  intro s src v hv hs hq
  have free {page off : Nat} {r : RegSpec} (hp : page ≠ pgMGT) : s.dev.heldBits src page off r = 0 := Dev.heldBits_none _ (.inr hv) hp
  refine ⟨fun hu => ?rig, fun die hdie hgo hidle => ?flush, fun hlock => ?elog, fun i hi hgo hc => ?retrain⟩
  case rig =>
    refine (exec_writeLive v hv hs hq blockOf_fab (by decide) rfl (free (by decide)) (.inl (by decide))).trans ?_
    rw [Dev.writeLive_rigSet _ v hu]
  case flush =>
    have hp : pgSHC die ≠ pgMGT := by unfold pgSHC pgMGT; omega
    refine (exec_writeLive v hv hs (Bool.and_eq_true_iff.mpr ⟨hq, decide_eq_true hdie⟩) (blockOf_shc hdie) (by decide) rfl (free hp) (.inl hp)).trans ?_
    rw [Dev.writeLive_flush _ v hgo hidle]
  case elog =>
    refine ⟨_, exec_writeLive v hv hs hq blockOf_mgt (by decide) rfl (Dev.heldBits_mgt _ hv hlock) (.inr (by decide)), ?_⟩
    rw [Dev.writeLive_elogRead]
    exact ⟨rfl, Dev.reg_setReg_same .., Dev.RegsBut_setReg _ _ _ _⟩
  case retrain =>
    have hp : pgD2D i ≠ pgMGT := by unfold pgD2D pgMGT; omega
    refine ⟨_, exec_writeLive v hv hs (Bool.and_eq_true_iff.mpr ⟨hq, decide_eq_true hi⟩) (blockOf_d2d hi) (by decide) rfl (free hp) (.inl hp), ?_⟩
    rw [Dev.writeLive_retrain _ i v hgo]
    exact Dev.linkRetrain_effect _ i 0 2 hi hc

end Sys2Proof.Machine
end

section
/-! Mail and the packets, acknowledgements, timers and rates of flows (R418 to R421, R440 to R442). O51 and O52. -/

namespace Sys2Proof.Machine

/-! ### What sending and acknowledging a packet leave -/

/-- What sending a packet changes: registers other than FAB's, ports, and what has been sent. -/
def Dev.Emits (d e : Dev) : Prop :=
  (∃ g s x, e = { d with regs := g, sent := s, ports := x }) ∧ ∀ o, o < 0x1000 → e.regN pgFAB o = d.regN pgFAB o

theorem Dev.Emits.refl (d : Dev) : d.Emits d := ⟨⟨_, _, _, rfl⟩, fun _ _ => rfl⟩

theorem Dev.Emits.trans {d e f : Dev} (h : d.Emits e) (k : e.Emits f) : d.Emits f := by
  obtain ⟨⟨_, _, _, rfl⟩, hr⟩ := h
  obtain ⟨⟨_, _, _, rfl⟩, kr⟩ := k
  exact ⟨⟨_, _, _, rfl⟩, fun o ho => (kr o ho).trans (hr o ho)⟩

theorem Dev.emit_emits (d : Dev) (f : TxFlow) (p : FlowPacket) : d.Emits (d.emit f p) := by
  unfold Dev.emit
  dsimp only
  split
  · exact .refl d
  · rename_i e _
    exact ⟨⟨_, _, _, rfl⟩, fun o ho => Dev.regN_bump_other d 1 (regKey_page_ne ho (by decide) (by unfold pgFAB pgETH; omega))⟩

/-- What taking a packet changes beyond what it delivers: the receiving flows, and what sending an ACK changes. -/
def Dev.Acks (d e : Dev) : Prop :=
  (∃ g s x r n, e = { d with regs := g, sent := s, ports := x, rxFlows := r, nextFlow := n }) ∧ ∀ o, o < 0x1000 → e.regN pgFAB o = d.regN pgFAB o

theorem Dev.Emits.acks {d e : Dev} (h : d.Emits e) (f : RxFlow) : d.Acks (e.setRx f) := by
  obtain ⟨⟨_, _, _, rfl⟩, hr⟩ := h
  exact ⟨⟨_, _, _, _, _, rfl⟩, hr⟩

theorem Dev.Acks.trans {d e f : Dev} (h : d.Acks e) (k : e.Acks f) : d.Acks f := by
  obtain ⟨⟨_, _, _, _, _, rfl⟩, hr⟩ := h
  obtain ⟨⟨_, _, _, _, _, rfl⟩, kr⟩ := k
  exact ⟨⟨_, _, _, _, _, rfl⟩, fun o ho => (kr o ho).trans (hr o ho)⟩

theorem Dev.countForAck_acks (d : Dev) (f : RxFlow) (ce : Bool) : d.Acks (d.countForAck f ce) := by
  unfold Dev.countForAck
  dsimp only
  split
  · exact (d.emit_emits _ _).acks _
  · exact (Dev.Emits.refl d).acks _

theorem Dev.rxFlow_acks (d : Dev) (src job die : Nat) : d.Acks (d.rxFlow src job die).1 := by
  unfold Dev.rxFlow
  split <;> exact ⟨⟨_, _, _, _, _, rfl⟩, fun _ _ => rfl⟩

/-- What a packet that is taken leaves beside its receiving flow. -/
theorem Dev.Acks.kept {d e : Dev} (h : d.Acks e) : e.inbox = d.inbox ∧ e.parts = d.parts ∧ e.received = d.received ∧ e.cmds = d.cmds ∧ e.SameMemory d := by
  obtain ⟨⟨_, _, _, _, _, rfl⟩, -⟩ := h
  exact ⟨rfl, rfl, rfl, rfl, rfl, rfl, rfl⟩

theorem Dev.Acks.mail {d e : Dev} (h : d.Acks e) (msg : Bytes) (u : Nat) : e.mailTarget msg = d.mailTarget msg ∧ e.inboxRoom u = d.inboxRoom u := by
  obtain ⟨⟨_, _, _, _, _, rfl⟩, -⟩ := h
  exact ⟨rfl, rfl⟩

/-- A packet already taken counts towards DUP_DROPS and the next ACK alone. -/
theorem Dev.duplicate_effect (d : Dev) (src job die : Nat) (f : RxFlow) (ce : Bool) :
    let e := ((d.rxFlow src job die).1.bump pgFAB 0x818 1).countForAck f ce
    e.inbox = d.inbox ∧ e.parts = d.parts ∧ e.received = d.received ∧ e.regN pgFAB 0x818 = min (d.regN pgFAB 0x818 + 1) (2 ^ 32 - 1) ∧ e.cmds = d.cmds ∧
      e.SameMemory d := by
  have h := d.rxFlow_acks src job die
  have k := ((d.rxFlow src job die).1.bump pgFAB 0x818 1).countForAck_acks f ce
  obtain ⟨hinbox, hparts, hreceived, hcmds, hmem⟩ := h.kept
  obtain ⟨kinbox, kparts, kreceived, kcmds, kmem⟩ := k.kept
  refine ⟨kinbox.trans hinbox, kparts.trans hparts, kreceived.trans hreceived, ?_, kcmds.trans hcmds, kmem.trans hmem⟩
  rw [k.2 _ (by decide), Dev.regN_bump_same, h.2 _ (by decide)]

/-- Where one partition has changed, the others are as before. -/
theorem Dev.part_of_modPart_same {d e : Dev} {p : Nat} (f : Part → Part) (h : e.parts = (d.modPart p f).parts) (hp : p < d.parts.length) :
    e.part p = f (d.part p) := by
  unfold Dev.part
  rw [h]
  exact d.part_modPart_same p f hp

theorem Dev.part_of_modPart_other {d e : Dev} {p q : Nat} (f : Part → Part) (h : e.parts = (d.modPart p f).parts) (hq : q ≠ p) : e.part q = d.part q := by
  unfold Dev.part
  rw [h]
  exact d.part_modPart_other f hq

/-! ### Mail -/

/-- A partition whose send ring has given up the message at its head. -/
def Part.mailLeft (size : Nat) (x : Part) : Part := { x with mailSqHead := (x.mailSqHead + 1) % size }

/-- A partition whose receive ring has taken a message, its tail now at `tail`. -/
def Part.mailTook (tail : Nat) (x : Part) : Part := { x with mailRqTail := tail, mailPhase := if tail = 0 then !x.mailPhase else x.mailPhase }

/-- A unit's fabric work acts on a running device whose fabric is ready. -/
theorem State.onFabric_ready {s : State} (f : Dev → Dev) (hrun : s.running = true) (hready : s.fabricReady = true) :
    s.onFabric f = { s with dev := f s.dev } := by
  unfold State.onFabric
  rw [if_pos hready, State.onDev_running s f hrun]

/-- A message for this node goes to its unit's inbox, or stays at the head of the ring while that is full. -/
theorem Dev.mailSend_local {d : Dev} {env : Env} {p u : Nat} {b msg : Bytes} (hon : d.mailOn p = true) (hne : (d.part p).mailSqHead ≠ (d.part p).mailSqTail)
    (hb : d.readStruct env p (d.addrPair (pgPART p) 0x078 + 64 * (d.part p).mailSqHead) 64 = .ok b)
    (hmsg : msg = putAt b 8 (toLe 2 d.node ++ toLe 1 p ++ toLe 1 0)) (hdst : bits (fieldAt msg 0 2) 0 14 = d.node) (hu : d.mailTarget msg = some u) :
    d.mailSend env p = if d.inboxRoom u then
      (({ d with inbox := d.inbox ++ [⟨u, d.node, p, msg⟩] } : Dev).modPart p (Part.mailLeft (d.mailSize p))).bump pgFAB 0x808 1
    else d := by
  unfold Dev.mailSend
  rw [if_neg (by simp [hon, hne])]
  dsimp only
  rw [hb]
  dsimp only
  rw [← hmsg, if_pos hdst]
  unfold Dev.mailAccept
  rw [hu]
  dsimp only
  cases d.inboxRoom u <;> rfl

/-- What a message written into a receive ring of the device's own memory leaves. -/
theorem Dev.mailWrite_device (d : Dev) (env : Env) {p : Nat} (msg : Bytes) (hdev : isHost (d.addrPair (pgPART p) 0x080 + 64 * (d.part p).mailRqTail) = false) :
    (d.mailWrite env p msg).2 = true ∧
    RegsSent ((d.putBytesIn p 0 (d.addrPair (pgPART p) 0x080 + 64 * (d.part p).mailRqTail)
        (putAt msg 6 (toLe 1 (setBits (fieldAt msg 6 1) 7 1 (b2n (d.part p).mailPhase))))).modPart p
          (Part.mailTook (((d.part p).mailRqTail + 1) % d.mailSize p)))
      (d.mailWrite env p msg).1 := by
  unfold Dev.mailWrite Dev.writeOut
  simp only [hdev, Bool.false_eq_true, if_false, Bool.not_true]
  exact ⟨trivial, (RegsSent.raise _ _ _).trans (RegsSent.vec _ _ _)⟩

theorem Dev.mailReturns_none {d : Dev} (h : ∀ q, (d.part q).mailReturns = []) :
    (List.range 64).find? (fun p => !(d.part p).mailReturns.isEmpty && d.mailReady p) = none := by
  rw [List.find?_eq_none]
  intro q _
  simp [h q]

/-- With no message returned, the first that can be delivered goes into its owner's ring. -/
theorem Dev.mailDeliver_next {d : Dev} {env : Env} {m : InboxMail} {u p : Nat} (hreturns : ∀ q, (d.part q).mailReturns = []) (hm : d.mailNext = some m)
    (hu : d.mailTarget m.msg = some u) (hp : (d.unit u).owner = some p)
    (hdev : isHost (d.addrPair (pgPART p) 0x080 + 64 * (d.part p).mailRqTail) = false) :
    d.mailDeliver env = ({ (d.mailWrite env p (putAt (putAt m.msg 7 [0]) 12 (toLe 2 u))).1 with inbox := d.inbox.erase m } : Dev).bump pgFAB 0x80C 1 := by
  unfold Dev.mailDeliver
  rw [Dev.mailReturns_none hreturns, hm]
  dsimp only
  rw [hu]
  dsimp only
  rw [hp]
  exact if_pos (d.mailWrite_device env _ hdev).1

/-- A message that is new and finds room joins its unit's inbox. -/
theorem Dev.mailReceive_new {d : Dev} {raw : Bytes} (ce : Bool) {r : Dev × RxFlow} {psn u : Nat} {msg : Bytes}
    (hr : r = d.rxFlow (bftSource raw) 0 (bits (fieldAt raw 10 1) 0 2)) (hpsn : psn = fieldAt raw 12 4) (hmsg : msg = (raw.drop 32).take 64)
    (hnew : r.2.has psn = false) (hkind : bits (fieldAt raw 0 1) 4 4 ≠ 3) (hu : d.mailTarget msg = some u) (hroom : d.inboxRoom u = true) :
    d.mailReceive raw ce = ({ r.1 with inbox := r.1.inbox ++ [⟨u, bftSource raw, fieldAt msg 10 1, msg⟩] } : Dev).countForAck (r.2.take psn) ce := by
  subst hr hpsn hmsg
  have hmail := (d.rxFlow_acks (bftSource raw) 0 (bits (fieldAt raw 10 1) 0 2)).mail ((raw.drop 32).take 64) u
  unfold Dev.mailReceive
  dsimp only
  rw [if_neg (by simp [hnew]), if_neg hkind]
  unfold Dev.mailAccept
  rw [hmail.1, hu]
  dsimp only
  rw [hmail.2, hroom]
  rfl

/-- Settles O51: messages sent, delivered and received change inboxes, rings and returns, and memory only where a ring is written. -/
theorem mail : Obligations.Mail := by
  intro s env hrun hready
  refine ⟨fun p b u msg hp hlen hon hne hb hmsg hdst hu => ?send, fun m u p msg hreturns hm hu howner hmsg hlen hdev => ?deliver,
    fun hreturns hm => ?idle, fun k r psn msg hr hpsn hmsg => ?receive⟩
  case send =>
    have hsend := Dev.mailSend_local hon hne hb hmsg hdst hu
    have hexec : exec (.mailSend p env) s = .next { s with dev := s.dev.mailSend env p } :=
      (if_pos (decide_eq_true hp)).trans (congrArg Host.Outcome.next (State.onFabric_ready _ hrun hready))
    rw [hexec]
    refine ⟨fun hroom => ⟨_, rfl, ?_⟩, fun hroom => ?_⟩
    · rw [hsend, if_pos hroom]
      exact ⟨rfl, Dev.part_of_modPart_same (Part.mailLeft (s.dev.mailSize p)) rfl hlen,
        fun q hq => Dev.part_of_modPart_other (Part.mailLeft (s.dev.mailSize p)) rfl hq, rfl, rfl, rfl, rfl⟩
    · rw [hsend, if_neg (by simp [hroom])]
  case deliver =>
    have hexec : exec (.mailDeliver env) s = .next { s with dev := s.dev.mailDeliver env } :=
      congrArg Host.Outcome.next (State.onFabric_ready _ hrun hready)
    refine ⟨_, hexec, ?_⟩
    rw [Dev.mailDeliver_next hreturns hm hu howner hdev]
    obtain ⟨-, g, x, w, hw⟩ := s.dev.mailWrite_device env (putAt (putAt m.msg 7 [0]) 12 (toLe 2 u)) hdev
    obtain ⟨x, y, z, hput⟩ := s.dev.putBytesIn_form p 0 (s.dev.addrPair (pgPART p) 0x080 + 64 * (s.dev.part p).mailRqTail) msg
    rw [hw, ← hmsg, hput]
    exact ⟨rfl, ⟨rfl, rfl, rfl⟩, congrArg Part.mailRqTail (Dev.part_of_modPart_same (Part.mailTook _) rfl hlen),
      fun q hq => Dev.part_of_modPart_other (Part.mailTook (((s.dev.part p).mailRqTail + 1) % s.dev.mailSize p)) rfl hq, rfl⟩
  case idle =>
    have hexec : exec (.mailDeliver env) s = .next { s with dev := s.dev.mailDeliver env } :=
      congrArg Host.Outcome.next (State.onFabric_ready _ hrun hready)
    rw [hexec]
    unfold Dev.mailDeliver
    rw [Dev.mailReturns_none hreturns, hm]
  case receive =>
    have hexec : exec (.mailPacketReceive k) s = .next { s with dev := s.dev.mailReceive k.raw k.ce } :=
      congrArg Host.Outcome.next (State.onFabric_ready _ hrun hready)
    rw [hexec]
    refine ⟨fun htaken => ⟨_, rfl, ?_⟩, fun u hnew hkind hu hroom => ⟨_, rfl, ?_⟩, fun p hnew hkind hp hlen => ⟨_, rfl, ?_⟩⟩
    · subst hr hpsn
      unfold Dev.mailReceive
      dsimp only
      rw [if_pos htaken]
      obtain ⟨hinbox, hparts, -, hcount, hcmds, hmem⟩ := s.dev.duplicate_effect (bftSource k.raw) 0 (bits (fieldAt k.raw 10 1) 0 2) _ k.ce
      exact ⟨hinbox, hparts, hcount, hcmds, hmem⟩
    · rw [Dev.mailReceive_new k.ce hr hpsn hmsg hnew hkind hu hroom]
      obtain ⟨hinbox, hparts, -, hcmds, hmem⟩ := (s.dev.rxFlow_acks (bftSource k.raw) 0 (bits (fieldAt k.raw 10 1) 0 2)).kept
      rw [← hr] at hinbox hparts hcmds hmem
      obtain ⟨kinbox, kparts, -, kcmds, kmem⟩ := (Dev.countForAck_acks { r.1 with inbox := r.1.inbox ++ [⟨u, bftSource k.raw, fieldAt msg 10 1, msg⟩] }
        (r.2.take psn) k.ce).kept
      exact ⟨kinbox.trans (congrArg (· ++ _) hinbox), kparts.trans hparts, kcmds.trans hcmds, kmem.trans hmem⟩
    · have hreceive : s.dev.mailReceive k.raw k.ce =
          (r.1.modPart p (fun x => { x with mailReturns := x.mailReturns ++ [msg] })).countForAck (r.2.take psn) k.ce := by
        subst hr hpsn hmsg hp
        unfold Dev.mailReceive
        dsimp only
        rw [if_neg (by simp [hnew]), if_pos hkind]
      obtain ⟨hinbox, hparts, -, hcmds, hmem⟩ := (s.dev.rxFlow_acks (bftSource k.raw) 0 (bits (fieldAt k.raw 10 1) 0 2)).kept
      rw [← hr] at hinbox hparts hcmds hmem
      obtain ⟨kinbox, kparts, -, kcmds, kmem⟩ := (Dev.countForAck_acks (r.1.modPart p (fun x => { x with mailReturns := x.mailReturns ++ [msg] }))
        (r.2.take psn) k.ce).kept
      have hpart (q : Nat) : r.1.part q = s.dev.part q := by
        unfold Dev.part
        rw [hparts]
      have kpart (q : Nat) : (s.dev.mailReceive k.raw k.ce).part q = (r.1.modPart p (fun x => { x with mailReturns := x.mailReturns ++ [msg] })).part q := by
        rw [hreceive]
        unfold Dev.part
        rw [kparts]
      refine ⟨?_, ?_, fun q hq => ?_, ?_, ?_⟩
      · exact hreceive ▸ kinbox.trans hinbox
      · rw [kpart, Dev.part_modPart_same _ p _ (by rw [hparts]; exact hlen), hpart]
      · rw [kpart, Dev.part_modPart_other _ _ hq, hpart]
      · exact hreceive ▸ kcmds.trans hcmds
      · exact hreceive ▸ kmem.trans hmem

/-! ### Packets and acknowledgements of flows -/

/-- A DATA packet of its job's epoch that is new joins what has been received. -/
theorem Dev.dataReceive_new {d : Dev} {raw : Bytes} (ce : Bool) {j : Job} (hj : d.job? (fieldAt raw 6 2) = some j) (hepoch : j.epoch = fieldAt raw 8 2)
    (hnew : (d.rxFlow (bftSource raw) (fieldAt raw 6 2) (bits (fieldAt raw 10 1) 0 2)).2.has (fieldAt raw 12 4) = false) :
    (d.dataReceive raw ce).received = d.received ++ [⟨bftSource raw, fieldAt raw 6 2, bits (fieldAt raw 10 1) 0 2, fieldAt raw 24 4, fieldAt raw 16 8,
      (raw.drop 32).take (fieldAt raw 28 2)⟩] ∧ (d.dataReceive raw ce).cmds = d.cmds ∧ (d.dataReceive raw ce).SameMemory d := by
  obtain ⟨-, -, hreceived, hcmds, hmem⟩ := (d.rxFlow_acks (bftSource raw) (fieldAt raw 6 2) (bits (fieldAt raw 10 1) 0 2)).kept
  unfold Dev.dataReceive
  dsimp only
  simp only [hj, hepoch, if_true]
  rw [if_neg (by simp), if_neg (by simpa [RxFlow.has] using hnew)]
  obtain ⟨-, -, kreceived, kcmds, kmem⟩ := Dev.Acks.kept (Dev.countForAck_acks _ _ ce)
  rw [kreceived, kcmds]
  refine ⟨?_, ?_, kmem.trans ?_⟩
  · split <;> exact congrArg (· ++ _) hreceived
  · split <;> exact hcmds
  · split <;> exact hmem

/-- One already taken counts as a duplicate. -/
theorem Dev.dataReceive_taken {d : Dev} {raw : Bytes} (ce : Bool) {j : Job} (hj : d.job? (fieldAt raw 6 2) = some j) (hepoch : j.epoch = fieldAt raw 8 2)
    (htaken : (d.rxFlow (bftSource raw) (fieldAt raw 6 2) (bits (fieldAt raw 10 1) 0 2)).2.has (fieldAt raw 12 4) = true) :
    (d.dataReceive raw ce).received = d.received ∧ (d.dataReceive raw ce).regN pgFAB 0x818 = min (d.regN pgFAB 0x818 + 1) (2 ^ 32 - 1) ∧
      (d.dataReceive raw ce).cmds = d.cmds ∧ (d.dataReceive raw ce).SameMemory d := by
  unfold Dev.dataReceive
  dsimp only
  simp only [hj, hepoch, if_true]
  rw [if_neg (by simp), if_pos (by simpa [RxFlow.has] using htaken)]
  obtain ⟨-, -, hreceived, hcount, hcmds, hmem⟩ := d.duplicate_effect (bftSource raw) (fieldAt raw 6 2) (bits (fieldAt raw 10 1) 0 2) _ ce
  exact ⟨hreceived, hcount, hcmds, hmem⟩

/-- A flow of the list that has the identifier of one just set is that flow. -/
theorem Dev.mem_setTx {d : Dev} {f g : TxFlow} (h : g ∈ (d.setTx f).txFlows) (hid : g.id = f.id) : g = f := by
  obtain ⟨x, -, rfl⟩ := List.mem_map.mp h
  by_cases hx : x.id = f.id
  · exact if_pos hx
  · rw [if_neg hx] at hid
    exact absurd hid hx

/-- The same of receiving flows. -/
theorem Dev.mem_setRx {d : Dev} {f g : RxFlow} (h : g ∈ (d.setRx f).rxFlows) (hid : g.id = f.id) : g = f := by
  obtain ⟨x, -, rfl⟩ := List.mem_map.mp h
  by_cases hx : x.id = f.id
  · exact if_pos hx
  · rw [if_neg hx] at hid
    exact absurd hid hx

/-- A packet that is sent again keeps its PSN, and sending it changes no flow. -/
theorem Dev.resend_effect (d : Dev) (f : TxFlow) (p : FlowPacket) (counted : Bool) : (d.bump pgFAB 0x81C 1).Emits (d.resend f p counted).1 ∧
    (d.resend f p counted).2 = { p with tries := p.tries + (if counted then 1 else 0), passed := 0, sentAt := d.now } :=
  ⟨Dev.emit_emits _ _ _, rfl⟩

/-- A packet that an ACK leaves: sent again when three that were sent after it have been acknowledged (R419). -/
def Dev.ackLeft (f : TxFlow) (a : Dev × List FlowPacket) (p : FlowPacket) : Dev × List FlowPacket :=
  if p.passed ≥ 3 then ((a.1.resend f p true).1, a.2 ++ [(a.1.resend f p true).2]) else (a.1, a.2 ++ [p])

/-- Those that an ACK leaves keep their PSNs, and no flow, command or memory changes. -/
theorem Dev.ackLeft_fold (f : TxFlow) (left : List FlowPacket) (a : Dev × List FlowPacket) :
    (∃ g s x, (left.foldl (Dev.ackLeft f) a).1 = { a.1 with regs := g, sent := s, ports := x }) ∧
      ∀ q ∈ (left.foldl (Dev.ackLeft f) a).2, q ∈ a.2 ∨ ∃ p ∈ left, q.psn = p.psn := by
  induction left generalizing a with
  | nil => exact ⟨⟨_, _, _, rfl⟩, fun q hq => .inl hq⟩
  | cons p left ih =>
    obtain ⟨⟨g, s, x, hdev⟩, hpsn⟩ := ih (Dev.ackLeft f a p)
    have hstep : (∃ g s x, (Dev.ackLeft f a p).1 = { a.1 with regs := g, sent := s, ports := x }) ∧
        ∀ q ∈ (Dev.ackLeft f a p).2, q ∈ a.2 ∨ q.psn = p.psn := by
      unfold Dev.ackLeft
      split
      · obtain ⟨⟨⟨g, s, x, h⟩, -⟩, hq⟩ := a.1.resend_effect f p true
        refine ⟨⟨g, s, x, h⟩, fun q hmem => ?_⟩
        rcases List.mem_append.mp hmem with hold | hnew
        · exact .inl hold
        · rw [List.mem_singleton.mp hnew, hq]
          exact .inr rfl
      · refine ⟨⟨_, _, _, rfl⟩, fun q hmem => ?_⟩
        rcases List.mem_append.mp hmem with hold | hnew
        · exact .inl hold
        · exact .inr (congrArg FlowPacket.psn (List.mem_singleton.mp hnew))
    obtain ⟨⟨g', s', x', h'⟩, hold⟩ := hstep
    refine ⟨⟨g, s, x, hdev.trans (by rw [h'])⟩, fun q hq => ?_⟩
    rcases hpsn q hq with hmem | ⟨p', hp', h⟩
    · rcases hold q hmem with h | h
      · exact .inl h
      · exact .inr ⟨p, List.mem_cons_self, h⟩
    · exact .inr ⟨p', List.mem_cons_of_mem _ hp', h⟩

/-- With no command on its way, nothing commits. -/
theorem Dev.settleSent_none {d : Dev} (h : ∀ c ∈ d.cmds, c.shipped = false) : d.settleSent = d := by
  unfold Dev.settleSent
  dsimp only
  rw [List.filter_eq_nil_iff.mpr fun c hc => by simp [h c hc]]
  rfl

/-- The packets that an ACK does not cover, each with the count of later ones it covers. -/
def TxFlow.uncovered (f : TxFlow) (cum bitmap : Nat) : List FlowPacket :=
  (f.unacked.filter (fun p => !ackCovers cum bitmap p.psn)).map (fun p => { p with
    passed := p.passed + ((f.unacked.filter (fun p => ackCovers cum bitmap p.psn)).filter
      (fun q => decide (0 < psnDist p.psn q.psn) && decide (psnDist p.psn q.psn < 2 ^ 31))).length })

theorem TxFlow.uncovered_psn {f : TxFlow} {cum bitmap : Nat} {p : FlowPacket} (h : p ∈ f.uncovered cum bitmap) : ackCovers cum bitmap p.psn = false := by
  obtain ⟨q, hq, rfl⟩ := List.mem_map.mp h
  simpa using (List.mem_filter.mp hq).2

/-- A flow set to packets that an ACK does not cover, with no command to commit. -/
theorem Dev.ackSettled_effect {d e : Dev} {f : TxFlow} {cum bitmap : Nat} (hship : ∀ c ∈ d.cmds, c.shipped = false)
    (he : ∃ g s x j, e = { d with regs := g, sent := s, ports := x, jobs := j }) (hl : ∀ p ∈ f.unacked, ackCovers cum bitmap p.psn = false)
    {id : Nat} (hid : f.id = id) :
    (∀ g ∈ ((e.setTx f).setTx f).settleSent.txFlows, g.id = id → ∀ p ∈ g.unacked, ackCovers cum bitmap p.psn = false) ∧
      ((e.setTx f).setTx f).settleSent.cmds = d.cmds ∧ ((e.setTx f).setTx f).settleSent.SameMemory d := by
  obtain ⟨g, s, x, j, rfl⟩ := he
  rw [Dev.settleSent_none (by exact hship)]
  refine ⟨fun g hg hgid p hp => hl p ?_, rfl, rfl, rfl, rfl⟩
  rwa [Dev.mem_setTx hg (hgid.trans hid.symm)] at hp

/-- An ACK for a flow with nothing waiting leaves only packets that it does not cover. -/
theorem Dev.ackFlow_effect (d : Dev) (f : TxFlow) (cum bitmap ce : Nat) (hwait : f.waiting = []) (hship : ∀ c ∈ d.cmds, c.shipped = false) :
    (∀ g ∈ (d.ackFlow f cum bitmap ce).txFlows, g.id = f.id → ∀ p ∈ g.unacked, ackCovers cum bitmap p.psn = false) ∧
      (d.ackFlow f cum bitmap ce).cmds = d.cmds ∧ (d.ackFlow f cum bitmap ce).SameMemory d := by
  unfold Dev.ackFlow
  dsimp only
  generalize hr : List.foldl _ _ _ = r
  have hfold : r = (f.uncovered cum bitmap).foldl (Dev.ackLeft f) (_, []) := hr.symm
  obtain ⟨⟨g, s, x, hdev⟩, hpsn⟩ := Dev.ackLeft_fold f (f.uncovered cum bitmap) (_, [])
  rw [← hfold] at hdev hpsn
  simp only [hwait, Dev.pump]
  refine Dev.ackSettled_effect hship ?_ (fun p hp => ?_) rfl
  · rw [hdev]
    split <;> split <;> exact ⟨_, _, _, _, rfl⟩
  · rcases hpsn p hp with h | ⟨q, hq, h⟩
    · cases h
    · rw [h]
      exact TxFlow.uncovered_psn hq

/-! ### Failures and timers of flows (R419 to R421) -/

/-- What an entry, an interrupt or a returned message leaves of flows and jobs. -/
structure Dev.FlowsKept (d e : Dev) : Prop where
  now : e.now = d.now
  txFlows : e.txFlows = d.txFlows
  jobs : e.jobs = d.jobs
  fails : e.regN pgFAB 0x824 = d.regN pgFAB 0x824
  cmds : e.cmds = d.cmds
  memory : e.SameMemory d

theorem Dev.FlowsKept.refl (d : Dev) : d.FlowsKept d := ⟨rfl, rfl, rfl, rfl, rfl, rfl, rfl, rfl⟩

theorem Dev.FlowsKept.trans {d e f : Dev} (h : d.FlowsKept e) (k : e.FlowsKept f) : d.FlowsKept f :=
  ⟨k.now.trans h.now, k.txFlows.trans h.txFlows, k.jobs.trans h.jobs, k.fails.trans h.fails, k.cmds.trans h.cmds, k.memory.trans h.memory⟩

theorem Dev.FlowsKept.raise (d : Dev) (i : Nat) : d.FlowsKept (d.raise pgFAB i) :=
  ⟨by simp, by simp, by simp, Dev.regN_raise_other _ _ (regKey_off_ne (by decide) (by decide) (by decide)), by simp, by simp, by simp, by simp⟩

theorem Dev.FlowsKept.log (d : Dev) (x : LogEntry) : d.FlowsKept (d.log x) :=
  ⟨by simp, by simp, by simp, Dev.regN_log_other _ _ (regKey_off_ne (by decide) (by decide) (by decide)), by simp, by simp, by simp, by simp⟩

theorem Dev.FlowsKept.mailBack (d : Dev) (part : Nat) (msg : Bytes) (status unit : Nat) : d.FlowsKept (d.mailBack part msg status unit) := by
  unfold Dev.mailBack
  split
  · exact ⟨rfl, rfl, rfl, rfl, rfl, rfl, rfl, rfl⟩
  · have hbump : d.FlowsKept (d.bump pgFAB 0x804 1) :=
      ⟨rfl, rfl, rfl, Dev.regN_bump_other _ _ (regKey_off_ne (by decide) (by decide) (by decide)), rfl, rfl, rfl, rfl⟩
    exact (hbump.trans (.raise _ _)).trans (.log _ _)

theorem Dev.FlowsKept.foldl {α : Type} {f : Dev → α → Dev} (h : ∀ (d : Dev) x, d.FlowsKept (f d x)) (l : List α) (d : Dev) : d.FlowsKept (l.foldl f d) := by
  induction l generalizing d with
  | nil => exact .refl d
  | cons x l ih => exact (h d x).trans (ih _)

/-- The failure of a job none of whose commands lives ends no command. -/
theorem Dev.failJob_none {d : Dev} {id : Nat} (x : LogEntry) (h : ∀ c ∈ d.cmds, c.live = false ∨ c.jobId ≠ some id) :
    d.failJob id x = (d.modJob id (fun j => { j with failed := true })).log x := by
  unfold Dev.failJob
  dsimp only
  rw [List.filter_eq_nil_iff.mpr fun c hc => by simpa [← Bool.not_eq_true, imp_iff_not_or] using h c hc]
  rfl

/-- A flow that fails is gone, its job has failed and FLOW_FAILS counts it. -/
theorem Dev.failFlow_effect {d : Dev} {f : TxFlow} (cause : Nat) (h : ∀ c ∈ d.cmds, c.live = false ∨ c.jobId ≠ some f.job) :
    (d.failFlow f cause).now = d.now ∧ (∀ g ∈ (d.failFlow f cause).txFlows, g.id ≠ f.id) ∧
      (∀ j ∈ (d.failFlow f cause).jobs, f.job ≠ 0 → j.id = f.job → j.failed = true) ∧
      (d.failFlow f cause).regN pgFAB 0x824 = min (d.regN pgFAB 0x824 + 1) (2 ^ 32 - 1) ∧ (d.failFlow f cause).cmds = d.cmds ∧
      (d.failFlow f cause).SameMemory d := by
  unfold Dev.failFlow
  dsimp only
  have hraise := Dev.FlowsKept.raise (({ d with txFlows := d.txFlows.filter (fun x => x.id != f.id) } : Dev).bump pgFAB 0x824 1) 1
  generalize (({ d with txFlows := d.txFlows.filter (fun x => x.id != f.id) } : Dev).bump pgFAB 0x824 1).raise pgFAB 1 = e at hraise ⊢
  have hgone : ∀ g ∈ e.txFlows, g.id ≠ f.id := fun g hg => by
    rw [hraise.txFlows] at hg
    simpa using (List.mem_filter.mp hg).2
  have hfails : e.regN pgFAB 0x824 = min (d.regN pgFAB 0x824 + 1) (2 ^ 32 - 1) := hraise.fails.trans (Dev.regN_bump_same ..)
  split
  · rw [Dev.failJob_none _ (by rw [hraise.cmds]; exact h)]
    have hlog := Dev.FlowsKept.log (e.modJob f.job (fun j => { j with failed := true })) (fabricEntry f.dst f.job cause f.part)
    refine ⟨hlog.now.trans hraise.now, ?_, fun j hj _ hid => ?_, hlog.fails.trans hfails, hlog.cmds.trans hraise.cmds, hlog.memory.trans hraise.memory⟩
    · rw [hlog.txFlows]
      exact hgone
    · rw [hlog.jobs] at hj
      obtain ⟨i, -, rfl⟩ := List.mem_map.mp hj
      by_cases hi : i.id = f.job
      · rw [if_pos hi]
      · rw [if_neg hi] at hid
        exact absurd hid hi
  · rename_i hjob
    have hmail (d : Dev) (p : FlowPacket) : d.FlowsKept (if p.kind = 2 then d.mailBack f.part p.data stLOST 0 else d) := by
      split
      · exact .mailBack ..
      · exact .refl d
    have hkept := (Dev.FlowsKept.log e (fabricEntry f.dst 0 cause f.part)).trans (.foldl hmail (f.unacked ++ f.waiting) _)
    refine ⟨hkept.now.trans hraise.now, ?_, fun _ _ hne => absurd hne hjob, hkept.fails.trans hfails, hkept.cmds.trans hraise.cmds,
      hkept.memory.trans hraise.memory⟩
    rw [hkept.txFlows]
    exact hgone

/-- The ACK delay sends an ACK and starts the flow's counts again. -/
theorem Dev.ackDelay_effect {d : Dev} {flow : Nat} {f : RxFlow} (hf : d.rxFlows.find? (fun g => g.id == flow) = some f) (hun : f.unacked ≠ 0) :
    (d.ackDelay flow).now = max d.now (f.since + bits (d.active pgFAB 0x060) 8 16) ∧
      (∀ g ∈ (d.ackDelay flow).rxFlows, g.id = f.id → g = { f with unacked := 0, ce := 0 }) ∧ (d.ackDelay flow).cmds = d.cmds ∧
      (d.ackDelay flow).SameMemory d := by
  unfold Dev.ackDelay
  rw [hf]
  dsimp only
  rw [if_neg hun]
  unfold Dev.sendAck
  obtain ⟨⟨g, s, x, h⟩, -⟩ := Dev.emit_emits { d with now := max d.now (f.since + bits (d.active pgFAB 0x060) 8 16) }
    { id := f.id, dst := f.src, job := f.job, die := f.die } { kind := 1, data := f.ackBytes }
  dsimp only
  rw [h]
  exact ⟨rfl, fun g hg hid => Dev.mem_setRx hg hid, rfl, rfl, rfl, rfl⟩

/-- A packet of a flow that may still be tried is sent again and kept. -/
theorem Dev.rtoExpire_retry {d : Dev} {flow psn : Nat} {f : TxFlow} {p : FlowPacket} (hf : d.txFlows.find? (fun g => g.id == flow) = some f)
    (hp : f.unacked.find? (fun q => q.psn == psn) = some p) (htries : p.tries < d.retryLimit) (hready : f.notReadySince = none) :
    (d.rtoExpire flow psn).now = max d.now (p.sentAt + d.rtoCycles) ∧
      (d.rtoExpire flow psn).regN pgFAB 0x81C = min (d.regN pgFAB 0x81C + 1) (2 ^ 32 - 1) ∧
      (∀ g ∈ (d.rtoExpire flow psn).txFlows, g.id = f.id → g.unacked.length = f.unacked.length ∧
        ∀ q ∈ g.unacked, q.psn = psn → q.sentAt = (d.rtoExpire flow psn).now ∧ q.tries = p.tries + 1) ∧
      (d.rtoExpire flow psn).cmds = d.cmds ∧ (d.rtoExpire flow psn).SameMemory d := by
  unfold Dev.rtoExpire
  rw [hf]
  dsimp only
  rw [hp]
  dsimp only
  have hlimit : Dev.retryLimit { d with now := max d.now (p.sentAt + d.rtoCycles) } = d.retryLimit := rfl
  rw [hlimit, if_neg (by simp [htries])]
  obtain ⟨⟨⟨g, s, x, h⟩, hreg⟩, hsent⟩ := Dev.resend_effect { d with now := max d.now (p.sentAt + d.rtoCycles) } f p f.notReadySince.isNone
  rw [hready] at *
  have hcount := (hreg 0x81C (by decide)).trans (Dev.regN_bump_same ..)
  rw [h, hsent] at *
  refine ⟨rfl, hcount, fun g hg hid => ?_, rfl, rfl, rfl, rfl⟩
  rw [Dev.mem_setTx hg hid]
  refine ⟨List.length_map .., fun q hq hpsn => ?_⟩
  obtain ⟨q', -, rfl⟩ := List.mem_map.mp hq
  by_cases hq' : q'.psn = psn
  · rw [if_pos hq']
    exact ⟨rfl, rfl⟩
  · rw [if_neg hq'] at hpsn
    exact absurd hpsn hq'

/-- Past the retry limit the flow fails. -/
theorem Dev.rtoExpire_fails {d : Dev} {flow psn : Nat} {f : TxFlow} {p : FlowPacket} (hf : d.txFlows.find? (fun g => g.id == flow) = some f)
    (hp : f.unacked.find? (fun q => q.psn == psn) = some p) (htries : d.retryLimit ≤ p.tries) (hready : f.notReadySince = none) :
    d.rtoExpire flow psn = ({ d with now := max d.now (p.sentAt + d.rtoCycles) } : Dev).failFlow f 0 := by
  unfold Dev.rtoExpire
  rw [hf]
  dsimp only
  rw [hp]
  have hlimit : Dev.retryLimit { d with now := max d.now (p.sentAt + d.rtoCycles) } = d.retryLimit := rfl
  dsimp only
  rw [hlimit, if_pos (by simp [htries, hready])]

/-- A rate update takes the marks of its period into the rate. -/
theorem Dev.rateUpdate_effect {d : Dev} {flow : Nat} {f : TxFlow} (hf : d.txFlows.find? (fun g => g.id == flow) = some f) :
    d.rateUpdate flow = { d with now := max d.now (f.updatedAt + 12000), txFlows := (d.rateUpdate flow).txFlows } ∧
      ∀ g ∈ (d.rateUpdate flow).txFlows, g.id = f.id → g.marked = 0 ∧ g.acked = 0 ∧ (f.marked = 0 →
        g.rate = min (d.lineRate f.die : Rat) (f.rate + (bits (d.active pgFAB 0x058) 8 8 : Rat))) := by
  unfold Dev.rateUpdate
  rw [hf]
  refine ⟨rfl, fun g hg hid => ?_⟩
  rw [Dev.mem_setTx hg hid]
  refine ⟨rfl, rfl, fun hmarked => ?_⟩
  dsimp only
  rw [if_neg (by simp [hmarked])]
  split
  · rename_i hlt
    exact (min_eq_left hlt.le).symm
  · rename_i hge
    exact (min_eq_right (not_lt.mp hge)).symm

/-- Settles O52: each packet or timer finds its flow, and changes that flow, its job and what is sent. -/
theorem fabricPackets : Obligations.FabricPackets := by
  intro s hrun hready
  have hfabric (f : Dev → Dev) : s.onFabric f = { s with dev := f s.dev } := State.onFabric_ready f hrun hready
  refine ⟨fun k j r hr hj hepoch => ⟨fun hnew => ?new, fun htaken => ?taken⟩, fun k f hf => ⟨fun hst => ?notReady, fun hst hwait hship => ?ack⟩,
    fun flow f hf => ⟨fun hun => ?idle, fun hun => ?delay⟩, fun flow psn f p hf hp => ⟨fun htries hnr => ?retry, fun htries hnr hc => ?fails⟩,
    fun flow f n hf hn hc => ?wait, fun flow f hf => ?rate⟩
  case new =>
    subst hr
    refine ⟨_, congrArg Host.Outcome.next (hfabric _), ?_⟩
    exact Dev.dataReceive_new k.ce hj hepoch hnew
  case taken =>
    subst hr
    refine ⟨_, congrArg Host.Outcome.next (hfabric _), ?_⟩
    exact Dev.dataReceive_taken k.ce hj hepoch htaken
  case notReady =>
    refine congrArg Host.Outcome.next ((hfabric _).trans ?_)
    unfold Dev.ackReceive
    simp only [hf, hst]
  case ack =>
    have hack : s.dev.ackReceive k.raw = s.dev.ackFlow f (fieldAt k.raw 32 4) (fieldAt k.raw 36 8) (fieldAt k.raw 44 2) := by
      unfold Dev.ackReceive
      simp only [hf, hst]
    refine ⟨_, congrArg Host.Outcome.next (hfabric _), ?_⟩
    dsimp only
    rw [hack]
    exact s.dev.ackFlow_effect f _ _ _ hwait hship
  case idle =>
    refine congrArg Host.Outcome.next ((hfabric _).trans ?_)
    unfold Dev.ackDelay
    simp only [hf, hun, if_true]
  case delay =>
    refine ⟨_, congrArg Host.Outcome.next (hfabric _), ?_⟩
    exact Dev.ackDelay_effect hf hun
  case retry =>
    refine ⟨_, congrArg Host.Outcome.next (hfabric _), ?_⟩
    exact Dev.rtoExpire_retry hf hp htries hnr
  case fails =>
    refine ⟨_, congrArg Host.Outcome.next (hfabric _), ?_⟩
    dsimp only
    rw [Dev.rtoExpire_fails hf hp htries hnr]
    exact (Dev.failFlow_effect (d := { s.dev with now := max s.dev.now (p.sentAt + s.dev.rtoCycles) }) 0 hc).2
  case wait =>
    have hfail : s.dev.jobWaitExpire flow = ({ s.dev with now := max s.dev.now (n + s.dev.jobWaitCycles) } : Dev).failFlow f 1 := by
      unfold Dev.jobWaitExpire
      simp only [hf, hn]
    refine ⟨_, congrArg Host.Outcome.next (hfabric _), ?_⟩
    dsimp only
    rw [hfail]
    obtain ⟨hnow, hgone, hjobs, -, hcmds, hmem⟩ := Dev.failFlow_effect (d := { s.dev with now := max s.dev.now (n + s.dev.jobWaitCycles) }) 1 hc
    exact ⟨hnow, hgone, hjobs, hcmds, hmem⟩
  case rate =>
    obtain ⟨hform, hflows⟩ := Dev.rateUpdate_effect hf
    refine ⟨_, congrArg Host.Outcome.next (hfabric _), ?_⟩
    have hnow : (s.dev.rateUpdate flow).now = max s.dev.now (f.updatedAt + 12000) := congrArg Dev.now hform
    refine ⟨?_, hnow, hflows⟩
    dsimp only
    rw [hnow]
    exact congrArg (fun d => { s with dev := d }) hform

end Sys2Proof.Machine
end

section
/-! Ports, and the packets and timers of media streams (R414, R452 to R455, R461, R464). O53. -/

namespace Sys2Proof.Machine

/-! ### Ports (R414) -/

/-- What the interrupts of a port's link leave. -/
theorem Dev.linkDown_effect {d : Dev} {e : Nat} (hup : (d.ports.getD e {}).up = true) :
    (d.linkDown e).ports = d.ports.set e { d.ports.getD e {} with up := false } ∧
      (d.linkDown e).regN (pgETH e) 0x820 = min (d.regN (pgETH e) 0x820 + 1) (2 ^ 32 - 1) ∧ (d.linkDown e).cmds = d.cmds ∧ (d.linkDown e).SameMemory d := by
  unfold Dev.linkDown
  rw [if_pos hup]
  refine ⟨by simp [Dev.bump], ?_, by simp [Dev.bump], ?_⟩
  · have hpage : pgETH e ≠ pgFAB := by unfold pgETH pgFAB; omega
    rw [Dev.regN_raise_other _ _ (regKey_page_ne (by decide) (by decide) hpage),
      Dev.regN_raise_other _ _ (regKey_off_ne (by decide) (by decide) (by decide)), Dev.regN_bump_same]
    rfl
  · exact (RegsSent.raise _ _ _).same.1.trans (RegsSent.raise _ _ _).same.1

theorem Dev.linkUp_effect {d : Dev} {e : Nat} (hex : d.portExists e = true) (hen : bit (d.active (pgETH e) 0x040) 0 = true)
    (hdown : (d.ports.getD e {}).up = false) :
    (d.linkUp e).ports = d.ports.set e { d.ports.getD e {} with up := true } ∧ (d.linkUp e).cmds = d.cmds ∧ (d.linkUp e).SameMemory d := by
  unfold Dev.linkUp
  rw [if_pos (by simp only [hex, hen, hdown]; rfl)]
  exact ⟨by simp, by simp, (RegsSent.raise _ _ _).same.1⟩

/-- One port of the list is set, and the others stay. -/
theorem ports_set {ports l : List EthPort} {e : Nat} {x : EthPort} (h : l = ports.set e x) (hlen : e < ports.length) :
    l.getD e {} = x ∧ ∀ i, i ≠ e → l.getD i {} = ports.getD i {} := by
  subst h
  refine ⟨?_, fun i hi => ?_⟩
  · rw [List.getD_eq_getElem?_getD, List.getElem?_set_self hlen]
    rfl
  · rw [List.getD_eq_getElem?_getD, List.getElem?_set_ne (Ne.symm hi), List.getD_eq_getElem?_getD]

/-! ### RTP (R452 to R455) -/

/-- A packet that fails counts towards its unit's failures. -/
theorem Dev.streamFails_effect (d : Dev) (unit part : Nat) (f : Part → Part) :
    let e := ((d.modPart part f).bump (pgMED unit) 0x820 1).raise (pgMED unit) 1
    e.regN (pgMED unit) 0x820 = min (d.regN (pgMED unit) 0x820 + 1) (2 ^ 32 - 1) ∧ e.streams = d.streams ∧ e.cmds = d.cmds ∧ e.SameMemory d := by
  refine ⟨?_, by simp [Dev.bump], by simp [Dev.bump], (RegsSent.raise _ _ _).same.1⟩
  rw [Dev.regN_raise_other _ _ (regKey_off_ne (by decide) (by decide) (by decide)), Dev.regN_bump_same]
  rfl

/-- A stream with a packet's sequence number noted (R453). -/
def Stream.noted (x : Stream) (n : Nat) : Stream :=
  let hi := match x.highest with
    | some h => max h n
    | none => n
  { x with highest := some hi, seen := (n :: x.seen).filter (fun i => decide (i + 1024 > hi)) }

/-- A stream with a packet held, where its mode is one the codec takes (R452, R454). -/
def Stream.held (x : Stream) (n : Nat) (b : Bytes) (arrival : Int) : Stream :=
  if Config.rtpModeOk x.codec (rtpPayload b) then { x.noted n with packets := [⟨n, beNat ((b.drop 4).take 4), false, rtpPayload b, arrival⟩] } else x.noted n

theorem Stream.noted_highest (x : Stream) (n : Nat) : (x.noted n).highest = some (max (x.highest.getD n) n) := by
  unfold Stream.noted
  cases x.highest with
  | none => exact congrArg some (max_self n).symm
  | some h => rfl

/-- A packet without a marker completes no frame of a stream that holds no other. -/
theorem Dev.completeFrames_single (n : Nat) (d : Dev) {x : Stream} {p : RtpPacket} (hp : x.packets = [p]) (hm : p.marker = false) :
    Dev.completeFrames n d x = d.setStream x := by
  cases n with
  | zero => rfl
  | succ n =>
    unfold Dev.completeFrames
    rw [hp]
    simp [hm]

/-- A fresh packet of a stream in the clear that holds none is noted, and held where its mode is one the codec takes. -/
theorem Dev.rtpReceive_held {d : Dev} {k : UdpPacket} {x : Stream} {n : Nat} (hx : d.rtpStream k = some x) (hsrtp : x.srtp = 0) (hnone : x.packets = [])
    (hend : x.lastEnd = none) (hn : n = extendSeq x.highest (beNat ((k.data.drop 2).take 2))) (hmark : bit (fieldAt k.data 1 1) 7 = false)
    (hfresh : x.fresh n = true) :
    d.rtpReceive k = (d.modPart x.part (fun y => { y with window := { y.window with fabRx := y.window.fabRx + k.data.length } })).setStream
      (x.held n k.data (d.ptpAt d.now)) := by
  unfold Dev.rtpReceive Stream.held
  rw [hx]
  dsimp only
  rw [← hn, hfresh]
  have hopen : x.unseal (d.modPart x.part (fun y => { y with window := { y.window with fabRx := y.window.fabRx + k.data.length } })).now n k.data =
      some k.data := if_pos hsrtp
  simp only [Bool.not_true, Bool.false_eq_true, if_false, hopen]
  cases hmode : Config.rtpModeOk x.codec (rtpPayload k.data) with
  | false =>
    refine if_pos ?_
    show (!Config.rtpModeOk x.codec (rtpPayload k.data) || _ || _) = true
    rw [hmode]
    rfl
  | true =>
    refine (if_neg ?_).trans ((Dev.completeFrames_single (p := ⟨n, beNat ((k.data.drop 4).take 4), bit (fieldAt k.data 1 1) 7, rtpPayload k.data, d.ptpAt d.now⟩)
      _ _ ?_ hmark).trans ?_)
    · show ¬(!Config.rtpModeOk x.codec (rtpPayload k.data) || x.lastEnd.any _ || x.packets.any _) = true
      simp [hmode, hend, hnone]
    · show x.packets ++ [_] = [_]
      rw [hnone]
      rfl
    · rw [hnone, hmark]
      rfl

/-- A packet that is not fresh fails. -/
theorem Dev.rtpReceive_stale {d : Dev} {k : UdpPacket} {x : Stream} (hx : d.rtpStream k = some x)
    (hstale : x.fresh (extendSeq x.highest (beNat ((k.data.drop 2).take 2))) = false) :
    d.rtpReceive k = ((d.modPart x.part (fun y => { y with window := { y.window with fabRx := y.window.fabRx + k.data.length } })).bump
      (pgMED x.unit) 0x820 1).raise (pgMED x.unit) 1 := by
  unfold Dev.rtpReceive
  rw [hx]
  dsimp only
  rw [hstale]
  rfl

/-! ### RTCP and its timers (R455, R461, R464) -/

/-- A stream found by its identifier has it. -/
theorem Dev.id_of_stream {d : Dev} {id : Nat} {x : Stream} (h : d.stream? id = some x) : x.id = id := by
  simpa using List.find?_some h

/-- A stream of the list takes the place of the one with its identifier. -/
theorem Dev.stream_setStream_found {d : Dev} {id : Nat} {x : Stream} (y : Stream) (h : d.stream? id = some x) (hy : y.id = x.id) :
    (d.setStream y).stream? id = some y := by
  have hid : y.id = id := hy.trans (Dev.id_of_stream h)
  have hfound : (d.stream? y.id).isSome = true := by rw [hid, h]; rfl
  rw [← hid]
  exact d.stream_setStream_same y hfound

/-- A compound packet of one sender report gives a receive stream its report. -/
theorem Dev.rtcpAll_senderReport (d : Dev) {x : Stream} {b : Bytes} (n : Nat) (hlen : b.length = 28) (hpt : fieldAt b 1 1 = 200)
    (hwords : beNat ((b.drop 2).take 2) = 6) (hrecv : x.isSend = false) (hssrc : beNat ((b.drop 4).take 4) = x.ssrc) :
    d.rtcpAll (n + 2) x b = { x with report := some (d.ntpToPtp x.unit (beNat ((b.drop 8).take 4)) (beNat ((b.drop 12).take 4)), beNat ((b.drop 16).take 4)) } := by
  have hone : d.rtcpOne x b =
      { x with report := some (d.ntpToPtp x.unit (beNat ((b.drop 8).take 4)) (beNat ((b.drop 12).take 4)), beNat ((b.drop 16).take 4)) } :=
    if_pos (by simp [hpt, hrecv, hssrc])
  unfold Dev.rtcpAll
  rw [if_neg (by omega), hwords, List.drop_eq_nil_of_le (by omega), hone]
  exact if_pos (by decide)

/-- An RTCP packet in the clear acts on the stream it belongs to. -/
theorem Dev.rtcpReceive_clear {d : Dev} {k : UdpPacket} {x : Stream} (hx : d.rtcpStream k = some x) (hsrtp : x.srtp = 0) :
    d.rtcpReceive k = (d.modPart x.part (fun y => { y with window := { y.window with fabRx := y.window.fabRx + k.data.length } })).setStream
      ((d.modPart x.part (fun y => { y with window := { y.window with fabRx := y.window.fabRx + k.data.length } })).rtcpAll (k.data.length + 1) x k.data) := by
  unfold Dev.rtcpReceive
  rw [hx]
  dsimp only
  rw [show x.unseal _ 0 k.data = some k.data from if_pos hsrtp]

/-- The PLI timer of a stream that needs a key picture sends one PLI and counts it. -/
theorem Dev.pliTimer_sends {d : Dev} {id : Nat} {x : Stream} (hx : d.stream? id = some x) (hneed : x.needKey = true) (hopen : x.closing = false) :
    d.pliTimer id = ({ d with now := max d.now (x.pliAt + 120000000) } : Dev).sendPli x := by
  unfold Dev.pliTimer
  rw [hx]
  exact if_pos (by simp [hneed, hopen])

theorem Dev.sendPli_effect {d : Dev} {id : Nat} {x : Stream} (hx : d.stream? id = some x) :
    (d.sendPli x).now = d.now ∧ (d.sendPli x).stream? id = some { x with pliAt := d.now } ∧
      (d.sendPli x).regN (pgMED x.unit) 0x830 = min (d.regN (pgMED x.unit) 0x830 + 1) (2 ^ 32 - 1) ∧ (d.sendPli x).sent.length = d.sent.length + 1 ∧
      (d.sendPli x).cmds = d.cmds ∧ (d.sendPli x).SameMemory d :=
  ⟨rfl, Dev.stream_setStream_found (d := (d.sendRtcp x 2).bump (pgMED x.unit) 0x830 1) { x with pliAt := d.now } hx rfl,
    Dev.regN_bump_same (d.sendRtcp x 2) (pgMED x.unit) 0x830 1, rfl, rfl, rfl, rfl, rfl⟩

theorem Dev.rtcpReport_sends {d : Dev} {id : Nat} {x : Stream} (hx : d.stream? id = some x) (hopen : x.closing = false) :
    d.rtcpReport id = (({ d with now := max d.now (x.rtcpAt + d.active (pgMED x.unit) 0x044 % 65536 * 1200000) } : Dev).sendRtcp x
      (if x.isSend then 0 else 1)).setStream { x with rtcpAt := max d.now (x.rtcpAt + d.active (pgMED x.unit) 0x044 % 65536 * 1200000) } := by
  unfold Dev.rtcpReport
  rw [hx]
  exact if_neg (by simp [hopen])

/-- Settles O53: a link changes its port, a packet its stream, and a timer sends RTCP of its stream. -/
theorem portsAndStreams : Obligations.PortsAndStreams := by
  intro s hrun
  refine ⟨fun e he hlen => ⟨fun hdown => ?stays, fun hup => ?down, fun hdown hflag hrefclk hlanes hex hen => ?up⟩,
    fun k hk => ⟨fun hnone => ?noRtp, fun x hx hstale => ?stale, fun x n hx hid hsrtp hpackets hend hn hmark hfresh => ?held, fun hnone => ?noRtcp,
      fun x hx hid hsrtp hlength hpt hwords hrecv hssrc => ?report⟩,
    fun id x hx => ⟨fun hneed => ?noPli, fun hneed hopen => ?pli, fun hopen => ?timer⟩⟩
  case stays =>
    refine (onUnit_running s _ hrun (decide_eq_true he)).trans ?_
    unfold Dev.linkDown
    rw [if_neg (by rw [hdown]; decide)]
  case down =>
    refine ⟨_, onUnit_running s _ hrun (decide_eq_true he), ?_⟩
    obtain ⟨hports, hcount, hcmds, hmem⟩ := Dev.linkDown_effect hup
    obtain ⟨hsame, hother⟩ := ports_set hports hlen
    exact ⟨hsame, hother, hcount, hcmds, hmem⟩
  case up =>
    have hlink : s.ethUp e = { s with dev := s.dev.linkUp e } :=
      if_pos (by rw [hrun, show s.flag 2 = true from hflag, hrefclk, hlanes]; rfl)
    refine ⟨_, (if_pos (decide_eq_true he)).trans (congrArg Host.Outcome.next hlink), ?_⟩
    obtain ⟨hports, hcmds, hmem⟩ := Dev.linkUp_effect hex hen hdown
    obtain ⟨hsame, hother⟩ := ports_set hports hlen
    exact ⟨hsame, hother, hcmds, hmem⟩
  case noRtp =>
    refine ⟨_, onUnit_running s _ hrun (decide_eq_true hk), ?_⟩
    have hbump : s.dev.rtpReceive k = s.dev.bump (pgMED (k.port / 4 % 4)) 0x81C 1 := by
      unfold Dev.rtpReceive
      rw [hnone]
    dsimp only
    rw [hbump]
    exact s.counted _ _ _
  case stale =>
    refine ⟨_, onUnit_running s _ hrun (decide_eq_true hk), ?_⟩
    dsimp only
    rw [Dev.rtpReceive_stale hx hstale]
    exact s.dev.streamFails_effect x.unit x.part _
  case held =>
    refine ⟨_, x.held n k.data (s.dev.ptpAt s.dev.now), onUnit_running s _ hrun (decide_eq_true hk), ?_⟩
    dsimp only
    rw [Dev.rtpReceive_held hx hsrtp hpackets hend hn hmark hfresh]
    unfold Stream.held
    refine ⟨Dev.stream_setStream_found _ hid (by split <;> rfl), fun hmode => ?_, fun hmode => ?_, ?_, by split <;> rfl, rfl, rfl, rfl, rfl⟩
    · rw [hmode]
      exact hpackets
    · rw [hmode]
      rfl
    · split <;> exact x.noted_highest n
  case noRtcp =>
    refine ⟨_, onUnit_running s _ hrun (decide_eq_true hk), ?_⟩
    have hbump : s.dev.rtcpReceive k = s.dev.bump (pgMED (k.port / 4 % 4)) 0x81C 1 := by
      unfold Dev.rtcpReceive
      rw [hnone]
    dsimp only
    rw [hbump]
    exact s.counted _ _ _
  case report =>
    refine ⟨_, onUnit_running s _ hrun (decide_eq_true hk), ?_⟩
    dsimp only
    rw [Dev.rtcpReceive_clear hx hsrtp, hlength, Dev.rtcpAll_senderReport _ 27 hlength hpt hwords hrecv hssrc]
    exact ⟨rfl, ⟨rfl, rfl, rfl⟩, Dev.stream_setStream_found _ hid rfl⟩
  case noPli =>
    refine (onDevice_running s _ hrun).trans ?_
    unfold Dev.pliTimer
    simp only [hx, hneed, Bool.false_and, Bool.false_eq_true, if_false]
  case pli =>
    refine ⟨_, onDevice_running s _ hrun, ?_⟩
    dsimp only
    rw [Dev.pliTimer_sends hx hneed hopen]
    exact Dev.sendPli_effect hx
  case timer =>
    refine ⟨_, onDevice_running s _ hrun, ?_⟩
    dsimp only
    rw [Dev.rtcpReport_sends hx hopen]
    exact ⟨rfl, Dev.stream_setStream_found _ hx rfl, rfl, rfl, rfl, rfl, rfl⟩

end Sys2Proof.Machine
end

section
/-! What commands that end leave of the host interface: configuration spaces, masks, IDE streams and translations stay, and only pending bits of vectors
are added (R483). The link, configuration spaces, function-level resets and vectors (R475 to R489). O54 and O56. -/

namespace Sys2Proof.Machine

/-- The host interface without its pending bits. -/
def Pci.steady (c : Pci) : Pci := { c with msixPending := [] }

/-- Of the host interface only pending bits differ. -/
def Dev.PciKept (d e : Dev) : Prop := e.pci.steady = d.pci.steady

theorem Dev.PciKept.refl (d : Dev) : d.PciKept d := rfl

theorem Dev.PciKept.of_eq {d e : Dev} (h : e.pci = d.pci) : d.PciKept e := by
  unfold Dev.PciKept
  rw [h]

theorem Dev.PciKept.trans {d e f : Dev} (h : d.PciKept e) (k : e.PciKept f) : d.PciKept f := Eq.trans k h

theorem Dev.PciKept.fns {d e : Dev} (h : d.PciKept e) : e.pci.fns = d.pci.fns := (congrArg Pci.fns h :)

theorem Dev.PciKept.ide {d e : Dev} (h : d.PciKept e) : e.pci.ide = d.pci.ide := (congrArg Pci.ide h :)

theorem Dev.PciKept.ite {d a b : Dev} {c : Prop} [Decidable c] (h : d.PciKept a) (k : d.PciKept b) : d.PciKept (if c then a else b) := by
  split <;> assumption

theorem Dev.PciKept.foldl {α : Type} {f : Dev → α → Dev} (h : ∀ (d : Dev) x, d.PciKept (f d x)) (l : List α) (d : Dev) : d.PciKept (l.foldl f d) := by
  induction l generalizing d with
  | nil => exact .refl d
  | cons x l ih => exact (h d x).trans (ih _)

/-! ### Vectors, registers and the log -/

theorem Dev.sendVector_pci (d : Dev) (f v : Nat) : d.PciKept (d.sendVector f v) := by
  unfold Dev.sendVector
  exact .ite (.refl d) (.ite (.refl d) rfl)

theorem Dev.eventVector_pci (d : Dev) (p v : Nat) : d.PciKept (d.eventVector p v) := by
  unfold Dev.eventVector
  exact .ite (d.sendVector_pci _ _) (.ite (d.sendVector_pci _ _) (d.sendVector_pci _ _))

theorem Dev.raise_pci (d : Dev) (page i : Nat) : d.PciKept (d.raise page i) := by
  unfold Dev.raise Dev.raiseBits Dev.withIrqEdge
  refine .ite ?_ (.refl d)
  unfold Dev.sendPageIrq
  split
  · exact Dev.PciKept.trans (e := d.setReg page oIntStat (d.reg page oIntStat ||| BitVec.ofNat 32 (1 <<< i))) (.refl d) (Dev.eventVector_pci _ _ _)
  · exact Dev.PciKept.trans (e := d.setReg page oIntStat (d.reg page oIntStat ||| BitVec.ofNat 32 (1 <<< i))) (.refl d) (Dev.sendVector_pci _ _ _)

/-- An interrupt may follow. -/
theorem Dev.PciKept.raise {d e : Dev} (h : d.PciKept e) (page i : Nat) : d.PciKept (e.raise page i) := h.trans (e.raise_pci page i)

theorem Dev.log_pci (d : Dev) (x : LogEntry) : d.PciKept (d.log x) := by
  unfold Dev.log
  refine .ite (.refl d) (Dev.PciKept.raise ?_ _ _)
  exact .of_eq rfl

/-! ### Ends of commands -/

theorem Dev.complete_pci (d : Dev) (c : Cmd) (status detail : Nat) : d.PciKept (d.complete c status detail) := by
  obtain ⟨_, _, _, _, _, h⟩ := d.givesBack_form c (ranToEnd (c.endStatus status detail).1 (c.endStatus status detail).2)
  unfold Dev.complete
  dsimp only
  rw [h]
  unfold Dev.finish Dev.stopOnError
  refine .ite (Dev.PciKept.raise ?_ _ _) (.of_eq rfl)
  exact .of_eq rfl

theorem Dev.countKill_pci (d : Dev) (e : Engine) (byError : Bool) : d.PciKept (d.countKill e byError) := by
  cases e <;> exact .refl d

theorem Dev.sticky_pci (d : Dev) (p i : Nat) (on : Bool) : d.PciKept (d.sticky p i on) := by
  unfold Dev.sticky
  refine .ite (.ite (.of_eq rfl) (Dev.PciKept.raise ?_ _ _)) (.refl d)
  exact .of_eq rfl

theorem Dev.countRandom_pci (d : Dev) (c : Cmd) : d.PciKept (d.countRandom c) := by
  unfold Dev.countRandom
  refine .ite (.of_eq rfl) (.ite (.ite (.of_eq rfl) (Dev.PciKept.raise ?_ _ _)) (.refl d))
  exact .of_eq rfl

theorem Dev.commitCmd_pci (d : Dev) (c : Cmd) : d.PciKept (d.commitCmd c) := by
  unfold Dev.commitCmd
  obtain ⟨t, h⟩ := d.settleTags_form c
  rw [h]
  have hcount : d.PciKept (Dev.countRandom { d with tags := t } c) := Dev.countRandom_pci { d with tags := t } c
  exact (Dev.PciKept.ite (hcount.trans (Dev.sticky_pci ..)) hcount).trans (Dev.complete_pci ..)

/-! ### Tiles in their commit phase -/

theorem Dev.countCommit_pci (d : Dev) (t : TileSpace) (id : TileId) (e : Engine) : (d.countCommit t id e).pci = d.pci := by
  unfold Dev.countCommit
  cases e with
  | vec n => rfl
  | arr a =>
    dsimp only
    split
    · show Dev.pci (ite _ _ _) = d.pci
      split <;> rfl
    · split <;> rfl

theorem Dev.makeDue_pci (d : Dev) (c : Cmd) (t : TileSpace) (id : TileId) (core : Nat) : (d.makeDue c t id core).1.pci = d.pci := by
  unfold Dev.makeDue
  dsimp only
  repeat' split
  all_goals rfl

theorem Dev.handSends_pci (d : Dev) (c : Cmd) (r : TileResult) : (d.handSends c r).pci = d.pci := by
  unfold Dev.handSends
  repeat' split
  all_goals rfl

theorem Dev.overrunIf_pci (d : Dev) (u : Nat) (measure : Cmd → Cmd) : d.PciKept (d.overrunIf u measure) := by
  unfold Dev.overrunIf
  split
  · refine .ite (Dev.PciKept.raise ?_ _ _) (.refl d)
    exact .of_eq rfl
  · exact .refl d

theorem Dev.tileDone_pci (d : Dev) (u : Nat) (id : TileId) (e : Engine) (r : TileResult) (flags : NumFlags) : d.PciKept (d.tileDone u id e r flags) := by
  unfold Dev.tileDone
  split
  · exact .refl d
  · extract_lets t w w1 c d1 m c1 d2
    have hm : m.1.pci = d.pci := (Dev.makeDue_pci ..).trans (Dev.countCommit_pci ..)
    have hsends : ((m.1.setCmd c1).handSends c1 r).pci = d.pci := (Dev.handSends_pci ..).trans hm
    have h : d.PciKept d2 := (Dev.PciKept.of_eq hsends).trans (Dev.overrunIf_pci ..)
    refine .ite ?_ h
    cases d2.cmd? u with
    | none => exact h
    | some x => exact h.trans (Dev.commitCmd_pci ..)

theorem Dev.countBalu_pci (d : Dev) (n k : Nat) : (d.countBalu n k).pci = d.pci := by
  unfold Dev.countBalu
  dsimp only
  split <;> rfl

theorem Dev.combineSlot_pci {d e : Dev} {ftz : Bool} {n l : Nat} {o : CombineOp} {f : NumFlags} (h : d.combineSlot ftz n l o = some (e, f)) : e.pci = d.pci := by
  unfold Dev.combineSlot at h
  dsimp only at h
  split at h
  · cases h
  · cases h
    exact Dev.countBalu_pci ..

theorem Dev.combineAll_pci (p : Nat) (ftz : Bool) (l : List CombineOp) (d : Dev) : (d.combineAll p ftz l).1.pci = d.pci := by
  induction l generalizing d with
  | nil => rfl
  | cons o r ih =>
    unfold Dev.combineAll
    split
    · exact ih d
    · rename_i e f h
      obtain ⟨q, -, hq⟩ := Option.bind_eq_some_iff.mp h
      exact (ih e).trans (Dev.combineSlot_pci hq)

/-- A write to tags leaves the host interface. -/
theorem Dev.foldl_pci {α : Type} {f : Dev → α → Dev} (h : ∀ (d : Dev) x, (f d x).pci = d.pci) (l : List α) (d : Dev) : (l.foldl f d).pci = d.pci := by
  induction l generalizing d with
  | nil => rfl
  | cons x l ih => exact (ih _).trans (h d x)

theorem Dev.fillSlots_pci (d : Dev) (l : List ((Nat × Nat) × Bool)) : (d.fillSlots l).pci = d.pci := by
  unfold Dev.fillSlots
  refine Dev.foldl_pci (fun d s => ?_) l d
  split <;> rfl

theorem Dev.applyWrites_pci (d : Dev) (p : Nat) (ws : List ElemWrite) : (d.applyWrites p ws).pci = d.pci := by
  obtain ⟨_, _, _, h⟩ := d.applyWrites_form p ws
  rw [h]

theorem Dev.commitResult_pci (d : Dev) (u : Nat) (id : TileId) (e : Engine) (r : TileResult) : d.PciKept (d.commitResult u id e r).1 := by
  unfold Dev.commitResult
  split
  · exact .refl d
  · rename_i c _
    dsimp only
    have hx : (d.combineAll c.part c.ftz r.combines).1.pci = d.pci := Dev.combineAll_pci ..
    split
    · exact .refl d
    · split
      · exact .of_eq hx
      · refine Dev.PciKept.trans (.of_eq ?_) (Dev.tileDone_pci ..)
        have hfill : ((((d.combineAll c.part c.ftz r.combines).1).applyWrites c.part r.writes).fillSlots (d.tagWrites c r.writes)).pci = d.pci :=
          (Dev.fillSlots_pci ..).trans ((Dev.applyWrites_pci ..).trans hx)
        split
        · refine (Dev.foldl_pci ?_ _ _).trans hfill
          exact fun _ _ => rfl
        · exact hfill

theorem Dev.finishClaims_pci (d : Dev) (u : Nat) : d.PciKept (d.finishClaims u) := by
  unfold Dev.finishClaims
  split
  · exact .refl d
  · refine Dev.PciKept.foldl (fun d x => ?_) _ d
    split
    · exact .refl d
    · refine .ite (.refl d) ?_
      split
      · exact Dev.commitResult_pci ..
      · exact .refl d

theorem Dev.endCmd_pci (d : Dev) (u status detail : Nat) : d.PciKept (d.endCmd u status detail) := by
  have h := d.finishClaims_pci u
  unfold Dev.endCmd
  dsimp only
  split
  · exact h
  · rename_i c _
    refine .ite h ?_
    have hkill := h.trans (Dev.PciKept.foldl (fun d (x : Copy) => d.countKill_pci x.unit false) c.work.copies (d.finishClaims u))
    exact Dev.PciKept.trans hkill (Dev.complete_pci (Dev.setCmd _ _) _ _ _)

theorem Dev.abortAll_pci (d : Dev) (p mask : Nat) : d.PciKept (d.abortAll p mask) :=
  Dev.PciKept.foldl (fun d (c : Cmd) => d.endCmd_pci c.uid stABORT 0) _ d

/-! ### The link (R475, R476) -/

/-- Speed, width and FLIT mode fit their register. -/
theorem Dev.linkL0_effect (d : Dev) {speed width : Nat} (flit : Bool) (h : linkOk speed width = true) :
    (d.linkL0 speed width flit).regN pgPCI 0x800 = 1 + 2 * speed + 16 * width + 256 * b2n flit ∧ (d.linkL0 speed width flit).cmds = d.cmds ∧
      (d.linkL0 speed width flit).SameMemory d := by
  unfold Dev.linkL0
  rw [if_neg (by simp [h])]
  obtain ⟨hspeed, hwidth⟩ := Bool.and_eq_true_iff.mp h
  have hspeed := of_decide_eq_true hspeed
  have hflit : b2n flit ≤ 1 := by cases flit <;> decide
  have hwidth : width ≤ 8 := by
    simp only [Bool.or_eq_true, beq_iff_eq] at hwidth
    omega
  refine ⟨?_, by simp, (RegsSent.raise _ _ _).same.1⟩
  rw [Dev.regN_raise_other _ _ (regKey_off_ne (by decide) (by decide) (by decide)), Dev.regN_setReg_same, BitVec.toNat_ofNat, Nat.mod_eq_of_lt]
  omega

/-- A link that goes down clears its status and counts. -/
theorem Dev.hotReset_down (d : Dev) : (d.hotReset true).regN pgPCI 0x800 = 0 ∧ (d.hotReset true).regN pgPCI 0x80C = min (d.regN pgPCI 0x80C + 1) (2 ^ 32 - 1) ∧
    (d.hotReset true).pci.fns = List.replicate 64 {} ∧ (d.hotReset true).cmds = d.cmds ∧ (d.hotReset true).SameMemory d := by
  unfold Dev.hotReset
  rw [if_pos rfl]
  refine ⟨?_, ?_, (Dev.raise_pci _ _ _).fns, by simp [Dev.bump], (RegsSent.raise _ _ _).same.1⟩
  · rw [Dev.regN_raise_other _ _ (regKey_off_ne (by decide) (by decide) (by decide)),
      Dev.regN_bump_other _ _ (regKey_off_ne (by decide) (by decide) (by decide)), Dev.regN_setReg_same]
    rfl
  · rw [Dev.regN_raise_other _ _ (regKey_off_ne (by decide) (by decide) (by decide)), Dev.regN_bump_same]
    refine congrArg (fun n => min (n + 1) (2 ^ 32 - 1)) ?_
    unfold Dev.regN
    rw [Dev.reg_setReg_other _ _ (regKey_off_ne (by decide) (by decide) (by decide))]
    rfl

/-! ### Configuration spaces and function-level resets (R478, R489) -/

/-- One configuration space is set, and the others stay. -/
theorem Dev.fn_of_set {d e : Dev} {f : Nat} {x : FnCfg} (h : e.pci.fns = d.pci.fns.set f x) (hf : f < d.pci.fns.length) :
    e.fn f = x ∧ ∀ g, g ≠ f → e.fn g = d.fn g := by
  unfold Dev.fn
  rw [h]
  refine ⟨?_, fun g hg => ?_⟩
  · rw [List.getD_eq_getElem?_getD, List.getElem?_set_self hf]
    rfl
  · rw [List.getD_eq_getElem?_getD, List.getElem?_set_ne (Ne.symm hg), List.getD_eq_getElem?_getD]

/-- Sending pending vectors changes pending bits and what is sent. -/
theorem Dev.flushMsix_form (d : Dev) (f : Nat) : ∃ l m, d.flushMsix f = { d with pci := { d.pci with msixPending := l }, sent := m } := by
  unfold Dev.flushMsix
  dsimp only
  split
  · exact ⟨_, _, rfl⟩
  · have hfold (l : List (Nat × Nat)) (d : Dev) : ∃ m, l.foldl (fun d x => { d with sent := .msix x.1 x.2 :: d.sent }) d = { d with sent := m } := by
      induction l generalizing d with
      | nil => exact ⟨_, rfl⟩
      | cons x l ih =>
        obtain ⟨m, h⟩ := ih { d with sent := .msix x.1 x.2 :: d.sent }
        exact ⟨m, h⟩
    obtain ⟨m, h⟩ := hfold (d.pci.msixPending.filter (fun x => x.1 == f && d.pci.unmasked.contains x)) _
    exact ⟨_, m, h⟩

theorem Dev.configWrite_busMaster {d : Dev} {f : Nat} (on : Bool) (hfn : d.pci.hasFn f = true) (hf : f < d.pci.fns.length) :
    (d.configWrite f (.busMaster on)).fn f = { d.fn f with busMaster := on } ∧ (∀ g, g ≠ f → (d.configWrite f (.busMaster on)).fn g = d.fn g) ∧
      (d.configWrite f (.busMaster on)).cmds = d.cmds ∧ (d.configWrite f (.busMaster on)).SameMemory d := by
  unfold Dev.configWrite
  rw [if_neg (by simp [hfn])]
  obtain ⟨l, m, h⟩ := (d.modFn f (fun c => { c with busMaster := on })).flushMsix_form f
  dsimp only
  rw [h]
  obtain ⟨hsame, hother⟩ := Dev.fn_of_set (d := d) (e := { d.modFn f (fun c => { c with busMaster := on }) with
    pci := { (d.modFn f (fun c => { c with busMaster := on })).pci with msixPending := l }, sent := m }) rfl hf
  exact ⟨hsame, hother, rfl, rfl, rfl, rfl⟩

/-- A configuration request to a running device that has not stopped in boot, from CTRL on. -/
theorem State.forConfig_served {s : State} {f : Nat} (g : Dev → Dev) (hrun : s.running = true) (hboot : s.boot.stopped = false) (hctrl : s.flag ctrlFlag = true) :
    s.forConfig f g = { s with dev := g s.dev } := by
  unfold State.forConfig
  rw [if_neg (by simp [hrun, hboot]), if_neg (by simp [hctrl])]

/-- A function whose accesses are served exists. -/
theorem State.hasFn_of_hostOk {s : State} {f : Nat} (h : s.hostOk f = true) : s.dev.pci.hasFn f = true := by
  unfold State.hostOk at h
  simp only [Bool.and_eq_true] at h
  obtain ⟨⟨⟨⟨⟨-, -⟩, hfn⟩, -⟩, -⟩, -⟩ := h
  exact hfn

/-- The commands, sessions and jobs of a state, and its host interface, are those of another. -/
structure Dev.OwnersKept (d e : Dev) : Prop where
  cmds : e.cmds = d.cmds
  sessions : e.sessions = d.sessions
  jobs : e.jobs = d.jobs
  pci : e.pci = d.pci

theorem Dev.OwnersKept.trans {d e f : Dev} (h : d.OwnersKept e) (k : e.OwnersKept f) : d.OwnersKept f :=
  ⟨k.cmds.trans h.cmds, k.sessions.trans h.sessions, k.jobs.trans h.jobs, k.pci.trans h.pci⟩

theorem Dev.OwnersKept.foldl {α : Type} {f : Dev → α → Dev} (h : ∀ (d : Dev) x, d.OwnersKept (f d x)) (l : List α) (d : Dev) : d.OwnersKept (l.foldl f d) := by
  induction l generalizing d with
  | nil => exact ⟨rfl, rfl, rfl, rfl⟩
  | cons x l ih => exact (h d x).trans (ih _)

theorem Dev.flrCores_kept (d : Dev) (p : Nat) : d.OwnersKept (d.flrCores p) := by
  unfold Dev.flrCores
  refine .foldl (fun d n => ?_) _ d
  exact ⟨rfl, rfl, rfl, rfl⟩

/-- A page returning to its reset values changes registers and pending commits. -/
theorem Dev.pageToReset_kept (d : Dev) (page : Nat) (kept : List Nat) : d.OwnersKept (d.pageToReset page kept) := by
  unfold Dev.pageToReset
  split
  · exact ⟨rfl, rfl, rfl, rfl⟩
  · rename_i b _ _
    extract_lets both keep loaded inPage d1 d2
    have hd2 : d1.OwnersKept d2 := by
      refine .foldl (fun d o => ?_) keep d1
      exact ⟨rfl, rfl, rfl, rfl⟩
    have hd1 : d.OwnersKept d1 := ⟨rfl, rfl, rfl, rfl⟩
    split
    · exact (hd1.trans hd2).trans ⟨rfl, rfl, rfl, rfl⟩
    · exact hd1.trans hd2

/-- The commands of the partition are gone, and what it owns closes; configuration spaces stay. -/
theorem Dev.flrCloses_effect (d : Dev) (p : Nat) : (∀ c ∈ ((d.flrCommands p).flrCloses p).cmds, c.part ≠ p) ∧
    (∀ x ∈ ((d.flrCommands p).flrCloses p).sessions, x.part = p → x.closing = true) ∧
    (∀ x ∈ ((d.flrCommands p).flrCloses p).jobs, x.part = p → x.closing = true) ∧ ((d.flrCommands p).flrCloses p).pci.fns = d.pci.fns := by
  refine ⟨fun c hc => by simpa using (List.mem_filter.mp hc).2, fun x hx hp => ?_, fun x hx hp => ?_, (d.abortAll_pci p 0xFFFF).fns⟩
  · obtain ⟨y, -, rfl⟩ := List.mem_map.mp hx
    by_cases hy : y.part = p
    · rw [if_pos hy]
    · rw [if_neg hy] at hp
      exact absurd hp hy
  · obtain ⟨y, -, rfl⟩ := List.mem_map.mp hx
    by_cases hy : y.part = p
    · rw [if_pos hy]
    · rw [if_neg hy] at hp
      exact absurd hp hy

/-- A function-level reset closes what the partition owns and leaves a function that is busy. -/
theorem Dev.flr_effect {d : Dev} {f : Nat} (hfn : d.pci.hasFn f = true) (hf : f < d.pci.fns.length) :
    (d.flr f).fn f = { flrBusy := true } ∧ (∀ c ∈ (d.flr f).cmds, c.part ≠ f) ∧ (∀ x ∈ (d.flr f).sessions, x.part = f → x.closing = true) ∧
      (∀ x ∈ (d.flr f).jobs, x.part = f → x.closing = true) ∧ ∀ x ∈ (d.flr f).pci.unmasked, x.1 ≠ f := by
  obtain ⟨hcmds, hsessions, hjobs, hfns⟩ := d.flrCloses_effect f
  unfold Dev.flr
  rw [if_neg (by simp [hfn])]
  extract_lets p d1 kept d2 x
  have hkept : ((d.flrCommands f).flrCloses f).OwnersKept d2 :=
    ((((Dev.flrCores_kept _ _).trans (Dev.pageToReset_kept ..)).trans (Dev.pageToReset_kept ..)).trans (Dev.pageToReset_kept ..)).trans (Dev.pageToReset_kept ..)
  have hlen : f < d2.pci.fns.length := by
    rw [hkept.pci, hfns]
    exact hf
  have hset : ∀ e : Dev, e.pci = d2.pci → (e.flrFunction f).pci.fns = d2.pci.fns.set f { flrBusy := true } ∧ ∀ x ∈ (e.flrFunction f).pci.unmasked, x.1 ≠ f := by
    intro e he
    unfold Dev.flrFunction
    dsimp only
    rw [he]
    refine ⟨by split <;> rfl, fun x hx => ?_⟩
    have hx : x ∈ d2.pci.unmasked.filter (fun x => x.1 != f) := by split at hx <;> exact hx
    simpa using (List.mem_filter.mp hx).2
  refine ⟨(Dev.fn_of_set (hset _ rfl).1 hlen).1, fun c hc => ?_, fun x hx => ?_, fun x hx => ?_, (hset _ rfl).2⟩
  · exact hcmds c (hkept.cmds ▸ hc)
  · exact hsessions x (hkept.sessions ▸ hx)
  · exact hjobs x (hkept.jobs ▸ hx)

/-! ### IDE streams and translations (R485, R487) -/

/-- A failed stream that was secure is insecure, and counted. -/
theorem Dev.ideFailure_effect {d : Dev} {stream : Nat} (h : ∃ x ∈ d.pci.ide, x.id = stream ∧ x.secure = true) :
    (∀ x ∈ (d.ideFailure stream).pci.ide, x.id = stream → x.secure = false) ∧
      (d.ideFailure stream).regN pgPCI 0x81C = min (d.regN pgPCI 0x81C + 1) (2 ^ 32 - 1) ∧ (d.ideFailure stream).cmds = d.cmds ∧
      (d.ideFailure stream).SameMemory d := by
  obtain ⟨x, hx, hid, hsecure⟩ := h
  obtain ⟨y, hy⟩ : ∃ y, d.pci.ide.find? (fun x => x.id == stream && x.secure) = some y :=
    Option.isSome_iff_exists.mp (List.find?_isSome.mpr ⟨x, hx, by simp [hid, hsecure]⟩)
  unfold Dev.ideFailure
  rw [hy]
  dsimp only
  refine ⟨fun z hz hzid => ?_, ?_, by simp [Dev.bump], by simp [Dev.bump], by simp [Dev.bump], by simp [Dev.bump]⟩
  · rw [((Dev.raise_pci _ _ _).trans (Dev.log_pci _ _)).ide] at hz
    obtain ⟨w, -, rfl⟩ := List.mem_map.mp hz
    by_cases hw : w.id = stream
    · rw [if_pos hw]
    · rw [if_neg hw] at hzid
      exact absurd hzid hw
  · rw [Dev.regN_log_other _ _ (regKey_page_ne (by decide) (by decide) (by decide)),
      Dev.regN_raise_other _ _ (regKey_off_ne (by decide) (by decide) (by decide)), Dev.regN_bump_same]
    rfl

/-- Settles O54: each request changes its part of the host interface, and of the device only what it closes or counts. -/
theorem hostLinkEvents : Obligations.HostLinkEvents := by
  intro s hrun
  refine ⟨fun speed width flit hlink hboot => ⟨fun hstage => ?up, fun hstage hlen => ?stage⟩, ?hot, ?down,
    fun f on hf hboot => ⟨fun hctrl => ?retry, fun hctrl hfn hlen => ?busMaster, fun hctrl hfn hlen => ?flr⟩,
    fun f hf => ⟨fun hbusy => ?idle, fun hbusy hlen => ?clear⟩, fun stream => ⟨fun hnone => ?insecure, fun hsome => ?fails⟩, fun f a n hf hok => ?ats⟩
  case up =>
    have hup : s.hostLinkUp speed width flit = { s with dev := s.dev.linkL0 speed width flit } := by
      unfold State.hostLinkUp
      rw [if_neg (by simp [hrun, hboot, hlink])]
      exact if_neg hstage
    refine ⟨_, (if_pos hlink).trans (congrArg Host.Outcome.next hup), rfl, ?_⟩
    exact Dev.linkL0_effect _ flit hlink
  case stage =>
    have hup : s.hostLinkUp speed width flit = (({ s with dev := s.dev.linkL0 speed width flit } : State).closeStage 4 2).progress := by
      unfold State.hostLinkUp
      rw [if_neg (by simp [hrun, hboot, hlink])]
      exact if_pos hstage
    refine ⟨_, (if_pos hlink).trans (congrArg Host.Outcome.next hup), ?_⟩
    obtain ⟨d, b, hp, -⟩ := (({ s with dev := s.dev.linkL0 speed width flit } : State).closeStage 4 2).progress_boot
    refine ⟨State.progress_done (State.closeStage_result 2 hstage), ?_, ?_⟩
    · rw [hp]
      rfl
    · rw [hp]
      rfl
  case hot => exact ⟨_, onDevice_running s _ hrun, rfl, rfl, rfl, rfl, rfl⟩
  case down =>
    refine ⟨_, onDevice_running s _ hrun, ?_⟩
    exact s.dev.hotReset_down
  case retry =>
    refine (if_pos (decide_eq_true hf)).trans (congrArg Host.Outcome.next ?_)
    unfold State.forConfig
    rw [if_neg (by simp [hrun, hboot]), if_pos (by simp [hctrl])]
  case busMaster =>
    refine ⟨_, (if_pos (decide_eq_true hf)).trans (congrArg Host.Outcome.next (State.forConfig_served _ hrun hboot hctrl)), ?_⟩
    exact Dev.configWrite_busMaster on hfn hlen
  case flr =>
    refine ⟨_, (if_pos (decide_eq_true hf)).trans (congrArg Host.Outcome.next (State.forConfig_served _ hrun hboot hctrl)), ?_⟩
    exact Dev.flr_effect hfn hlen
  case idle =>
    refine (onUnit_running s _ hrun (decide_eq_true hf)).trans ?_
    unfold Dev.flrDone
    rw [if_neg (by rw [hbusy]; decide)]
  case clear =>
    have hdone : s.dev.flrDone f = s.dev.modFn f (fun c => { c with flrBusy := false }) := if_pos hbusy
    refine ⟨_, onUnit_running s _ hrun (decide_eq_true hf), ?_⟩
    dsimp only
    rw [hdone]
    obtain ⟨hsame, hother⟩ := Dev.fn_of_set (d := s.dev) (e := s.dev.modFn f (fun c => { c with flrBusy := false })) rfl hlen
    exact ⟨hsame, hother, rfl⟩
  case insecure =>
    have hfind : s.dev.pci.ide.find? (fun x => x.id == stream && x.secure) = none := by
      rw [List.find?_eq_none]
      intro x hx
      by_cases hid : x.id = stream
      · simp [hnone x hx hid]
      · simp [hid]
    refine (onDevice_running s _ hrun).trans ?_
    unfold Dev.ideFailure
    rw [hfind]
  case fails =>
    refine ⟨_, onDevice_running s _ hrun, ?_⟩
    exact Dev.ideFailure_effect hsome
  case ats =>
    have hfn : s.dev.pci.hasFn f = true := State.hasFn_of_hostOk hok
    refine ⟨_, (if_pos (decide_eq_true hf)).trans (congrArg Host.Outcome.next (if_pos hok)), ?_⟩
    dsimp only
    unfold Dev.atsInvalidate
    rw [if_neg (by simp [hfn])]
    refine ⟨rfl, fun x hx hxf => ?_, Dev.regN_bump_same _ _ _ _, rfl, rfl, rfl, rfl⟩
    have hkeep := (List.mem_filter.mp hx).2
    simpa [hxf] using hkeep

/-! ### Masked vectors (R483) -/

/-- A masked vector is noted as pending, once. -/
theorem Dev.sendVector_masked {d : Dev} {f v : Nat} (h : d.pci.unmasked.contains (f, v) = false) :
    d.sendVector f v = if d.pci.msixPending.contains (f, v) then d else { d with pci := { d.pci with msixPending := (f, v) :: d.pci.msixPending } } := by
  unfold Dev.sendVector
  rw [if_neg (by rw [h, Bool.false_and]; decide)]

/-- Where its bit is set, nothing is added. -/
theorem Dev.sendVector_pending {d : Dev} {f v : Nat} (h : d.pci.unmasked.contains (f, v) = false) (hp : (f, v) ∈ d.pci.msixPending) : d.sendVector f v = d :=
  (Dev.sendVector_masked h).trans (if_pos (List.contains_iff_mem.mpr hp))

theorem Dev.sendVector_notes {d : Dev} {f v : Nat} (h : d.pci.unmasked.contains (f, v) = false) :
    (f, v) ∈ (d.sendVector f v).pci.msixPending ∧ (d.sendVector f v).sent = d.sent ∧ (d.sendVector f v).pci.unmasked = d.pci.unmasked := by
  rw [Dev.sendVector_masked h]
  split
  · rename_i hp
    exact ⟨List.contains_iff_mem.mp hp, rfl, rfl⟩
  · exact ⟨List.mem_cons_self, rfl, rfl⟩

/-- A device with one more vector unmasked. -/
def Dev.unmask (d : Dev) (f v : Nat) : Dev := { d with pci := { d.pci with unmasked := (f, v) :: d.pci.unmasked } }

/-- The pending vectors of function f that are not masked once (f, v) is unmasked: (f, v) itself, where no other was. -/
theorem Dev.unmask_pending {d : Dev} {f v : Nat} (hnodup : d.pci.msixPending.Nodup)
    (hmasked : ∀ x ∈ d.pci.msixPending, x.1 = f → x ∉ d.pci.unmasked) :
    d.pci.msixPending.filter (fun x => x.1 == f && (d.unmask f v).pci.unmasked.contains x) = if (f, v) ∈ d.pci.msixPending then [(f, v)] else [] := by
  have hone : ∀ x ∈ d.pci.msixPending, (x.1 == f && (d.unmask f v).pci.unmasked.contains x) = (x == (f, v)) := by
    intro x hx
    by_cases hxv : x = (f, v)
    · subst hxv
      simp [Dev.unmask]
    · by_cases hxf : x.1 = f
      · simp [Dev.unmask, hxv, hmasked x hx hxf]
      · rw [beq_eq_false_iff_ne.mpr hxf, beq_eq_false_iff_ne.mpr hxv, Bool.false_and]
  rw [List.filter_congr hone, List.filter_beq]
  split
  · rename_i hmem
    rw [List.count_eq_one_of_mem hnodup hmem]
    rfl
  · rename_i hmem
    rw [List.count_eq_zero_of_not_mem hmem]
    rfl

theorem Dev.msixUnmask_eq {d : Dev} {f v : Nat} (hfn : d.pci.hasFn f = true) (hv : v < (if f = 0 then 2048 else 32))
    (hmasked : d.pci.unmasked.contains (f, v) = false) : d.msixUnmask f v = (d.unmask f v).flushMsix f := by
  unfold Dev.msixUnmask
  rw [if_neg (by rw [hfn, hmasked, decide_eq_false (Nat.not_le.mpr hv)]; decide)]
  rfl

/-- Settles O56: a masked vector only sets its pending bit, and unmasking sends the one that waits. -/
theorem maskedVectors : Obligations.MaskedVectors := by
  refine ⟨fun d f v hmasked => ⟨?notes, Dev.sendVector_pending hmasked⟩, fun s f v hf hv hok hmasked hnodup hothers => ?unmasks⟩
  case notes =>
    obtain ⟨hpending, hsent, hunmasked⟩ := Dev.sendVector_notes hmasked
    exact ⟨hpending, hsent, Dev.sendVector_pending (by rw [hunmasked]; exact hmasked) hpending⟩
  case unmasks =>
    have hexec : exec (.msixUnmask f v) s = .next { s with dev := (s.dev.unmask f v).flushMsix f } := by
      have hserve : s.forHost f (fun d => d.msixUnmask f v) = { s with dev := (s.dev.unmask f v).flushMsix f } := by
        rw [← Dev.msixUnmask_eq (State.hasFn_of_hostOk hok) hv hmasked]
        exact if_pos hok
      exact (if_pos (Bool.and_eq_true_iff.mpr ⟨decide_eq_true hf, decide_eq_true hv⟩)).trans (congrArg Host.Outcome.next hserve)
    have hlist := Dev.unmask_pending (v := v) hnodup hothers
    have hmay : (s.dev.unmask f v).mayRequest f = s.dev.mayRequest f := rfl
    refine ⟨fun hpending hsend => ⟨_, hexec, ?sends⟩, fun hnot => ⟨_, hexec, ?quiet⟩⟩
    case sends =>
      rw [if_pos hpending] at hlist
      dsimp only
      unfold Dev.flushMsix
      rw [if_neg (by rw [hmay, hsend]; decide)]
      dsimp only
      rw [show (s.dev.unmask f v).pci.msixPending = s.dev.pci.msixPending from rfl, hlist]
      refine ⟨rfl, by simp, List.mem_cons_self, fun x hx => by simp [hx], rfl, rfl, rfl, rfl⟩
    case quiet =>
      dsimp only
      unfold Dev.flushMsix
      rw [hmay]
      by_cases hsend : s.dev.mayRequest f = true
      · have hpending : (f, v) ∉ s.dev.pci.msixPending := hnot.resolve_right (by rw [hsend]; decide)
        rw [if_neg hpending] at hlist
        rw [if_neg (by rw [hsend]; decide)]
        dsimp only
        rw [show (s.dev.unmask f v).pci.msixPending = s.dev.pci.msixPending from rfl, hlist]
        exact ⟨rfl, by simp, List.mem_cons_self, rfl, rfl, rfl, rfl⟩
      · rw [if_pos (by simpa using hsend)]
        exact ⟨rfl, rfl, List.mem_cons_self, rfl, rfl, rfl, rfl⟩

end Sys2Proof.Machine
end

section
/-! Firmware, Masthead's restarts and its answers (R488, R492, R493, R508 to R511, R515, R516, R529). O57 and O59. -/

namespace Sys2Proof.Machine

/-! ### The alert line (R494) -/

/-- MOD_ALERT_N changes what Masthead notes of it, and notifies. -/
theorem State.refreshAlert_form (s : State) : ∃ d, s.refreshAlert = { s with dev := d, mgmt := { s.mgmt with alert := s.alerted } } ∧ d.Notified s.dev := by
  refine ⟨s.refreshAlert.dev, ?_, s.refreshAlert_notified⟩
  unfold State.refreshAlert
  dsimp only
  by_cases h : s.alerted = s.mgmt.alert
  · rw [if_pos (beq_iff_eq.mpr h), h]
  · rw [if_neg (by simpa using h)]

/-- A register other than MGT's INT_STAT, after a notice. -/
theorem Dev.Notified.regN_of_ne {d e : Dev} (h : d.Notified e) {page off : Nat} (ho : off < 0x1000) (hne : regKey page off ≠ regKey pgMGT oIntStat) :
    d.regN page off = e.regN page off :=
  h.regs.regN ho (by simpa using hne)

/-! ### What a source asks of Masthead (R508, R509, R516) -/

/-- Bit i of FW_CTL with a component, where no bit is held from the source. -/
theorem State.asksMasthead_asks {s : State} {src : Src} {i c : Nat} (f : State → Nat → State) (hs : s.srcOk src = true) (hv : isVf src = false)
    (hheld : s.dev.heldBits src pgMGT 0xC0C fwCtlSpec = 0) (hi : i < 3) (hc : c < 4) : s.asksMasthead src i c f = f s c := by
  have hword : bit (BitVec.ofNat 32 (2 ^ i + 256 * c)).toNat i = true ∧ bits (BitVec.ofNat 32 (2 ^ i + 256 * c)).toNat 8 2 = c := by
    interval_cases i <;> interval_cases c <;> decide
  obtain ⟨hbit, hcomponent⟩ := hword
  unfold State.asksMasthead
  rw [if_neg (by simp [hs]), if_neg (by simp [hv]), hheld, heldWrite_none, if_pos hbit, hcomponent]

/-- Masthead runs on a device that runs. -/
theorem State.masthead_iff (s : State) : s.masthead = true ↔ s.running = true ∧ s.mgmt.started = true ∧ s.mgmt.down = false := by
  unfold State.masthead
  simp [and_assoc]

/-- A refused image is counted, and an entry of the log names it. -/
theorem State.refuseImage_effect (s : State) (c version : Nat) : (s.refuseImage c version).mgmt = { s.mgmt.status c 3 with staging := none } ∧
    (s.refuseImage c version).dev.regN pgSEC 0x998 = min (s.dev.regN pgSEC 0x998 + 1) (2 ^ 32 - 1) ∧ (s.refuseImage c version).flash = s.flash ∧
    (s.refuseImage c version).dev.cmds = s.dev.cmds ∧ (s.refuseImage c version).dev.SameMemory s.dev := by
  unfold State.refuseImage
  dsimp only
  have hnotice : (((((s.dev.bump pgSEC 0x998 1).raise pgSEC 0).log (firmwareEntry c 2 version 0)).raise pgMGT 3)).Notified
      ((s.dev.bump pgSEC 0x998 1).raise pgSEC 0) := (Dev.Notified.raise _ 3).trans (.log _ _)
  have hraise : ((s.dev.bump pgSEC 0x998 1).raise pgSEC 0).Recorded s.dev := (Dev.Recorded.raise _ _ _).trans (.setReg _ _ _ _)
  refine ⟨rfl, ?_, rfl, hnotice.recorded.cmds.trans hraise.cmds, hnotice.recorded.same.trans hraise.same⟩
  rw [hnotice.regN_of_ne (by decide) (by decide), Dev.regN_raise_other _ _ (by decide), Dev.regN_bump_same]

/-- Masthead takes a write of STAGE for one of its components while no handover lasts. -/
theorem State.stage_serves {s : State} {c : Nat} (hm : s.masthead = true) (hc : c < 3) (hfree : s.mgmt.handover = none) :
    ¬(!s.masthead || decide (c > 2) || s.mgmt.handover.any (fun h => h.1 == c)) = true := by
  simp [hm, hfree]
  omega

/-- An image in the device's own memory, aligned and in range, begins to be copied. -/
theorem State.stage_begins {s : State} {c : Nat} (env : Env) (hm : s.masthead = true) (hc : c < 3) (hfree : s.mgmt.handover = none)
    (halign : s.dev.stageAddr % 4096 = 0) (hvalid : rangeValid s.dev.stageAddr s.dev.stageLen = true) (hdev : isHost s.dev.stageAddr = false) :
    s.stage c env = { s with mgmt := { s.mgmt.status c 1 with staging := some (c, s.dev.stageAddr, s.dev.stageLen, stageLengthBad s.dev.stageLen) } } := by
  unfold State.stage
  refine (if_neg (State.stage_serves hm hc hfree)).trans ((if_neg ?_).trans ?_)
  · rw [halign, hvalid]
    decide
  · rw [if_neg (by rw [hdev]; decide)]

theorem State.stage_unaligned {s : State} {c : Nat} (env : Env) (hm : s.masthead = true) (hc : c < 3) (hfree : s.mgmt.handover = none)
    (halign : s.dev.stageAddr % 4096 ≠ 0) : s.stage c env = s.refuseImage c 0 := by
  unfold State.stage
  refine (if_neg (State.stage_serves hm hc hfree)).trans (if_pos ?_)
  rw [bne_iff_ne.mpr halign, Bool.true_or]

/-! ### Staging, handover (R508 to R511) -/

/-- The copy of an image from initialised cells is verified: accepted into flash and the firmware area, or refused. -/
theorem State.stageComplete_eq {s : State} {c a n : Nat} (hm : s.masthead = true) (hst : s.mgmt.staging = some (c, a, n, false))
    (hcells : s.dev.usable s.outside 0 a n = true) :
    s.stageComplete = if imageOk c (s.flash.counters.getD c 0) (s.dev.bytesIn 0 0 a n) then
      { ({ s with mgmt := ({ s.mgmt with staging := none } : Mgmt).status c 2 } : State).acceptStaged c (s.dev.bytesIn 0 0 a n) with
          dev := (({ s with mgmt := ({ s.mgmt with staging := none } : Mgmt).status c 2 } : State).acceptStaged c (s.dev.bytesIn 0 0 a n)).dev.raise pgMGT 3 }
    else s.refuseImage c (fieldAt (s.dev.bytesIn 0 0 a n) 8 4) := by
  unfold State.stageComplete
  rw [hst]
  dsimp only
  rw [if_neg (by simp [hm, hcells])]
  rfl

theorem State.acceptStaged_effect (s : State) (c : Nat) (raw : Bytes) : (s.acceptStaged c raw).flash.stagedOf c = some (parseImage raw) ∧
    (s.acceptStaged c raw).mgmt = s.mgmt ∧ (s.acceptStaged c raw).dev = s.dev.putReserved (slotAddr c (1 - s.mgmt.slots.getD c 0 % 2)) raw := by
  refine ⟨?_, rfl, rfl⟩
  unfold State.acceptStaged Flash.stagedOf
  dsimp only
  split <;> simp

/-- Bytes of the firmware area change HBM alone. -/
theorem Dev.putReserved_form (d : Dev) (a : Nat) (b : Bytes) : ∃ x, d.putReserved a b = { d with hbm := x } := by
  unfold Dev.putReserved
  generalize (List.range b.length).zip b = l
  induction l generalizing d with
  | nil => exact ⟨_, rfl⟩
  | cons x l ih =>
    rw [List.foldl_cons]
    split
    · obtain ⟨y, hy⟩ := ih { d with hbm := d.hbm.write _ x.2 }
      exact ⟨y, hy⟩
    · exact ih d

/-- A handover whose self-check fails leaves the old image running. -/
theorem State.handoverSlice_fails {s : State} {c used : Nat} (cycles : Nat) (hrun : s.running = true) (hh : s.mgmt.handover = some (c, used)) :
    (s.handoverSlice cycles false).mgmt = { s.mgmt with fwComponent := c, fwStatus := 6, fwBusy := false, handover := none } ∧
      (s.handoverSlice cycles false).flash = s.flash ∧ (s.handoverSlice cycles false).sec = s.sec ∧
      (s.handoverSlice cycles false).dev.cmds = s.dev.cmds ∧ (s.handoverSlice cycles false).dev.SameMemory s.dev := by
  unfold State.handoverSlice
  rw [hh]
  dsimp only
  rw [if_neg (by simp [hrun]), if_pos (by decide)]
  have hnotice : ((s.dev.log (firmwareEntry c 1 ((s.flash.stagedOf c).getD {}).version 0)).raise pgMGT 3).Notified s.dev := (Dev.Notified.raise _ 3).trans (.log _ _)
  exact ⟨rfl, rfl, rfl, hnotice.recorded.cmds, hnotice.recorded.same⟩

theorem State.handoverSlice_runs {s : State} {c used cycles : Nat} (hrun : s.running = true) (hh : s.mgmt.handover = some (c, used))
    (hlimit : used + cycles ≤ 240000) : s.handoverSlice cycles true =
      { s with mgmt := { s.mgmt with handover := some (c, used + cycles) }, dev := { s.dev with now := s.dev.now + cycles } } := by
  unfold State.handoverSlice
  rw [hh]
  dsimp only
  rw [if_neg (by simp [hrun]), if_neg (by decide)]
  exact if_pos hlimit

/-- A staged image taken from flash is no longer there. -/
theorem stagedOf_removed (l : List (Nat × FwImage)) (c : Nat) : ((l.filter (fun y => y.1 != c)).find? (fun x => x.1 == c)).map (·.2) = none := by
  rw [List.find?_eq_none.mpr fun x hx => by simpa using (List.mem_filter.mp hx).2]
  rfl

/-- A handover that has ended, before the alert line follows: the image of a component runs, and is measured. -/
def State.handedOver (s : State) (c : Nat) (x : FwImage) : State :=
  { s with
    mgmt := { s.mgmt.status c 5 with
      handover := none, running := s.mgmt.running.set c x, slots := s.mgmt.slots.set c (1 - s.mgmt.slots.getD c 0 % 2), down := c == 1 },
    flash := { s.flash with
      staged := s.flash.staged.filter (fun y => y.1 != c), masthead := if c = 1 then x else s.flash.masthead,
      control := if c = 2 then x else s.flash.control },
    sec := s.sec.extend 5 x.digest, dev := ((s.dev.bump pgMGT 0x84C 1).log (firmwareEntry c 0 x.version 0)).raise pgMGT 3 }

theorem State.handoverEnd_eq {s : State} {c used : Nat} {x : FwImage} (hrun : s.running = true) (hh : s.mgmt.handover = some (c, used))
    (hx : s.flash.stagedOf c = some x) : s.handoverEnd = (s.handedOver c x).refreshAlert := by
  have hrunning : ¬(!s.running) = true := by simp [hrun]
  unfold State.handoverEnd
  rw [hh]
  simp only [hx, Option.getD_some, if_neg hrunning]
  rfl

/-- The end of a handover: the staged image runs, is measured, and leaves the staged ones. -/
theorem State.handoverEnd_effect {s : State} {c used : Nat} {x : FwImage} (hrun : s.running = true) (hh : s.mgmt.handover = some (c, used))
    (hx : s.flash.stagedOf c = some x) :
    s.handoverEnd.mgmt.handover = none ∧ s.handoverEnd.mgmt.fwStatus = 5 ∧ s.handoverEnd.mgmt.running = s.mgmt.running.set c x ∧
      s.handoverEnd.mgmt.down = decide (c = 1) ∧ s.handoverEnd.flash.stagedOf c = none ∧ s.handoverEnd.flash.counters = s.flash.counters ∧
      s.handoverEnd.sec = s.sec.extend 5 x.digest ∧ s.handoverEnd.dev.regN pgMGT 0x84C = min (s.dev.regN pgMGT 0x84C + 1) (2 ^ 32 - 1) ∧
      s.handoverEnd.dev.cmds = s.dev.cmds ∧ s.handoverEnd.dev.SameMemory s.dev := by
  obtain ⟨e, he, hnotice⟩ := (s.handedOver c x).refreshAlert_form
  have hlog : (s.handedOver c x).dev.Notified (s.dev.bump pgMGT 0x84C 1) := (Dev.Notified.raise _ 3).trans (.log _ _)
  have hbump : (s.dev.bump pgMGT 0x84C 1).Recorded s.dev := .setReg _ _ _ _
  have hall := hnotice.trans hlog
  rw [State.handoverEnd_eq hrun hh hx, he]
  refine ⟨rfl, rfl, rfl, rfl, stagedOf_removed s.flash.staged c, rfl, rfl, ?_, hall.recorded.cmds.trans hbump.cmds, hall.recorded.same.trans hbump.same⟩
  exact (hall.regN_of_ne (by decide) (by decide)).trans (Dev.regN_bump_same _ _ _ _)

/-- Settles O57: each step of staging, activation and handover answers as Masthead runs and no other handover lasts. -/
theorem firmware : Obligations.Firmware := by
  intro s hm
  obtain ⟨hrun, -, hup⟩ := s.masthead_iff.mp hm
  refine ⟨fun src c hq hs hv hheld => ?asks, fun c a n raw hst hcells hraw => ?complete, fun c used cycles hh => ⟨fun hlimit => ?slice, ?fails, fun x hx => ?ends⟩,
    fun hnone => ?noHandover⟩
  case asks =>
    have asks {i : Nat} (f : State → Nat → State) (hi : i < 3) (hc : c < 4) :
        withUnit (requesterOk src && decide (c < 4)) (s.asksMasthead src i c f) = .next (f s c) := by
      rw [State.asksMasthead_asks f hs hv hheld hi hc]
      exact if_pos (Bool.and_eq_true_iff.mpr ⟨hq, decide_eq_true hc⟩)
    refine ⟨fun env hc hfree halign hvalid hdev => ?begins, fun env hc hfree halign => ?unaligned, fun hc hst hfree hidle => ?activates,
      fun hc hbusy => ?busy, fun hc => ?commits⟩
    case begins =>
      refine (asks (i := 0) (fun s c => s.stage c env) (by decide) (by omega)).trans (congrArg Host.Outcome.next ?_)
      exact State.stage_begins env hm hc hfree halign hvalid hdev
    case unaligned =>
      refine ⟨_, asks (i := 0) (fun s c => s.stage c env) (by decide) (by omega), ?_⟩
      rw [State.stage_unaligned env hm hc hfree halign]
      obtain ⟨hmgmt, hcount, hflash, hcmds, hmem⟩ := s.refuseImage_effect c 0
      rw [hmgmt]
      exact ⟨rfl, rfl, rfl, hcount, hflash, hcmds, hmem⟩
    case activates =>
      refine (asks (i := 1) State.activate (by decide) (by omega)).trans (congrArg Host.Outcome.next ?_)
      unfold State.activate
      dsimp only
      rw [if_neg (by simp [hfree, hidle, hup]), if_neg (by rcases hc with rfl | rfl <;> simp [hm, ← Option.not_isSome, hst])]
    case busy =>
      refine (asks (i := 1) State.activate (by decide) hc).trans (congrArg Host.Outcome.next ?_)
      exact if_pos (by simp [Option.isSome_iff_ne_none.mpr hbusy])
    case commits =>
      refine (asks (i := 2) State.commitSvn (by decide) (by omega)).trans (congrArg Host.Outcome.next ?_)
      exact if_neg (by simp [hm]; omega)
  case complete =>
    refine ⟨s.stageComplete, rfl, ?_⟩
    rw [State.stageComplete_eq hm hst hcells, ← hraw]
    cases hok : imageOk c (s.flash.counters.getD c 0) raw with
    | true =>
      rw [if_pos rfl]
      obtain ⟨hstaged, hmgmt, hdev⟩ := State.acceptStaged_effect { s with mgmt := ({ s.mgmt with staging := none } : Mgmt).status c 2 } c raw
      have hcounters := State.acceptStaged_counters { s with mgmt := ({ s.mgmt with staging := none } : Mgmt).status c 2 } c raw
      have hput : (s.dev.putReserved (slotAddr c (1 - s.mgmt.slots.getD c 0 % 2)) raw).cmds = s.dev.cmds := by
        obtain ⟨x, hx⟩ := s.dev.putReserved_form (slotAddr c (1 - s.mgmt.slots.getD c 0 % 2)) raw
        rw [hx]
      refine ⟨congrArg Mgmt.staging hmgmt, ?_, fun _ => ⟨congrArg Mgmt.fwComponent hmgmt, congrArg Mgmt.fwStatus hmgmt, hstaged, hcounters, ?_⟩, nofun⟩
      · rw [hdev, Dev.raise_cmds]
        exact hput
      · rw [hdev]
        exact (RegsSent.raise _ _ _).same.1
    | false =>
      rw [if_neg (by decide)]
      obtain ⟨hmgmt, -, hflash, hcmds, hmem⟩ := s.refuseImage_effect c (fieldAt raw 8 4)
      rw [hmgmt]
      exact ⟨rfl, hcmds, nofun, fun _ => ⟨rfl, hflash, hmem⟩⟩
  case slice => exact congrArg Host.Outcome.next (State.handoverSlice_runs hrun hh hlimit)
  case fails =>
    refine ⟨_, rfl, ?_⟩
    exact State.handoverSlice_fails cycles hrun hh
  case ends =>
    refine ⟨_, rfl, ?_⟩
    exact State.handoverEnd_effect hrun hh hx
  case noHandover =>
    refine congrArg Host.Outcome.next ?_
    unfold State.handoverEnd
    rw [hnone]

/-! ### Masthead's restarts and messages (R488, R492, R493, R515, R529) -/

/-- While Masthead is down MOD_ALERT_N is asserted. -/
theorem State.alerted_of_down {s : State} (hrun : s.running = true) (hdown : s.mgmt.down = true) : s.alerted = true := by
  unfold State.alerted
  simp [hrun, hdown]

/-- A watchdog expiry takes Masthead down. -/
theorem State.watchdogExpiry_effect {s : State} (hm : s.masthead = true) :
    s.watchdogExpiry.mgmt.down = true ∧ s.watchdogExpiry.mgmt.alert = true ∧ s.watchdogExpiry.masthead = false ∧
      s.watchdogExpiry.dev.cmds = s.dev.cmds ∧ s.watchdogExpiry.dev.SameMemory s.dev ∧ s.watchdogExpiry.flash = s.flash := by
  obtain ⟨hrun, -, -⟩ := s.masthead_iff.mp hm
  unfold State.watchdogExpiry
  rw [if_pos hm]
  obtain ⟨d, hd, hnotice⟩ := ({ s with mgmt := { s.mgmt with down := true } } : State).refreshAlert_form
  rw [hd]
  exact ⟨rfl, State.alerted_of_down hrun rfl, by simp [State.masthead], hnotice.recorded.cmds, hnotice.recorded.same, rfl⟩

/-- The entry of a restart of Masthead (Table 18-6). -/
def restartEntry : LogEntry := { cls := 0x10, severity := 0, source := pgMGT, detail := toLe 1 0 }

/-- Masthead's return is counted. -/
theorem State.mastheadRestart_effect {s : State} (hrun : s.running = true) (hdown : s.mgmt.down = true) :
    s.mastheadRestart.mgmt.down = false ∧ s.mastheadRestart.dev.regN pgMGT 0x848 = min (s.dev.regN pgMGT 0x848 + 1) (2 ^ 32 - 1) ∧
      s.mastheadRestart.dev.cmds = s.dev.cmds ∧ s.mastheadRestart.dev.SameMemory s.dev ∧ s.mastheadRestart.flash = s.flash := by
  have hback : s.mastheadRestart = ({ s with mgmt := { s.mgmt with down := false }, dev := (s.dev.bump pgMGT 0x848 1).log restartEntry } : State).refreshAlert :=
    if_neg (by simp [hrun, hdown])
  obtain ⟨d, hd, hnotice⟩ := ({ s with mgmt := { s.mgmt with down := false }, dev := (s.dev.bump pgMGT 0x848 1).log restartEntry } : State).refreshAlert_form
  rw [hback, hd]
  have hall := hnotice.trans (Dev.Notified.log (s.dev.bump pgMGT 0x848 1) restartEntry)
  have hbump : (s.dev.bump pgMGT 0x848 1).Recorded s.dev := .setReg _ _ _ _
  exact ⟨rfl, (hall.regN_of_ne (by decide) (by decide)).trans (Dev.regN_bump_same _ _ _ _), hall.recorded.cmds.trans hbump.cmds,
    hall.recorded.same.trans hbump.same, rfl⟩

/-- Words read from the pages change the device proper alone. -/
theorem State.readWords_devOnly (s : State) (off n : Nat) : s.DevOnly (s.readWords off n).1 := by
  induction n generalizing s off with
  | zero => exact ⟨s.dev, rfl⟩
  | succ n ih =>
    have hword : s.DevOnly (s.readWord (off / 4096) (off % 4096)).1 := by
      unfold State.readWord
      dsimp only
      repeat' split
      all_goals exact ⟨_, rfl⟩
    obtain ⟨d, hd⟩ := hword
    obtain ⟨e, he⟩ := ih (s.readWord (off / 4096) (off % 4096)).1 (off + 4)
    exact ⟨e, he.trans (by rw [hd])⟩

/-- A message on a transport that carries messages, while Masthead runs and no handover lasts, is read or written, and answered. -/
theorem State.message_read {s : State} {transport : Nat} (off n : Nat) (hm : s.masthead = true) (ht : s.transportOk transport = true)
    (hfree : s.mgmt.handover = none) :
    s.message transport (.read off n) = (s.readWords (off / 4 * 4) n).1.send (.answer transport (s.readWords (off / 4 * 4) n).2) := by
  unfold State.message
  rw [if_neg (by simp [hm, ht]), if_neg (by simp [hfree])]

theorem State.message_write {s : State} {transport : Nat} (off : Nat) (ws : List Word) (hm : s.masthead = true) (ht : s.transportOk transport = true)
    (hfree : s.mgmt.handover = none) : s.message transport (.write off ws) = (s.writeWords (off / 4 * 4) ws).send (.answer transport []) := by
  unfold State.message
  rw [if_neg (by simp [hm, ht]), if_neg (by simp [hfree])]

/-- A message during a handover is answered with busy. -/
theorem State.message_busy {s : State} {transport : Nat} (m : MgmtMessage) (hm : s.masthead = true) (ht : s.transportOk transport = true)
    (hh : s.mgmt.handover.isSome = true) : s.message transport m = s.send (.busy transport) := by
  unfold State.message
  rw [if_neg (by simp [hm, ht]), if_pos hh]

theorem State.spdmRequest_busy {s : State} {transport : Nat} (req : Bytes) (hm : s.masthead = true) (ht : transport < 2) (hh : s.mgmt.handover.isSome = true) :
    s.spdmRequest transport req = s.send (.busy transport) := by
  unfold State.spdmRequest
  rw [if_neg (by simp [hm]; omega), if_pos hh]

/-- A device whose identity is ready answers an SPDM request. -/
theorem State.spdmRequest_answers {s : State} {transport : Nat} (req : Bytes) (hm : s.masthead = true) (ht : transport < 2) (hfree : s.mgmt.handover = none)
    (hid : s.sec.identityReady = true) :
    (s.spdmRequest transport req).dev.sent = .answer transport (Config.spdmAnswer req s.dev.fresh s.measurements) :: s.dev.sent ∧
      (s.spdmRequest transport req).sec.mrs = s.sec.mrs ∧ (s.spdmRequest transport req).dev.cmds = s.dev.cmds ∧
      (s.spdmRequest transport req).dev.SameMemory s.dev := by
  unfold State.spdmRequest State.spdm
  rw [if_neg (by simp [hm]; omega), if_neg (by simp [hfree]), if_neg (by simp [hid])]
  exact ⟨rfl, rfl, rfl, rfl, rfl, rfl⟩

/-- Settles O59: each answer is the last thing sent, and a restart only counts. -/
theorem mastheadAnswers : Obligations.MastheadAnswers := by
  intro s
  refine ⟨fun hm => ⟨_, rfl, ?watchdog⟩, fun hrun hdown => ⟨_, rfl, ?restart⟩,
    fun transport ht hm => ⟨fun m req hh hok => ?busy, fun off n hfree hok => ?read, fun off ws hfree hok => ?write, fun req hfree hid => ?spdm⟩,
    fun address haddr hm => ?address, fun hok => ⟨fun vendor kind len payload hlen => ?tooLong, fun len payload hlen => ?discovery, ?abort⟩⟩
  case watchdog => exact State.watchdogExpiry_effect hm
  case restart => exact State.mastheadRestart_effect hrun hdown
  case busy =>
    exact ⟨(if_pos (decide_eq_true ht)).trans (congrArg Host.Outcome.next (State.message_busy m hm hok hh)),
      (if_pos (decide_eq_true ht)).trans (congrArg Host.Outcome.next (State.spdmRequest_busy req hm ht hh))⟩
  case read =>
    refine ⟨_, (if_pos (decide_eq_true ht)).trans (congrArg Host.Outcome.next (State.message_read off n hm hok hfree)), rfl, ?_⟩
    obtain ⟨d, hd⟩ := s.readWords_devOnly (off / 4 * 4) n
    rw [hd]
    exact ⟨rfl, rfl⟩
  case write =>
    refine ⟨_, (if_pos (decide_eq_true ht)).trans (congrArg Host.Outcome.next (State.message_write off ws hm hok hfree)), rfl, ?_⟩
    obtain ⟨d, m, l, hd, -⟩ := s.writeWords_form (off / 4 * 4) ws
    rw [hd]
    rfl
  case spdm =>
    refine ⟨_, if_pos (decide_eq_true ht), ?_⟩
    exact State.spdmRequest_answers req hm ht hfree hid
  case address =>
    refine (if_pos (decide_eq_true haddr)).trans (congrArg Host.Outcome.next ?_)
    exact if_pos (by simp [hm, haddr])
  case tooLong =>
    refine congrArg Host.Outcome.next ?_
    unfold State.doeObject
    rw [if_neg (by simp [hok]), if_pos hlen]
  case discovery =>
    have hdoe : s.doeObject 1 0 len payload = s.doeAnswer (Config.doeDiscovery payload) := by
      unfold State.doeObject
      rw [if_neg (by simp [hok]), if_neg (Nat.not_lt.mpr hlen), if_neg (by decide)]
      rfl
    exact ⟨_, congrArg Host.Outcome.next hdoe, rfl, rfl, rfl, rfl, rfl⟩
  case abort => exact congrArg Host.Outcome.next (if_pos hok)

end Sys2Proof.Machine
end

section
/-! Collectives and their reducers (R426 to R429). O39. -/

namespace Sys2Proof.Machine

/-! ### A COLLECTIVE that moves data (R428, R429) -/

/-- What the members' parts of a COLLECTIVE come to. -/
def Cmd.coReceived (k : Cmd) (j : Job) : Nat := (k.coNeeds j).foldl (fun a n => a + n.2) 0

/-- A COLLECTIVE that has handed over all its bytes, with the flags its writes raised. -/
def Cmd.coShipped (k : Cmd) (f : NumFlags) : Cmd := { k with flags := k.flags.or f, shipped := true }

/-- The device that has noted what a COLLECTIVE received: in its job, and in the account of its partition. -/
def Dev.coNoted (d : Dev) (k : Cmd) (j : Job) : Dev :=
  (d.modJob j.id (fun x => { x with received := x.received + k.coReceived j, lastId := k.id })).modPart k.part
    (fun x => { x with window := { x.window with fabRx := x.window.fabRx + k.coReceived j } })

/-- The device that has then written the COLLECTIVE's elements. -/
def Dev.coMoved (d : Dev) (k : Cmd) (j : Job) : Dev :=
  ((d.coNoted k j).setCmd (k.coShipped ((d.coWrites k j []).run {}).2)).applyWrites k.part ((d.coWrites k j []).run {}).1

/-- A job of a list whose fields change, its id kept. -/
theorem find_modified_job (l : List Job) (id : Nat) (f : Job → Job) (hf : ∀ x, (f x).id = x.id) :
    (l.map (fun x => if x.id = id then f x else x)).find? (fun x => x.id == id) = (l.find? (fun x => x.id == id)).map f := by
  induction l with
  | nil => rfl
  | cons x l ih =>
    rw [List.map_cons]
    by_cases hx : x.id = id
    · rw [if_pos hx, List.find?_cons_of_pos (by simp [hf, hx]), List.find?_cons_of_pos (by simp [hx])]
      rfl
    · rw [if_neg hx, List.find?_cons_of_neg (by simp [hx]), List.find?_cons_of_neg (by simp [hx]), ih]

theorem Dev.job_modJob (d : Dev) (id : Nat) (f : Job → Job) (hf : ∀ x, (f x).id = x.id) : (d.modJob id f).job? id = (d.job? id).map f :=
  find_modified_job d.jobs id f hf

/-- What has arrived of its peers' parts leaves the rest of a command as it is. -/
theorem Cmd.arrive_kept (c : Cmd) (peers : List Contribution) : CmdKept (c.arrive peers) c ∧ (c.arrive peers).part = c.part ∧
    (c.arrive peers).coReduces = c.coReduces ∧ (c.arrive peers).coThin = c.coThin ∧ (c.arrive peers).live = c.live := by
  obtain ⟨a, ha⟩ := c.arrive_form peers
  rw [ha]
  exact ⟨⟨rfl, rfl, rfl, rfl⟩, rfl, rfl, rfl, rfl⟩

section
variable {d : Dev} {u : Nat} {c k : Cmd} {j : Job} {peers : List Contribution}

/-- R429: with all its parts on hand and nothing to send, the COLLECTIVE's elements are written; what is acknowledged then ends. -/
theorem Dev.coRun_moves (n : Nat) (hj : d.job? c.coJob = some j) (hshipped : c.shipped = false) (hk : k = c.arrive peers) (hreduces : c.coReduces = false)
    (hthin : c.coThin = 0) (hparts : ∀ n ∈ k.coNeeds j, (k.partOf n.1).length = n.2) (hsends : d.coSends k j [] = []) :
    ∃ rs, d.coRun c peers n = (({ d with reducers := rs } : Dev).coMoved k j).settleSent := by
  obtain ⟨-, -, hred, hth, -⟩ := c.arrive_kept peers
  rw [← hk, hreduces] at hred
  rw [← hk, hthin] at hth
  have hlong : (k.coNeeds j).any (fun n => decide ((k.partOf n.1).length > n.2)) = false := by
    rw [List.any_eq_false]
    intro n hn
    simp [hparts n hn]
  have hall : (k.coNeeds j).all (fun n => decide ((k.partOf n.1).length = n.2)) = true := by
    rw [List.all_eq_true]
    intro n hn
    simp [hparts n hn]
  have hnone (rs : List Reducer) : ({ d with reducers := rs } : Dev).coSends k j [] = [] := ((SameView.reds d rs).coSends k j []).trans hsends
  unfold Dev.coRun
  rw [hj]
  dsimp only
  rw [hshipped, ← hk]
  simp only [hlong, hall, hred, hth, Bool.false_eq_true, if_false, Bool.not_false, Bool.true_or, Bool.and_true, Bool.not_true, gt_iff_lt, Nat.lt_irrefl, hnone,
    List.foldl_nil]
  exact ⟨_, rfl⟩

/-- The COLLECTIVE's elements are written to memory as it stood. -/
theorem Dev.coMoved_same (rs : List Reducer) (hpart : k.part = c.part) :
    (({ d with reducers := rs } : Dev).coMoved k j).SameMemory (d.applyWrites c.part ((d.coWrites k j []).run {}).1) := by
  have hreds := SameView.reds d rs
  have hnoted : SameView (({ d with reducers := rs } : Dev).coNoted k j) d := (SameView.modPart _ _ _ rfl).trans ⟨rfl, rfl, rfl, rfl, fun _ => rfl, fun _ => rfl, fun _ => rfl⟩
  unfold Dev.coMoved
  rw [hreds.coWrites, hpart]
  exact (((SameView.setCmd _ _).trans hnoted).writes _ _).same

/-- What moving a COLLECTIVE's data does to commands, jobs and flows. -/
theorem Dev.coMoved_effect (d : Dev) (k : Cmd) (j : Job) : ∃ f, (d.coMoved k j).cmds = (d.setCmd (k.coShipped f)).cmds ∧
    (d.coMoved k j).jobs = (d.modJob j.id (fun x => { x with received := x.received + k.coReceived j, lastId := k.id })).jobs ∧
    (d.coMoved k j).txFlows = d.txFlows := by
  obtain ⟨x, y, z, hwritten⟩ := ((d.coNoted k j).setCmd (k.coShipped ((d.coWrites k j []).run {}).2)).applyWrites_form k.part ((d.coWrites k j []).run {}).1
  refine ⟨((d.coWrites k j []).run {}).2, ?_⟩
  unfold Dev.coMoved
  rw [hwritten]
  exact ⟨rfl, rfl, rfl⟩

/-- The COLLECTIVE is then the one command of its device that has handed over its bytes. -/
theorem Dev.coMoved_cmds (hc : d.cmd? u = some c) (hk : k.uid = c.uid) (ho : ∀ x ∈ d.cmds, x.uid ≠ u → x.shipped = false) :
    ∃ f, (d.coMoved k j).cmd? u = some (k.coShipped f) ∧ ∀ x ∈ (d.coMoved k j).cmds, x.uid ≠ u → x.shipped = false := by
  have hu : k.uid = u := hk.trans (Dev.cmd?_uid hc)
  obtain ⟨f, hcmds, -, -⟩ := d.coMoved_effect k j
  refine ⟨f, ?_, fun x hx hne => ?_⟩
  · have hset := d.cmd_setCmd_at u c (k.coShipped f) hc hu
    unfold Dev.cmd? at hset ⊢
    rw [hcmds, hset]
  · rw [hcmds] at hx
    obtain ⟨y, hy, rfl⟩ := List.mem_map.mp hx
    by_cases hyk : y.uid = (k.coShipped f).uid
    · rw [if_pos hyk] at hne
      exact absurd hu hne
    · rw [if_neg hyk] at hne ⊢
      exact ho y hy hne

/-- The COLLECTIVE's job has what was received. -/
theorem Dev.coMoved_job (hj : d.job? c.coJob = some j) :
    ((d.coMoved k j).job? j.id).map (·.received) = some (j.received + k.coReceived j) := by
  have hid := List.find?_some (p := fun x : Job => x.id == c.coJob) hj
  rw [← beq_iff_eq.mp hid] at hj
  obtain ⟨f, -, hjobs, -⟩ := d.coMoved_effect k j
  have hmod := d.job_modJob j.id (fun x => { x with received := x.received + k.coReceived j, lastId := k.id }) (fun _ => rfl)
  unfold Dev.job? at hmod hj ⊢
  rw [hjobs, hmod, hj]
  rfl

/-- R428, R429: such a COLLECTIVE ends, with its elements in memory and its job's bytes counted. -/
theorem Dev.coRun_ends (n : Nat) (hc : d.cmd? u = some c) (hlive : c.live = true) (hpins : c.pins = []) (hkv : c.kvTargets = [])
    (hj : d.job? c.coJob = some j) (hshipped : c.shipped = false) (hk : k = c.arrive peers) (hreduces : c.coReduces = false)
    (hthin : c.coThin = 0) (hparts : ∀ n ∈ k.coNeeds j, (k.partOf n.1).length = n.2) (hsends : d.coSends k j [] = []) (htx : d.txFlows = [])
    (ho : ∀ x ∈ d.cmds, x.uid ≠ u → x.shipped = false) :
    (d.coRun c peers n).HasEnded u (c.endStatus stOK 0) ∧ (d.coRun c peers n).SameMemory (d.applyWrites c.part ((d.coWrites k j []).run {}).1) ∧
      ((d.coRun c peers n).job? j.id).map (·.received) = some (j.received + k.coReceived j) := by
  obtain ⟨hkept, hpart, -, -, hl⟩ := c.arrive_kept peers
  rw [← hk] at hkept hpart hl
  obtain ⟨rs, hrun⟩ := Dev.coRun_moves n hj hshipped hk hreduces hthin hparts hsends
  obtain ⟨f, hfound, hothers⟩ := Dev.coMoved_cmds (d := { d with reducers := rs }) (j := j) hc hkept.uid ho
  have hjob := Dev.coMoved_job (d := { d with reducers := rs }) (k := k) hj
  obtain ⟨-, -, -, hflows⟩ := Dev.coMoved_effect { d with reducers := rs } k j
  obtain ⟨hended, hview, hjobs⟩ := Dev.settleSent_one _ u c.missed hothers _ hfound (hl.trans hlive) rfl (hkept.pins.trans hpins) (hkept.kv.trans hkv)
    hkept.missed (hflows.trans htx)
  have hstatus : c.endStatus stOK 0 = if c.missed then (stMISS, 1) else (stOK, 0) := by
    unfold Cmd.endStatus
    simp
  rw [hrun, hstatus]
  refine ⟨hended, hview.same.trans (Dev.coMoved_same rs hpart), ?_⟩
  unfold Dev.job? at hjob ⊢
  rw [hjobs, hjob]

end

/-! ### A chunk on a reducer (R426, R427) -/

/-- What R427 does first: the error that was armed is taken, counted and raised. -/
def Dev.reducerErred (d : Dev) (die : Nat) : Dev := ((d.setReg (pgRED die) 0xC04 0).bump (pgRED die) 0x80C 1).raise (pgRED die) 0

/-- The entry that names an error of a reducer and its place in the run. -/
def reducerEntry (die run : Nat) : LogEntry :=
  { cls := 0x09, severity := if run ≥ 3 then 4 else 1, source := pgRED die, detail := [BitVec.ofNat 8 die, BitVec.ofNat 8 run] }

/-- What a step of a fold keeps, the fold keeps. -/
theorem foldl_reducers {α : Type} (f : Dev → α → Dev) (hf : ∀ d x, (f d x).reducers = d.reducers) (l : List α) (d : Dev) :
    (l.foldl f d).reducers = d.reducers := by
  induction l generalizing d with
  | nil => rfl
  | cons x l ih => exact (ih (f d x)).trans (hf d x)

/-- Failing commands leaves the reducers. -/
theorem Dev.failAll_reducers (d : Dev) (us : List Nat) (e : LogEntry) : (d.failAll us e).reducers = d.reducers := by
  refine (foldl_reducers _ (fun d u => ?_) us (d.log e)).trans (d.log_reducers e)
  cases d.cmd? u with
  | none => rfl
  | some c =>
    show (if c.live then d.complete c stLOST _ else d).reducers = _
    split
    · obtain ⟨_, _, _, _, _, _, _, _, _, hform⟩ := d.complete_form c stLOST (Dev.logSeq _ e)
      rw [hform]
    · rfl

section
variable {d : Dev} {die : Nat} {r : Reducer}

theorem Dev.reducer_getD (hr : d.reducers[die]? = some r) : d.reducers.getD die {} = r := by
  rw [List.getD_eq_getElem?_getD, hr]
  rfl

theorem Dev.reducer_set (hr : d.reducers[die]? = some r) (x : Reducer) : (d.reducers.set die x)[die]? = some x :=
  List.getElem?_set_self (List.getElem?_eq_some_iff.mp hr).1

/-- What the error leaves: only the reducer's page and its interrupt change. -/
theorem Dev.reducerErred_effect (d : Dev) (die : Nat) : SameView (d.reducerErred die) d ∧ (d.reducerErred die).cmds = d.cmds ∧
    (d.reducerErred die).reducers = d.reducers ∧ (d.reducerErred die).regN (pgRED die) 0x80C = min (d.regN (pgRED die) 0x80C + 1) (2 ^ 32 - 1) := by
  unfold Dev.reducerErred
  have hview := (SameView.bump (d.setReg (pgRED die) 0xC04 0) (pgRED die) 0x80C 1 (by unfold outsideActive; decide)).trans
    (SameView.setReg d (pgRED die) 0xC04 0 (by unfold outsideActive; decide))
  refine ⟨(SameView.raise _ _ _).trans hview, by simp, by simp, ?_⟩
  rw [Dev.regN_raise_other _ _ (regKey_off_ne (by decide) (by decide) (by decide)), Dev.regN_bump_same,
    Dev.regN_setReg_other _ _ (regKey_off_ne (by decide) (by decide) (by decide))]

/-- The error counted, and logged where it is not the third of a run. -/
def Dev.reducerFailed (d : Dev) (die : Nat) (r : Reducer) : Dev :=
  ({ d.reducerErred die with reducers := (d.reducerErred die).reducers.set die { r with failRun := r.failRun + 1 } }.bump (pgRED die) 0x810 1).log
    (reducerEntry die (r.failRun + 1))

/-- R427: the error counts, and is logged where it is not the third of a run. -/
theorem Dev.reducerChunk_error (hr : d.reducers[die]? = some r) (hin : r.outOfService = false) (hrun : r.failRun < 2) :
    d.reducerChunk die true = d.reducerFailed die r := by
  unfold Dev.reducerChunk
  rw [Dev.reducer_getD hr]
  dsimp only
  rw [if_neg (by simp [hin]), if_pos (Bool.true_or _), if_neg (by omega)]
  rfl

theorem Dev.reducerFailed_effect (hr : d.reducers[die]? = some r) : SameView (d.reducerFailed die r) d ∧
    (d.reducerFailed die r).cmds = d.cmds ∧ (d.reducerFailed die r).reducers[die]? = some { r with failRun := r.failRun + 1 } ∧
    (d.reducerFailed die r).regN (pgRED die) 0x80C = min (d.regN (pgRED die) 0x80C + 1) (2 ^ 32 - 1) := by
  obtain ⟨hview, hcmds, hreds, hcount⟩ := d.reducerErred_effect die
  unfold Dev.reducerFailed
  obtain ⟨hlview, hlcmds, hlreds, -⟩ := Dev.log_effect
    ({ d.reducerErred die with reducers := (d.reducerErred die).reducers.set die { r with failRun := r.failRun + 1 } }.bump (pgRED die) 0x810 1)
    (reducerEntry die (r.failRun + 1))
  refine ⟨hlview.trans ((SameView.bump _ _ _ _ (by unfold outsideActive; decide)).trans ((SameView.reds _ _).trans hview)), hlcmds.trans hcmds, ?_, ?_⟩
  · rw [hlreds]
    exact Dev.reducer_set (hreds ▸ hr) _
  · rw [Dev.regN_log_other _ _ (regKey_off_ne (by decide) (by decide) (by decide)),
      Dev.regN_bump_other _ _ (regKey_off_ne (by decide) (by decide) (by decide))]
    exact hcount

/-- R427: the third error of a run takes the reducer out of service. -/
theorem Dev.reducerChunk_third (hr : d.reducers[die]? = some r) (hin : r.outOfService = false) (hrun : r.failRun = 2) :
    ((d.reducerChunk die true).reducers[die]?).map (·.outOfService) = some true := by
  obtain ⟨-, -, hreds, -⟩ := d.reducerErred_effect die
  unfold Dev.reducerChunk
  rw [Dev.reducer_getD hr]
  dsimp only
  rw [if_neg (by simp [hin]), if_pos (Bool.true_or _), if_pos (by omega), Dev.failAll_reducers, Dev.raise_reducers]
  show (((d.reducerErred die).reducers.set die _)[die]?).map _ = _
  rw [Dev.reducer_set (hreds ▸ hr)]
  rfl

/-- R426: a chunk without an error clears the run; with no COLLECTIVE there is nothing to add it to. -/
theorem Dev.reducerChunk_clear (hr : d.reducers[die]? = some r) (hin : r.outOfService = false) (harmed : bit (d.regN (pgRED die) 0xC04) 0 = false)
    (hnone : ∀ x ∈ d.cmds, x.opcode ≠ 0x0B) : d.reducerChunk die false = { d with reducers := d.reducers.set die { r with failRun := 0 } } := by
  unfold Dev.reducerChunk
  rw [Dev.reducer_getD hr, harmed]
  dsimp only
  rw [if_neg (by simp [hin]), if_neg (by simp), List.find?_eq_none.mpr (fun x hx => by simp [hnone x hx])]

/-- A command of a die whose alerts are refreshed leaves the reducers and registers that its work left. -/
theorem onDieAlert_running {s : State} (f : Dev → Dev) (hr : s.running = true) (hdie : die < 4) :
    ∃ t, onUnitAlert (dieOk die) s f = .next t ∧ SameView t.dev (f s.dev) ∧ t.dev.cmds = (f s.dev).cmds ∧ t.dev.reducers = (f s.dev).reducers ∧
      ∀ pg o, pg ≠ pgMGT → o < 4096 → t.dev.regN pg o = (f s.dev).regN pg o := by
  obtain ⟨e, hdev, hview, hcmds, hreds, hregs⟩ := State.refreshAlert_effect { s with dev := f s.dev }
  refine ⟨State.refreshAlert { s with dev := f s.dev }, ?_, hdev ▸ hview, hdev ▸ hcmds, hdev ▸ hreds, fun pg o hp ho => ?_⟩
  · unfold onUnitAlert withUnit
    rw [if_pos (show dieOk die = true from decide_eq_true hdie), State.onDev_running _ _ hr]
  · unfold Dev.regN
    rw [hdev, hregs pg o hp ho]

end

/-- Settles O39: a COLLECTIVE that moves data and has its peers' parts writes, ships nothing and settles; a reducer's errors count up to its third. -/
theorem collectivesRun : Obligations.CollectivesRun := by
  unfold Obligations.CollectivesRun
  refine ⟨fun s u env peers c k j hr hand hpins hkv hreduces hthin hshipped hj hk hparts hsends htx ho => ?_, fun s die r hr hdie hget hin => ⟨fun hrun => ?_,
    fun hrun => ?_, fun harmed hnone => ?_⟩⟩
  · obtain ⟨tags, hstep⟩ := onDevice_untiled (fun d c => d.coAll peers c) hr hand
    obtain ⟨hfound, -, hlive, -⟩ := hand
    obtain ⟨hended, hmem, hjob⟩ := Dev.coRun_ends (match s.dev.job? c.coJob with
      | some j => (c.coRange j).2 + 1
      | none => 0) hfound hlive hpins hkv hj hshipped hk hreduces hthin hparts hsends htx ho
    exact ⟨_, hstep, Dev.HasEnded_tags hended, hmem, hjob⟩
  · obtain ⟨t, hstep, hview, hcmds, hreds, hregs⟩ := onDieAlert_running (fun d => d.reducerChunk die true) hr hdie
    rw [Dev.reducerChunk_error hget hin hrun] at hview hcmds hreds hregs
    obtain ⟨hfview, hfcmds, hfreds, hfcount⟩ := Dev.reducerFailed_effect hget
    refine ⟨t, hstep, hreds ▸ hfreds, ?_, hcmds.trans hfcmds, (hview.trans hfview).same⟩
    rw [hregs _ _ (by unfold pgRED pgMGT; omega) (by decide), hfcount]
  · obtain ⟨t, hstep, -, -, hreds, -⟩ := onDieAlert_running (fun d => d.reducerChunk die true) hr hdie
    exact ⟨t, hstep, hreds ▸ Dev.reducerChunk_third hget hin hrun⟩
  · obtain ⟨t, hstep, hview, hcmds, hreds, -⟩ := onDieAlert_running (fun d => d.reducerChunk die false) hr hdie
    rw [Dev.reducerChunk_clear hget hin harmed hnone] at hview hcmds hreds
    exact ⟨t, hstep, hreds ▸ Dev.reducer_set hget _, hcmds, (hview.trans (SameView.reds _ _)).same⟩

end Sys2Proof.Machine
end
